-- ==== Sys2Proof/Word.lean ====
section
/-!
DEFINITION. The word types of the Irboest: bytes, 32-bit words and 64-bit double words (R6, R20).
-/
namespace Sys2Proof

/-- One byte. -/
abbrev Byte := BitVec 8

/-- A 32-bit word: a CSR, a message word, a descriptor word. -/
abbrev Word := BitVec 32

/-- A 64-bit value: a general register, a device time. -/
abbrev DWord := BitVec 64

end Sys2Proof
end

