-- ==== Sys2Proof/Syntax.lean ====
section
/-!
DEFINITION. The commands of the Irboest model: one constructor of `Instr` for each row of spec/opcode_table.json,
with the plain data that some of them carry in from outside (a parsed frame, a flit, a measurement).
-/
namespace Sys2Proof

/-- A 256-bit bundle (R124). -/
abbrev Bundle := BitVec 256

/-- The six positions of a bundle (R93), in the order of R111. -/
inductive Pos where
  | x0 | x1 | m | a | f | c
deriving DecidableEq, Repr

/-- Who makes an access: a physical chamber, the Lantern, the host through BAR0, or the host through the PCIe
configuration space. -/
inductive Agent where
  | chamber (ch : Fin 144)
  | lantern
  | host
  | pciConfig
deriving DecidableEq, Repr

/-- An interrupt controller (R343). -/
inductive VicId where
  | lantern
  | chamber (ch : Fin 144)
deriving DecidableEq, Repr

/-- The two time domains (R351). -/
inductive Dom where
  | a | b
deriving DecidableEq, Repr

/-- A PTP message (R211, R352): its domainNumber, whether it is an Announce or Sync of the selected time transmitter, and for a Sync the
transmitter's time at the moment the sink timestamps it. -/
structure PtpMsg where
  domain : BitVec 8
  selected : Bool
  ref : Option Int
deriving DecidableEq, Repr

/-- What a frame carries, by its Ethertype (R211): the bytes after it for eCPRI; an ESMC frame carries its quality level. -/
inductive FrameBody where
  | ecpri (msg : List Byte)
  | ptp (m : PtpMsg)
  | esmc (ql : BitVec 8)
  | pause
  | other
deriving DecidableEq, Repr

/-- A link of a device of the system (R374). -/
structure FarLink where
  dev : Fin 64
  link : Fin 6
deriving DecidableEq, Repr

/-- A received frame (R211), after the parser. -/
structure Frame where
  vlan : Option Nat
  body : FrameBody
deriving DecidableEq, Repr

/-- The decision on one symbol (R279): the level it falls on, +3, +1, -1 or -3 in units of the deviation (2-FSK has the sign alone), and
how sure its first and second bit are, 0 to 7. -/
structure SymDec where
  level : Int
  conf1 : Fin 8
  conf2 : Fin 8
deriving DecidableEq, Repr

/-- What a channel's last 16 symbols gave (R280): their hard decisions, the first on air first, and their power code. The command that
carries them names the input sample that ends them, counted as the stream counts samples. -/
structure PreambleMeas where
  bits : List Bool
  code : Nat
deriving DecidableEq, Repr

/-- What a channel measured over a sync word (R281): the bits received, the first on air in bit swlen - 1, the sum of the squared
magnitudes of `count` samples, the input sample that ends it. -/
structure SyncMeas where
  word : Word
  power : Nat
  count : Nat
  pos : Nat
deriving DecidableEq, Repr

/-- Word flags, which are also the two tile flags that memory keeps (R182). -/
structure WFlags where
  poison : Bool
  missing : Bool
deriving DecidableEq, Repr

/-- An Emaux transaction packet (R369, R372, R375, R376, R377, R378). Addresses are on the receiving device. -/
inductive Packet where
  | write (src : Fin 64) (tag : Word) (ctx : Option (Fin 64)) (addr : Nat) (data : List Byte) (flags : WFlags)
  | readReq (src : Fin 64) (tag : Word) (ctx : Option (Fin 64)) (addr : Nat) (len : Nat)
  | readResp (tag : Word) (ok : Bool) (data : List Byte) (flags : WFlags)
  | ack (tag : Word)
  | fail (tag : Word) (code : BitVec 8)
  | join (devid : Fin 64) (root : Fin 64) (xdim ydim zdim : Nat) (members : List (Fin 64))
  | tunnelReq (pair : Fin 32) (words : List Word)
  | tunnelRsp (src : Fin 64) (pair : Fin 32) (code : BitVec 16) (words : List Word)
  | hostWrite (addr : Nat) (data : List Byte)
  | hostMsi (vec : Fin 32)
  | lateError (words : List Word)
  | epoch (src : Fin 64) (e : Word)
deriving DecidableEq, Repr

/-- A host access through BAR2 (R315). -/
inductive Bar2Op where
  | read (len : Nat)
  | write (data : List Byte)
deriving DecidableEq, Repr

/-- An access to a register: a write, or a read, which the host and the configuration space have (R7, R311, R314). -/
inductive RegOp where
  | write (v : DWord)
  | read
deriving DecidableEq, Repr

/-- The management requests of R422 and R423. -/
inductive MctpReq where
  | query
  | disable
  | enable
  | reportFailed
deriving DecidableEq, Repr

/-- The commands of the block: one constructor per row of the opcode table. -/
inductive Instr where
  /-- NOP (R126): A present position with opcode 0x00 does nothing. -/
  | nop (ch : Fin 144) (pos : Pos) (b : Bundle)
  /-- ADD (R130): X-position add of ra and src into rd, wrapping modulo 2^64. -/
  | add (ch : Fin 144) (pos : Pos) (b : Bundle)
  /-- SUB (R130): X-position subtract of src from ra into rd. -/
  | sub (ch : Fin 144) (pos : Pos) (b : Bundle)
  /-- AND (R130): X-position bitwise AND into rd. -/
  | and_ (ch : Fin 144) (pos : Pos) (b : Bundle)
  /-- OR (R130): X-position bitwise OR into rd; with g0 as src it serves as a register copy. -/
  | or_ (ch : Fin 144) (pos : Pos) (b : Bundle)
  /-- XOR (R130): X-position bitwise XOR into rd. -/
  | xor_ (ch : Fin 144) (pos : Pos) (b : Bundle)
  /-- SHL (R130): X-position left shift of ra by src[5:0]. -/
  | shl (ch : Fin 144) (pos : Pos) (b : Bundle)
  /-- SHR (R130): X-position logical right shift of ra by src[5:0], shifting in zeros. -/
  | shr (ch : Fin 144) (pos : Pos) (b : Bundle)
  /-- SRA (R130): X-position arithmetic right shift of ra by src[5:0]. -/
  | sra (ch : Fin 144) (pos : Pos) (b : Bundle)
  /-- CONST_L (R131): Writes a 20-bit immediate, zero-extended, into rd. -/
  | constL (ch : Fin 144) (pos : Pos) (b : Bundle)
  /-- CONST_H (R131): Writes imm20 into rd[39:20], keeps rd[19:0] and zero- or sign-fills rd[63:40]. -/
  | constH (ch : Fin 144) (pos : Pos) (b : Bundle)
  /-- CMP_EQ (R130): Writes (ra = src) to pt and its complement to pf. -/
  | cmpEq (ch : Fin 144) (pos : Pos) (b : Bundle)
  /-- CMP_NE (R130): Writes (ra != src) to pt and its complement to pf. -/
  | cmpNe (ch : Fin 144) (pos : Pos) (b : Bundle)
  /-- CMP_LT (R130): Writes the signed comparison ra < src to pt and its complement to pf. -/
  | cmpLt (ch : Fin 144) (pos : Pos) (b : Bundle)
  /-- CMP_LE (R130): Writes the signed comparison ra <= src to pt and its complement to pf. -/
  | cmpLe (ch : Fin 144) (pos : Pos) (b : Bundle)
  /-- CMP_GT (R130): Writes the signed comparison ra > src to pt and its complement to pf. -/
  | cmpGt (ch : Fin 144) (pos : Pos) (b : Bundle)
  /-- CMP_GE (R130): Writes the signed comparison ra >= src to pt and its complement to pf. -/
  | cmpGe (ch : Fin 144) (pos : Pos) (b : Bundle)
  /-- CMP_LTU (R130): Writes the unsigned comparison ra < src to pt and its complement to pf. -/
  | cmpLtu (ch : Fin 144) (pos : Pos) (b : Bundle)
  /-- CMP_GEU (R130): Writes the unsigned comparison ra >= src to pt and its complement to pf. -/
  | cmpGeu (ch : Fin 144) (pos : Pos) (b : Bundle)
  /-- MUL (R130): X0-only multiply that writes the low 64 bits of ra × src into rd. -/
  | mul (ch : Fin 144) (pos : Pos) (b : Bundle)
  /-- GETS (R132): Reads a special register into rd. -/
  | gets (ch : Fin 144) (b : Bundle)
  /-- SETS (R132): Writes ra to a writable special register; a read-only or unknown register raises ILLEGAL_OPERAND. -/
  | sets (ch : Fin 144) (b : Bundle)
  /-- LD (R134): Scalar load into rd, with optional sign extension and post-increment. -/
  | ld (ch : Fin 144) (b : Bundle)
  /-- ST (R134): Scalar store of the low sz bytes of rd, with optional post-increment. -/
  | st (ch : Fin 144) (b : Bundle)
  /-- SIPH_RUN (R191): Queues a descriptor chain on one of the chamber's two siphons. -/
  | siphRun (ch : Fin 144) (b : Bundle)
  /-- SIPH_POLL (R136): Reads a chamber siphon's status word into rd. -/
  | siphPoll (ch : Fin 144) (b : Bundle)
  /-- FENCE (R107): Holds issue until earlier siphon, flowstone or array operations have finished their memory accesses. -/
  | fence (ch : Fin 144) (b : Bundle)
  /-- ALDW (R68): Checks a weight tile record and queues its load into the shadow weight slot of all four arrays. -/
  | aldw (ch : Fin 144) (b : Bundle)
  /-- ASWP (R69): Queues the exchange of the active and shadow weight slots. -/
  | aswp (ch : Fin 144) (b : Bundle)
  /-- ACFG (R63): Queues setting the array precision mode and asign. -/
  | acfg (ch : Fin 144) (b : Bundle)
  /-- STREAM (R72): Checks the operands and queues a pass of activation rows through an array group. -/
  | stream (ch : Fin 144) (b : Bundle)
  /-- FL_RUN (R141): Checks the record header address and queues a flowstone program launch. -/
  | flRun (ch : Fin 144) (b : Bundle)
  /-- FL_LDT (R141): Queues a load of a flowstone tile register from memory. -/
  | flLdt (ch : Fin 144) (b : Bundle)
  /-- FL_STT (R141): Queues a store of a flowstone tile register to memory. -/
  | flStt (ch : Fin 144) (b : Bundle)
  /-- FL_LDB (R141): Queues a load of a broadcast register from memory. -/
  | flLdb (ch : Fin 144) (b : Bundle)
  /-- FL_STB (R141): Queues a store of a broadcast register to memory. -/
  | flStb (ch : Fin 144) (b : Bundle)
  /-- FL_LDM (R141): Queues a load of a mask register from memory. -/
  | flLdm (ch : Fin 144) (b : Bundle)
  /-- FL_STM (R141): Queues a store of a mask register to memory. -/
  | flStm (ch : Fin 144) (b : Bundle)
  /-- BR (R142): Relative branch, made conditional by its qualifying predicate. -/
  | br (ch : Fin 144) (b : Bundle)
  /-- CALL (R142): Relative call that writes the return address to rl. -/
  | call (ch : Fin 144) (b : Bundle)
  /-- JMP (R143): Indirect jump to ra; a misaligned target raises ADDRESS_ERROR. -/
  | jmp (ch : Fin 144) (b : Bundle)
  /-- CALLR (R143): Indirect call to ra that writes the return address to rl. -/
  | callr (ch : Fin 144) (b : Bundle)
  /-- LOOP_BR (R104): Counts lc down, rotates the loop registers and stage predicates, sets p8 and branches. -/
  | loopBr (ch : Fin 144) (b : Bundle)
  /-- LOOP_BR_N (R104): Counts lc down and branches without rotation. -/
  | loopBrN (ch : Fin 144) (b : Bundle)
  /-- CN_SIG (R334): Signals a cairn, which may release its waiters. -/
  | cnSig (ch : Fin 144) (b : Bundle)
  /-- CN_ADD (R334): Adds ra[31:0] to a cairn. -/
  | cnAdd (ch : Fin 144) (b : Bundle)
  /-- CN_WAIT (R334): Waits on a cairn, stalling issue until the wait is satisfied. -/
  | cnWait (ch : Fin 144) (b : Bundle)
  /-- CN_TRY (R335): Tries a cairn and writes success or failure to pd. -/
  | cnTry (ch : Fin 144) (b : Bundle)
  /-- CN_SIGR (R142): Signals the cairn named in a register. -/
  | cnSigr (ch : Fin 144) (b : Bundle)
  /-- CN_ADDR (R142): Adds rb to the cairn named in a register. -/
  | cnAddr (ch : Fin 144) (b : Bundle)
  /-- CN_WAITR (R142): Waits on the cairn named in a register. -/
  | cnWaitr (ch : Fin 144) (b : Bundle)
  /-- CN_TRYR (R142): Tries the cairn named in a register. -/
  | cnTryr (ch : Fin 144) (b : Bundle)
  /-- IRET (R116): Returns from an interrupt handler, sets ie, clears ibank, ends the active source and resumes held STREAMs. -/
  | iret (ch : Fin 144) (b : Bundle)
  /-- EXRET (R109): Returns from an exception handler to epc and clears xbank. -/
  | exret (ch : Fin 144) (b : Bundle)
  /-- JOB_END (R118): Ends the chamber's part of the job once all of its work has finished. -/
  | jobEnd (ch : Fin 144) (b : Bundle)
  /-- BREAK (R146): Raises the BREAK exception. -/
  | break_ (ch : Fin 144) (b : Bundle)
  /-- LOAD_COMPLETION (R150): A load from outside the own pocket completes, possibly raising MEMORY_ERROR or ADDRESS_ERROR. -/
  | loadCompletion (ch : Fin 144)
  /-- ALDW_COMPLETE (R68): The shadow weight slot finishes filling. -/
  | aldwComplete (ch : Fin 144)
  /-- ASWP_TAKES_EFFECT (R70): A waiting swap exchanges the weight slots once its waits are satisfied. -/
  | aswpTakesEffect (ch : Fin 144)
  /-- ACFG_TAKES_EFFECT (R70): A waiting mode change applies once all arrays are idle. -/
  | acfgTakesEffect (ch : Fin 144)
  /-- STREAM_BLOCK_START (R74): A block of 8 rows begins entering the array once its sump rows are free. -/
  | streamBlockStart (ch : Fin 144) (a : Fin 4)
  /-- SUMP_ADDITION (R79): The sump adds a row's partial sum and closes a group when due, saturating and flagging as needed. -/
  | sumpAddition (ch : Fin 144) (a : Fin 4)
  /-- DRIPLINE_TAKE (R77): The dripline takes a finished tile from a sump, round-robin across arrays, and the sump rows clear. -/
  | driplineTake (ch : Fin 144)
  /-- INTERRUPT_DELIVERY (R346): Arbitration chooses an eligible source and presents its vector 3 cycles later. -/
  | interruptDelivery (vic : VicId)
  /-- STREAM_HOLD (R87): A running STREAM stops at its next block boundary and is held with srow and a snapshot. -/
  | streamHold (ch : Fin 144)
  /-- INTERRUPT_ENTRY (R114): After the holds and the 40-cycle drain, the chamber writes ipc, clears ie, sets ibank and issues at the vector. -/
  | interruptEntry (ch : Fin 144)
  /-- FLOWSTONE_LAUNCH (R158): An FL.RUN at the head of the queue has its record read, decoded and checked. -/
  | flowstoneLaunch (ch : Fin 144)
  /-- TILE_ITERATION (R159): A flowstone iteration starts once the head tile is present. -/
  | tileIteration (ch : Fin 144)
  /-- REGISTER_MOVE (R156): A queued flowstone register move performs its memory access in queue order. -/
  | registerMove (ch : Fin 144)
  /-- UOP_ADD (R161): Micro-operation: saturating add over the tile. -/
  | uopAdd (ch : Fin 144)
  /-- UOP_SUB (R161): Micro-operation: saturating subtract over the tile. -/
  | uopSub (ch : Fin 144)
  /-- UOP_MAC (R161): Micro-operation: multiply-add, shift and saturate. -/
  | uopMac (ch : Fin 144)
  /-- UOP_SHV (R161): Micro-operation: shift by a variable signed count. -/
  | uopShv (ch : Fin 144)
  /-- UOP_SRA (R161): Micro-operation: arithmetic right shift by sh. -/
  | uopSra (ch : Fin 144)
  /-- UOP_MIN (R161): Micro-operation: element-wise minimum. -/
  | uopMin (ch : Fin 144)
  /-- UOP_MAX (R161): Micro-operation: element-wise maximum. -/
  | uopMax (ch : Fin 144)
  /-- UOP_AND (R161): Micro-operation: bitwise AND. -/
  | uopAnd (ch : Fin 144)
  /-- UOP_OR (R161): Micro-operation: bitwise OR. -/
  | uopOr (ch : Fin 144)
  /-- UOP_XOR (R161): Micro-operation: bitwise XOR. -/
  | uopXor (ch : Fin 144)
  /-- UOP_SEL (R161): Micro-operation: selects a or b by mask bit. -/
  | uopSel (ch : Fin 144)
  /-- UOP_CMP (R161): Micro-operation: compares a and b into a mask register. -/
  | uopCmp (ch : Fin 144)
  /-- UOP_LUT (R161): Micro-operation: table look-up through a broadcast register; an index out of range is a lane fault. -/
  | uopLut (ch : Fin 144)
  /-- UOP_QNT4 (R161): Micro-operation: requantises to INT4 with a U8E5 scale. -/
  | uopQnt4 (ch : Fin 144)
  /-- UOP_QNT8 (R161): Micro-operation: requantises to INT8 with a U8E5 scale. -/
  | uopQnt8 (ch : Fin 144)
  /-- UOP_STO4 (R166): Micro-operation: stores rows as INT4 to the pocket. -/
  | uopSto4 (ch : Fin 144)
  /-- UOP_STO8 (R166): Micro-operation: stores rows as INT8 to the pocket. -/
  | uopSto8 (ch : Fin 144)
  /-- UOP_RMAX_R (R162): Micro-operation: maximum and index for each row. -/
  | uopRmaxR (ch : Fin 144)
  /-- UOP_RMIN_R (R162): Micro-operation: minimum and index for each row. -/
  | uopRminR (ch : Fin 144)
  /-- UOP_RMAX_C (R162): Micro-operation: maximum and index for each column. -/
  | uopRmaxC (ch : Fin 144)
  /-- UOP_RMIN_C (R162): Micro-operation: minimum and index for each column. -/
  | uopRminC (ch : Fin 144)
  /-- UOP_TMAX (R162): Micro-operation: maximum and index over the whole tile. -/
  | uopTmax (ch : Fin 144)
  /-- UOP_TMIN (R162): Micro-operation: minimum and index over the whole tile. -/
  | uopTmin (ch : Fin 144)
  /-- RUN_COMPLETION (R159): After the run's last store completes, the completion cairn is signalled. -/
  | runCompletion (ch : Fin 144)
  /-- FLOWSTONE_FAULT (R172): A recorded flowstone fault is raised as an exception on the next bundle that reaches issue. -/
  | flowstoneFault (ch : Fin 144)
  /-- CHAIN_START (R191): A siphon starts the next queued chain. -/
  | chainStart (q : Fin 352)
  /-- DESCRIPTOR_FETCH (R197): A siphon reads a burst of 8 descriptors. -/
  | descriptorFetch (q : Fin 352)
  /-- GATHER (R193): An index-driven gather descriptor copies rows or writes holes. -/
  | gather (q : Fin 352)
  /-- BLOCK (R194): A strided block-copy descriptor runs. -/
  | block (q : Fin 352)
  /-- FILL (R195): A fill descriptor writes a pattern with flags cleared. -/
  | fill (q : Fin 352)
  /-- LINK (R195): A link descriptor continues the chain at another address. -/
  | link (q : Fin 352)
  /-- DESCRIPTOR_COMPLETE (R199): Every write of a descriptor has landed, and its cairn is signalled if cen = 1. -/
  | descriptorComplete (q : Fin 352)
  /-- PATROL_SCRUB (R181): The scrubber reads and rewrites all of HBM every 24 hours. -/
  | patrolScrub
  /-- SLOT_TICK (R25): Fires the fences due at this tick, commits a staged table at a hyperperiod, puts placement in force and releases the slot's jobs. -/
  | slotTick
  /-- SYMBOL_TICK (R362): The time block marks the start of symbol k of a slot. -/
  | symbolTick
  /-- JOB_START (R117): After the transient region is zeroed, a chamber starts the job with its initial register state. -/
  | jobStart (ch : Fin 144)
  /-- DEADLINE_FENCE (R301): At an unfinished job's deadline, the fence cleans every part of the job and a LATE_DROPPED record is written. -/
  | deadlineFence (tag : Word)
  /-- FENCE_TIMEOUT (R301): A part that has not ended its cleaning 1 µs after the fence is isolated and retired. -/
  | fenceTimeout (unit : BitVec 16) (tag : Word)
  /-- CHM_PARITY (R411): A parity error in chamber state is detected and logged with severity UNIT. -/
  | chmParity (ch : Fin 144)
  /-- FAULT_FENCE (R417): Nerzon ends the faulty chamber's job early, isolates and resets the chamber, and substitutes the spare. -/
  | faultFence (ch : Fin 144)
  /-- DEC_PARITY (R418): A decoder or encoder parity error retires the unit and abandons its task. -/
  | decParity (unit : Fin 20)
  /-- FABRIC (R411): A data fabric link parity error is retried, or the gallery is retired. -/
  | fabric (gal : Fin 16) (retryOk : Bool)
  /-- FH_PARITY (R411): A fronthaul datapath parity error marks PRBs missing or makes a DL symbol late. -/
  | fhParity (flow : Fin 128) (sym : Nat)
  /-- COMPARE_FIRE (R357): A compare reaches its target, clears en, sets fired and performs its interrupt and cairn actions. -/
  | compareFire (k : Fin 16)
  /-- PULSE_EDGE (R360): A pulse output reaches a scheduled rising or falling edge. -/
  | pulseEdge (p : Fin 4)
  /-- PPS_IN_EDGE (R356): A rising edge on PPS_IN is captured into TIME_PPS_IN. -/
  | ppsInEdge
  /-- SOURCE_LOST (R353): A domain's source times out; the domain enters HOLDOVER and may switch automatically. -/
  | sourceLost (dom : Dom)
  /-- DOMAIN_LOCKED (R353): After 16 seconds within ±100 ns, a domain becomes LOCKED. -/
  | domainLocked (dom : Dom)
  /-- FRAME_RECEIVE (R211): The sink timestamps a received frame and dispatches it by Ethertype to flow matching, the time block or discard. -/
  | frameReceive (lport : Fin 32) (fcsOk : Bool) (f : Frame)
  /-- WINDOW_OPEN (R221): A symbol's alignment window opens at the symbol's air end + L. -/
  | windowOpen (flow : Fin 128) (sym : Nat)
  /-- WINDOW_CLOSE (R221): A symbol's window closes and the symbol is released with whatever it holds. -/
  | windowClose (flow : Fin 128) (sym : Nat)
  /-- SQUEEZE_CONVERSION (R227): The squeeze unit converts a released symbol, writes the record and adds 1 to the release cairn. -/
  | squeezeConversion
  /-- GRANT_READ (R230): At T_g, Nerzon reads the grant record and chain parameter block, or counts a late grant. -/
  | grantRead (flow : Fin 128)
  /-- CPLANE_SEND (R233): C-plane sections leave t_cp ahead of symbol 0. -/
  | cplaneSend (flow : Fin 128)
  /-- UPLANE_SEND (R234): At t_adv before a symbol, the resurgence sends it or sends zeros and counts it late. -/
  | uplaneSend (flow : Fin 128)
  /-- LINK_DOWN (R235): A port's link goes down; its flows get LINK_DOWN events and their NB packets end LOST_INPUT. -/
  | linkDown (lport : Fin 32)
  /-- LINK_UP (R235): A port's link comes up, and its flows receive a LINK_UP event. -/
  | linkUp (lport : Fin 32)
  /-- PREAMBLE_DETECTION (R280): An echo channel detects a preamble and starts its sync look. -/
  | preambleDetection (ech : Fin 4096) (m : PreambleMeas) (pos : Nat)
  /-- SYNC_MISS (R280): The sync look ends after plen + 8 symbols without a sync word. -/
  | syncMiss (ech : Fin 4096)
  /-- SYNC_WORD_FOUND (R281): The sync word is found; RSSI and sync time latch and the packet is in progress. -/
  | syncWordFound (ech : Fin 4096) (m : SyncMeas)
  /-- LENGTH_FIELD (R284): Length bytes are decoded, and an out-of-range length ends the packet BAD_LENGTH. -/
  | lengthField (ech : Fin 4096) (syms : List SymDec)
  /-- CAPTURE (R287): A stronger preamble aborts the packet in progress. -/
  | capture (ech : Fin 4096) (m : PreambleMeas) (pos : Nat)
  /-- PACKET_END (R285): A packet ends; its payload and ECHO_PKT record are written. -/
  | packetEnd (ech : Fin 4096) (syms : List SymDec) (ferr : BitVec 16)
  /-- FLIT_RECEIVE (R367): An Emaux flit is checked and acknowledged or naked, and its packets are delivered. -/
  | flitReceive (link : Fin 6) (bytes : List Byte)
  /-- LINK_RETRAIN (R367): Sixteen naks or 10 µs without an ack retrain the link. -/
  | linkRetrain (link : Fin 6)
  /-- RETRAIN_END (R368): A retrain completes at full width, degraded width, or with the link down. -/
  | retrainEnd (link : Fin 6) (failed : BitVec 4)
  /-- REROUTE (R374): Nerzon reroutes around a down link. -/
  | reroute (link : FarLink)
  /-- NO_RESPONSE (R375): A remote write gets no answer within 1 ms and fails into the late-error queue. -/
  | noResponse (tag : Word)
  /-- LINK_RETRY (R371): Every 10 s, a powered-down link without a partner is tried again. -/
  | linkRetry (link : Fin 6) (partner : Option (Fin 64))
  /-- DEC_SUBMIT (R271): A high-word write submits a task, which is checked and queued, or refused. -/
  | decSubmit (ch : Fin 144) (hi : Word)
  /-- DECODE_TASK_START (R248): The earliest-deadline task starts on a free combiner and decoder pair. -/
  | decodeTaskStart
  /-- DECODE_TASK_END (R255): The decoder writes the bits and results; when all codeblocks are done, the TB CRC is checked and the cairn signalled. -/
  | decodeTaskEnd (unit : Fin 16)
  /-- ENCODE_TASK_START (R264): An ENCODE task starts on an encoder. -/
  | encodeTaskStart
  /-- ENCODE_TASK_END (R264): The codeword is written and the completion cairn is signalled. -/
  | encodeTaskEnd (unit : Fin 4)
  /-- TIMED_BARRIER_OPEN (R340): A timed barrier reaches its release time T and opens if its count has reached target. -/
  | timedBarrierOpen (cairn : Fin 65536)
  /-- CN_ADDN (R341): A write to CN_ADDn performs an add on the cairn. -/
  | cnAddn (who : Agent) (cairn : Fin 65536) (n : Word)
  /-- VIC_EOI (R345): A write ends the Lantern's most recent active source. -/
  | vicEoi
  /-- VIC_BINDK (R348): A write binds or unbinds a cairn to a chamber interrupt source. -/
  | vicBindk (who : Agent) (ch : Fin 144) (k : Fin 64) (v : Word)
  /-- MBX_REQ_POST (R318): Posts a request message, making the mailbox full and raising a wake event. -/
  | mbxReqPost (who : Agent) (pair : Fin 176)
  /-- MBX_RSP_POST (R318): Posts a reply message, making the mailbox full and raising a wake event. -/
  | mbxRspPost (who : Agent) (pair : Fin 176)
  /-- MBX_REQ_ACK (R317): The receiver acknowledges a request with a code and empties the mailbox. -/
  | mbxReqAck (who : Agent) (pair : Fin 176) (code : BitVec 16)
  /-- MBX_RSP_ACK (R317): The receiver acknowledges a reply and empties the mailbox. -/
  | mbxRspAck (who : Agent) (pair : Fin 176) (code : BitVec 16)
  /-- REPLY_POST (R322): Once the reply mailbox is empty, Nerzon posts the reply and acknowledges the request. -/
  | replyPost
  /-- DOORBELL (R328): The client writes its ring index and optionally arms the ring's vector. -/
  | doorbell (ring : Fin 16384) (idx : Word) (arm : Bool)
  /-- RING_PUSH_GO (R329): A chamber places a 32-byte record on a ring, or the record is dropped at a full ring. -/
  | ringPushGo (ch : Fin 144) (ring : Fin 16384)
  /-- WAITING_RECORD_WRITTEN (R327): A record waiting at a full ring is written once room appears. -/
  | waitingRecordWritten (ring : Fin 16384)
  /-- BAR2_ACCESS (R315): A host access through BAR2 reaches HBM, or fails as an access error. -/
  | bar2Access (off : Nat) (acc : Bar2Op)
  /-- PCIE_CONVENTIONAL_RESET (R313): A hot reset, link disable or DL_Down closes host sessions and empties the host mailboxes. -/
  | pcieConventionalReset
  /-- HELD_MSI_SEND (R312): A held MSI is sent once Bus Master Enable and MSI Enable are both 1. -/
  | heldMsiSend (vec : Fin 32)
  /-- REGISTER_WRITE (R7): A write to a register without a row of its own, under its access codes and the BAR0 error rules. -/
  | registerWrite (who : Agent) (addr : Nat) (size : Nat) (op : RegOp)
  /-- CHM_CTL_HALT_REQ (R123): The Lantern requests a halt at the next bundle boundary. -/
  | chmCtlHaltReq (ch : Fin 144) (halt : Bool)
  /-- CHM_CTL_STEP (R123): A halted chamber issues one bundle. -/
  | chmCtlStep (ch : Fin 144)
  /-- SESSION_OPEN (R324): Opens a session with a role on a pair and increments the pair's epoch. -/
  | sessionOpen (pair : Fin 176)
  /-- SESSION_CLOSE (R324): Closes the pair's session. -/
  | sessionClose (pair : Fin 176)
  /-- NCI_INFO (R324): Returns the Nerzon version, identifier and epoch. -/
  | nciInfo (pair : Fin 176)
  /-- RING_SET (R324): Sets a ring, resets its indices and writes its write-back. -/
  | ringSet (pair : Fin 176)
  /-- RING_CLEAR (R324): Clears a ring. -/
  | ringClear (pair : Fin 176)
  /-- RING_STATUS (R324): Returns a ring's indices and counts. -/
  | ringStatus (pair : Fin 176)
  /-- CAIRN_SET (R342): Sets, resets or frees a cairn, releasing its waiters with CLEARED. -/
  | cairnSet (pair : Fin 176)
  /-- CAIRN_GET (R341): Returns a cairn's value, configuration and status. -/
  | cairnGet (pair : Fin 176)
  /-- MEM_PART_SET (R208): Sets a context's memory partitions, zeroing memory that changes owner. -/
  | memPartSet (pair : Fin 176)
  /-- MEM_PART_GET (R208): Returns a context's memory partitions. -/
  | memPartGet (pair : Fin 176)
  /-- MEM_IMAGE_BIND (R208): Binds a pocket image and copies it into the pockets of the chamber set. -/
  | memImageBind (pair : Fin 176)
  /-- PLACE_SET_CHAMBERS (R208): Sets a context's chamber set and loads the bound images into added chambers. -/
  | placeSetChambers (pair : Fin 176)
  /-- PLACE_MAP_GET (R208): Returns one gallery's map from logical to physical chambers. -/
  | placeMapGet (pair : Fin 176)
  /-- PLACE_REPORT (R208): Writes the placement of a template's most recent released job. -/
  | placeReport (pair : Fin 176)
  /-- MEM_BAR2_SET (R208): Sets or closes the BAR2 window. -/
  | memBar2Set (pair : Fin 176)
  /-- CTX_SET (R310): Sets a context and its event ring. -/
  | ctxSet (pair : Fin 176)
  /-- CTX_CLEAR (R310): Clears a context, zeroing its partitions. -/
  | ctxClear (pair : Fin 176)
  /-- TMPL_SET (R297): Registers a job template. -/
  | tmplSet (pair : Fin 176)
  /-- TMPL_CLEAR (R310): Clears a job template. -/
  | tmplClear (pair : Fin 176)
  /-- SURVEY_STAGE (R299): Copies and checks a survey table image into the staged half. -/
  | surveyStage (pair : Fin 176)
  /-- SURVEY_COMMIT (R300): Arms the staged table to commit at the next hyperperiod tick. -/
  | surveyCommit (pair : Fin 176)
  /-- SURVEY_COMMIT_CANCEL (R300): Cancels an armed commit, unless its tick is less than 20 µs away. -/
  | surveyCommitCancel (pair : Fin 176)
  /-- SCHED_STATUS (R310): Returns schedule status and counters. -/
  | schedStatus (pair : Fin 176)
  /-- CFG_COMMIT (R307): Applies a context's staged chain changes at later slot ticks. -/
  | cfgCommit (pair : Fin 176)
  /-- DET_SET (R306): Freezes or unfreezes dynamic load balancing from the next hyperperiod tick. -/
  | detSet (pair : Fin 176)
  /-- FH_PORT_SET (R236): Configures an Ethernet port. -/
  | fhPortSet (pair : Fin 176)
  /-- FH_PORT_STATUS (R236): Returns a logical port's status and counters. -/
  | fhPortStatus (pair : Fin 176)
  /-- FH_FLOW_SET (R236): Configures a flow, allocates its basin share and copies its eAxC table. -/
  | fhFlowSet (pair : Fin 176)
  /-- FH_FLOW_ARM (R217): Arms a flow from the next slot tick. -/
  | fhFlowArm (pair : Fin 176)
  /-- FH_FLOW_STOP (R217): Stops a flow at the next slot tick, or returns a STOPPED flow to FREE. -/
  | fhFlowStop (pair : Fin 176)
  /-- FH_FLOW_STATUS (R236): Returns a flow's state and counters. -/
  | fhFlowStatus (pair : Fin 176)
  /-- CHAIN_SET (R270): Sets a chain, or stages a change to a chain in use. -/
  | chainSet (pair : Fin 176)
  /-- CHAIN_CLEAR (R270): Clears a chain. -/
  | chainClear (pair : Fin 176)
  /-- CHAIN_STATUS (R270): Returns a chain's counters. -/
  | chainStatus (pair : Fin 176)
  /-- HARQ_FLUSH (R270): Clears valid in a range of HARQ buffers. -/
  | harqFlush (pair : Fin 176)
  /-- LDPC_OFFSETS_SET (R254): Copies a decoder offset table for a context and base graph. -/
  | ldpcOffsetsSet (pair : Fin 176)
  /-- DEC_STATUS (R270): Returns DEC counters. -/
  | decStatus (pair : Fin 176)
  /-- ECHO_STREAM_SET (R272): Binds an echo input stream to an NB flow and sets its rate and bin count. -/
  | echoStreamSet (pair : Fin 176)
  /-- ECHO_CH_SET (R288): Sets an echo channel, at once or deferred to the end of its packet. -/
  | echoChSet (pair : Fin 176)
  /-- ECHO_CH_DISABLE (R289): Disables a channel at the end of its packet, or at once with abort. -/
  | echoChDisable (pair : Fin 176)
  /-- ECHO_CH_STATUS (R291): Returns a channel's state and counters. -/
  | echoChStatus (pair : Fin 176)
  /-- ECHO_STREAM_STATUS (R291): Returns a stream's counters. -/
  | echoStreamStatus (pair : Fin 176)
  /-- TIME_DOMAIN_SET (R352): Sets a time domain's source. -/
  | timeDomainSet (pair : Fin 176)
  /-- TIME_DOMAIN_ADJ (R444): Applies a host phase error and rate correction to a HOST domain. -/
  | timeDomainAdj (pair : Fin 176)
  /-- TIME_SWITCH (R354): Switches the active domain now, or enables automatic switching. -/
  | timeSwitch (pair : Fin 176)
  /-- TIME_TICK_SET (R363): Sets the slot tick grid. -/
  | timeTickSet (pair : Fin 176)
  /-- TIME_PULSE_SET (R361): Sets a pulse output schedule. -/
  | timePulseSet (pair : Fin 176)
  /-- TIME_CMP_GRANT (R358): Grants a compare to a context, or returns it to the Lantern. -/
  | timeCmpGrant (pair : Fin 176)
  /-- TIME_STATUS (R364): Returns the time status and phase errors. -/
  | timeStatus (pair : Fin 176)
  /-- SYNCE_SET (R355): Selects the SyncE clock source. -/
  | synceSet (pair : Fin 176)
  /-- EMX_JOIN (R376): Joins the devices of the system. -/
  | emxJoin (pair : Fin 176) (answered : List (Fin 64))
  /-- EMX_LINK_STATUS (R380): Returns an Emaux link's status. -/
  | emxLinkStatus (pair : Fin 176)
  /-- EMX_TUNNEL_SET (R377): Binds a root host pair to a far device's pair. -/
  | emxTunnelSet (pair : Fin 176)
  /-- EMX_DOORBELL (R378): Moves a ring index on the executing device. -/
  | emxDoorbell (pair : Fin 176)
  /-- EMX_STATUS (R380): Returns a joined device's status and time. -/
  | emxStatus (pair : Fin 176) (far : List Word)
  /-- CRP_STATUS (R410): Returns the CRP registers. -/
  | crpStatus (pair : Fin 176)
  /-- CLKOUT_SET (R389): Sets the CLKOUT source and divider. -/
  | clkoutSet (pair : Fin 176)
  /-- RESET (R410): Requests a core or system reset, which acts 1 ms after the reply. -/
  | reset (pair : Fin 176)
  /-- RESET_TAKES_EFFECT (R410): 1 ms after the RESET reply, the requested reset is asserted. -/
  | resetTakesEffect
  /-- POWER_SET (R399): Sets the power cap, voltage window and thermal warning. -/
  | powerSet (pair : Fin 176)
  /-- DEBUG_CHALLENGE (R407): Returns a debug nonce and the unique identifier. -/
  | debugChallenge (pair : Fin 176)
  /-- DEBUG_UNLOCK (R407): Verifies a signed debug unlock and grants its scope. -/
  | debugUnlock (pair : Fin 176)
  /-- SEC_STATUS (R410): Returns the security status. -/
  | secStatus (pair : Fin 176)
  /-- SEC_COMMIT_VERSION (R406): Programs the security version and key revocations into OTP. -/
  | secCommitVersion (pair : Fin 176)
  /-- PIN_SET (R439): Sets a pad's function, pull and drive, replying once the switch has ended. -/
  | pinSet (pair : Fin 176)
  /-- GPIO_SET (R439): Sets GPIO output and output enable under a mask. -/
  | gpioSet (pair : Fin 176)
  /-- FAULT_LOG_READ (R427): Copies fault log entries to a buffer. -/
  | faultLogRead (pair : Fin 176)
  /-- FAULT_UNIT_GET (R427): Returns a unit's state. -/
  | faultUnitGet (pair : Fin 176)
  /-- FAULT_UNIT_SET (R427): Disables or enables a unit. -/
  | faultUnitSet (pair : Fin 176)
  /-- TELEMETRY_GET (R427): Returns telemetry. -/
  | telemetryGet (pair : Fin 176)
  /-- FAULT_INJECT (R427): Injects an error of a given class and unit. -/
  | faultInject (pair : Fin 176)
  /-- FAULT_TRACE (R426): Freezes and exports a headlamp trace. -/
  | faultTrace (pair : Fin 176)
  /-- MCTP_MESSAGE (R422): A board controller management message reads or sets unit state. -/
  | mctpMessage (vid : BitVec 16) (req : MctpReq) (unit : BitVec 16)
  /-- HEADLAMP_RELEASE (R426): A frozen trace is released 10 s after it froze. -/
  | headlampRelease (h : Fin 17)
  /-- STS_HEARTBEAT (R316): Nerzon increments the heartbeat every 1 ms. -/
  | stsHeartbeat
  /-- CRP_BLK_RST (R393): Starts a block reset of a chamber or gallery. -/
  | crpBlkRst (v : Word)
  /-- BLOCK_RESET_DONE (R393): A block reset completes and busy clears. -/
  | blockResetDone
  /-- CRP_RESET_CTL (R409): A write asserts a core or system reset. -/
  | crpResetCtl (v : Word)
  /-- CRP_CLKSELD (R385): A write starts a glitch-free switch of a domain clock. -/
  | crpClkseld (d : Fin 4) (v : Word)
  /-- CLOCK_SWITCH_DONE (R385): A domain clock switch completes and busy clears. -/
  | clockSwitchDone (d : Fin 4)
  /-- CRP_WDT (R394): A kick restarts the watchdog period. -/
  | crpWdt (v : Word)
  /-- WATCHDOG_EXPIRY (R394): The watchdog expires and asserts a core reset, or a clkstop system reset. -/
  | watchdogExpiry
  /-- ERR_INJ (R415): A write of go injects one error. -/
  | errInj (v : Word)
  /-- PIN_MUXN (R436): A write to a pad's mux register starts a function switch, or is held while busy. -/
  | pinMuxn (n : Fin 32) (v : Word)
  /-- PIN_SWITCH_END (R435): A pad function switch ends after 2 cycles. -/
  | pinSwitchEnd (n : Fin 32)
  /-- PORST_N (R381): PORST_N low holds a power-on reset; its rise starts the oscillator count. -/
  | porstN (level : Bool)
  /-- OSCILLATOR_COUNT_END (R401): After 65,536 reference cycles, the boot ROM starts. -/
  | oscillatorCountEnd
  /-- SYS_RST_N (R390): The SYS_RST_N pin asserts a system reset. -/
  | sysRstN (level : Bool)
  /-- CLOCK_STOP (R384): A clock that shows no edge for 8 µs is declared stopped. -/
  | clockStop (src : Fin 9)
  /-- REFERENCE_RETURN (R388): After 65,536 cycles of the returned reference, CRP releases the reset. -/
  | referenceReturn
  /-- PLL_LOCK_LOSS (R382): A PLL loses lock and its lost bit is set. -/
  | pllLockLoss (k : Fin 8)
  /-- LOCKSTEP_MISMATCH (R390): A Lantern lockstep mismatch asserts a core reset. -/
  | lockstepMismatch
  /-- OVERTEMP (R400): Tj at 115 °C asserts a system reset. -/
  | overtemp (tj : BitVec 8)
  /-- OVERTEMP_RECOVERY (R400): Tj falling to 95 °C releases the overtemperature reset. -/
  | overtempRecovery
  /-- TJ_ABOVE_TWARN (R398): Tj rises above twarn; the thermal alarm and a THERMAL entry are raised. -/
  | tjAboveTwarn (tj : BitVec 8)
  /-- LIMITER_ACT (R398): Mean power over the cap, or Tj at 105 °C, makes the limiter remove issue cycles. -/
  | limiterAct (power : BitVec 9) (tj : BitVec 8)
  /-- BOOT_IMAGE_CHECK (R403): The boot ROM verifies a loaded image and starts Nerzon, or records a failure code. -/
  | bootImageCheck (secondary : Bool) (img : List Byte)
  /-- NERZON_READY (R26): Nerzon reports ready with no flows, table or channels set. -/
  | nerzonReady (selfTest : Bool)
  /-- STORE_COMPLETION (R150): A scalar store to memory outside the own pocket completes, and may raise its exception on completion. -/
  | storeCompletion (ch : Fin 144)
  /-- LIMITER_RELEASE (R398): Once the cause has passed, the limiter restores chamber issue cycles in steps of 1/16 and clears its alarm. -/
  | limiterRelease
  /-- ADAPTIVE_VOLTAGE_LOOP (R397): The loop measures the ring oscillators and sets VDD_CORE over PMBus within the window, setting vlimit when it must hold vmax. -/
  | adaptiveVoltageLoop (need : BitVec 10)
  /-- OTP_PROGRAM_PULSE_END (R392): At the end of a 10 µs OTP program pulse, a reset that arrived during the pulse takes effect. -/
  | otpProgramPulseEnd
  /-- LINK_NO_PARTNER (R371): An Emaux link that finds no partner within 1 s of Nerzon starting is powered down. -/
  | linkNoPartner (link : Fin 6)
  /-- GPIO_INPUT_CHANGE (R438): A level change on a GPIO pad reaches PIN_GPIO_IN after 2 cycles of synchronisation, unless the input is frozen. -/
  | gpioInputChange (n : Fin 32) (level : Bool)
  /-- PTP_MESSAGE_SEND (R352): Nerzon's PTP engine sends its periodic PTP messages on its time receiver port and on its time transmitter ports. -/
  | ptpMessageSend
  /-- ESMC_SEND (R355): Nerzon sends its periodic ESMC frames under ITU-T G.8264. -/
  | esmcSend
deriving DecidableEq, Repr

end Sys2Proof
end

