-- ==== Sys2Proof/Config.lean ====
section
/-!
DEFINITION. What the spec leaves open, as constants without a value. Most are applied to the counter of free values
that State holds (`State.free`, log entry 2), so that every use draws a fresh one; the others are functions of what
they depend on. Nothing constrains any of them.
-/
namespace Sys2Proof

/-- The syndrome of an ECC error (R413 names it, no rule gives its coding). -/
opaque Config.syndrome : Nat → Word
/-- The value half of a cairn status word when nothing was taken or opened (R335 gives the others). -/
opaque Config.cairnValue : Nat → Word
/-- The count of a timed barrier whose arrivals pass 2^32 before its release time (R334, R340). -/
opaque Config.barrierCount : Nat → Word
/-- Chamber clock cycles that pass in one cycle of the time clock (R5, R98). -/
opaque Config.chamberCycles : Nat → Nat
/-- Cycles in which a job ran and no bundle issued, in one cycle of the time clock (R123). -/
opaque Config.stallCycles : Nat → Nat
/-- Instruction cache misses met by a bundle that issues (R99). -/
opaque Config.cacheMisses : Nat → Nat
/-- The number, in a layer's output tensor, of the row that a job of a template stores at a place: the rank of the storing chamber times 2^20 plus
the pocket offset; none where the row is not the layer's (R304: the layer graph, which is Jengan's, numbers the rows). -/
opaque Config.tensorRow : Nat → Nat → Nat → Option Nat
/-- The base of Nerzon's default exception handler, in units of 4 KiB (R113). -/
opaque Config.defaultHandler : Nat → Nat
/-- The array group a rank of a job runs for a layer, low 4 bits, of template, placement, layer and rank; 0 where it runs none (R206,
R208: the placer's choice over Jengan's layer graph). -/
opaque Config.layerGroup : Nat → Nat → Nat → Nat → Nat
/-- Does Nerzon gate an idle gallery at this moment (R396: it may)? -/
opaque Config.gates : Nat → Nat → Bool
/-- How many transfer tiles a GATHER has read beyond its writes when it reads tile t, modulo 5 (R198: at most 4). -/
opaque Config.readAhead : Nat → Nat → Nat
/-- The chain Nerzon starts on a gallery siphon, if it starts one: its address, job tag and context (R190: Nerzon alone drives them). -/
opaque Config.nerzonChain : Nat → Option (Nat × Word × Option Nat)
/-- The memory errors that strike in one cycle of the time clock: a code unit and the places of its flipped bits (R181). -/
opaque Config.eccStrikes : Nat → List (Nat × List Nat)
/-- Does a template's job use these bytes of its pocket partition, besides its locked code (R309: the layer graph is Jengan's)? -/
opaque Config.usesPocket : Nat → Nat → Nat → Bool
/-- The placer's choices among the chambers a job may run on (R206). -/
opaque Config.place : Nat → Nat → Nat
/-- Does a chain's new model set fit the chambers that are free (R307; what a model set needs is Jengan's)? -/
opaque Config.modelFits : Nat → Bool
/-- The noise code an echo channel measures in search (R282). -/
opaque Config.echoNoise : Nat → Nat
/-- How many bytes of a coded body were decided when the packet was cut short (R285: the decoder's delay). -/
opaque Config.echoCount : Nat → Nat
/-- Byte i of those a packet cut short had completed (R285: the demodulator's). -/
opaque Config.echoByte : Nat → Nat → Byte
/-- The carrier offset estimate of a packet that ends without its body (R285). -/
opaque Config.echoOffset : Nat → BitVec 16
/-- Which of two equal paths the trellis decoder keeps (R283 does not say). -/
opaque Config.trellisTie : Nat → Bool
/-- The hard decision of a soft bit of value 0, by its place (R54: it carries no information). -/
opaque Config.zeroBit : Nat → Bool
/-- The error of a captured timestamp in ns, modulo 9, less 4 (R212: an accuracy of ±4 ns). -/
opaque Config.stampError : Nat → Nat
/-- The rate correction a PTP or PPS servo sets after a measured phase error, in ppt (R352: no rule gives its filter). -/
opaque Config.servoRate : Nat → Int
/-- The quality level of an ESMC frame (R355; ITU-T G.8264's function of the selected source, the received level and the port). -/
opaque Config.esmcLevel : Option Nat → BitVec 8 → Nat → BitVec 8
/-- Does Nerzon find an internal inconsistency at the next command (R323)? -/
opaque Config.nerzonInternal : Nat → Bool
/-- Which of the Lantern sources 176 to 191 a flow's events raise, modulo 16 (chapter 13 gives the range alone). -/
opaque Config.flowSource : Nat → Nat
/-- Which of the Lantern sources 240 to 255 an Emaux link, the PCIe function, a clock monitor or the temperature raises, modulo 16
(chapter 13 gives the range alone). -/
opaque Config.deviceSource : Nat → Nat
/-- The PRB count field of a section of 256 PRBs or more that do not reach the carrier's end (R215, R234: the field has 8 bits). -/
opaque Config.wideSection : Nat → BitVec 8
/-- The sectionId of an uplink flow's section over the whole carrier, which names no region of a grant (R215, R233), of the flow and slot. -/
opaque Config.wholeSection : Nat → Nat → BitVec 12
/-- Where Nerzon puts a flow's basin share, among the places that can hold it (R223). -/
opaque Config.basinPick : Nat → Nat
/-- Does a read of a ring in host memory complete with an error (R330)? -/
opaque Config.hostReadFails : Nat → Bool

/-- Row r of base graph 1 (false) or 2 (true) at a lifting size: its columns with their circular shifts (R253; 3GPP TS 38.212, which the
spec cites and does not print). -/
opaque Config.baseRow : Bool → Nat → Nat → List (Nat × Nat)
/-- Parity bit n of the code of a base graph and lifting size over K information bits (R264; 3GPP TS 38.212). -/
opaque Config.ldpcParity : Bool → Nat → List Bool → Nat → Bool
/-- Limry's default offset table of a base graph (R254: it ships with Jengan). -/
opaque Config.defaultOffsets : Bool → List Byte
/-- Had an abandoned task's combiner made its last write (R251, R256, R262)? -/
opaque Config.combined : Nat → Bool
/-- Does a model set meet the rules R269 lays on it (its format is Jengan's)? -/
opaque Config.modelValid : Nat → Bool
/-- Does traffic for a device take the + link of a dimension of size 2 (R371: it spreads over both)? -/
opaque Config.emauxSpread : Nat → Bool
/-- SHA-384 (R402, R403, R407; the standard's function). -/
opaque Config.sha384 : List Byte → List Byte
/-- ECDSA P-384 verification of a public key, a digest and a signature (R402, R407; the standard's function). -/
opaque Config.ecdsaP384 : List Byte → List Byte → List Byte → Bool
/-- Is a GCM tag right for nonce, additional data, stored payload and tag, under the OTP's image key (R402, R403)? -/
opaque Config.gcmOk : List Byte → List Byte → List Byte → List Byte → Bool
/-- Does HBM train (R401, R403)? -/
opaque Config.hbmTrains : Nat → Bool
/-- The level of the BOOT_SEL pin when PORST_N rises (R401): the board's. -/
opaque Config.bootSelPin : Nat → Bool
/-- The version word of the running Nerzon image (R316). -/
opaque Config.nerzonVersion : Nat → Word
/-- The 256-bit nonce of a debug challenge (R407). -/
opaque Config.nonce : Nat → Nat
/-- The output frequencies of PLL 4 to 7 in kHz (R382 names them stack and lane clocks). -/
opaque Config.pllKHz : Nat → Nat
/-- The bytes a use with an undefined result alters: an address, the byte, POISON and MISSING of its word (R428). -/
opaque Config.strayBytes : Nat → List (Nat × Byte × Bool × Bool)
/-- The tile flags such a use alters: a physical chamber, a kind of place, its index, the flags (R428). -/
opaque Config.strayFlags : Nat → List (Nat × Nat × Nat × BitVec 4)
/-- A sum of such a use (R49, R72, R428). -/
opaque Config.straySum : Nat → Nat → Int
/-- A word of an outcome, report or digest of a job such a use reaches (R428). -/
opaque Config.strayWord : Nat → Nat → Word
/-- What a read of the doorbell of a ring that is not set returns (R328: no index is stated). -/
opaque Config.unsetBell : Nat → Word
/-- The level of a headlamp trace output (R434: the trace's form is not stated). -/
opaque Config.traceLevel : Nat → Nat → Bool
/-- The level of a running clock output at a moment (R355, R389). -/
opaque Config.clockLevel : Nat → Nat → Bool
/-- Byte i of an exported headlamp trace (R426: their form is not stated). -/
opaque Config.traceBytes : Nat → Nat → Byte

end Sys2Proof
end

