-- ==== Sys2Proof/Machine/Bits.lean ====
section
/-!
DEFINITION. Bit fields, byte order, sign and saturation: the helpers every chapter of the spec uses (R6, R28, R30,
R34, R39).
-/
namespace Sys2Proof.Machine

/-- Bits [hi:lo] of a number. -/
def fld (v hi lo : Nat) : Nat := (v >>> lo) % 2 ^ (hi - lo + 1)

/-- One bit of a number. -/
def bitAt (v n : Nat) : Bool := (v >>> n) % 2 == 1

/-- A Boolean as a bit. -/
def b2n (b : Bool) : Nat := if b then 1 else 0

/-- The signed value of the low n bits of a number. -/
def sgn (v n : Nat) : Int := if v % 2 ^ n < 2 ^ (n - 1) then Int.ofNat (v % 2 ^ n) else Int.ofNat (v % 2 ^ n) - Int.ofNat (2 ^ n)

/-- The low n bits of a signed number. -/
def low (x : Int) (n : Nat) : Nat := (x % Int.ofNat (2 ^ n)).toNat

/-- Arithmetic right shift, rounding toward minus infinity (R28). -/
def asr (x : Int) (s : Nat) : Int := x / Int.ofNat (2 ^ s)

/-- Left shift without loss (R30). -/
def shl (x : Int) (s : Nat) : Int := x * Int.ofNat (2 ^ s)

/-- Clamp to [lo, hi] (R30). -/
def clamp (x lo hi : Int) : Int := if x < lo then lo else if hi < x then hi else x

/-- Saturate to the signed n-bit range (R30). -/
def sat (x : Int) (n : Nat) : Int := clamp x (-(Int.ofNat (2 ^ (n - 1)))) (Int.ofNat (2 ^ (n - 1)) - 1)

/-- Shift left for d ≥ 0 and right for d < 0 (R251). -/
def scaleBy (x d : Int) : Int := if 0 ≤ d then shl x d.toNat else asr x (-d).toNat

/-- The smallest k from kmin, trying `fuel` more, for which every value shifted right by k lies in [lo, hi]; the last
k tried where none does (R39). -/
def chooseExp (vs : List Int) (lo hi : Int) : Nat → Nat → Nat
  | k, 0 => k
  | k, fuel + 1 => if vs.all (fun v => decide (lo ≤ asr v k) && decide (asr v k ≤ hi)) then k else chooseExp vs lo hi (k + 1) fuel

/-- Round up to a multiple. -/
def roundUp (n m : Nat) : Nat := (n + m - 1) / m * m

/-- Division rounding up. -/
def ceilDiv (n m : Nat) : Nat := (n + m - 1) / m

/-- Little-endian value of bytes (R6). -/
def leNat : List Byte → Nat
  | [] => 0
  | b :: bs => b.toNat + 256 * leNat bs

/-- The n bytes of a value, little-endian (R6). -/
def leBytes (v : Nat) : Nat → List Byte
  | 0 => []
  | n + 1 => BitVec.ofNat 8 v :: leBytes (v / 256) n

/-- The 32-bit words of a byte list of n words. -/
def leWords (bs : List Byte) : Nat → List Word
  | 0 => []
  | n + 1 => BitVec.ofNat 32 (leNat (bs.take 4)) :: leWords (bs.drop 4) n

/-- The bytes of words, low word first. -/
def wordBytes : List Word → List Byte
  | [] => []
  | w :: ws => leBytes w.toNat 4 ++ wordBytes ws

/-- Word n of a message, 0 beyond its end. -/
def wordAt (ws : List Word) (n : Nat) : Nat := (ws.getD n 0#32).toNat

/-- A 64-bit value from its low and high words. -/
def dword (lo hi : Nat) : Nat := lo + 2 ^ 32 * hi

/-- A word from fields given as (value, lowest bit); fields must not overlap. -/
def mkWord (fs : List (Nat × Nat)) : Word := BitVec.ofNat 32 (fs.foldl (fun acc f => acc + f.1 * 2 ^ f.2) 0)

/-- The low 32 bits of a number as a word. -/
def w32 (n : Nat) : Word := BitVec.ofNat 32 n

/-- The high 32 bits of a 64-bit number as a word. -/
def w32hi (n : Nat) : Word := BitVec.ofNat 32 (n / 2 ^ 32)

/-- Element i of packed elements of b bits (b at most 8 and a divisor of 8), little-endian (R34). -/
def packedElem (bs : List Byte) (b i : Nat) : Nat := ((bs.getD (i * b / 8) 0#8).toNat >>> (i * b % 8)) % 2 ^ b

/-- Pack elements of b bits (4 or 8) into bytes (R34). -/
def packElems (b : Nat) (xs : List Nat) : List Byte :=
  if b = 8 then xs.map (BitVec.ofNat 8)
  else
    let rec go : List Nat → List Byte
      | [] => []
      | [x] => [BitVec.ofNat 8 (x % 16)]
      | x :: y :: r => BitVec.ofNat 8 (x % 16 + 16 * (y % 16)) :: go r
    go xs

/-- Whether two address ranges share a byte. -/
def overlaps (a alen b blen : Nat) : Bool := decide (a < b + blen) && decide (b < a + alen) && decide (0 < alen) && decide (0 < blen)

/-- The largest c at most n with 10^c × d^20 ≤ x^20: the steps of a factor 10^(1/20) that d lies below x. -/
def stepsBelow (x d : Nat) : Nat → Nat
  | 0 => 0
  | n + 1 => if 10 ^ (n + 1) * d ^ 20 ≤ x ^ 20 then n + 1 else stepsBelow x d n

/-- Set or clear bit n of a bit vector. -/
def setBit {w : Nat} (x : BitVec w) (n : Nat) (v : Bool) : BitVec w :=
  if v then x ||| (1#w <<< n) else x &&& ~~~(1#w <<< n)

end Sys2Proof.Machine
end

