-- ==== Sys2Proof/Machine/Tab.lean ====
section
/-!
DEFINITION. Sparse tables: a table of like things is a list of (key, value) pairs in one canonical form (keys strictly
rising, no entry equal to the default an unlisted key reads as), so that equal tables are equal data. Memory is the
table of bytes.
-/
namespace Sys2Proof.Machine

/-- A sparse table: the keys that differ from the default, rising. -/
abbrev Tab (α : Type) := List (Nat × α)

/-- Read a table. -/
def Tab.get {α : Type} (d : α) : Tab α → Nat → α
  | [], _ => d
  | (k, v) :: t, n => if k = n then v else Tab.get d t n

/-- Write a table, keeping the canonical form: writing the default removes the entry. -/
def Tab.put {α : Type} [DecidableEq α] (d : α) : Tab α → Nat → α → Tab α
  | [], n, x => if x = d then [] else [(n, x)]
  | (k, v) :: t, n, x =>
    if n < k then (if x = d then (k, v) :: t else (n, x) :: (k, v) :: t)
    else if n = k then (if x = d then t else (k, x) :: t)
    else (k, v) :: Tab.put d t n x

/-- Change one entry by a function of its value. -/
def Tab.upd {α : Type} [DecidableEq α] (d : α) (t : Tab α) (n : Nat) (f : α → α) : Tab α :=
  Tab.put d t n (f (Tab.get d t n))

/-- Change every listed entry by a function of its key and value; the canonical form is kept. -/
def Tab.mapListed {α : Type} [DecidableEq α] (d : α) (f : Nat → α → α) : Tab α → Tab α
  | [] => []
  | (k, v) :: t => if f k v = d then Tab.mapListed d f t else (k, f k v) :: Tab.mapListed d f t

/-- Drop every listed entry whose key is in a range: those keys read as the default again. -/
def Tab.clearRange {α : Type} (t : Tab α) (lo len : Nat) : Tab α :=
  t.filter fun e => !(decide (lo ≤ e.1) && decide (e.1 < lo + len))

/-- The first listed key from which every later key rises and differs from the default: the canonical form. -/
def Tab.wfFrom {α : Type} [DecidableEq α] (d : α) : Option Nat → Tab α → Bool
  | _, [] => true
  | lo, (k, v) :: t => (match lo with | none => true | some l => decide (l < k)) && !decide (v = d) && Tab.wfFrom d (some k) t

/-- The canonical form: keys strictly rising, no entry equal to the default. -/
def Tab.wf {α : Type} [DecidableEq α] (d : α) (t : Tab α) : Bool := Tab.wfFrom d none t

/-- Memory: bytes by storage key; an unlisted byte reads as 0 (log entry 4). -/
abbrev Memory := List Host.Cell

/-- The byte an unlisted address reads as. -/
def Memory.blank : Byte := 0#8

/-- Read one byte. -/
def Memory.byte (m : Memory) (k : Nat) : Byte := Tab.get Memory.blank m k

/-- Write one byte. -/
def Memory.setByte (m : Memory) (k : Nat) (v : Byte) : Memory := Tab.put Memory.blank m k v

/-- The canonical form of memory. -/
def Memory.wf (m : Memory) : Bool := Tab.wf Memory.blank m

/-- Write consecutive bytes from the lowest address up. -/
def Memory.setBytes (m : Memory) (k : Nat) : List Byte → Memory
  | [] => m
  | v :: vs => Memory.setBytes (Memory.setByte m k v) (k + 1) vs

/-- Read consecutive bytes. -/
def Memory.bytes (m : Memory) (k : Nat) : Nat → List Byte
  | 0 => []
  | n + 1 => Memory.byte m k :: Memory.bytes m (k + 1) n

end Sys2Proof.Machine
end

