-- ==== Sys2Proof/Machine/State.lean ====
section
/-!
DEFINITION. The state of the Irboest: every register, memory, queue and object the spec gives the device, as plain data,
the commands that wait, and the state after a power-on reset. Like things are sparse tables (`Tab`) over a default.
-/
namespace Sys2Proof.Machine

/-! ### Tiles, arrays and sumps (chapters 02, 03) -/

/-- Tile flags (R31, R52, R78, R168): POISON, MISSING, ACC_SAT and LATE. -/
structure TileFlags where
  poison : Bool := false
  missing : Bool := false
  accSat : Bool := false
  late : Bool := false
deriving DecidableEq, Repr

/-- A weight tile as loaded by ALDW (R66, R67): header fields, element plane, scale plane, alcove plane, flags. -/
structure WeightTile where
  xref : Nat := 0x7F
  skind : Bool := false
  gsize : Nat := 0
  wfmt : Nat := 0
  omap0 : Word := 0
  omap1 : Word := 0
  cbook : Tab Byte := []
  elem : Tab Byte := []
  scale : Tab Byte := (List.range 32).map fun k => (k, 0x7F#8)
  alc : Tab Byte := []
  flags : TileFlags := {}
deriving DecidableEq, Repr

/-- A STREAM's operands and the mode it runs under (R71, R87, R138); `held` marks a queued STREAM stopped for an interrupt. -/
structure StreamOp where
  mode : Nat := 0
  asign : Bool := false
  amask : Nat := 0
  slot : Nat := 0
  first : Bool := false
  final : Bool := false
  rskind : Nat := 0
  rows : Nat := 0
  pitch : Nat := 0
  astride : Nat := 0
  abase : Nat := 0
  sbase : Nat := 0
  rsbase : Nat := 0
  tag : Word := 0
  held : Bool := false
deriving DecidableEq, Repr

/-- An operation of the array queue (R97). An ALDW carries its record address and the header read at issue (R68). -/
inductive AOp where
  | aldw (addr : Nat) (hdr : List Word)
  | aswp
  | acfg (mode : Nat) (asign : Bool)
  | stream (o : StreamOp)
deriving DecidableEq, Repr

/-- A STREAM running or held on one array: the next row to enter, and held (R87). -/
structure StreamRun where
  op : StreamOp
  row : Nat := 0
  held : Bool := false
deriving DecidableEq, Repr

/-- A row that has entered an array and not reached its sump (R74): elements, privileged activations, row scale byte, flags. -/
structure FlyRow where
  op : StreamOp
  m : Nat
  x : List Int
  ax : List Int
  rs : Byte
  flags : TileFlags
deriving DecidableEq, Repr

/-- A sump row (R75): 24-bit group accumulators, 32-bit wide accumulators, flags, and the row scale byte (R73). -/
structure SumpRow where
  ga : Tab Int := []
  wa : Tab Int := []
  flags : TileFlags := {}
  rs : Byte := 0
deriving DecidableEq, Repr

/-- A sump slot (R75): the group counter of K and the job tag of the last STREAM that wrote it. -/
structure SlotSt where
  kcount : Nat := 0
  tag : Word := 0
deriving DecidableEq, Repr

/-- A finished tile not yet taken by the dripline (R76): its first sump row, its rows, its slot. -/
structure FinTile where
  base : Nat
  nrows : Nat
  slot : Nat
  tag : Word
deriving DecidableEq, Repr

/-- One array with its sump. -/
structure ArrSt where
  run : Option StreamRun := none
  fly : List FlyRow := []
  sump : Tab SumpRow := []
  slots : Tab SlotSt := []
  fin : List FinTile := []
deriving DecidableEq, Repr

/-- The arrays of a chamber (R63, R69, R91, R97). -/
structure Arrays where
  aq : List AOp := []
  filling : Option (Nat × List Word) := none
  act : WeightTile := {}
  shadow : WeightTile := {}
  mode : Nat := 0
  asign : Bool := false
  sat : BitVec 4 := 0
  poison : BitVec 4 := 0
  arr : Tab ArrSt := []
  lastArr : Nat := 3
deriving DecidableEq, Repr

/-! ### Flowstone (chapter 06) -/

/-- A tile on the dripline (R78). -/
structure Tile where
  vals : Tab Int := []
  flags : TileFlags := {}
  vrows : Nat := 32
  arr : Nat := 0
  slot : Nat := 0
  tag : Word := 0
  rs : Tab Byte := []
deriving DecidableEq, Repr

/-- A tile or broadcast register (R153): 32-bit signed elements and flags. -/
structure FReg where
  els : Tab Int := []
  flags : TileFlags := {}
deriving DecidableEq, Repr

/-- A mask register (R153). -/
structure MReg where
  bits : Tab Bool := []
  flags : TileFlags := {}
deriving DecidableEq, Repr

/-- The register moves of R140. -/
inductive FMove where
  | ldt | stt | ldb | stb | ldm | stm
deriving DecidableEq, Repr

/-- An operation of the flowstone queue (R156). -/
inductive FOp where
  | run (addr : Nat)
  | move (m : FMove) (n : Nat) (addr : Nat)
deriving DecidableEq, Repr

/-- A flowstone run (R157, R159): the record's address, the header's fields, the micro-operations, the ordinals n and n_a, the next
micro-operation, and whether an iteration is in progress. -/
structure FRun where
  recAddr : Nat := 0
  count : Nat
  src1 : Bool
  cen : Bool
  cairn : Nat
  obase : Nat
  pitch : Nat
  astride : Nat
  tstride : Nat
  uops : List DWord
  n : Nat := 0
  na : Tab Nat := []
  k : Nat := 0
  inIter : Bool := false
deriving DecidableEq, Repr

/-- Flowstone (R151, R153, R156, R177). -/
structure Fls where
  dl : List Tile := []
  t : Tab FReg := []
  b : Tab FReg := []
  m : Tab MReg := []
  fq : List FOp := []
  run : Option FRun := none
  faultPend : Bool := false
  satBit : Bool := false
  fValid : Bool := false
  fKind : Nat := 0
  fUop : Nat := 0
  fElem : Nat := 0
  done : Nat := 0
  count : Nat := 0
  faultAddr : Nat := 0
  perfBusy : DWord := 0
  perfTiles : DWord := 0
deriving DecidableEq, Repr

/-! ### Interrupt controllers (chapter 13) -/

/-- `VIC_BINDk` (R349). -/
structure Bind where
  valid : Bool := false
  ctx : Nat := 0
  cairn : Nat := 0
deriving DecidableEq, Repr

/-- An interrupt controller (R343 to R349). `stack` holds the active sources, most recently delivered first, each with
the group it was delivered with; `chosen` is a source, with its group, chosen by arbitration whose vector is not yet presented
(R346); `vec` is the vector address last presented to the processor (R345). -/
structure Vic where
  bp : Nat := 0
  vbase : Nat := 0
  pend : BitVec 256 := 0
  en : BitVec 256 := 0
  prio : Tab (BitVec 8) := []
  bind : Tab Bind := []
  stack : List (Nat × Nat) := []
  chosen : Option (Nat × Nat) := none
  vec : Nat := 0
deriving DecidableEq, Repr

/-! ### The chamber as a processor (chapters 04, 05) -/

/-- A scalar access outside the own pocket that a bundle waits for (R150). -/
structure OutAcc where
  store : Bool
  addr : Nat
  size : Nat
deriving DecidableEq, Repr

/-- What an operation does when its bundle issues; a return carries the address read at issue (R94). -/
inductive Eff where
  | reg (code : Nat) (v : DWord)
  | pred (n : Nat) (v : Bool)
  | special (n : Nat) (v : DWord)
  | rotate (p8 : Bool)
  | store (a : Nat) (data : List Byte)
  | csrLoad (code : Nat) (sx : Bool) (a : Nat)
  | csrStore (a : Nat) (v : Word)
  | aop (o : AOp)
  | fop (o : FOp)
  | siph (q a : Nat)
  | cnAdd (n : Nat) (amt : Word)
  | cnTry (n pd : Nat)
  | cnDone (rt : Nat)
  | jump (t : BitVec 40)
  | iret (t : BitVec 40)
  | exret (t : BitVec 40)
  | jobEnd
deriving DecidableEq, Repr

/-- The bundle at issue: its bits, the positions named, and, while its access outside the own pocket is outstanding, that access and the
effects its other operations asked for at issue (R92, R150). -/
structure Issue where
  word : Bundle
  done : List Pos := []
  acc : Option OutAcc := none
  effs : List Eff := []
deriving DecidableEq, Repr

/-- The scalar registers and control state of a chamber (R100 to R123). `keepHeld`: STREAMs were held already, for an outer handler, when the
entry under way began (R87). -/
structure Core where
  g : Tab DWord := []
  ib : Tab DWord := []
  xb : Tab DWord := []
  l : Tab DWord := []
  p : BitVec 16 := 1
  rrb : BitVec 6 := 0
  lc : DWord := 0
  ec : BitVec 8 := 0
  ie : Bool := false
  ibank : Bool := false
  xbank : Bool := false
  pc : BitVec 40 := 0
  lastPc : BitVec 40 := 0
  ipc : BitVec 40 := 0
  epc : BitVec 40 := 0
  eaddr : BitVec 40 := 0
  cause : BitVec 8 := 0
  epos : BitVec 3 := 7
  dbl : Bool := false
  excBase : BitVec 40 := 0
  cycBase : DWord := 0
  perfIssue : DWord := 0
  perfStall : DWord := 0
  icMiss : Word := 0
  haltReq : Bool := false
  halted : Bool := false
  stepping : Bool := false
  icLock : Bool := false
  stall : BitVec 4 := 0
  jobTag : Word := 0
  ctx : Nat := 0
  active : Bool := false
  lastFenced : Bool := false
  fenced : BitVec 16 := 0
  defHandler : Bool := false
  issue : Option Issue := none
  waitCairn : Option Nat := none
  grant : Option DWord := none
  grantBack : Word := 0
  entering : Option (BitVec 40) := none
  keepHeld : Bool := false
deriving DecidableEq, Repr

/-- One physical chamber: processor, arrays, flowstone, interrupt controller, the map's entry, pocket error counts,
register latches and ring push staging. `startTag` is the tag of a job released on the chamber and not yet started;
`prevCtx` is the context of the previous job, none when the transient region is already zero (R188); a spare takes work from
device time `workFrom` (R207). -/
structure Chamber where
  core : Core := {}
  ar : Arrays := {}
  fl : Fls := {}
  vic : Vic := {}
  logical : Option Nat := none
  isolated : Bool := false
  startTag : Option Word := none
  prevCtx : Option Nat := none
  workFrom : Nat := 0
  eccUncorr : Nat := 0
  eccCorr : Nat := 0
  pushW : Tab Word := []
  pushLast : Tab Nat := []
deriving DecidableEq, Repr

/-! ### Siphons (chapter 07) -/

/-- A descriptor whose rows have all been moved and that has not completed (R199): its number, its cairn, its outstanding
remote packets, last, and the bytes it writes on this device (R200). -/
structure PendDesc where
  id : Nat
  cairn : Option Nat
  outstanding : Nat
  last : Bool
  dests : List (Nat × Nat) := []
deriving DecidableEq, Repr

/-- A chain being run (R191, R197): owner's job tag and context, next descriptor address, descriptors read, descriptors
not complete. `ended` is set once the descriptor with last = 1 has moved its rows. -/
structure Chain where
  tag : Word
  ctx : Option Nat
  next : Nat
  burst : List (Nat × List Word)
  pend : List PendDesc
  ended : Bool
deriving DecidableEq, Repr

/-- A siphon (R190, R191, R209). -/
structure Siphon where
  queue : List (Nat × Word × Option Nat) := []
  chain : Option Chain := none
  chains : Word := 0
  desc : BitVec 8 := 0
  fkind : Nat := 0
  fault : Bool := false
  faultKind : Nat := 0
  faultRow : Nat := 0
  faultAddr : Nat := 0
  chainDesc : Nat := 0
deriving DecidableEq, Repr

/-! ### Cairns (chapter 13) -/

/-- A cairn (R333, R341). typ: 0 FREE, 1 SEMAPHORE, 2 BARRIER, 3 EVENT. `waiters` are the waiting physical chambers,
first come first; `t` is the release time of a timed barrier. -/
structure Cairn where
  v : Word := 0
  typ : Nat := 0
  autoclear : Bool := false
  timed : Bool := false
  ctx : Nat := 0
  own : Bool := false
  owner : Nat := 0
  target : Nat := 0
  t : DWord := 0
  faulted : Bool := false
  ovf : Bool := false
  last : Nat := 0
  gen : BitVec 8 := 0
  waiters : List Nat := []
deriving DecidableEq, Repr

/-! ### Host attachment (chapter 12) -/

/-- A ring (R324 to R328). `waiting` are records that wait at a full ring, each with whether it is a completion record; `wbDue` is a
write-back held while Bus Master Enable is 0 (R312). -/
structure Ring where
  isSet : Bool := false
  ctx : Nat := 0
  hostWrites : Bool := false
  inHost : Bool := false
  base : Nat := 0
  lsize : Nat := 0
  wb : Nat := 0
  ien : Bool := false
  vector : Nat := 0
  p : Word := 0
  c : Word := 0
  count : DWord := 0
  dropped : Word := 0
  armed : Bool := false
  wbDue : Bool := false
  waiting : List (List Word × Bool) := []
deriving DecidableEq, Repr

/-- A mailbox (R317). -/
structure Mbox where
  w : Tab Word := []
  posts : BitVec 16 := 0
  overrun : Bool := false
  full : Bool := false
  acks : BitVec 16 := 0
  code : BitVec 16 := 0
deriving DecidableEq, Repr

/-- A mailbox pair with its session (R317, R324). -/
structure Pair where
  req : Mbox := {}
  rsp : Mbox := {}
  isOpen : Bool := false
  ctxRole : Bool := false
  ctx : Nat := 0
  vector : Nat := 0
  epoch : BitVec 8 := 0
deriving DecidableEq, Repr

/-- A command executed whose reply is not yet posted (R322). `waits` is what a reply waits for: 0 nothing, 1 the last OTP program
pulse (R406), 2 + n the function switch of pad n (R439). `offs` is an offset table that comes into force with the reply (R270), `reset` the
level of a reset 1 ms after it (R410). -/
structure NciReply where
  pair : Nat
  code : Nat
  words : List Word
  waits : Nat := 0
  offs : Option (Nat × Nat × List Byte) := none
  reset : Option Nat := none
deriving DecidableEq, Repr

/-- The late-error queue (R332). -/
structure Leq where
  prod : Word := 0
  cons : Word := 0
  lost : Nat := 0
  ovf : Bool := false
  recs : Tab (List Word) := []
deriving DecidableEq, Repr

/-- The status page's own registers (R316); `internal` says that Nerzon finds an inconsistency at the command it takes next (R323), `readyAt` when
Nerzon started (R371). -/
structure Sts where
  state : Nat := 0
  code : Nat := 0
  nerzon : Word := 0
  epoch : Word := 0
  heartbeat : Word := 0
  aslot : DWord := 0
  tickTime : DWord := 0
  clamp : Bool := false
  thermal : Bool := false
  internal : Bool := false
  readyAt : Nat := 0
deriving DecidableEq, Repr

/-- The PCIe function (R311 to R314; `d3` is D3hot, `mps` and `mrrs` are the size codes 128 × 2^n, `advisory` the Advisory Non-Fatal Error
Status) and the BAR2 window (R315). -/
structure Pcie where
  d3 : Bool := false
  bme : Bool := false
  bar0 : DWord := 0
  bar2 : DWord := 0
  mps : Nat := 0
  mrrs : Nat := 2
  advisory : Bool := false
  msiEn : Bool := false
  msiAddr : DWord := 0
  msiData : BitVec 16 := 0
  msiMask : BitVec 32 := 0
  msiHeld : BitVec 32 := 0
  bar2Base : Nat := 0
  bar2Open : Bool := false
deriving DecidableEq, Repr

/-! ### Nerzon's objects (chapters 07, 09, 11, 17) -/

/-- A bound pocket image (MEM_IMAGE_BIND, R208): HBM address, offset in the pocket partition, length. -/
structure Image where
  addr : Nat
  off : Nat
  len : Nat
deriving DecidableEq, Repr

/-- A context (R187, R208, R254, R310). HBM ranges are (base, size) in 2 MiB units. -/
structure Ctx where
  isSet : Bool := false
  evring : Nat := 0
  pkUnits : Nat := 0
  pkOff : Nat := 0
  csUnits : Nat := 0
  csOff : Nat := 0
  hbm : List (Nat × Nat) := []
  chset : BitVec 128 := 0
  images : List Image := []
  offs : Tab (List Byte) := []
  commitPend : Bool := false
deriving DecidableEq, Repr

/-- A job template (R297), with its last release: air slot, chambers by rank, and the number of the placement of its layers (R205). -/
structure Tmpl where
  isSet : Bool := false
  ctx : Nat := 0
  addr : Nat := 0
  len : Nat := 0
  dmask : DWord := 0
  width : Nat := 1
  nlayer : Nat := 0
  entry : Nat := 0
  hbase : Nat := 0
  clen : Nat := 0
  hlen : Nat := 0
  jcairns : List (Nat × Nat) := []
  lastSlot : Option Nat := none
  lastChms : List Nat := []
  lastKey : Nat := 0
deriving DecidableEq, Repr

/-- The part of a chain's configuration that CFG_COMMIT may change (R307). -/
structure ChainCfg where
  kind : Nat := 0
  maxlay : Nat := 0
  ms : Nat := 0
  hp : Nat := 0
  nhbuf : Nat := 0
  imax : Nat := 0
deriving DecidableEq, Repr

/-- A chain (R270). `staged` waits for CFG_COMMIT, `pending` for a slot tick, `reported` once a DEFERRED record is written (R307, R308). -/
structure RxChain where
  isSet : Bool := false
  ctx : Nat := 0
  flow : Nat := 0
  tmpl : Nat := 0
  rring : Nat := 0
  cfg : ChainCfg := {}
  staged : Option ChainCfg := none
  pending : Option ChainCfg := none
  reported : Bool := false
  counts : Tab Word := []
deriving DecidableEq, Repr

/-- A survey table entry (R298). -/
structure Entry where
  tmpl : Nat
  chain : Nat
  chv : Bool
  aslot : Nat
  dig : Bool
  dline : Nat
  dring : Nat
  cring : Nat
  ctx : Nat
deriving DecidableEq, Repr

/-- A survey table (R298). -/
structure Survey where
  scs : Nat
  hp : Nat
  entries : List Entry
deriving DecidableEq, Repr

/-- A job in flight (R292 to R302): its chambers by rank (logical, physical), its tick and deadline, the chambers that have ended, an exception that
ended a part, and the rows its runs stored, each with its place: rank × 2^20 + pocket offset (R304). `strayed` marks a job of a context that a use
with an undefined result has reached (R428): the model's own. -/
structure Job where
  tag : Word
  aslot : Nat
  idx : Nat
  e : Entry
  chms : List (Nat × Nat)
  tick : Nat
  deadline : Nat
  ended : List Nat
  finished : Bool
  exc : Option (Nat × Word)
  stores : List (Nat × List Byte × TileFlags)
  cparm : Nat
  strayed : Bool := false
deriving DecidableEq, Repr

/-- The unit table's entry (R416). by: 0 boot, 1 fault, 2 host, 3 management. `pend` is a change that acts at the next slot tick,
`rival`: it replaced one that the other of host and management had asked for. -/
structure UnitSt where
  state : Nat := 0
  rival : Bool := false
  by_ : Nat := 0
  code : Word := 0
  pend : Option (Bool × Nat) := none
deriving DecidableEq, Repr

/-- A fence whose parts may still time out (R301): its job's tag, its time, the physical chambers it reached. -/
structure Cleaning where
  tag : Word
  at_ : Nat
  chms : List Nat
deriving DecidableEq, Repr

/-- Scheduling state (R293, R300, R306, R310). `refreeze`: the map changed while placement is frozen, which is frozen anew at the next
hyperperiod. `frozen` holds by entry the number of the placement of its layers and its chambers. -/
structure Sched where
  aslot : Nat := 0
  started : Bool := false
  committed : Option Survey := none
  staged : Option Survey := none
  armed : Bool := false
  jobs : List Job := []
  late : Word := 0
  notPlaced : Word := 0
  forced : Word := 0
  dlbFrozen : Bool := false
  dlbPend : Option Bool := none
  refreeze : Bool := false
  frozen : List (Nat × Nat × List Nat) := []
  cleaning : List Cleaning := []
deriving DecidableEq, Repr

/-! ### Fronthaul (chapter 08) -/

/-- A physical Ethernet port (R210, R236). -/
structure Port where
  mode : Nat := 0
  fec : Nat := 0
  plim : Nat := 0
  macs : Tab DWord := []
deriving DecidableEq, Repr

/-- A logical port (R236). -/
structure LPort where
  link : Bool := false
  noflow : Word := 0
  fcs : Word := 0
  other : Word := 0
  cplane : Word := 0
  unmatched : Word := 0
deriving DecidableEq, Repr

/-- A flow's configuration (FH_FLOW_SET, R236). eaxc entries are (VLAN, eAxC ID). -/
structure FlowCfg where
  ctx : Nat := 0
  kind : Nat := 0
  ports : BitVec 32 := 0
  scs : Nat := 0
  catB : Bool := false
  w : Nat := 16
  udhdr : Bool := false
  rot : Bool := false
  n : Nat := 16
  nq8 : Bool := false
  fidx : Nat := 0
  nprb : Nat := 0
  eaxc : List (Option Nat × Nat) := []
  mac : Nat := 0
  win : Nat := 0
  lmax : Nat := 0
  cairn : Nat := 0
  depth : Nat := 2
  er : Nat := 0
  tadv : Nat := 0
  tcp : Nat := 0
  evring : Nat := 0
  grring : Nat := 0
  thr : Nat := 0
deriving DecidableEq, Repr

/-- A staged PRB of a symbol: stream, PRB, exponent, mantissas (R220). -/
structure Staged where
  stream : Nat
  prb : Nat
  exp : Nat
  man : List Int
deriving DecidableEq, Repr

/-- A symbol of a flow that is not yet released or sent (R221): when its window opened, when it became complete; `bad` after a datapath
parity error (R411). -/
structure SymSt where
  opened : Option Nat := none
  done : Option Nat := none
  prbs : List Staged := []
  bad : Bool := false
deriving DecidableEq, Repr

/-- A released symbol that waits for the squeeze unit (R222, R227). -/
structure Released where
  flow : Nat
  sym : Nat
  closed : Bool
  tOpen : Nat
  tRel : Nat
  seq : Nat
  bufIx : Nat
  prbs : List Staged
deriving DecidableEq, Repr

/-- A region of a grant record (R229). -/
structure Region where
  kind : Nat
  nprbr : Nat
  sprb : Nat
  ssym : Nat
  nsym : Nat
  fidx : Nat
  beam : Nat
  timeOffset : Nat := 0
  frameStruct : Nat := 0
  cpLength : Nat := 0
  freqOff : Nat := 0
deriving DecidableEq, Repr

/-- The grant of one air slot of a flow (R230), with the chain parameter block as Nerzon read it at T_g; `cpLate` when its frame,
subframe or slot differs from the record's (R239). -/
structure Grant where
  slot : Nat
  late : Bool
  cparm : Nat
  regions : List Region
  block : List Byte := []
  cpLate : Bool := false
deriving DecidableEq, Repr

/-- A flow (R216, R217, R236). state: 0 FREE, 1 STOPPED, 2 ARMED, 3 HALTED; `pendState` acts at the next slot tick.
Symbols are numbered slot × 14 + k with slots counted on the tick grid. `lastRel` is the last release time, `deadSym` the symbol
below which a halt has ended ingest. A key of 128 or more holds an earlier configuration of flow key mod 128 that still serves
symbols. -/
structure Flow where
  state : Nat := 0
  pendState : Option Nat := none
  cfg : FlowCfg := {}
  basin : Nat := 0
  share : Nat := 0
  cause : Nat := 0
  cnt : Tab Word := []
  seqs : Tab Nat := []
  txSeqs : Tab Nat := []
  syms : Tab SymSt := []
  nextRel : Nat := 0
  armSym : Nat := 0
  armPrev : Nat := 0
  endSym : Option Nat := none
  lastRel : Nat := 0
  deadSym : Nat := 0
  relCount : Nat := 0
  energy : Tab (Nat × Nat) := []
  grants : List Grant := []
  evMask : BitVec 8 := 0
  nextSend : Nat := 0
  nextC : Nat := 0
deriving DecidableEq, Repr

/-! ### DEC (chapter 09) -/

/-- An accepted DEC task (R246, R248): submission order, context, job tag, deadline, address and words. -/
structure Task where
  ctx : Nat
  tag : Word
  deadline : Nat
  addr : Nat
  words : List Word
deriving DecidableEq, Repr

/-- A task on a unit: the combined values and scale it decodes (R251), what the combiner met, the transmissions combined, and the
offset table in force at its start (R254). -/
structure RunTask where
  task : Task
  vals : List Int := []
  h : Nat := 0
  poison : Bool := false
  harqReset : Bool := false
  ntx : Nat := 0
  offs : List Byte := []
deriving DecidableEq, Repr

/-- A context's DEC window (R271). -/
structure DecWin where
  valid : Bool := false
  kind : Nat := 0
  addr : Nat := 0
deriving DecidableEq, Repr

/-- The DEC block (R248, R270, R271). Units 0 to 15 are boxwork decoders, 16 to 19 encoders; at 32 + u stands a task whose combiner
overlaps the decoding on pair u (R256). `flush` are HARQ buffers to
clear once the running task ends. -/
structure Dec where
  queue : List Task := []
  run : Tab (Option RunTask) := []
  win : Tab DecWin := []
  tasks : DWord := 0
  iters : DWord := 0
  abandoned : Word := 0
  refused : Word := 0
  flush : List Nat := []
deriving DecidableEq, Repr

/-! ### Echo bank (chapter 10) -/

/-- An NB packet a stream has taken (R272, R281): the position of its first sample, its sink timestamp, its samples. -/
structure NbSeg where
  start : Nat
  ts : Nat
  samples : List (Int × Int)
deriving DecidableEq, Repr

/-- An echo bank input stream (R272, R274, R291). `pos` counts samples and the zero samples of gaps, `since` is the position from which
the channeliser holds input, `segs` are the last 32 packets, the newest first. -/
structure EStream where
  isSet : Bool := false
  flow : Nat := 0
  mlog : Nat := 2
  sfmt : Nat := 0
  fs : Nat := 0
  tlat : Nat := 0
  expect : Option Nat := none
  samples : DWord := 0
  pos : Nat := 0
  since : Nat := 0
  segs : List NbSeg := []
  gaps : Word := 0
  restarts : Word := 0
  discards : Word := 0
deriving DecidableEq, Repr

/-- A channel's settings (R277). -/
structure EchCfg where
  ctx : Nat := 0
  foff : Int := 0
  stream : Nat := 0
  bin : Nat := 0
  rate : Nat := 0
  lev : Bool := false
  bt : Bool := false
  fec : Bool := false
  bitord : Bool := false
  hmod : Nat := 0
  plen : Nat := 64
  swlen : Nat := 16
  swerr : Nat := 0
  ppol : Bool := false
  qmin : Nat := 8
  floor : Nat := 0
  margin : Nat := 6
  sync : Word := 0
  lmode : Nat := 0
  len : Nat := 1
  lofs : Int := 0
  capm : Nat := 0
  rring : Nat := 0
  pa : Nat := 0
  pasz : Nat := 12
deriving DecidableEq, Repr

/-- An echo channel (R280 to R291). state: 0 disabled, 1 search, 2 sync look, 3 in progress. `at_` is the stream position that ends the
preamble of a look or the sync word of a packet, `code` the preamble's power code, `got` the length bytes decoded. -/
structure Ech where
  state : Nat := 0
  cfg : EchCfg := {}
  pend : Option EchCfg := none
  disPend : Bool := false
  noise : Nat := 0
  at_ : Nat := 0
  code : Nat := 0
  got : List Byte := []
  rssi : Nat := 0
  swdiff : Nat := 0
  tsync : DWord := 0
  need : Nat := 0
  off : Nat := 0
  fill : Word := 0
  pseq : BitVec 16 := 0
  cnt : Tab Word := []
deriving DecidableEq, Repr

/-! ### Time (chapter 14) -/

/-- A time domain (R351 to R353, R444). `cnt` counts 2^-32 ns; `slew` is the phase still to be absorbed, in the same
unit; source: 0 none, 1 PTP, 2 HOST, 3 PPS; state: 0 UNSET, 1 ACQUIRING, 2 LOCKED, 3 HOLDOVER. In ns of the time clock, `good` is
since when every phase error lay within ±100 ns, `last` when the source's last phase was measured. -/
structure Domain where
  cnt : Nat := 0
  rate : Int := 0
  slew : Int := 0
  source : Nat := 0
  state : Nat := 0
  err : Int := 0
  ptpdom : Nat := 0
  rport : Nat := 0
  profile : Nat := 0
  tports : BitVec 32 := 0
  swSlew : Nat := 0
  tod : DWord := 0
  todPend : Bool := false
  good : Option Nat := none
  last : Nat := 0
deriving DecidableEq, Repr

/-- A compare (R357, R358, R364). `retPend` is a grant returned while enabled. -/
structure Cmp where
  tgt : DWord := 0
  en : Bool := false
  irq : Bool := false
  csig : Bool := false
  grant : Bool := false
  ctx : Nat := 0
  cairn : Nat := 0
  late : Bool := false
  fired : Bool := false
  retPend : Bool := false
deriving DecidableEq, Repr

/-- A pulse schedule (R360). -/
structure PulseCfg where
  start : Nat := 0
  period : Nat := 0
  width : Nat := 0
  pol : Bool := false
  en : Bool := false
deriving DecidableEq, Repr

/-- A pulse output (R360, R361): its schedule, a setting that waits for the falling edge, the pulse in progress, and the
ordinal of the next pulse. -/
structure Pulse where
  cfg : PulseCfg := {}
  pend : Option PulseCfg := none
  high : Bool := false
  next : Nat := 0
deriving DecidableEq, Repr

/-- The time block (R350 to R364). Times are ns; `free` is device time before a domain is active, in 2^-32 ns; `offset`
is the residual offset in 2^-32 ns; `clk` counts the ns that have passed, whatever becomes of device time. -/
structure Time where
  free : Nat := 0
  clk : Nat := 0
  da : Domain := {}
  db : Domain := {}
  active : Option Dom := none
  offset : Int := 0
  auto : Bool := false
  tick : Option (Nat × Int) := none
  ticking : Bool := false
  nextTick : Nat := 0
  nextSym : Nat := 14
  slot : DWord := 0
  ppsIn : DWord := 0
  cmps : Tab Cmp := []
  pulses : Tab Pulse := []
  synceExt : Bool := false
  syncePort : Nat := 0
  synceHold : Bool := false
  ql : BitVec 8 := 0
deriving DecidableEq, Repr

/-! ### Emaux (chapter 15) -/

/-- An Emaux flit (R366): sequence number, acknowledgement, nak, flits freed by virtual channel, and its slots. -/
structure Flit where
  seq : BitVec 12
  ack : BitVec 12
  nak : Bool
  cred : List Nat
  slots : List Byte
deriving DecidableEq, Repr

/-- An Emaux link (R365 to R371, R380). state: 0 down, 1 training, 2 up on 4 lanes, 3 up on 2 lanes. `retry` are flits sent and not
acknowledged, each with the packet that ends in it and its device; `used` the credits out by virtual channel, `owed` the credits to return,
`rxBuf` the bytes of a packet that continues in the next flit, `wait` packets that wait (virtual channel, device, packet), `ackAt` the time
since which an acknowledgement is due. `found`: a partner has answered since Nerzon started; `offAt`: when the link was powered down or last
tried. -/
structure ELink where
  state : Nat := 0
  failed : BitVec 4 := 0
  peer : Nat := 0
  naks : Word := 0
  retrains : Word := 0
  rxSeq : BitVec 12 := 0
  txSeq : BitVec 12 := 0
  acked : BitVec 12 := 0
  retry : List (Flit × Option (Nat × Packet)) := []
  nakRun : Nat := 0
  used : Tab Nat := []
  owed : Tab Nat := []
  rxBuf : List Byte := []
  wait : List (Nat × Nat × Packet) := []
  ackAt : Nat := 0
  found : Bool := false
  off : Bool := false
  offAt : Nat := 0
deriving DecidableEq, Repr

/-- A remote access in flight (R375): tag, far device, address there, the siphon and descriptor that wait, and when it left. A read holds the global
destination and length of its row piece, all pieces of its transfer tile, and whether the tile has met a data error (R201). -/
structure Remote where
  tag : Word
  dev : Nat
  addr : Nat
  siphon : Option Nat
  desc : Nat
  dest : Option (Nat × Nat)
  tile : List (Nat × Nat)
  bad : Bool
  sent : Nat
deriving DecidableEq, Repr

/-- A tunnel (R377): far pair and device. -/
structure Tunnel where
  pair : Nat
  dev : Nat
deriving DecidableEq, Repr

/-- Emaux (R365 to R380). dims are the sizes of x, y, z; `txTag` and `descs` number remote packets and siphon descriptors. `down` are far links that
are down (device, link), `relay` are replies of far devices not yet posted, `tunIn` the pairs whose request came through a tunnel (R377). `hostHeld`
are writes to host memory relayed for joined devices while Bus Master Enable is 0 (R312, R378). -/
structure Emx where
  links : Tab ELink := []
  joined : Bool := false
  devid : Nat := 0
  isRoot : Bool := true
  root : Nat := 0
  dims : Nat × Nat × Nat := (2, 2, 2)
  members : List Nat := []
  down : List (Nat × Nat) := []
  tunnels : Tab (Option Tunnel) := []
  remote : List Remote := []
  txTag : Nat := 0
  descs : Nat := 0
  relay : List NciReply := []
  tunIn : List Nat := []
  hostHeld : List (Nat × List Byte) := []
deriving DecidableEq, Repr

/-! ### CRP, SEC, PIN, ERR (chapters 16, 17, 18) -/

/-- A domain clock multiplexer (R385). -/
structure ClkSel where
  sel : Bool := false
  busy : Bool := false
deriving DecidableEq, Repr

/-- CRP (R381 to R409). `oscDone` is the end of the oscillator count; `held` the causes that hold a reset; `otpReset` a reset that waits for the end
of an OTP pulse; `resetPend` the level a RESET command requested and when; `wdtAt` when the last kick came; `limSteps` the sixteenths of issue
cycles removed. -/
structure Crp where
  causeLast : BitVec 8 := 1
  causeSeen : BitVec 8 := 1
  blkGal : Bool := false
  blkG : Nat := 0
  blkP : Nat := 0
  blkBusy : Bool := false
  monRef : Bool := false
  monPll : BitVec 8 := 0
  stopRef : Bool := false
  stopPll : BitVec 8 := 0
  pllLost : BitVec 8 := 0
  pllLock : BitVec 8 := 0
  clksel : Tab ClkSel := []
  coEn : Bool := false
  coSrc : Nat := 0
  coDiv : Nat := 0
  vmax : Nat := 0x352
  vmin : Nat := 0x28A
  twarn : Nat := 0x5F
  cap : Nat := 0x140
  limiting : Bool := false
  vlimit : Bool := false
  vcore : BitVec 10 := 0
  power : BitVec 9 := 0
  tj : BitVec 8 := 0
  wdtEn : Bool := false
  wdtPeriod : Nat := 0x3E8
  wdtAt : Nat := 0
  porstLow : Bool := false
  sysLow : Bool := false
  refHold : Bool := false
  tempHold : Bool := false
  oscDone : Bool := false
  otpReset : Option (Nat × Nat) := none
  resetPend : Option (Nat × Nat) := none
  limSteps : Nat := 0
  chmClk : DWord := 0
deriving DecidableEq, Repr

/-- SEC and the OTP (R405 to R407). The boot configuration word: [0] src, [1] srclock, [2] BAR2 enable, [3] encryption
required, [4] decryption allowed, [5] debug disabled (places of the bits: log entry 8). `repair` are the physical chambers that the repair map
retires. -/
structure Sec where
  uid : List Byte := []
  keyHash : Tab (List Byte) := []
  revoked : BitVec 4 := 0
  secver : Nat := 0
  bootcfg : Word := 0
  dbgHash : List Byte := []
  otpOk : Bool := true
  repair : List Nat := []
  scope : BitVec 4 := 0
  nonce : Option Nat := none
  failures : Nat := 0
  kslot : Nat := 0
  imgSecver : Nat := 0
  imgRevoke : BitVec 4 := 0
  pulse : Bool := false
deriving DecidableEq, Repr

/-- A pad (R434 to R438). `oldIn` is the frozen input of a pad on its alternate function. -/
structure Pad where
  func : Bool := false
  pull : Nat := 1
  drive : Nat := 1
  busy : Bool := false
  held : Option Word := none
  level : Bool := false
  frozen : Option Bool := none
deriving DecidableEq, Repr

/-- PIN (R438). -/
structure Pin where
  pads : Tab Pad := []
  out : BitVec 32 := 0
  oe : BitVec 32 := 0
  bootSel : Bool := false
deriving DecidableEq, Repr

/-- A fault log entry (R413). -/
structure FaultEnt where
  sev : Nat
  inj : Bool
  cls : Nat
  unit : Nat
  detail : Word
  addr : Nat
  time : Nat
  count : Word
  seq : Nat
deriving DecidableEq, Repr

/-- ERR and the fault log (R412 to R415), the frozen headlamps, each with the device time at which it froze (R426), and the exceptions
of the Lantern that Nerzon logged, newest first: 5 an address error or 6 a bus error, and the address (R17). -/
structure Err where
  hw : List FaultEnt := []
  prod : Word := 0
  cons : Word := 0
  ovf : Bool := false
  maxsev : Nat := 0
  injClass : Nat := 0
  injUnit : Nat := 0
  cnt : Tab Word := []
  log : List FaultEnt := []
  seq : Nat := 0
  lost : Word := 0
  frozen : List (Nat × Nat) := []
  lexc : List (Nat × Nat) := []
deriving DecidableEq, Repr

/-! ### Outputs -/

/-- What the device sends to the outside. -/
inductive Output where
  | msi (vec : Nat) (addr : DWord) (data : BitVec 16)
  | errCor
  | bar2Data (data : List Byte) (ep : Bool)
  | barData (v : DWord)
  | regData (v : Word)
  | cfgData (v : DWord)
  | unsupported
  | ecpri (flow stream : Nat) (ports : BitVec 32) (mac : Nat) (vlan : Option Nat) (msg : List Byte)
  | flit (link : Nat) (bytes : List Byte)
  | ptp (dom : Dom) (receiver : Bool) (lport : Nat)
  | esmc (lport : Nat) (ql : BitVec 8)
  | rclk (lport : Option Nat)
  | vout (mv : Nat)
  | clkout (en : Bool) (src div : Nat)
  | mctp (unit : Nat) (by_ state : Nat) (code : Word)
  | pulse (p : Nat) (level : Bool) (time : Nat)
  | trace (h : Nat)
deriving DecidableEq, Repr

/-- Latent memory errors (R181): a corrected error, or an uncorrectable one. -/
inductive EccErr where
  | none_ | ce | ue
deriving DecidableEq, Repr

/-- The reasons the model stops with a fault. -/
inductive Fault where
  /-- Raised by CRP_BLK_RST on a block reset of a busy chamber or gallery, the one use with an undefined result whose reach is the
  whole device (R393, R428): the spec gives it no effect, anything may be affected until a system reset. Safe: the model stops. -/
  | blockResetBusy
deriving DecidableEq, Repr

/-- The reasons a command has no meaning. -/
inductive Refusal where
  /-- A command whose meaning is not modelled yet; raised by `exec` alone. Safe: the model stops. -/
  | notModelled (mnemonic : String)
deriving DecidableEq, Repr

/-- The state of the device. Keys: `chms` physical chamber; `siph` chamber siphon phys × 2 + s, gallery siphon
288 + 4 × gallery + k; `pairs` host pair k, chamber pair 32 + phys; `units` unit identifier (R414); `latch` and `stage`
requester × 2^40 + register address. -/
structure State where
  pending : List Instr := []
  free : Nat := 0
  out : List Output := []
  hostMem : Memory := []
  mem : Memory := []
  wflags : Tab WFlags := []
  memErr : Tab EccErr := []
  chms : Tab Chamber := []
  siph : Tab Siphon := []
  cairns : Tab Cairn := []
  lvic : Vic := {}
  rings : Tab Ring := []
  pairs : Tab Pair := []
  nciQ : List Nat := []
  nci : Option NciReply := none
  leq : Leq := {}
  sts : Sts := {}
  pcie : Pcie := {}
  latch : Tab (Option Word) := []
  stage : Tab (Option Word) := []
  ctxs : Tab Ctx := []
  tmpls : Tab Tmpl := []
  chains : Tab RxChain := []
  sched : Sched := {}
  units : Tab UnitSt := []
  gated : BitVec 16 := 0
  ports : Tab Port := []
  lports : Tab LPort := []
  flows : Tab Flow := []
  released : List Released := []
  dec : Dec := {}
  estreams : Tab EStream := []
  echs : Tab Ech := []
  time : Time := {}
  emx : Emx := {}
  crp : Crp := {}
  sec : Sec := {}
  pin : Pin := {}
  err : Err := {}
deriving DecidableEq, Repr

/-- The state after a power-on reset (R390, R10): every register at its Reset value, memory with nothing listed, the
oscillator count not ended; values the spec does not give are those of log entries 2 to 8. -/
def State.reset : State := {}

end Sys2Proof.Machine
end

