-- ==== Sys2Proof/Machine/Flits.lean ====
section
/-!
DEFINITION. Emaux flits as bytes (R366): CRC-32C, the fields of a flit, and the bytes of transaction packets, each behind a header of 16 bytes
(R370). The spec gives the header its size alone; the places of its fields are the model's choice (log entry 34).
-/
namespace Sys2Proof.Machine

/-! ### CRC-32C (R366) -/

/-- Shift one byte into the reflected CRC. -/
def crc32cByte (reg : Nat) (b : Byte) : Nat :=
  (List.range 8).foldl (fun r _ => if r % 2 = 1 then (r / 2) ^^^ 0x82F63B78 else r / 2) (reg ^^^ b.toNat)

/-- CRC-32C of bytes: polynomial 0x1EDC_6F41, reflected, initial value and final XOR 0xFFFF_FFFF. -/
def crc32c (bs : List Byte) : Nat := bs.foldl crc32cByte 0xFFFFFFFF ^^^ 0xFFFFFFFF

/-! ### Flits -/

/-- Bytes filled with zeros to a length. -/
def padTo (n : Nat) (bs : List Byte) : List Byte := bs ++ List.replicate (n - bs.length) 0#8

/-- The 256 bytes of a flit. -/
def flitBytes (f : Flit) : List Byte :=
  let body := leBytes f.seq.toNat 2 ++ leBytes (f.ack.toNat + 2 ^ 15 * b2n f.nak) 2 ++
    leBytes (((List.range 6).map fun v => f.cred.getD v 0 % 16 * 2 ^ (4 * v)).sum) 4 ++ padTo 244 f.slots
  body ++ leBytes (crc32c body) 4

/-- The flit that 256 bytes carry; none where the CRC fails. -/
def flitOf (bs : List Byte) : Option Flit :=
  if decide (bs.length = 256) && decide (crc32c (bs.take 252) = leNat (bs.drop 252)) then
    let w := leNat (bs.take 4)
    let c := leNat ((bs.drop 4).take 4)
    some { seq := BitVec.ofNat 12 w, ack := BitVec.ofNat 12 (w / 2 ^ 16), nak := bitAt w 31,
           cred := (List.range 6).map fun v => c / 2 ^ (4 * v) % 16, slots := (bs.drop 8).take 244 }
  else none

/-! ### Packets -/

/-- The header of a packet: kind, virtual channel, destination and source device, a word, 40 bits, and 24 bits: length in [12:0], context in
[19:13], POISON and MISSING in [21:20], a read's success in [22]. -/
def packetHead (kind vc dst src a b f : Nat) : List Byte := [kind, vc, dst, src].map (BitVec.ofNat 8) ++ leBytes a 4 ++ leBytes b 5 ++ leBytes f 3

/-- A context as a header carries it. -/
def ctxCode : Option (Fin 64) → Nat
  | none => 0
  | some c => 64 + c.val

/-- The last 24 bits of a header. -/
def headBits (len : Nat) (ctx : Option (Fin 64)) (f : WFlags) (ok : Bool) : Nat :=
  len % 2 ^ 13 + 2 ^ 13 * ctxCode ctx + 2 ^ 20 * b2n f.poison + 2 ^ 21 * b2n f.missing + 2 ^ 22 * b2n ok

/-- The bytes of a packet. -/
def packetBytes (vc dst : Nat) (p : Packet) : List Byte :=
  let nf : WFlags := { poison := false, missing := false }
  match p with
  | .write src t c a d f => packetHead 1 vc dst src.val t.toNat a (headBits d.length c f false) ++ d
  | .readReq src t c a n => packetHead 2 vc dst src.val t.toNat a (headBits n c nf false)
  | .readResp t ok d f => packetHead 3 vc dst 0 t.toNat 0 (headBits d.length none f ok) ++ d
  | .ack t => packetHead 4 vc dst 0 t.toNat 0 0
  | .fail t c => packetHead 5 vc dst 0 t.toNat c.toNat 0
  | .join d r x y z ms =>
    packetHead 6 vc dst r.val (d.val + 2 ^ 6 * r.val + 2 ^ 12 * x + 2 ^ 15 * y + 2 ^ 18 * z) 0 (headBits ms.length none nf false) ++ ms.map fun m => BitVec.ofNat 8 m.val
  | .tunnelReq k ws => packetHead 7 vc dst 0 k.val 0 (headBits (4 * ws.length) none nf false) ++ wordBytes ws
  | .tunnelRsp src k c ws => packetHead 8 vc dst src.val k.val c.toNat (headBits (4 * ws.length) none nf false) ++ wordBytes ws
  | .hostWrite a d => packetHead 9 vc dst 0 a (a / 2 ^ 32) (headBits d.length none nf false) ++ d
  | .hostMsi v => packetHead 10 vc dst 0 v.val 0 0
  | .lateError ws => packetHead 11 vc dst 0 0 0 (headBits (4 * ws.length) none nf false) ++ wordBytes ws
  | .epoch src e => packetHead 12 vc dst src.val e.toNat 0 0

/-- Bytes that follow the header of a packet. -/
def payloadLen (hd : List Byte) : Nat :=
  if [1, 3, 6, 7, 8, 9, 11].contains (hd.getD 0 0).toNat then leNat (hd.drop 13) % 2 ^ 13 else 0

/-- A number as one of n. -/
def asFin (n : Nat) (h : 0 < n) (v : Nat) : Fin n := ⟨v % n, Nat.mod_lt _ h⟩

/-- The packet of a header and its payload; none for a kind that there is not. -/
def packetOf (hd d : List Byte) : Option Packet :=
  let src := asFin 64 (by decide) (hd.getD 3 0).toNat
  let a := leNat ((hd.drop 4).take 4)
  let b := leNat ((hd.drop 8).take 5)
  let h := leNat (hd.drop 13)
  let c := fld h 19 13
  let ctx : Option (Fin 64) := if c < 64 then none else some (asFin 64 (by decide) c)
  let f : WFlags := { poison := bitAt h 20, missing := bitAt h 21 }
  let ws := leWords d (d.length / 4)
  match (hd.getD 0 0).toNat with
  | 1 => some (.write src (w32 a) ctx b d f)
  | 2 => some (.readReq src (w32 a) ctx b (h % 2 ^ 13))
  | 3 => some (.readResp (w32 a) (bitAt h 22) d f)
  | 4 => some (.ack (w32 a))
  | 5 => some (.fail (w32 a) (BitVec.ofNat 8 b))
  | 6 => some (.join (asFin 64 (by decide) a) (asFin 64 (by decide) (a / 2 ^ 6)) (fld a 14 12) (fld a 17 15) (fld a 20 18)
      (d.map fun m => asFin 64 (by decide) m.toNat))
  | 7 => some (.tunnelReq (asFin 32 (by decide) a) ws)
  | 8 => some (.tunnelRsp src (asFin 32 (by decide) a) (BitVec.ofNat 16 b) ws)
  | 9 => some (.hostWrite (dword a b) d)
  | 10 => some (.hostMsi (asFin 32 (by decide) a))
  | 11 => some (.lateError ws)
  | 12 => some (.epoch src (w32 a))
  | _ => none

/-- Take whole packets off the bytes received: each with its virtual channel and device, and the bytes of one that continues in the next flit.
A zero byte in a header's place ends what the flit holds (R366). -/
def takePackets : Nat → List Byte → List (Nat × Nat × Packet) × List Byte
  | 0, _ => ([], [])
  | n + 1, bs =>
    if (bs.getD 0 0).toNat = 0 then ([], [])
    else
      let hd := bs.take 16
      let len := payloadLen hd
      if bs.length < 16 + len then ([], bs)
      else
        let got := takePackets n (bs.drop (16 + len))
        match packetOf hd ((bs.drop 16).take len) with
        | some p => (((hd.getD 1 0).toNat % 6, (hd.getD 2 0).toNat % 64, p) :: got.1, got.2)
        | none => got

/-- The slots of the flits that carry a packet, 244 bytes each. -/
def slotsOf : Nat → List Byte → List (List Byte)
  | 0, _ => []
  | n + 1, bs => if bs.isEmpty then [] else bs.take 244 :: slotsOf n (bs.drop 244)

end Sys2Proof.Machine
end

