-- ==== Sys2Proof/Machine/Ops.lean ====
section
/-!
DEFINITION. The named operations the families share: access to the tables, device time, the address map, memory with
its check bits and flags, the error log, interrupt controllers, MSI, the late-error queue, rings, cairns, and taking
an exception.
-/
namespace Sys2Proof.Machine

/-! ### Tables -/

/-- Physical chamber `ph`. -/
def chmOf (s : State) (ph : Nat) : Chamber := Tab.get {} s.chms ph

/-- Write a physical chamber. -/
def setChm (s : State) (ph : Nat) (c : Chamber) : State := { s with chms := Tab.put {} s.chms ph c }

/-- Change a physical chamber. -/
def updChm (s : State) (ph : Nat) (f : Chamber → Chamber) : State := setChm s ph (f (chmOf s ph))

/-- The processor of a chamber. -/
def coreOf (s : State) (ph : Nat) : Core := (chmOf s ph).core

/-- Is an access outside the own pocket outstanding? -/
def accOut (c : Core) : Bool := match c.issue with | some i => i.acc.isSome | none => false

/-- Change the processor of a chamber. -/
def updCore (s : State) (ph : Nat) (f : Core → Core) : State := updChm s ph fun c => { c with core := f c.core }

/-- Change the arrays of a chamber. -/
def updAr (s : State) (ph : Nat) (f : Arrays → Arrays) : State := updChm s ph fun c => { c with ar := f c.ar }

/-- Change the flowstone of a chamber. -/
def updFl (s : State) (ph : Nat) (f : Fls → Fls) : State := updChm s ph fun c => { c with fl := f c.fl }

/-- A siphon by its number (R190): chamber siphon phys × 2 + s, gallery siphon 288 + 4 × gallery + k. -/
def siphOf (s : State) (q : Nat) : Siphon := Tab.get {} s.siph q

/-- Change a siphon. -/
def updSiph (s : State) (q : Nat) (f : Siphon → Siphon) : State := { s with siph := Tab.upd {} s.siph q f }

/-- A cairn. -/
def cairnOf (s : State) (n : Nat) : Cairn := Tab.get {} s.cairns n

/-- Write a cairn. -/
def setCairn (s : State) (n : Nat) (c : Cairn) : State := { s with cairns := Tab.put {} s.cairns n c }

/-- A ring. -/
def ringOf (s : State) (n : Nat) : Ring := Tab.get {} s.rings n

/-- Write a ring. -/
def setRing (s : State) (n : Nat) (r : Ring) : State := { s with rings := Tab.put {} s.rings n r }

/-- A mailbox pair: host pairs 0 to 31, chamber pairs 32 + phys. -/
def pairOf (s : State) (k : Nat) : Pair := Tab.get {} s.pairs k

/-- Change a mailbox pair. -/
def updPair (s : State) (k : Nat) (f : Pair → Pair) : State := { s with pairs := Tab.upd {} s.pairs k f }

/-- A context. -/
def ctxOf (s : State) (k : Nat) : Ctx := Tab.get {} s.ctxs k

/-- Change a context. -/
def updCtx (s : State) (k : Nat) (f : Ctx → Ctx) : State := { s with ctxs := Tab.upd {} s.ctxs k f }

/-- A flow. -/
def flowOf (s : State) (k : Nat) : Flow := Tab.get {} s.flows k

/-- Change a flow. -/
def updFlow (s : State) (k : Nat) (f : Flow → Flow) : State := { s with flows := Tab.upd {} s.flows k f }

/-- A unit's entry in the unit table (R416). -/
def unitOf (s : State) (u : Nat) : UnitSt := Tab.get {} s.units u

/-- Change a unit's entry. -/
def updUnit (s : State) (u : Nat) (f : UnitSt → UnitSt) : State := { s with units := Tab.upd {} s.units u f }

/-- Draw a free value: the next use reads another one (log entry 2). -/
def draw (s : State) : State := { s with free := s.free + 1 }

/-- Record what the device sends to the outside (log entry 5). -/
def emit (s : State) (o : Output) : State := { s with out := o :: s.out }

/-! ### Device time (R350, R351) -/

/-- A time domain. -/
def domOf (t : Time) : Dom → Domain
  | .a => t.da
  | .b => t.db

/-- Change a time domain. -/
def updDom (t : Time) (d : Dom) (f : Domain → Domain) : Time :=
  match d with
  | .a => { t with da := f t.da }
  | .b => { t with db := f t.db }

/-- The other domain. -/
def otherDom : Dom → Dom
  | .a => .b
  | .b => .a

/-- Device time in units of 2^-32 ns: the active domain plus the residual offset, or the free run (R351). -/
def timeFine (t : Time) : Nat :=
  match t.active with
  | none => t.free
  | some d => (Int.ofNat (domOf t d).cnt + t.offset).toNat

/-- Device time in ns, modulo 2^64 (R350). -/
def now (s : State) : Nat := timeFine s.time / 2 ^ 32 % 2 ^ 64

/-- Does a domain receive no clock: its source stopped, or a switch that cannot complete (R384, R385, R387)? -/
def noClock (s : State) (d : Nat) : Bool :=
  let k := Tab.get {} s.crp.clksel d
  if k.busy then s.crp.stopRef || s.crp.stopPll.getLsbD d else if k.sel then s.crp.stopPll.getLsbD d else s.crp.stopRef

/-! ### The address map (R16 to R19) -/

/-- The ranges of the device physical address space. -/
inductive Space where
  | hbm
  | cistern (g : Nat)
  | pocket (c : Nat)
  | basin
  | csr
  | ownCsr
  | unmapped
deriving DecidableEq, Repr

/-- The range that holds an address (R16). -/
def spaceOf (a : Nat) : Space :=
  if a < 0x0C00000000 then .hbm
  else if 0x1000000000 ≤ a ∧ a < 0x1004000000 then .cistern ((a - 0x1000000000) / 0x400000)
  else if 0x1100000000 ≤ a ∧ a < 0x1108000000 then .pocket ((a - 0x1100000000) / 0x100000)
  else if 0x1200000000 ≤ a ∧ a < 0x1201800000 then .basin
  else if 0x1800000000 ≤ a ∧ a < 0x1811000000 then .csr
  else if 0x18FF000000 ≤ a ∧ a < 0x18FF010000 then .ownCsr
  else .unmapped

/-- Is the address in one of the four memories? -/
def isMemory (a : Nat) : Bool :=
  match spaceOf a with
  | .hbm | .cistern _ | .pocket _ | .basin => true
  | _ => false

/-- The end of the mapped memory range that holds an address (R16); the address itself outside memory. -/
def rangeEnd (a : Nat) : Nat :=
  match spaceOf a with
  | .hbm => 0x0C00000000
  | .cistern _ => 0x1004000000
  | .pocket _ => 0x1108000000
  | .basin => 0x1201800000
  | _ => a

/-- Do `len` bytes from `a` lie in one mapped memory range? -/
def mappedRange (a len : Nat) : Bool := isMemory a && decide (a + len ≤ rangeEnd a)

/-- The pocket of logical chamber `c` starts here (R16). -/
def pocketBase (c : Nat) : Nat := 0x1100000000 + 0x100000 * c

/-- The nine physical chambers of a gallery (R3). -/
def galleryChms (g : Nat) : List Nat := (List.range 9).map (g * 9 + ·)

/-- The physical chamber that carries a logical chamber; none when it is offline (R18). -/
def carrier (s : State) (c : Nat) : Option Nat :=
  (galleryChms (c / 8)).find? fun ph => decide ((chmOf s ph).logical = some c) && !(chmOf s ph).isolated

/-- Where a physical chamber's pocket is stored. -/
def pocketKey (ph : Nat) : Nat := 2 ^ 40 + 2 ^ 20 * ph

/-- The storage key of a memory address: the address itself, or the byte of the carrier's pocket; none when the
logical chamber is offline (R18). -/
def storeKey (s : State) (a : Nat) : Option Nat :=
  match spaceOf a with
  | .pocket c => (carrier s c).map fun ph => pocketKey ph + (a - pocketBase c)
  | _ => some a

/-- The key of the code unit that holds a byte: the 8-byte word, or in HBM the first word of the 32-byte block (R181). -/
def eccKey (k : Nat) : Nat := if k < 0x0C00000000 then k / 32 * 4 else k / 8

/-- The pseudo-channel of an HBM address, 0 to 63 (R179). -/
def pseudoChannel (a : Nat) : Nat := fld a 13 8 ^^^ fld a 19 14 ^^^ fld a 25 20

/-- The unit an ECC error names (R414). -/
def memUnit (k : Nat) : Nat :=
  if k < 0x0C00000000 then 0x4000 + pseudoChannel k
  else if k < 0x1100000000 then 0x1000 + (k - 0x1000000000) / 0x400000
  else if k < 2 ^ 40 then 0x8000
  else (k - 2 ^ 40) / 2 ^ 20

/-! ### Routes between devices (R371 to R374) -/

/-- The coordinate of a device in dimension d (R371). -/
def coordOf (dev d : Nat) : Nat := if d = 2 then dev / 16 % 4 else if d = 1 then dev / 4 % 4 else dev % 4

/-- The size of dimension d. -/
def dimOf (e : Emx) (d : Nat) : Nat := if d = 0 then e.dims.1 else if d = 1 then e.dims.2.1 else e.dims.2.2

/-- Is a link of a device down, as far as Nerzon here knows (R374)? -/
def linkDead (e : Emx) (dev l : Nat) : Bool := if dev = e.devid then decide ((Tab.get {} e.links l).state = 0) else e.down.contains (dev, l)

/-- The device on this device's ring in dimension d whose coordinate there is c. -/
def ringDev (e : Emx) (d c : Nat) : Nat := e.devid - coordOf e.devid d * 4 ^ d + c % dimOf e d * 4 ^ d

/-- Are the n links of the ring of dimension d free of failures, from this device in the + or the − direction (R374)? -/
def wayClear (e : Emx) (d : Nat) (plus : Bool) (n : Nat) : Bool :=
  (List.range n).all fun i => !linkDead e (ringDev e d (if plus then coordOf e.devid d + i else coordOf e.devid d + dimOf e d - i)) (2 * d + b2n (!plus))

/-- The link a packet for a device leaves on: dimension order, the shorter direction, a tie to +, in a dimension of size 2 either of
the two (R371), the other way round the ring when a link on that way is down (R373, R374). A link that retrains keeps its packets (R367). -/
def linkFor (e : Emx) (dev : Nat) : Nat :=
  match (List.range 3).find? fun d => decide (coordOf dev d ≠ coordOf e.devid d) with
  | none => 0
  | some d =>
    let n := dimOf e d
    let fwd := (coordOf dev d + n - coordOf e.devid d) % n
    let plus := if n = 2 then Config.emauxSpread dev else decide (2 * fwd ≤ n)
    let way (p : Bool) : Bool := wayClear e d p (if p then fwd else n - fwd)
    2 * d + b2n (if way plus || !way (!plus) then !plus else plus)

/-- A device number as a packet carries it. -/
def dev64 (n : Nat) : Fin 64 := ⟨n % 64, Nat.mod_lt _ (by decide)⟩

/-- Is this device joined to a system whose root is another device (R376)? -/
def underRoot (s : State) : Bool := s.emx.joined && !s.emx.isRoot

/-- A link. -/
def elinkOf (s : State) (l : Nat) : ELink := Tab.get {} s.emx.links l

/-- Change a link. -/
def updLink (s : State) (l : Nat) (f : ELink → ELink) : State := { s with emx := { s.emx with links := Tab.upd {} s.emx.links l f } }

/-- The first virtual channel of a packet's class: posted, request, response (R369). -/
def packetVc : Packet → Nat
  | .readReq _ _ _ _ _ => 2
  | .readResp _ _ _ _ => 4
  | .ack _ => 4
  | .fail _ _ => 4
  | .epoch _ _ => 4
  | _ => 0

/-- Does the hop over a link cross the wrap link of its dimension (R369)? -/
def wraps (e : Emx) (l : Nat) : Bool := decide (dimOf e (l / 2) = 4) && decide (coordOf e.devid (l / 2) = if l % 2 = 0 then 3 else 0)

/-- May n flits of a virtual channel leave: the link up, slots of the retry buffer and credits free (R367, R369)? -/
def mayLeave (x : ELink) (vc n : Nat) : Bool := decide (2 ≤ x.state) && decide (x.retry.length + n ≤ 64) && decide (Tab.get 0 x.used vc + n ≤ 32)

/-- The credits a flit returns: at most 15 of a virtual channel (R366). -/
def creditsOf (x : ELink) : List Nat := (List.range 6).map fun v => min 15 (Tab.get 0 x.owed v)

/-- Send the link's next flit (R366): numbered, kept until it is acknowledged, with the credits owed. `vc` is the virtual channel whose credit it
takes, `done` the packet that ends in it. -/
def sendFlit (s : State) (l : Nat) (vc : Option Nat) (done : Option (Nat × Packet)) (slots : List Byte) : State :=
  let x := elinkOf s l
  let f : Flit := { seq := x.txSeq + 1, ack := x.rxSeq, nak := false, cred := creditsOf x, slots := slots }
  emit (updLink s l fun y => { y with
    txSeq := y.txSeq + 1, retry := y.retry ++ [(f, done)], used := match vc with | some v => Tab.upd 0 y.used v (· + 1) | none => y.used
    owed := (List.range 6).foldl (fun t v => Tab.upd 0 t v (· - f.cred.getD v 0)) y.owed
    ackAt := if y.retry.isEmpty then s.time.clk else y.ackAt }) (.flit l (flitBytes f))

/-- Answer a flit with an acknowledgement or a nak alone: such a flit carries the number of the last numbered one, and nobody answers it (log
entry 34). -/
def answerFlit (s : State) (l : Nat) (nak : Bool) : State :=
  let x := elinkOf s l
  emit s (.flit l (flitBytes { seq := x.txSeq, ack := x.rxSeq, nak := nak, cred := [], slots := [] }))

/-- Flits that a packet fills. -/
def flitsOf (p : Packet) : Nat := ceilDiv (packetBytes 0 0 p).length 244

/-- Send a packet's flits; the last one ends it (R366). -/
def sendParts (s : State) (l vc dev : Nat) (p : Packet) : List (List Byte) → State
  | [] => s
  | [x] => sendFlit s l (some vc) (some (dev, p)) x
  | x :: y :: r => sendParts (sendFlit s l (some vc) none x) l vc dev p (y :: r)

/-- Send a packet in as many flits as it fills. -/
def sendWhole (s : State) (l vc dev : Nat) (p : Packet) : State := sendParts s l vc dev p (slotsOf (flitsOf p) (packetBytes vc dev p))

/-- Send the waiting packets that can leave; those of one virtual channel stay in order. -/
def drainLink (l : Nat) : List (Nat × Nat × Packet) → List (Nat × Nat × Packet) → State → State
  | [], kept, s => updLink s l fun x => { x with wait := kept }
  | w :: ws, kept, s =>
    if mayLeave (elinkOf s l) w.1 (flitsOf w.2.2) && !kept.any (fun k => decide (k.1 = w.1)) then drainLink l ws kept (sendWhole s l w.1 w.2.1 w.2.2)
    else drainLink l ws (kept ++ [w]) s

/-- Send a packet for a device over a link, on a virtual channel; it waits where it cannot leave. -/
def sendOn (s : State) (l vc dev : Nat) (p : Packet) : State := drainLink l ((elinkOf s l).wait ++ [(vc, dev, p)]) [] s

/-- Send a packet of this device to another one. -/
def sendPacket (s : State) (dev : Nat) (p : Packet) : State :=
  let l := linkFor s.emx dev
  sendOn s l (packetVc p + if wraps s.emx l then 1 else 0) dev p

/-- Send a packet to the root. -/
def toRoot (s : State) (p : Packet) : State := sendPacket s s.emx.root p

/-! ### Interrupt controllers and MSI -/

/-- Make a source of a controller pending; an event on a pending source merges (R343). -/
def vicRaise (v : Vic) (n : Nat) : Vic := { v with pend := setBit v.pend n true }

/-- Raise a Lantern source. -/
def raiseLantern (s : State) (n : Nat) : State := { s with lvic := vicRaise s.lvic n }

/-- Raise the Lantern source of a device event (sources 240 to 255). -/
def deviceEvent (s : State) : State := raiseLantern (draw s) (240 + Config.deviceSource s.free % 16)

/-- Raise a source of a chamber. -/
def raiseChm (s : State) (ph n : Nat) : State := updChm s ph fun c => { c with vic := vicRaise c.vic n }

/-- The MSI write of a vector: its number in the low five bits of the message data (R311; the standard's multiple message form). -/
def msiWrite (s : State) (vec : Nat) : Output := .msi vec s.pcie.msiAddr (s.pcie.msiData / 32 * 32 + BitVec.ofNat 16 (vec % 32))

/-- Raise an MSI: sent, or held while Bus Master Enable or MSI Enable is 0 or the vector is masked (R312); a joined device
raises the root's vector (R378). -/
def msi (s : State) (vec : Nat) : State :=
  if underRoot s then toRoot s (.hostMsi ⟨vec % 32, Nat.mod_lt _ (by decide)⟩)
  else if s.pcie.bme && s.pcie.msiEn && !s.pcie.msiMask.getLsbD vec then emit s (msiWrite s vec)
  else { s with pcie := { s.pcie with msiHeld := setBit s.pcie.msiHeld vec true } }

/-! ### The error log (R411 to R416) -/

/-- The headlamp that freezes for a unit: its gallery's, or the device-level one (R426). -/
def lampOf (u : Nat) : Nat := if u / 0x1000 = 0 then u / 9 else if u / 0x1000 = 1 then u % 0x1000 else 16

/-- Is the class merged within one second per unit (R412): corrected errors, PCIE and LIMIT? -/
def mergedClass (cls sev : Nat) : Bool := (decide (sev = 0) && decide (cls = 1 ∨ cls = 3 ∨ cls = 8)) || decide (cls = 0x0D) || decide (cls = 0x10)

/-- Is this the entry a repeat merges into? -/
def mergesInto (cls u t : Nat) (e : FaultEnt) : Bool := decide (e.cls = cls) && decide (e.unit = u) && decide (t < e.time + 1000000000)

/-- Add one occurrence to the first entry that a repeat merges into, saturating (R412, R413). -/
def mergeEnt (cls u t : Nat) : List FaultEnt → List FaultEnt
  | [] => []
  | e :: es => if mergesInto cls u t e then { e with count := if e.count = 0xFFFFFFFF#32 then e.count else e.count + 1 } :: es
               else e :: mergeEnt cls u t es

/-- Entries of a class and unit at or after a time, in both logs. -/
def recentEnts (s : State) (cls u since : Nat) : Nat :=
  ((s.err.hw ++ s.err.log).filter fun e => decide (e.cls = cls) && decide (e.unit = u) && decide (since ≤ e.time)).length

/-- Mark a unit in the unit table after a fault: its state, by = fault, and its last fault code (R416). -/
def markUnit (s : State) (u st cls : Nat) : State := updUnit s u fun e => { e with state := st, by_ := 1, code := BitVec.ofNat 32 (2 ^ 24 * cls + u) }

/-- Log one error of class `cls` (R411 to R415): count it, write or merge an entry, raise Lantern source 192 + cls,
freeze the gallery's headlamp at severity UNIT. A full hardware log loses the entry. -/
def logErr (s : State) (cls sev u : Nat) (detail : Word) (addr : Nat) (inj : Bool) : State :=
  let t := now s
  let er : Err := { s.err with cnt := Tab.upd 0#32 s.err.cnt cls (· + 1) }
  let s := { s with err := er }
  if mergedClass cls sev && (er.hw ++ er.log).any (mergesInto cls u t) then
    (if er.hw.any (mergesInto cls u t) then { s with err := { er with hw := mergeEnt cls u t er.hw } }
     else { s with err := { er with log := mergeEnt cls u t er.log } })
  else if 256 ≤ er.hw.length then { s with err := { er with ovf := true, lost := er.lost + 1 } }
  else
    let e : FaultEnt := { sev := sev, inj := inj, cls := cls, unit := u, detail := detail, addr := addr, time := t, count := 1, seq := er.seq }
    let fz := if sev = 2 && !er.frozen.any (fun f => decide (f.1 = lampOf u)) then (lampOf u, s.time.clk) :: er.frozen else er.frozen
    raiseLantern { s with err := { er with hw := er.hw ++ [e], prod := er.prod + 1, maxsev := max er.maxsev sev, seq := er.seq + 1, frozen := fz } } (192 + cls)

/-- Nerzon moves the oldest hardware entry into the fault log of 4,096 entries and frees its slot (R413). -/
def moveLogEntry (s : State) : State :=
  match s.err.hw with
  | [] => s
  | e :: es =>
    let l := s.err.log ++ [e]
    { s with err := { s.err with hw := es, cons := s.err.cons + 1, log := if 4096 < l.length then l.drop 1 else l } }

/-- One more ECC error of a pocket, counted in its POCKET_ECC field, saturating (R209). -/
def countPocketEcc (s : State) (k : Nat) (ue : Bool) : State :=
  if k < 2 ^ 40 then s
  else updChm s ((k - 2 ^ 40) / 2 ^ 20) fun c =>
    if ue then { c with eccUncorr := min 0xFFFF (c.eccUncorr + 1) } else { c with eccCorr := min 0xFFFF (c.eccCorr + 1) }

/-- A corrected error found at a key: counted and logged (R181, R412). -/
def correctedAt (s : State) (k a : Nat) : State :=
  let hbm := decide (k < 0x0C00000000)
  countPocketEcc (logErr (draw s) (if hbm then 3 else 1) 0 (memUnit k) (Config.syndrome s.free) a false) k false

/-- An uncorrectable error found at a key: logged once, its latent error gone; 16 within 24 hours degrade an HBM
pseudo-channel (R185, R416). -/
def uncorrectableAt (s : State) (k a : Nat) : State :=
  let hbm := decide (k < 0x0C00000000)
  let s1 := countPocketEcc (logErr (draw s) (if hbm then 4 else 2) 1 (memUnit k) (Config.syndrome s.free) a false) k true
  let s2 := { s1 with memErr := Tab.put .none_ s1.memErr (eccKey k) .none_ }
  if hbm && decide (16 ≤ recentEnts s2 4 (memUnit k) (now s2 - 86400000000000)) && decide ((unitOf s2 (memUnit k)).state = 0)
  then markUnit s2 (memUnit k) 1 4 else s2

/-! ### Memory (R181 to R186, R443) -/

/-- A word as read: its 8 bytes, its flags, and whether the read is a data error (R18, R185, R201: an uncorrectable error, or an offline
pocket). -/
structure RdWord where
  data : List Byte
  flags : WFlags
  bad : Bool
deriving DecidableEq, Repr

/-- Clear flags. -/
def noFlags : WFlags := { poison := false, missing := false }

/-- Zero data marked POISON. -/
def zeroWord : RdWord := { data := List.replicate 8 0#8, flags := { poison := true, missing := false }, bad := true }

/-- Both flags ORed. -/
def orFlags (x y : WFlags) : WFlags := { poison := x.poison || y.poison, missing := x.missing || y.missing }

/-- The flags of a word by storage key. -/
def flagsAt (s : State) (k : Nat) : WFlags := Tab.get noFlags s.wflags (k / 8)

/-- Write the flags of a word. -/
def setFlags (s : State) (k : Nat) (f : WFlags) : State := { s with wflags := Tab.put noFlags s.wflags (k / 8) f }

/-- Rewrite the words of a failing code unit with zero data and POISON (R185). -/
def poisonWords (s : State) (k : Nat) : Nat → State
  | 0 => s
  | n + 1 => poisonWords (setFlags { s with mem := Memory.setBytes s.mem k (List.replicate 8 0#8) } k { poison := true, missing := false }) (k + 8) n

/-- Rewrite the failing word, or the failing 32-byte block in HBM (R185). -/
def rewriteUnit (s : State) (k : Nat) : State :=
  if k < 0x0C00000000 then poisonWords s (k / 32 * 32) 4 else poisonWords s (k / 8 * 8) 1

/-- Read the 8-byte word at an 8-byte-aligned memory address (R18, R181, R185). -/
def readWord (s : State) (a : Nat) : RdWord × State :=
  match storeKey s a with
  | none => (zeroWord, s)
  | some k =>
    match Tab.get EccErr.none_ s.memErr (eccKey k) with
    | .ue => (zeroWord, rewriteUnit (uncorrectableAt s k a) k)
    | .ce => ({ data := Memory.bytes s.mem k 8, flags := flagsAt s k, bad := false }, correctedAt s k a)
    | .none_ => ({ data := Memory.bytes s.mem k 8, flags := flagsAt s k, bad := false }, s)

/-- Read n consecutive words: the bytes, the OR of their flags (R184), whether any is a data error. -/
def readWords (s : State) (a : Nat) : Nat → List Byte × WFlags × Bool × State
  | 0 => ([], noFlags, false, s)
  | n + 1 =>
    let got := readWord s a
    let w := got.1
    let s1 := got.2
    let got2 := readWords s1 (a + 8) n
    let bs := got2.1
    let f := got2.2.1
    let bad := got2.2.2.1
    let s2 := got2.2.2.2
    (w.data ++ bs, orFlags w.flags f, w.bad || bad, s2)

/-- Read `len` bytes at any address, by whole words. -/
def readBytes (s : State) (a len : Nat) : List Byte × WFlags × Bool × State :=
  let got := readWords s (a / 8 * 8) (if len = 0 then 0 else (a + len - 1) / 8 - a / 8 + 1)
  let bs := got.1
  let f := got.2.1
  let bad := got.2.2.1
  let s1 := got.2.2.2
  ((bs.drop (a % 8)).take len, f, bad, s1)

/-- The check of a write that covers its code unit only in part (R443), for the word at `w` of a write of
[a, a + len): a latent error is corrected, or its uncovered bytes become zero and its partly covered words POISON. -/
def partialCheck (s : State) (w k a len : Nat) : State :=
  let lo := if k < 0x0C00000000 then w / 32 * 32 else w
  let n := if k < 0x0C00000000 then 32 else 8
  let ek := if k < 0x0C00000000 then k / 32 * 32 else k
  if decide (a ≤ lo) && decide (lo + n ≤ a + len) then { s with memErr := Tab.put .none_ s.memErr (eccKey k) .none_ }
  else match Tab.get EccErr.none_ s.memErr (eccKey k) with
    | .none_ => s
    | .ce => let s1 := correctedAt s k w; { s1 with memErr := Tab.put .none_ s1.memErr (eccKey k) .none_ }
    | .ue =>
      let s1 := uncorrectableAt s k w
      poisonWords s1 ek (n / 8)

/-- Write the bytes that fall in the word at `w` (8-byte aligned) of a write of `data` at `a` with flags `f`. A word
wholly covered takes the writer's flags (R183); a word covered in part keeps its flags. -/
def writeInWord (s : State) (w a : Nat) (data : List Byte) (f : WFlags) : State :=
  match storeKey s w with
  | none => s
  | some k =>
    let s1 := partialCheck s w k a data.length
    let lo := max w a
    let part := (data.drop (lo - a)).take (w + 8 - lo)
    let s2 := { s1 with mem := Memory.setBytes s1.mem (k + (lo - w)) part }
    if decide (a ≤ w) && decide (w + 8 ≤ a + data.length) then setFlags s2 k f else s2

/-- The words of a write, one after the other. -/
def writeFrom (s : State) (w a : Nat) (data : List Byte) (f : WFlags) : Nat → State
  | 0 => s
  | n + 1 => writeFrom (writeInWord s w a data f) (w + 8) a data f n

/-- Write bytes to memory with the writer's flags (R183, R443). -/
def writeMem (s : State) (a : Nat) (data : List Byte) (f : WFlags) : State :=
  if data.isEmpty then s else writeFrom s (a / 8 * 8) a data f ((a + data.length - 1) / 8 - a / 8 + 1)

/-- Zero a range of storage keys, its flags and its latent errors. -/
def zeroKeys (s : State) (k len : Nat) : State :=
  { s with mem := Tab.clearRange s.mem k len, wflags := Tab.clearRange s.wflags (k / 8) (len / 8), memErr := Tab.clearRange s.memErr (k / 8) (len / 8) }

/-- Words of memory as 32-bit words, and whether the read failed. -/
def readMemWords (s : State) (a n : Nat) : List Word × WFlags × State :=
  let got := readBytes s a (4 * n)
  let bs := got.1
  let f := got.2.1
  let s1 := got.2.2.2
  (leWords bs n, f, s1)

/-- What flipped bits of a code unit make of it (R181): in HBM by the aligned bytes they lie in, elsewhere by the bits; one is corrected, more are
detected (three or more: log entry 7). -/
def eccOf (u : Nat) (flips : List Nat) : EccErr :=
  let hit := (if u * 8 < 0x0C00000000 then flips.map (· / 8) else flips).eraseDups
  if hit.isEmpty then .none_ else if hit.length = 1 then .ce else .ue

/-- A memory error strikes a code unit; a second one there is uncorrectable (R181; log entry 7). -/
def strikeUnit (s : State) (e : Nat × List Nat) : State :=
  let n := eccOf e.1 e.2
  let o := Tab.get EccErr.none_ s.memErr e.1
  if n = .none_ then s else { s with memErr := Tab.put .none_ s.memErr e.1 (if o = .none_ then n else .ue) }

/-- The memory errors of one cycle of the time clock. -/
def strikeMemory (s : State) : State := (Config.eccStrikes s.free).foldl strikeUnit (draw s)

/-! ### Context checks (R187 to R189) -/

/-- Do `len` bytes from `a` lie within [base, base + size)? -/
def within (a len base size : Nat) : Bool := decide (base ≤ a) && decide (a + len ≤ base + size)

/-- The first byte of each 16 KiB unit that `len` bytes from `a` touch: every partition but a basin window is made of such units (R187). -/
def unitStarts (a len : Nat) : List Nat := a :: (List.range ((a + len - 1) / 0x4000 - a / 0x4000)).map fun i => (a / 0x4000 + 1 + i) * 0x4000

/-- Does every byte lie in one of the context's HBM ranges (R187)? -/
def inHbm (c : Ctx) (a len : Nat) : Bool := (unitStarts a len).all fun x => c.hbm.any fun r => within x 1 (0x200000 * r.1) (0x200000 * r.2)

/-- Bytes of an element plane (R52, R226). -/
def elemPlane (c : FlowCfg) : Nat := c.nprb * (if c.nq8 then 24 else 12) * c.n

/-- Bytes of an exponent plane: nprb rounded up to 64. -/
def expPlane (c : FlowCfg) : Nat := (c.nprb + 63) / 64 * 64

/-- Bytes of a release or egress buffer: rounded up to 4 KiB (R226). -/
def flowBuf (c : FlowCfg) : Nat := (64 + c.eaxc.length / c.n * (elemPlane c + expPlane c) + 4095) / 4096 * 4096

/-- The basin windows a context may read: the release ring and energy ring of each of its UL flows (R187, R228). -/
def basinWindows (s : State) (ctx : Nat) : List (Nat × Nat) :=
  (s.flows.filter fun f => decide (f.2.cfg.ctx = ctx) && decide (f.2.state ≠ 0) && decide (f.2.cfg.kind = 0)).map fun f =>
    (0x1200000000 + f.2.basin, f.2.cfg.depth * flowBuf f.2.cfg + 1024)

/-- How far the ranges reach without a gap from p, through at most n of them. -/
def reachFrom (rs : List (Nat × Nat)) (p : Nat) : Nat → Nat
  | 0 => p
  | n + 1 => match rs.find? fun r => within p 1 r.1 r.2 with
    | some r => reachFrom rs (r.1 + r.2) n
    | none => p

/-- May a job of a context on logical chamber `own` reach the byte, in a memory other than the basin (R187 to R189)? -/
def unitMay (s : State) (ctx : Nat) (own : Option Nat) (a : Nat) : Bool :=
  let c := ctxOf s ctx
  match spaceOf a with
  | .hbm => c.hbm.any fun r => within a 1 (0x200000 * r.1) (0x200000 * r.2)
  | .cistern g => within a 1 (0x1000000000 + 0x400000 * g + 0x10000 * c.csOff) (0x10000 * c.csUnits)
  | .pocket p =>
    let off := a - pocketBase p
    within off 1 (0x4000 * c.pkOff) (0x4000 * c.pkUnits) ||
    (decide (own = some p) && s.ctxs.all fun x => decide (x.1 = ctx) || !within off 1 (0x4000 * x.2.pkOff) (0x4000 * x.2.pkUnits))
  | _ => false

/-- May a job of context `ctx` on logical chamber `own` reach the bytes, every one of them in its partitions (R189)? -/
def ctxMay (s : State) (ctx : Nat) (own : Option Nat) (a len : Nat) (store : Bool) : Bool :=
  match spaceOf a with
  | .basin => !store && decide (a + len ≤ reachFrom (basinWindows s ctx) a 128)
  | _ => decide (a + len ≤ rangeEnd a) && (unitStarts a len).all (unitMay s ctx own)

/-- Do the bytes lie in the chamber's own pocket? -/
def inOwnPocket (s : State) (ph a len : Nat) : Bool :=
  match (chmOf s ph).logical with
  | some c => within a len (pocketBase c) 0x100000
  | none => false

/-- May the running job of a physical chamber reach the bytes (R189)? -/
def chmMay (s : State) (ph a len : Nat) (store : Bool) : Bool :=
  ctxMay s (coreOf s ph).ctx (chmOf s ph).logical a len store

/-! ### Undefined results of context reach (R428) -/

/-- The physical chambers that run a job of a context. -/
def ctxChms (s : State) (k : Nat) : List Nat :=
  (List.range 144).filter fun ph => (coreOf s ph).active && decide ((coreOf s ph).ctx = k)

/-- Does the reach hold the byte: one of the context's partitions, or the transient region of a chamber of its jobs (R428)? -/
def inReach (s : State) (k a : Nat) : Bool :=
  ctxMay s k none a 1 true || (ctxChms s k).any fun ph => (chmOf s ph).logical.isSome && ctxMay s k (chmOf s ph).logical a 1 true

/-- Write one byte, with its word's flags. -/
def strayByte (s : State) (a : Nat) (v : Byte) (f : WFlags) : State :=
  match storeKey s a with
  | none => s
  | some key => setFlags { s with mem := Memory.setByte s.mem key v } key f

/-- Bytes of a set of addresses take other values: which, and what, is free. -/
def strayBytes (ok : Nat → Bool) (s : State) : State :=
  (Config.strayBytes s.free).foldl (fun t e => if ok e.1 then strayByte t e.1 e.2.1 { poison := e.2.2.1, missing := e.2.2.2 } else t) s

/-- Tile flags from four bits. -/
def flagsOf4 (b : BitVec 4) : TileFlags := { poison := b.getLsbD 0, missing := b.getLsbD 1, accSat := b.getLsbD 2, late := b.getLsbD 3 }

/-- Other flags at a place of a chamber: 0 the active weight slot, 1 the shadow slot, 2 a sump row, 3 a row in flight, 4 a dripline tile,
5 a tile register, 6 a broadcast register, 7 a mask register. -/
def strayPlace (h : Chamber) (kind i : Nat) (f : TileFlags) : Chamber :=
  match kind with
  | 0 => { h with ar := { h.ar with act := { h.ar.act with flags := f } } }
  | 1 => { h with ar := { h.ar with shadow := { h.ar.shadow with flags := f } } }
  | 2 => { h with ar := { h.ar with arr := Tab.upd {} h.ar.arr (i / 512 % 4) fun a => { a with sump := Tab.upd {} a.sump (i % 512) fun r => { r with flags := f } } } }
  | 3 => { h with ar := { h.ar with arr := Tab.upd {} h.ar.arr (i % 4) fun a => { a with fly := a.fly.modify (i / 4) fun r => { r with flags := f } } } }
  | 4 => { h with fl := { h.fl with dl := h.fl.dl.modify i fun t => { t with flags := f } } }
  | 5 => { h with fl := { h.fl with t := Tab.upd {} h.fl.t (i % 8) fun r => { r with flags := f } } }
  | 6 => { h with fl := { h.fl with b := Tab.upd {} h.fl.b (i % 8) fun r => { r with flags := f } } }
  | 7 => { h with fl := { h.fl with m := Tab.upd {} h.fl.m (i % 8) fun r => { r with flags := f } } }
  | _ => h

/-- Tile flags of a context's chambers take other values. -/
def strayFlags (k : Nat) (s : State) : State :=
  (Config.strayFlags s.free).foldl (fun t e => if (ctxChms s k).contains e.1 then updChm t e.1 fun h => strayPlace h e.2.1 e.2.2.1 (flagsOf4 e.2.2.2) else t) s

/-- The jobs of a context in flight are marked: their outcomes, reports and digests are free. -/
def strayJobs (k : Nat) (s : State) : State :=
  { s with sched := { s.sched with jobs := s.sched.jobs.map fun j => if j.e.ctx = k then { j with strayed := true } else j } }

/-- A use with an undefined result whose reach is a context (R428): bytes of its partitions and transient regions, and tile flags,
take free values, and its jobs are marked. -/
def strayContext (k : Nat) (s : State) : State := strayJobs k (strayFlags k (strayBytes (inReach s k) (draw s)))

/-! ### The late-error queue (R332) and BAR errors (R314) -/

/-- Write a late-error record; lost when 2,048 are held. Nerzon copies it to its error log, and on a joined device to the
root (R378). -/
def leqPut (s : State) (cls source : Nat) (tag : Word) (addr : Nat) (detail : Word) : State :=
  let q := s.leq
  if q.prod - q.cons = 2048#32 then { s with leq := { q with lost := min 0xFFFF (q.lost + 1), ovf := true } }
  else
    let t := now s
    let r := [mkWord [(0x50, 24), (cls, 16), (source, 0)], tag, w32 addr, w32hi addr, w32 t, w32hi t, detail, q.prod]
    let s1 := { s with leq := { q with prod := q.prod + 1, recs := Tab.put [] q.recs (q.prod.toNat % 2048) r } }
    let s2 := if q.prod = q.cons then msi s1 0 else s1
    let s3 := logErr s2 0x13 1 0x8002 0 addr false
    if underRoot s3 then toRoot s3 (.lateError r) else s3

/-- An advisory non-fatal error of the endpoint: ERR_COR, Advisory Non-Fatal Error Status, and one PCIE event of its AER (R314, R411). -/
def advisory (s : State) : State := logErr (emit { s with pcie := { s.pcie with advisory := true } } .errCor) 0x0D 0 0x8001 0 0 false

/-- A dropped BAR write (R314): the late-error record names the BAR and the rejected value's low word. -/
def barDropped (s : State) (bar off : Nat) (v : Word) : State := leqPut (advisory s) 4 bar 0 off v

/-! ### Rings (R325 to R327) -/

/-- Units free in a ring (R325). -/
def ringFree (r : Ring) : Nat := 2 ^ r.lsize - (r.p - r.c).toNat

/-- Is a ring in host memory held because Bus Master Enable is 0 (R312)? -/
def ringHeld (s : State) (r : Ring) : Bool := r.inHost && !s.pcie.bme && !underRoot s

/-- Write bytes where a ring lies: host memory, by way of the root on a joined device, or device memory as Nerzon
writes it (R312, R183, R378). -/
def ringStore (s : State) (r : Ring) (a : Nat) (bs : List Byte) : State :=
  if r.inHost && underRoot s then toRoot s (.hostWrite a bs)
  else if r.inHost then { s with hostMem := Memory.setBytes s.hostMem a bs } else writeMem s a bs noFlags

/-- Write a ring's write-back (R326). -/
def ringWriteBack (s : State) (n : Nat) : State :=
  let r := ringOf s n
  ringStore (setRing s n { r with wbDue := false }) r r.wb
    (leBytes (if r.hostWrites then r.c.toNat else r.p.toNat) 4 ++ leBytes r.dropped.toNat 4 ++ leBytes r.count.toNat 8)

/-- A write-back falls due: written, or held while the ring is (R312). -/
def ringNote (s : State) (n : Nat) : State :=
  if ringHeld s (ringOf s n) then setRing s n { ringOf s n with wbDue := true } else ringWriteBack s n

/-- Place one record of eight words and its write-back; a completion record counts and carries the count in word 7
(R331); an armed ring raises its vector and disarms (R328). -/
def ringPlace (s : State) (n : Nat) (ws : List Word) (compl : Bool) : State :=
  let r := ringOf s n
  let cnt := if compl then r.count + 1 else r.count
  let rec8 := if compl then ws.take 7 ++ [w32 cnt.toNat] else ws
  let s1 := ringStore s r (r.base + 32 * (r.p.toNat % 2 ^ r.lsize)) (wordBytes rec8)
  let s2 := setRing s1 n { r with p := r.p + 1, count := cnt, armed := false }
  let s3 := ringWriteBack s2 n
  if r.armed && r.ien then msi s3 r.vector else s3

/-- Can a record be placed now: nothing waits, one unit free, the ring not held? -/
def ringRoom (s : State) (r : Ring) : Bool := r.waiting.isEmpty && decide (1 ≤ ringFree r) && !ringHeld s r

/-- A record of Nerzon: placed, or it waits (R327). A ring that is not set, or that the host writes, takes none. -/
def ringNerzon (s : State) (n : Nat) (ws : List Word) (compl : Bool) : State :=
  let r := ringOf s n
  if !r.isSet || r.hostWrites then s
  else if ringRoom s r then ringPlace s n ws compl
  else setRing s n { r with waiting := r.waiting ++ [(ws, compl)] }

/-- A record whose writer never waits (echo bank, chamber push): placed, or dropped and counted (R327). -/
def ringDropper (s : State) (n : Nat) (ws : List Word) : Bool × State :=
  let r := ringOf s n
  if !r.isSet || r.hostWrites then (false, s)
  else if ringRoom s r then (true, ringPlace s n ws false)
  else (false, ringNote (setRing s n { r with dropped := r.dropped + 1 }) n)

/-! ### Cairns (R333 to R342) -/

/-- A status word: status in [7:0], value in [63:32] (R335). -/
def statusWord (st : Nat) (v : Word) : DWord := BitVec.ofNat 64 (st + 2 ^ 32 * v.toNat)

/-- Give a waiting chamber its status word (R335, R337). `back` is what an abandoned EVENT grant ORs back (R338). -/
def grantTo (s : State) (ph : Nat) (g : DWord) (back : Word) : State :=
  updCore s ph fun c => { c with grant := some g, grantBack := back, waitCairn := none }

/-- Give every chamber of a list its status word. -/
def grantAll (s : State) (g : DWord) (back : Word) : List Nat → State
  | [] => s
  | ph :: r => grantAll (grantTo s ph g back) g back r

/-- A bound cairn's event (R348): pending in every chamber whose binding names the cairn, for the context of the binding,
while its running job's context owns the cairn. -/
def bindEventIn (n ctx : Nat) (c : Chamber) : Chamber :=
  if c.core.active && decide (c.core.ctx = ctx) then
    { c with vic := c.vic.bind.foldl (fun v b => if b.2.valid && decide (b.2.cairn = n) && decide (b.2.ctx = ctx) then vicRaise v b.1 else v) c.vic }
  else c

/-- A bound cairn's event in every chamber. -/
def bindEvent (s : State) (n : Nat) : State :=
  { s with chms := Tab.mapListed {} (fun _ c => bindEventIn n (cairnOf s n).ctx c) s.chms }

/-- Serve the waiters of a SEMAPHORE, first come first served (R336). -/
def semaServe (s : State) (n : Nat) : Nat → State
  | 0 => s
  | k + 1 =>
    let c := cairnOf s n
    match c.waiters with
    | [] => s
    | w :: ws => if c.v = 0 then s else semaServe (grantTo (setCairn s n { c with v := c.v - 1, waiters := ws }) w (statusWord 0 (c.v - 1)) 0) n k

/-- Open a BARRIER (R334, R340). -/
def barrierOpen (s : State) (n : Nat) (late : Bool) : State :=
  let c := cairnOf s n
  let g := c.gen + 1
  let s1 := setCairn s n { c with v := 0, gen := g, waiters := [], timed := false }
  bindEvent (grantAll s1 (statusWord (if late then 2 else 0) (w32 g.toNat)) 0 c.waiters) n

/-- A timed barrier whose count reached target before its release time T opens at T: wherever the cairn is next touched after T it has
opened (R340). -/
def settleTimed (s : State) (n : Nat) : State :=
  let c := cairnOf s n
  if decide (c.typ = 2) && c.timed && !c.faulted && decide (c.t.toNat ≤ now s) && decide (c.target ≤ c.v.toNat) then barrierOpen s n false else s

/-- An EVENT that is not 0 releases every waiter; with autoclear it then clears (R334). The only waiter of a clear EVENT
could give the value back (R338). -/
def eventServe (s : State) (n : Nat) : State :=
  let c := cairnOf s n
  match c.waiters with
  | [] => s
  | ws => if c.v = 0 then s else
    let s1 := setCairn s n { c with v := if c.autoclear then 0 else c.v, waiters := [] }
    grantAll s1 (statusWord 0 c.v) (if c.autoclear && decide (ws.length = 1) then c.v else 0) ws

/-- Signal or add n (R334, R339, R340). An add of 0, or an operation on a faulted or FREE cairn, does nothing. -/
def cairnAdd (s0 : State) (n : Nat) (amt : Word) : State :=
  let s := settleTimed s0 n
  let c := cairnOf s n
  if decide (amt = 0) || c.faulted then s
  else if c.typ = 1 then
    let big := decide (0xFFFFFFFF < c.v.toNat + amt.toNat)
    let s1 := setCairn s n { c with v := if big then 0xFFFFFFFF#32 else c.v + amt, ovf := c.ovf || big }
    let s2 := if c.v = 0 then bindEvent s1 n else s1
    semaServe s2 n c.waiters.length
  else if c.typ = 2 then
    let t := c.v.toNat + amt.toNat
    if decide (c.target ≤ t) && (!c.timed || decide (c.t.toNat ≤ now s)) then
      barrierOpen s n (c.timed && decide (c.t.toNat < now s))
    else if t < 2 ^ 32 then
      let s1 := setCairn s n { c with v := w32 t }
      if c.v = 0 then bindEvent s1 n else s1
    else setCairn (draw s) n { c with v := Config.barrierCount s.free }
  else if c.typ = 3 then
    let s1 := setCairn s n { c with v := c.v ||| amt }
    eventServe (if c.v = 0 then bindEvent s1 n else s1) n
  else s

/-- A chamber's wait reaches the cairn (R334, R339, R342): satisfied at once (a grant), or it joins the waiters. -/
def cairnWait (s0 : State) (n ph ctx : Nat) : State :=
  let s := settleTimed s0 n
  let c := cairnOf s n
  if decide (c.typ = 0) || decide (c.ctx ≠ ctx) then grantTo (draw s) ph (statusWord 3 (Config.cairnValue s.free)) 0
  else if c.faulted then grantTo (draw s) ph (statusWord 1 (Config.cairnValue s.free)) 0
  else if c.typ = 1 then
    (if c.v = 0 then updCore (setCairn s n { c with waiters := c.waiters ++ [ph] }) ph fun k => { k with waitCairn := some n }
     else grantTo (setCairn s n { c with v := c.v - 1 }) ph (statusWord 0 (c.v - 1)) 0)
  else if c.typ = 2 then
    cairnAdd (updCore (setCairn s n { c with waiters := c.waiters ++ [ph] }) ph fun k => { k with waitCairn := some n }) n 1
  else if c.v = 0 then updCore (setCairn s n { c with waiters := c.waiters ++ [ph] }) ph fun k => { k with waitCairn := some n }
  else grantTo (setCairn s n { c with v := if c.autoclear then 0 else c.v }) ph (statusWord 0 c.v) (if c.autoclear then c.v else 0)

/-- A try by a chamber or a device agent (R334, R335): the status code and the new state. -/
def cairnTry (s0 : State) (n ctx : Nat) : Nat × State :=
  let s := settleTimed s0 n
  let c := cairnOf s n
  if decide (c.typ = 0) || decide (c.ctx ≠ ctx) then (3, s)
  else
    let fin (code : Nat) (s' : State) : Nat × State := (code, setCairn s' n { cairnOf s' n with last := code })
    if c.faulted then fin 1 s
    else if c.typ = 1 then
      (if c.v = 0 then fin 4 s else fin 0 (setCairn s n { c with v := c.v - 1 }))
    else if c.typ = 2 then
      (if decide (c.target ≤ c.v.toNat + 1) && (!c.timed || decide (c.t.toNat ≤ now s)) then
        let late := c.timed && decide (c.t.toNat < now s)
        fin (if late then 2 else 0) (barrierOpen s n late)
       else fin 4 s)
    else if c.v = 0 then fin 4 s
    else fin 0 (setCairn s n { c with v := if c.autoclear then 0 else c.v })

/-- Withdraw a chamber's wait or its grant not yet taken (R338). -/
def cairnWithdraw (s0 : State) (ph n : Nat) : State :=
  let s := settleTimed s0 n
  let k := coreOf s ph
  let c := cairnOf s n
  let clear (s : State) : State := updCore s ph fun k => { k with waitCairn := none, grant := none, grantBack := 0 }
  if c.waiters.contains ph then
    clear (setCairn s n { c with waiters := c.waiters.filter (fun w => decide (w ≠ ph)), v := if c.typ = 2 then c.v - 1 else c.v })
  else match k.grant with
    | none => clear s
    | some g =>
      if decide (fld g.toNat 7 0 ≠ 0) || decide (c.ctx ≠ k.ctx) then clear s
      else if c.typ = 1 then cairnAdd (clear s) n 1
      else if c.typ = 3 then cairnAdd (clear s) n k.grantBack
      else clear s

/-- Fault release (R339): every waiter released with FAULT_RELEASED, the cairn faulted, bound sources raised. -/
def cairnFault (s0 : State) (n : Nat) : State :=
  let s := settleTimed s0 n
  let c := cairnOf s n
  let s1 := setCairn (draw s) n { c with waiters := [], faulted := true }
  bindEvent (grantAll s1 (statusWord 1 (Config.cairnValue s.free)) 0 c.waiters) n

/-- A reset of a chamber that carries logical chamber `lc` faults every cairn it owns (R339). -/
def cairnsFaultOwner (s : State) (lc : Nat) : State :=
  (s.cairns.filter fun e => e.2.own && decide (e.2.owner = lc) && decide (e.2.typ ≠ 0)).foldl (fun st e => cairnFault st e.1) s

/-! ### Taking an exception and returning (R109 to R116) -/

/-- CHM_EXC_CAUSE as a word (R123). -/
def causeWord (c : Core) : Word := mkWord [(b2n c.dbl, 16), (c.epos.toNat, 8), (c.cause.toNat, 0)]

/-- Take a synchronous exception (R109): epc, ecause and eaddr are written, xbank set, issue goes on at CHM_EXC_BASE +
256 × cause. With xbank already set it is a double fault: issue stops, dbl is set, the Lantern is told (R112), and cause, pos, epc and
eaddr stay those of the first exception (log entry 44). The bundle at issue is gone either way. -/
def takeExc (s : State) (ph cause pos eaddr : Nat) : State :=
  let c := coreOf s ph
  let c0 := { c with issue := none, stall := 0 }
  if c.xbank then
    let c1 := { c0 with dbl := true }
    logErr (updCore s ph fun _ => c1) 5 2 ph (causeWord c1) 0 false
  else updCore s ph fun _ =>
    { c0 with epc := c.pc, cause := BitVec.ofNat 8 cause, epos := BitVec.ofNat 3 pos, eaddr := BitVec.ofNat 40 eaddr,
              xbank := true, pc := c.excBase + BitVec.ofNat 40 (256 * cause) }

/-- A pc value: bundles start at 32-byte boundaries (R99), so the low 5 bits of a return address are dropped (log entry 44). -/
def alignPc (a : BitVec 40) : BitVec 40 := a &&& ~~~31#40

/-- Return from an exception to `t`, epc as read at issue (R94, R109): xbank clears, issue goes on there. -/
def exitExc (c : Core) (t : BitVec 40) : Core := { c with xbank := false, pc := alignPc t }

/-- Interrupt entry (R114): ipc takes the address of the first bundle not issued, ie clears, ibank is set, issue goes on
at the vector. -/
def enterIrq (c : Core) (vec : BitVec 40) : Core :=
  { c with ipc := c.pc, ie := false, ibank := true, pc := vec, issue := none, stall := 0, entering := none }

/-- Return from an interrupt to `t`, ipc as read at issue (R94, R116): issue goes on there, ie is set, ibank clears. -/
def exitIrq (c : Core) (t : BitVec 40) : Core := { c with pc := alignPc t, ie := true, ibank := false }

end Sys2Proof.Machine
end

