-- ==== Sys2Proof/Machine/Clock.lean ====
section
/-!
DEFINITION. What one 250 MHz time clock cycle does when no command waits (R350, R353, R354; log entry 1).
-/
namespace Sys2Proof.Machine

/-- One time clock cycle in units of 2^-32 ns: 4 ns (R350). -/
def cycleFine : Nat := 4 * 2 ^ 32

/-- A rate correction in ppt over one time clock cycle, in units of 2^-32 ns (R350, R353). -/
def rateFine (rate : Int) : Int := rate * Int.ofNat cycleFine / 1000000000000

/-- The most a phase slew may move in one cycle: 10 ppm (R353). -/
def slewMax : Int := Int.ofNat cycleFine / 100000

/-- One cycle of a domain counter (R350, R353). An UNSET domain counts too; its value means nothing until it is set. -/
def tickDomain (d : Domain) : Domain :=
  let m := clamp d.slew (-slewMax) slewMax
  { d with cnt := (Int.ofNat d.cnt + Int.ofNat cycleFine + rateFine d.rate + m).toNat, slew := d.slew - m }

/-- The part of the residual offset slewed away in one cycle, at the active domain's slew rate in ppb (R354). -/
def offsetStep (t : Time) : Int :=
  match t.active with
  | none => 0
  | some d => let m := Int.ofNat (cycleFine * (domOf t d).swSlew / 1000000000); clamp t.offset (-m) m

/-- One cycle of the time block. -/
def tickTime (t : Time) : Time :=
  let step := offsetStep t
  { t with free := match t.active with | none => t.free + cycleFine | some _ => t.free,
           da := tickDomain t.da, db := tickDomain t.db, offset := t.offset - step }

/-- The stall cycles of running chambers in one cycle: free amounts (R123). -/
def stallChm (k ph : Nat) (c : Chamber) : Chamber :=
  if c.core.active then { c with core := { c.core with perfStall := c.core.perfStall + BitVec.ofNat 64 (Config.stallCycles (k + ph)) } } else c

/-- One time clock cycle, 4 ns: device time, the chamber clock, the stall counters, where these domains have a clock; memory errors may strike
(R181); Nerzon, while it runs, moves one hardware error entry to its fault log (R413) and may come upon an inconsistency (R323). -/
def idle (s : State) : State :=
  let s0 := strikeMemory s
  let s1 := { s0 with time := { (if noClock s 3 then s.time else tickTime s.time) with clk := s.time.clk + 4 }
                      crp := { s.crp with chmClk := if noClock s 0 then s.crp.chmClk else s.crp.chmClk + BitVec.ofNat 64 (Config.chamberCycles s.free) },
                      chms := Tab.mapListed {} (stallChm s.free) s0.chms }
  let s2 := { s1 with sts := { s1.sts with internal := Config.nerzonInternal s.free } }
  if s.sts.state = 3 ∧ noClock s 2 = false then moveLogEntry s2 else s1

end Sys2Proof.Machine
end

