-- ==== Sys2Proof/Machine/Operands.lean ====
section
/-!
DEFINITION. Bundles and operands (chapter 05): the fields of a bundle, the operation in each position, its operand
forms, register names under rotation and banking, and the rules that make a bundle illegal.
-/
namespace Sys2Proof.Machine

/-! ### Fields of a bundle (R124, R125) -/

/-- The six positions in the order of R111. -/
def allPos : List Pos := [.x0, .x1, .m, .a, .f, .c]

/-- The position code of CHM_EXC_CAUSE.pos (R123). -/
def posCode : Pos → Nat
  | .x0 => 0 | .x1 => 1 | .m => 2 | .a => 3 | .f => 4 | .c => 5

/-- The bits of a position (R124). -/
def posField (b : Bundle) : Pos → Nat
  | .x0 => fld b.toNat 55 16
  | .x1 => fld b.toNat 95 56
  | .m => fld b.toNat 143 96
  | .a => fld b.toNat 191 144
  | .f => fld b.toNat 223 192
  | .c => fld b.toNat 255 224

/-- Is the position present (R125)? -/
def present (b : Bundle) (p : Pos) : Bool := bitAt b.toNat (posCode p)

/-- The opcode of a position field (R130, R133, R137, R140, R142). -/
def opcodeOf (p : Pos) (f : Nat) : Nat :=
  match p with
  | .x0 | .x1 | .m => fld f 9 4
  | .a => fld f 7 4
  | .f | .c => fld f 8 4

/-- The operations a bundle can hold. -/
inductive BOp where
  | nop | add | sub | and_ | or_ | xor_ | shl | shr | sra | constL | constH
  | cmpEq | cmpNe | cmpLt | cmpLe | cmpGt | cmpGe | cmpLtu | cmpGeu | mul | gets | sets
  | ld | st | siphRun | siphPoll | fence
  | aldw | aswp | acfg | stream
  | flRun | flLdt | flStt | flLdb | flStb | flLdm | flStm
  | br | call | jmp | callr | loopBr | loopBrN
  | cnSig | cnAdd | cnWait | cnTry | cnSigr | cnAddr | cnWaitr | cnTryr
  | iret | exret | jobEnd | break_
deriving DecidableEq, Repr

/-- The operations of both X positions (R130). -/
def opX : Nat → Option BOp
  | 0x00 => some .nop | 0x01 => some .add | 0x02 => some .sub | 0x03 => some .and_ | 0x04 => some .or_ | 0x05 => some .xor_
  | 0x06 => some .shl | 0x07 => some .shr | 0x08 => some .sra | 0x09 => some .constL | 0x0A => some .constH
  | 0x10 => some .cmpEq | 0x11 => some .cmpNe | 0x12 => some .cmpLt | 0x13 => some .cmpLe | 0x14 => some .cmpGt
  | 0x15 => some .cmpGe | 0x16 => some .cmpLtu | 0x17 => some .cmpGeu
  | 0x20 => some .mul | 0x30 => some .gets | 0x31 => some .sets
  | _ => none

/-- The operations of the M position (R133). -/
def opM : Nat → Option BOp
  | 0x00 => some .nop | 0x01 => some .ld | 0x02 => some .st | 0x08 => some .siphRun | 0x09 => some .siphPoll
  | 0x10 => some .fence
  | _ => none

/-- The operations of the A position (R137). -/
def opA : Nat → Option BOp
  | 0x0 => some .nop | 0x1 => some .aldw | 0x2 => some .aswp | 0x3 => some .acfg | 0x4 => some .stream
  | _ => none

/-- The operations of the F position (R140). -/
def opF : Nat → Option BOp
  | 0x00 => some .nop | 0x01 => some .flRun | 0x02 => some .flLdt | 0x03 => some .flStt | 0x04 => some .flLdb
  | 0x05 => some .flStb | 0x06 => some .flLdm | 0x07 => some .flStm
  | _ => none

/-- The operations of the C position (R142). -/
def opC : Nat → Option BOp
  | 0x00 => some .nop | 0x01 => some .br | 0x02 => some .call | 0x03 => some .jmp | 0x04 => some .callr
  | 0x05 => some .loopBr | 0x06 => some .loopBrN | 0x08 => some .cnSig | 0x09 => some .cnAdd | 0x0A => some .cnWait
  | 0x0B => some .cnTry | 0x0C => some .cnSigr | 0x0D => some .cnAddr | 0x0E => some .cnWaitr | 0x0F => some .cnTryr
  | 0x18 => some .iret | 0x19 => some .exret | 0x1A => some .jobEnd | 0x1B => some .break_
  | _ => none

/-- The operation a position's opcode names; none when reserved or not carried there (R147 item 3). -/
def opAt (p : Pos) (code : Nat) : Option BOp :=
  match p with
  | .x0 => if code = 0x30 ∨ code = 0x31 then none else opX code
  | .x1 => if code = 0x20 then none else opX code
  | .m => opM code
  | .a => opA code
  | .f => opF code
  | .c => opC code

/-- The operation a present position holds. -/
def opOf (b : Bundle) (p : Pos) : Option BOp := opAt p (opcodeOf p (posField b p))

/-! ### The bits each operation uses (R126, R130 to R142); every other bit is reserved -/

/-- The bits [hi:lo]. -/
def span (hi lo : Nat) : Nat := 2 ^ (hi + 1) - 2 ^ lo

/-- Is the immediate form chosen (X formats)? -/
def immForm (f : Nat) : Bool := bitAt f 10

/-- The bits of a position field that the operation uses. -/
def usedBits (op : BOp) (f : Nat) : Nat :=
  match op with
  | .nop => 0
  | .add | .sub | .and_ | .or_ | .xor_ | .shl | .shr | .sra | .mul => if immForm f then span 39 0 else span 31 0
  | .cmpEq | .cmpNe | .cmpLt | .cmpLe | .cmpGt | .cmpGe | .cmpLtu | .cmpGeu => if immForm f then span 39 0 else span 32 0
  | .constL => span 37 11 + span 9 0
  | .constH => span 37 0
  | .gets => span 21 11 + span 9 0
  | .sets => span 24 18 + span 14 11 + span 9 0
  | .ld | .st => span 43 0
  | .siphRun => span 27 21 + span 10 0
  | .siphPoll => span 20 14 + span 10 0
  | .fence => span 12 0
  | .aldw => span 34 0
  | .aswp => span 7 0
  | .acfg => span 12 0
  | .stream => span 47 0
  | .flRun => span 31 12 + span 8 0
  | .flLdt | .flStt | .flLdb | .flStb | .flLdm | .flStm => span 31 0
  | .br | .loopBr | .loopBrN => span 28 0
  | .call => span 31 0
  | .jmp => span 15 0
  | .callr => span 22 0
  | .cnSig => span 24 0
  | .cnAdd | .cnWait => span 31 0
  | .cnTry => span 28 0
  | .cnSigr => span 15 0
  | .cnAddr | .cnWaitr => span 22 0
  | .cnTryr => span 19 0
  | .iret | .exret | .jobEnd => span 8 0
  | .break_ => span 24 0

/-- Does the field set a bit its operation does not use (R147 item 4)? -/
def reservedSet (op : BOp) (f : Nat) : Bool := decide (f &&& usedBits op f ≠ f)

/-- The register fields of an operation (R147 item 5). -/
def regFields (op : BOp) (f : Nat) : List Nat :=
  match op with
  | .add | .sub | .and_ | .or_ | .xor_ | .shl | .shr | .sra | .mul =>
    if immForm f then [fld f 17 11, fld f 24 18] else [fld f 17 11, fld f 24 18, fld f 31 25]
  | .cmpEq | .cmpNe | .cmpLt | .cmpLe | .cmpGt | .cmpGe | .cmpLtu | .cmpGeu =>
    if immForm f then [fld f 25 19] else [fld f 25 19, fld f 32 26]
  | .constL | .constH | .gets => [fld f 17 11]
  | .sets => [fld f 24 18]
  | .ld | .st => [fld f 27 21, fld f 20 14]
  | .siphRun => [fld f 27 21]
  | .siphPoll => [fld f 20 14]
  | .aldw => [fld f 14 8]
  | .stream => [fld f 47 41, fld f 40 34, fld f 33 27, fld f 26 20]
  | .flRun | .flLdt | .flStt | .flLdb | .flStb | .flLdm | .flStm => [fld f 18 12]
  | .call => [fld f 15 9]
  | .jmp => [fld f 15 9]
  | .callr => [fld f 15 9, fld f 22 16]
  | .cnAdd | .cnWait => [fld f 31 25]
  | .cnSigr | .cnTryr => [fld f 15 9]
  | .cnAddr | .cnWaitr => [fld f 15 9, fld f 22 16]
  | .nop | .fence | .aswp | .acfg | .br | .loopBr | .loopBrN | .cnSig | .cnTry | .iret | .exret | .jobEnd | .break_ => []

/-- Is a register field code reserved (R128)? -/
def badReg (c : Nat) : Bool := decide (0x20 ≤ c) && decide (c < 0x40)

/-- Item 7 of R147. -/
def badForm (op : BOp) (f : Nat) : Bool :=
  match op with
  | .ld => bitAt f 13 && decide (fld f 20 14 = fld f 27 21)
  | .st => bitAt f 12
  | .cmpEq | .cmpNe | .cmpLt | .cmpLe | .cmpGt | .cmpGe | .cmpLtu | .cmpGeu =>
    decide (fld f 14 11 = fld f 18 15) && decide (fld f 14 11 ≠ 0)
  | _ => false

/-- Does the position violate item 2, 3, 4, 5 or 7 of R147? -/
def badPos (b : Bundle) (p : Pos) : Bool :=
  let f := posField b p
  if present b p then
    match opOf b p with
    | none => true
    | some op => reservedSet op f || (regFields op f).any badReg || badForm op f
  else decide (f ≠ 0)

/-- Does the header violate item 1 of R147? -/
def badHeader (b : Bundle) : Bool := decide (fld b.toNat 7 6 ≠ 1) || decide (fld b.toNat 15 8 ≠ 0)

/-- A register, predicate or special register as a name (R148). -/
inductive WName where
  | reg (code : Nat)
  | pred (n : Nat)
  | sreg (n : Nat)
deriving DecidableEq, Repr

/-- A register write, unless it names g0. -/
def regW (code : Nat) : List WName := if code = 0 then [] else [.reg code]

/-- A predicate write, unless it names p0. -/
def predW (n : Nat) : List WName := if n = 0 then [] else [.pred n]

/-- The writes an operation counts for item 6 (R148). -/
def writesOf (op : BOp) (f : Nat) : List WName :=
  match op with
  | .add | .sub | .and_ | .or_ | .xor_ | .shl | .shr | .sra | .mul | .constL | .constH | .gets => regW (fld f 17 11)
  | .cmpEq | .cmpNe | .cmpLt | .cmpLe | .cmpGt | .cmpGe | .cmpLtu | .cmpGeu => predW (fld f 14 11) ++ predW (fld f 18 15)
  | .sets =>
    if fld f 14 11 = 4 then .sreg 4 :: (List.range 15).map (fun k => .pred (k + 1)) else [.sreg (fld f 14 11)]
  | .ld => regW (fld f 20 14) ++ (if bitAt f 13 then regW (fld f 27 21) else [])
  | .st => if bitAt f 13 then regW (fld f 27 21) else []
  | .siphPoll => regW (fld f 20 14)
  | .call | .callr => regW (fld f 15 9)
  | .loopBr => [.sreg 2, .sreg 1] ++ (List.range 8).map (fun k => .pred (k + 8))
  | .loopBrN => [.sreg 2]
  | .cnWait => regW (fld f 31 25)
  | .cnWaitr => regW (fld f 22 16)
  | .cnTry => predW (fld f 28 25)
  | .cnTryr => predW (fld f 19 16)
  | _ => []

/-- The counted writes of a position. -/
def posWrites (b : Bundle) (p : Pos) : List WName :=
  if present b p then (match opOf b p with | some op => writesOf op (posField b p) | none => []) else []

/-- Does any name occur in two of the lists? -/
def anyShared : List (List WName) → Bool
  | [] => false
  | l :: r => l.any (fun n => r.any (fun m => m.contains n)) || anyShared r

/-- Do two operations write the same architected register (item 6)? -/
def writeConflict (b : Bundle) : Bool := anyShared (allPos.map (posWrites b))

/-- The position that CHM_EXC_CAUSE.pos names for an illegal bundle, none when the bundle is legal (R147, R150). -/
def illegalPos (b : Bundle) : Option Nat :=
  match allPos.find? (badPos b) with
  | some p => some (posCode p)
  | none => if badHeader b || writeConflict b then some 7 else none

/-! ### Registers (R100 to R103, R113, R128) -/

/-- Read a general register under the banks in force; g0 reads 0 (R100, R113). -/
def readG (c : Core) (n : Nat) : DWord :=
  if n = 0 then 0
  else if c.xbank && decide (28 ≤ n) then Tab.get 0 c.xb n
  else if c.ibank && decide (24 ≤ n) then Tab.get 0 c.ib n
  else Tab.get 0 c.g n

/-- Write a general register under the banks in force; a write to g0 is discarded. -/
def writeG (c : Core) (n : Nat) (v : DWord) : Core :=
  if n = 0 then c
  else if c.xbank && decide (28 ≤ n) then { c with xb := Tab.put 0 c.xb n v }
  else if c.ibank && decide (24 ≤ n) then { c with ib := Tab.put 0 c.ib n v }
  else { c with g := Tab.put 0 c.g n v }

/-- The physical loop register that ln names (R101). -/
def loopPhys (rrb n : Nat) : Nat := (n + 64 - rrb % 64) % 64

/-- The physical predicate that pn names (R102). -/
def predPhys (rrb n : Nat) : Nat := if n < 8 then n else 8 + (n - 8 + 64 - rrb % 64) % 8

/-- Read the register a field code names (R128). -/
def readReg (c : Core) (code : Nat) : DWord :=
  if code < 0x20 then readG c code else Tab.get 0 c.l (loopPhys c.rrb.toNat (code - 0x40))

/-- Write the register a field code names, under the rotating base given. -/
def writeReg (c : Core) (rrb code : Nat) (v : DWord) : Core :=
  if code < 0x20 then writeG c code v else { c with l := Tab.put 0 c.l (loopPhys rrb (code - 0x40)) v }

/-- Read a predicate; p0 reads 1 (R102). -/
def readPred (c : Core) (n : Nat) : Bool := if n = 0 then true else c.p.getLsbD (predPhys c.rrb.toNat n)

/-- Write a predicate under the rotating base given; a write to p0 is discarded. -/
def writePred (c : Core) (rrb n : Nat) (v : Bool) : Core := if n = 0 then c else { c with p := setBit c.p (predPhys rrb n) v }

/-- Special registers s0 to s12 (R103). -/
def readSpecial (s : State) (ph n : Nat) : DWord :=
  let c := coreOf s ph
  match n with
  | 0 => BitVec.ofNat 64 c.pc.toNat
  | 1 => BitVec.ofNat 64 c.rrb.toNat
  | 2 => c.lc
  | 3 => BitVec.ofNat 64 c.ec.toNat
  | 4 => BitVec.ofNat 64 (c.p ||| 1#16).toNat
  | 5 => BitVec.ofNat 64 (b2n c.ie + 2 * b2n c.ibank + 4 * b2n c.xbank)
  | 6 => BitVec.ofNat 64 c.ipc.toNat
  | 7 => BitVec.ofNat 64 c.epc.toNat
  | 8 => BitVec.ofNat 64 ((causeWord c).toNat % 2 ^ 16)
  | 9 => BitVec.ofNat 64 c.eaddr.toNat
  | 10 => s.crp.chmClk - c.cycBase
  | 11 => BitVec.ofNat 64 c.jobTag.toNat
  | 12 => BitVec.ofNat 64 (c.ctx * 2 ^ 8 + ((chmOf s ph).logical.getD 0))
  | _ => 0

/-- The special registers a SETS may write (R103). -/
def writableSpecial (n : Nat) : Bool := decide (1 ≤ n) && decide (n ≤ 7)

/-- Write a special register: a narrower one keeps the low bits; ist keeps its bank bits (R103). -/
def writeSpecial (c : Core) (n : Nat) (v : DWord) : Core :=
  match n with
  | 1 => { c with rrb := BitVec.ofNat 6 v.toNat }
  | 2 => { c with lc := v }
  | 3 => { c with ec := BitVec.ofNat 8 v.toNat }
  | 4 => { c with p := BitVec.ofNat 16 v.toNat ||| 1#16 }
  | 5 => { c with ie := v.getLsbD 0 }
  | 6 => { c with ipc := BitVec.ofNat 40 v.toNat }
  | 7 => { c with epc := BitVec.ofNat 40 v.toNat }
  | _ => c

/-! ### Operands -/

/-- A signed field as a 64-bit value. -/
def simm (f hi lo : Nat) : DWord := BitVec.ofInt 64 (sgn (fld f hi lo) (hi - lo + 1))

/-- The src operand of format R (R130). -/
def srcR (c : Core) (f : Nat) : DWord := if immForm f then simm f 39 25 else readReg c (fld f 31 25)

/-- The src operand of format P (R130). -/
def srcP (c : Core) (f : Nat) : DWord := if immForm f then simm f 39 26 else readReg c (fld f 32 26)

/-- An address an operation forms, modulo 2^64 (R129). -/
def addr64 (base off : DWord) : Nat := (base + off).toNat

/-- Does an address pass the check of R129? -/
def addrOk (a : Nat) : Bool := decide (a < 2 ^ 40)

/-- The bytes an LD or ST moves (R133). -/
def accSize (f : Nat) : Nat := 2 ^ fld f 11 10

end Sys2Proof.Machine
end

