-- ==== Sys2Proof/Machine/Flags.lean ====
section
/-!
DEFINITION. Flags: the results of compares (R130), tile flags (R31, R168, R182) and word flags (R184).
-/
namespace Sys2Proof.Machine

/-- The compare conditions of R130: EQ, NE, LT, LE, GT, GE signed, LTU and GEU unsigned. -/
def condEq (x y : DWord) : Bool := decide (x = y)
def condNe (x y : DWord) : Bool := decide (x ≠ y)
def condLt (x y : DWord) : Bool := decide (x.toInt < y.toInt)
def condLe (x y : DWord) : Bool := decide (x.toInt ≤ y.toInt)
def condGt (x y : DWord) : Bool := decide (y.toInt < x.toInt)
def condGe (x y : DWord) : Bool := decide (y.toInt ≤ x.toInt)
def condLtu (x y : DWord) : Bool := decide (x.toNat < y.toNat)
def condGeu (x y : DWord) : Bool := decide (y.toNat ≤ x.toNat)

/-- Tile flags ORed (R31, R168). -/
def orTile (x y : TileFlags) : TileFlags :=
  { poison := x.poison || y.poison, missing := x.missing || y.missing, accSat := x.accSat || y.accSat, late := x.late || y.late }

/-- The tile flags a reader takes from word flags (R184). -/
def tileOfWord (f : WFlags) : TileFlags := { poison := f.poison, missing := f.missing }

/-- The word flags a store carries: POISON and MISSING alone (R182, R183). -/
def wordOfTile (f : TileFlags) : WFlags := { poison := f.poison, missing := f.missing }

end Sys2Proof.Machine
end

