-- ==== Sys2Proof/Machine/HostOps.lean ====
section
/-!
DEFINITION. Shared operations of the host attachment (chapter 12): mailbox posts and acknowledgements, rejected writes,
ring pushes; cairn operations of device agents; tasks handed to DEC (R246, R247, R271); compares (R357, R358).
-/
namespace Sys2Proof.Machine

/-! ### Who accesses -/

/-- The number under which a requester's latches and staged words are kept (R20, R21). -/
def reqId : Agent → Nat
  | .chamber ch => ch.val
  | .lantern => 144
  | .host => 145
  | .pciConfig => 146

/-- The outcome of a register write: done, a bus error, or an address error. -/
inductive WrRes where
  | ok (s : State)
  | bus (s : State)
  | addr (s : State)
deriving Repr

/-- The state a register write leaves. -/
def WrRes.st : WrRes → State
  | .ok s => s
  | .bus s => s
  | .addr s => s

/-- An access through a BAR: in D3hot it completes as Unsupported Request (R311). -/
def hostDoor (s : State) (f : State → State) : State := if s.pcie.d3 then emit s .unsupported else f s

/-- An access by an agent: the host's goes through the BAR. -/
def byDoor (who : Agent) (s : State) (f : State → State) : State :=
  match who with
  | .host => hostDoor s f
  | _ => f s

/-! ### Cairn operations of device agents (R334, R342) -/

/-- A signal made for a context: refused when the context does not own the cairn (R145, R333). -/
def cairnSignalFor (s : State) (ctx n : Nat) (amt : Word) : State :=
  if decide ((cairnOf s n).typ ≠ 0) && decide ((cairnOf s n).ctx = ctx) then cairnAdd s n amt else s

/-- A signal of a chain or run: of its context, or of Nerzon, whom no context binds. -/
def cairnSignalOpt (s : State) (ctx : Option Nat) (n : Nat) : State :=
  match ctx with
  | some c => cairnSignalFor s c n 1
  | none => cairnAdd s n 1

/-! ### Power gating (R396) -/

/-- Power up a gallery that is gated. -/
def powerUp (s : State) (g : Nat) : State := { s with gated := setBit s.gated g false }

/-! ### Mailboxes (R317 to R320) -/

/-- The mailbox of a pair. -/
def mboxOf (s : State) (k : Nat) (req : Bool) : Mbox := if req then (pairOf s k).req else (pairOf s k).rsp

/-- Change a mailbox of a pair. -/
def updMbox (s : State) (k : Nat) (req : Bool) (f : Mbox → Mbox) : State :=
  updPair s k fun p => if req then { p with req := f p.req } else { p with rsp := f p.rsp }

/-- Is the requester the client side of the pair: the host for pairs 0 to 31, the pair's own chamber otherwise? -/
def isClient (who : Agent) (k : Nat) : Bool :=
  match who with
  | .host => decide (k < 32)
  | .chamber ch => decide (k = 32 + ch.val)
  | _ => false

/-- Is the requester the sender of the mailbox (R317)? -/
def isSender (who : Agent) (k : Nat) (req : Bool) : Bool :=
  if req then isClient who k else match who with | .lantern => true | _ => false

/-- Is the requester the receiver of the mailbox? -/
def isReceiver (who : Agent) (k : Nat) (req : Bool) : Bool := isSender who k (!req)

/-- The BAR0 offset of a register of a host pair. -/
def barOffset (k off : Nat) : Nat := 0x1000 * k + off

/-- A rejected mailbox write (R319): overrun is set; from the host a late-error record and an advisory error, from a
chamber or the Lantern a bus error. -/
def mbxReject (s : State) (who : Agent) (k : Nat) (req : Bool) (off : Nat) (v : Word) : WrRes :=
  let s1 := updMbox s k req fun m => { m with overrun := true }
  match who with
  | .host => .ok (leqPut (advisory s1) 2 k 0 (barOffset k off) v)
  | _ => .bus s1

/-- The wake event of a post (R318). -/
def mbxWake (s : State) (k : Nat) (req : Bool) : State :=
  if req then raiseLantern s k
  else if k < 32 then msi s (if (pairOf s k).isOpen then (pairOf s k).vector else 0)
  else raiseChm (powerUp s ((k - 32) / 9)) (k - 32) 0

/-- The tunnel a root pair is bound to (R377). -/
def tunnelOf (s : State) (k : Nat) : Option Tunnel := Tab.get none s.emx.tunnels k

/-- A posted request joins Nerzon's order, or goes to the far device its pair is bound to (R322, R377). -/
def routeRequest (s : State) (k : Nat) : State :=
  match tunnelOf s k with
  | some t =>
    sendPacket s t.dev (.tunnelReq ⟨t.pair % 32, Nat.mod_lt _ (by decide)⟩ ((List.range 16).map fun n => Tab.get 0 (pairOf s k).req.w n))
  | none => { s with nciQ := s.nciQ ++ [k] }

/-- A post: the mailbox becomes full, its receiver is woken, a request joins Nerzon's order (R318, R322). -/
def mbxPost (s : State) (k : Nat) (req : Bool) : State :=
  let s1 := mbxWake (updMbox s k req fun m => { m with full := true, posts := m.posts + 1 }) k req
  if req then routeRequest s1 k else s1

/-- An acknowledgement of a full mailbox (R317). -/
def mbxAck (s : State) (k : Nat) (req : Bool) (code : BitVec 16) : State :=
  let s1 := updMbox s k req fun m => { m with full := false, acks := m.acks + 1, code := code }
  if req then { s1 with nciQ := s1.nciQ.filter fun j => decide (j ≠ k) } else s1

/-- A write to a post register under the rules of R319. -/
def mbxWritePost (s : State) (who : Agent) (k : Nat) (req : Bool) (v : Word) : WrRes :=
  if isSender who k req && !(mboxOf s k req).full then .ok (mbxPost s k req)
  else mbxReject s who k req (if req then 0x040 else 0x0C0) v

/-- A write to an acknowledgement register: by the receiver while full it acknowledges, while empty it is ignored. -/
def mbxWriteAck (s : State) (who : Agent) (k : Nat) (req : Bool) (v : Word) : WrRes :=
  if isReceiver who k req then
    .ok (if (mboxOf s k req).full then mbxAck s k req (BitVec.ofNat 16 v.toNat) else s)
  else mbxReject s who k req (if req then 0x048 else 0x0C8) v

/-- A write to a mailbox pair at an offset (R317, R319). -/
def mbxWrite (s : State) (who : Agent) (k off : Nat) (v : Word) : WrRes :=
  let req := decide (off < 0x080)
  let o := if req then off else off - 0x080
  if o < 0x040 then
    (if isSender who k req && !(mboxOf s k req).full then .ok (updMbox s k req fun m => { m with w := Tab.put 0 m.w (o / 4) v })
     else mbxReject s who k req off v)
  else if o = 0x040 then mbxWritePost s who k req v
  else if o = 0x044 then .ok (if v.getLsbD 1 then updMbox s k req fun m => { m with overrun := false } else s)
  else if o = 0x048 then mbxWriteAck s who k req v
  else .addr s

/-- A read of a mailbox pair at an offset. -/
def mbxRead (s : State) (k off : Nat) : Option Word :=
  let m := mboxOf s k (decide (off < 0x080))
  let o := if off < 0x080 then off else off - 0x080
  if o < 0x040 then some (Tab.get 0 m.w (o / 4))
  else if o = 0x040 then some 0
  else if o = 0x044 then some (mkWord [(m.posts.toNat, 16), (b2n m.overrun, 1), (b2n m.full, 0)])
  else if o = 0x048 then some (mkWord [(m.acks.toNat, 16), (m.code.toNat, 0)])
  else none

/-! ### Ring pushes (R329) -/

/-- May a chamber push to the ring: set, device-written, of its job's context? -/
def mayPush (s : State) (ph r : Nat) : Bool :=
  let g := ringOf s r
  g.isSet && !g.hostWrites && decide (g.ctx = (coreOf s ph).ctx)

/-- The eight staging words of a chamber for a ring. -/
def pushWords (c : Chamber) (r : Nat) : List Word := (List.range 8).map fun n => Tab.get 0 c.pushW (r * 8 + n)

/-- Has a use with an undefined result reached the job of a chamber (R428)? -/
def chmStrayed (s : State) (ph : Nat) : Bool :=
  (coreOf s ph).active && s.sched.jobs.any fun j => decide (j.tag = (coreOf s ph).jobTag) && j.strayed

/-- The record a chamber pushes: its staging words; the words are free where a use with an undefined result reached its job (R428). -/
def reportWords (s : State) (ph r : Nat) : List Word :=
  if chmStrayed s ph then (List.range 8).map (Config.strayWord s.free) else pushWords (chmOf s ph) r

/-- The counters of CHAIN_STATUS that a report counts in (R258, R270): OK, CRC_FAIL, BAD_PARAM, CPARM_LATE, harq_reset, poison. -/
def reportCounters (ws : List Word) : List Nat :=
  let kind := fld (wordAt ws 0) 31 24
  let st := fld (wordAt ws 0) 23 16
  if kind = 0x10 then
    (if st ≤ 2 then [st] else []) ++ (if bitAt (wordAt ws 6) 9 then [4] else []) ++ (if bitAt (wordAt ws 6) 8 then [5] else [])
  else if decide (kind = 0x11) && decide (st = 1) then [3] else []

/-- A report placed on the report ring of the chain the chamber's job serves is counted (R270). -/
def countReport (s : State) (ph r : Nat) (ws : List Word) : State :=
  match s.sched.jobs.find? fun j => decide (j.tag = (coreOf s ph).jobTag) with
  | some j =>
    if j.e.chv && decide ((Tab.get {} s.chains j.e.chain).rring = r) then
      { s with chains := Tab.upd {} s.chains j.e.chain fun c => { c with counts := (reportCounters ws).foldl (fun t n => Tab.upd 0 t n (· + 1)) c.counts } }
    else s
  | none => s

/-- A write to RING_PUSH_GO: the record is placed or dropped, and RING_PUSH_STAT says which; a bus error where the ring
is not the chamber's to push to. -/
def ringPush (s : State) (ph r : Nat) : WrRes :=
  if mayPush s ph r then
    let ws := reportWords s ph r
    let got := ringDropper (if chmStrayed s ph then draw s else s) r ws
    let okay := got.1
    let s1 := got.2
    .ok (updChm (if okay then countReport s1 ph r ws else s1) ph fun c => { c with pushLast := Tab.put 0 c.pushLast r (if okay then 1 else 2) })
  else .bus s

/-! ### Tasks for DEC (R246, R247, R264, R271) -/

/-- The 51 lifting sizes of 3GPP TS 38.212: a × 2^j up to 384 (PRESUMED from the standard R237 cites). -/
def liftOk (z : Nat) : Bool :=
  [2, 3, 5, 7, 9, 11, 13, 15].any fun a => (List.range 8).any fun j => decide (z = a * 2 ^ j) && decide (z ≤ 384)

/-- Field [hi:lo] of word n of a task. -/
def tf (ws : List Word) (n hi lo : Nat) : Nat := fld (wordAt ws n) hi lo

/-- The address made of a low word and a high byte field. -/
def taddr (ws : List Word) (lon hin hhi hlo : Nat) : Nat := wordAt ws lon + 2 ^ 32 * tf ws hin hhi hlo

/-- Does a DECODE task break a field rule (R247)? -/
def decodeFieldBad (ws : List Word) : Bool :=
  let zc := tf ws 1 8 0
  let bg2 := decide (tf ws 0 26 26 = 1)
  let qm := tf ws 0 19 16
  let kp := tf ws 3 15 0
  let e := tf ws 2 23 0
  !liftOk zc ||
  decide (kp + tf ws 3 31 16 ≠ (if bg2 then 10 else 22) * zc) ||
  decide ((if bg2 then 50 else 66) * zc < tf ws 4 15 0) ||
  decide (tf ws 4 15 0 ≤ tf ws 4 31 16) ||
  decide (e = 0) || decide (qm = 0) || decide (e % qm ≠ 0) ||
  !([1, 2, 4, 6, 8].contains qm) ||
  decide (tf ws 0 24 20 = 0) || decide (25 < tf ws 0 24 20) ||
  decide (tf ws 1 23 9 ≠ 0) || decide (tf ws 2 31 24 ≠ 0) || decide (tf ws 10 31 19 ≠ 0) ||
  (ws.drop 11).any (fun w => decide (w ≠ 0))

/-- Does an ENCODE task break a field rule (R264)? -/
def encodeFieldBad (ws : List Word) : Bool :=
  !([2, 4, 6, 8, 10].contains (tf ws 0 19 16)) || decide (tf ws 3 31 28 = 0) || decide (8 < tf ws 3 31 28) ||
  decide (tf ws 0 25 20 ≠ 0) || decide (tf ws 3 24 16 ≠ 0) || decide (tf ws 6 31 16 ≠ 0) || decide (wordAt ws 7 ≠ 0)

/-- The memory ranges a task names, each with its alignment: (address, bytes, alignment, written). -/
def taskRanges (ncbs : Nat) (ws : List Word) : List (Nat × Nat × Nat × Bool) :=
  if tf ws 0 31 28 = 1 then
    let lcb := if 1 < ncbs then 24 else 0
    [(taddr ws 5 6 7 0, ceilDiv (tf ws 2 23 0) 2, 16, false),
     (taddr ws 7 6 31 24, 64 + tf ws 4 15 0, 64, true),
     (taddr ws 8 6 23 16, ceilDiv (tf ws 10 18 16 + (tf ws 3 15 0 - lcb)) 8, 1, true),
     (taddr ws 9 6 15 8, 32 + tf ws 10 15 0 + 1, 32, true)]
  else
    [(taddr ws 4 6 7 0, ceilDiv (wordAt ws 1) 8, 1, false), (taddr ws 5 6 15 8, ceilDiv (wordAt ws 2) 8, 1, true)]

/-- Why a task is refused: 0 accepted, else the kind of DEC_FAULT (R271). -/
def taskCheck (s : State) (ph ncbs : Nat) (ws : List Word) : Nat :=
  let rs := taskRanges ncbs ws
  let op := tf ws 0 31 28
  if !(decide (op = 1) || decide (op = 2)) then 1
  else if (if op = 1 then decodeFieldBad ws else encodeFieldBad ws) then 1
  else if rs.any (fun r => decide (r.1 % r.2.2.1 ≠ 0)) then 2
  else if rs.any (fun r => !mappedRange r.1 r.2.1) then 3
  else if rs.any (fun r => !chmMay s ph r.1 r.2.1 r.2.2.2) then 4
  else 0

/-- Tasks of a context in the queue. -/
def queuedOf (s : State) (ctx : Nat) : Nat := (s.dec.queue.filter fun t => decide (t.ctx = ctx)).length

/-- The deadline of the job with a tag; the latest time where no such job is in flight. -/
def deadlineOf (s : State) (tag : Word) : Nat :=
  match s.sched.jobs.find? fun j => decide (j.tag = tag) with
  | some j => j.deadline
  | none => 2 ^ 64

/-- Refuse a task (R247, R271): DEC_FAULT and DEC_FAULT_ADDR record it, the chamber's source 3 is raised. -/
def decRefuse (s : State) (ph ctx kind addr : Nat) : State :=
  raiseChm { s with dec := { s.dec with win := Tab.put {} s.dec.win ctx { valid := true, kind := kind, addr := addr }, refused := s.dec.refused + 1 } } ph 3

/-- The number of codeblocks a decode task's transport block record gives; 0 where there is none to read. -/
def taskBlocks (s : State) (ws : List Word) : Nat × State :=
  let tbr := taddr ws 9 6 15 8
  if decide (tf ws 0 31 28 = 1) && decide (tbr % 32 = 0) && mappedRange tbr 4 then
    let got := readMemWords s tbr 1
    (tf got.1 0 31 16, got.2.2)
  else (0, s)

/-- A task that was read is checked, and queued or refused (R247, R271). -/
def takeTask (s : State) (ph : Nat) (c : Core) (addr ncbs : Nat) (ws : List Word) : State :=
  let kind := taskCheck s ph ncbs ws
  if kind ≠ 0 then decRefuse s ph c.ctx kind addr
  else
    let t : Task := { ctx := c.ctx, tag := c.jobTag, deadline := deadlineOf s c.jobTag, addr := addr, words := ws }
    { s with dec := { s.dec with queue := s.dec.queue ++ [t] } }

/-- The write that submits a task at an address (R271): rejected while 256 tasks of the context are queued; else the task
is read, checked, and queued or refused. -/
def decSubmitAt (s : State) (ph addr : Nat) : WrRes :=
  let c := coreOf s ph
  if 256 ≤ queuedOf s c.ctx then .bus s
  else if !mappedRange addr 32 then .ok (decRefuse s ph c.ctx 3 addr)
  else if !chmMay s ph addr 32 false then .ok (decRefuse s ph c.ctx 4 addr)
  else
    let got := readMemWords s addr 1
    let w0 := got.1
    let s0 := got.2.2
    let n := if tf w0 0 31 28 = 2 then 8 else 16
    if !mappedRange addr (4 * n) then .ok (decRefuse s0 ph c.ctx 3 addr)
    else if !chmMay s0 ph addr (4 * n) false then .ok (decRefuse s0 ph c.ctx 4 addr)
    else
      let got2 := readMemWords s0 addr n
      let ws := got2.1
      let s1 := got2.2.2
      let b := taskBlocks s1 ws
      .ok (takeTask b.2 ph c addr b.1 ws)

/-! ### Compares (R357, R358) -/

/-- A compare. -/
def cmpOf (s : State) (k : Nat) : Cmp := Tab.get {} s.time.cmps k

/-- Write a compare. -/
def setCmp (s : State) (k : Nat) (c : Cmp) : State := { s with time := { s.time with cmps := Tab.put {} s.time.cmps k c } }

/-- The signed 48-bit difference of device time and target (R357). -/
def cmpDiff (s : State) (c : Cmp) : Int := sgn (low (Int.ofNat (now s) - Int.ofNat c.tgt.toNat) 48) 48

/-- Does the target lie more than 2^47 ns away, so that the firing time is undefined (R357, R428)? -/
def cmpFar (s : State) (c : Cmp) : Bool := decide (2 ^ 47 < (Int.ofNat (now s) - Int.ofNat c.tgt.toNat).natAbs)

/-- A return of the grant that waited for en = 0 takes effect (R358). -/
def cmpReturn (c : Cmp) : Cmp := if c.retPend && !c.en then { c with grant := false, ctx := 0, retPend := false } else c

/-- Raise the compare's interrupt: the Lantern's source, or source 4 in every chamber running a job of the context. -/
def cmpIrq (s : State) (k : Nat) (c : Cmp) : State :=
  if c.grant then
    { s with chms := Tab.mapListed {} (fun _ h => if h.core.active && decide (h.core.ctx = c.ctx) then { h with vic := vicRaise h.vic 4 } else h) s.chms }
  else raiseLantern s (224 + k)

/-- A compare fires (R357, R358): en clears, fired is set, its actions are performed. -/
def cmpFire (s : State) (k : Nat) (late : Bool) : State :=
  let c := cmpOf s k
  let s1 := setCmp s k (cmpReturn { c with en := false, fired := true, late := c.late || late })
  let s2 := if c.irq then cmpIrq s1 k c else s1
  if c.csig then (if c.grant then cairnSignalFor s2 c.ctx c.cairn 1 else cairnAdd s2 c.cairn 1) else s2

end Sys2Proof.Machine
end

