-- ==== Sys2Proof/Machine/Csr.lean ====
section
/-!
DEFINITION. CSR space as a chamber reaches it (R19 to R23): its own window (R91, R122, R123, R177, R209, R349), its
context's cairns (R341), push windows (R329), granted compares (R364), its DEC window (R271) and its mailbox pair.
-/
namespace Sys2Proof.Machine

/-! ### Register values of a chamber window -/

/-- Is any STREAM of the array running, queued or held, or a sump addition outstanding (R91 busy)? -/
def arrBusy (ar : Arrays) (a : Nat) : Bool :=
  let x := Tab.get {} ar.arr a
  x.run.isSome || !x.fly.isEmpty || ar.aq.any (fun o => match o with | .stream p => bitAt p.amask a | _ => false)

/-- Does the array hold a STREAM stopped for an interrupt (R91 held)? -/
def arrHeld (ar : Arrays) (a : Nat) : Bool :=
  (match (Tab.get {} ar.arr a).run with | some r => r.held | none => false) ||
  ar.aq.any (fun o => match o with | .stream p => p.held && bitAt p.amask a | _ => false)

/-- One bit per array. -/
def arrBits (f : Nat → Bool) : Nat := b2n (f 0) + 2 * b2n (f 1) + 4 * b2n (f 2) + 8 * b2n (f 3)

/-- CHM_ARR_STAT (R91). -/
def arrStatWord (ar : Arrays) : Word :=
  mkWord [(arrBits (arrHeld ar), 16), (arrBits (arrBusy ar), 12), (ar.poison.toNat, 8), (ar.sat.toNat, 0)]

/-- CHM_ARR_CFG (R91). -/
def arrCfgWord (ar : Arrays) : Word :=
  mkWord [(ar.act.xref, 24), (b2n (ar.aq.contains .aswp), 17), (b2n ar.filling.isSome, 16), (ar.act.wfmt, 8), (b2n ar.asign, 4), (ar.mode, 0)]

/-- The STREAM an array shows: running or held, or held in the queue (R87, R91), with its next row. -/
def shownStream (ar : Arrays) (a : Nat) : Option (StreamOp × Nat) :=
  match (Tab.get {} ar.arr a).run with
  | some r => some (r.op, r.row)
  | none => ar.aq.findSome? fun o => match o with | .stream p => if p.held && bitAt p.amask a then some (p, 0) else none | _ => none

/-- CHM_STREAM_STATa (R91). -/
def streamStatWord (ar : Arrays) (a : Nat) : Word :=
  match shownStream ar a with
  | some (o, row) => mkWord [(o.rows, 16), (row, 0)]
  | none => 0

/-- CHM_STREAM_MODEa (R91). -/
def streamModeWord (ar : Arrays) (a : Nat) : Word :=
  match shownStream ar a with
  | some (o, _) => mkWord [(b2n o.asign, 16), (o.amask, 12), (o.slot, 8), (b2n o.final, 7), (b2n o.first, 6), (o.rskind, 4), (o.mode, 0)]
  | none => 0

/-- CHM_STAT.state (R123). Where several hold, the first of double fault, idle, halted, exception handler, interrupt handler shows (log
entry 44). -/
def chmStateCode (c : Core) : Nat :=
  if c.dbl then 5 else if !c.active then 0 else if c.halted then 4 else if c.xbank then 3 else if c.ibank then 2 else 1

/-- FLS_STAT.state (R177). -/
def flsStateCode (f : Fls) : Nat :=
  if f.faultPend then 4
  else match f.run with
    | some r => if !r.src1 && f.dl.isEmpty && !r.inIter && decide (r.n < r.count) then 2 else 1
    | none => match f.fq with
      | .move _ _ _ :: _ => 3
      | .run _ :: _ => 1
      | [] => 0

/-- Chains a siphon holds, the running one included (R191). -/
def siphQueued (q : Siphon) : Nat := q.queue.length + (if q.chain.isSome then 1 else 0)

/-- Is the siphon's next descriptor held by wfence while earlier ones are incomplete (R192)? -/
def siphWaits (q : Siphon) : Bool :=
  match q.chain with
  | some c => !c.pend.isEmpty && (match c.burst with | (_, d) :: _ => decide (tf d 0 25 25 = 1) | [] => c.ended)
  | none => false

/-- SIPH_STATs: the status word of SIPH.POLL (R136, R209). -/
def siphStatWord (q : Siphon) : DWord :=
  BitVec.ofNat 64 (2 ^ 32 * q.chains.toNat + 2 ^ 16 * q.desc.toNat + q.fkind * 2 ^ 8 + b2n q.fault * 2 ^ 7 +
    siphQueued q * 2 ^ 4 + (if siphQueued q = 0 then 0 else if siphWaits q then 2 else 1))

/-- Word w of a bit vector of sources. -/
def vicWord (v : BitVec 256) (w : Nat) : Word := BitVec.ofNat 32 (v.toNat / 2 ^ (32 * w))

/-- The active sources of a controller as bits. -/
def vicActive (v : Vic) : BitVec 256 := v.stack.foldl (fun b e => setBit b e.1 true) 0

/-- VIC_RUN (R349). -/
def vicRunWord (v : Vic) : Word :=
  match v.stack with
  | [] => mkWord [(0xFF, 0)]
  | (src, g) :: _ => mkWord [(1, 16), (src, 8), (g, 0)]

/-- A source's priority (R349, reset 0xFF). -/
def vicPrio (v : Vic) (n : Nat) : Nat := (Tab.get 0xFF#8 v.prio n).toNat

/-- 32-bit registers of an interrupt controller with nw words of sources (R349). -/
def vicRead (v : Vic) (nw off : Nat) : Option Word :=
  if off % 4 ≠ 0 then none
  else if off = 0 then some (w32 v.bp)
  else if off = 4 then some (vicRunWord v)
  else if off = 8 ∧ nw = 8 then some 0
  else if 0x20 ≤ off ∧ off < 0x20 + 4 * nw then some (vicWord v.pend ((off - 0x20) / 4))
  else if 0x40 ≤ off ∧ off < 0x40 + 4 * nw then some (vicWord v.pend ((off - 0x40) / 4))
  else if 0x60 ≤ off ∧ off < 0x60 + 4 * nw then some (vicWord v.en ((off - 0x60) / 4))
  else if 0x80 ≤ off ∧ off < 0x80 + 4 * nw then some (vicWord (vicActive v) ((off - 0x80) / 4))
  else if 0x100 ≤ off ∧ off < 0x100 + 128 * nw then some (w32 (vicPrio v ((off - 0x100) / 4)))
  else if 0x840 ≤ off ∧ off < 0x900 ∧ nw = 2 then
    let b := Tab.get {} v.bind ((off - 0x800) / 4)
    some (mkWord [(b2n b.valid, 31), (b.ctx, 16), (b.cairn, 0)])
  else none

/-- Replace word w of a bit vector of sources. -/
def setWord (v : BitVec 256) (w : Nat) (x : Word) : BitVec 256 :=
  (v &&& ~~~(BitVec.ofNat 256 (0xFFFFFFFF * 2 ^ (32 * w)))) ||| BitVec.ofNat 256 (x.toNat * 2 ^ (32 * w))

/-- A write to a 32-bit controller register other than VIC_EOI and VIC_BINDk (R349); none where it is not listed. -/
def vicWrite (v : Vic) (nw off : Nat) (x : Word) : Option Vic :=
  if off = 0 then some { v with bp := fld x.toNat 2 0 }
  else if off = 4 then some v
  else if 0x20 ≤ off ∧ off < 0x20 + 4 * nw then
    some { v with pend := v.pend &&& ~~~(BitVec.ofNat 256 (x.toNat * 2 ^ (32 * ((off - 0x20) / 4)))) }
  else if 0x40 ≤ off ∧ off < 0x40 + 4 * nw then
    some { v with pend := v.pend ||| BitVec.ofNat 256 (x.toNat * 2 ^ (32 * ((off - 0x40) / 4))) }
  else if 0x60 ≤ off ∧ off < 0x60 + 4 * nw then some { v with en := setWord v.en ((off - 0x60) / 4) x }
  else if 0x80 ≤ off ∧ off < 0x80 + 4 * nw then some v
  else if 0x100 ≤ off ∧ off < 0x100 + 128 * nw then
    some { v with prio := Tab.put 0xFF#8 v.prio ((off - 0x100) / 4) (BitVec.ofNat 8 x.toNat) }
  else none

/-- A write to VIC_BINDk (R348): a chamber's binding with valid = 1 names a cairn of its own context, or it is a bus error;
valid = 0 ends the binding; a Lantern write takes the cairn's owning context. -/
def vicBind (s : State) (who : Agent) (ph k : Nat) (x : Word) : WrRes :=
  let valid := x.getLsbD 31
  let n := fld x.toNat 15 0
  let put (ctx : Nat) : WrRes := .ok (updChm s ph fun c => { c with vic := { c.vic with bind := Tab.put {} c.vic.bind k { valid := valid, ctx := ctx, cairn := n } } })
  match who with
  | .chamber ch =>
    let own := (coreOf s ch.val).ctx
    if valid && (decide ((cairnOf s n).typ = 0) || decide ((cairnOf s n).ctx ≠ own)) then .bus s else put own
  | _ => put (cairnOf s n).ctx

/-- 32-bit registers of a chamber window (R122). -/
def chmReg32 (s : State) (ph off : Nat) : Option Word :=
  let h := chmOf s ph
  let c := h.core
  if off < 0x800 then match off with
    | 0x000 => some (mkWord [(2, 28), (ph / 9, 24), (ph % 9, 16), (ph, 8), (b2n h.logical.isSome, 7), (h.logical.getD 0, 0)])
    | 0x004 => some (mkWord [(b2n c.icLock, 2), (b2n c.haltReq, 0)])
    | 0x008 => some (mkWord [(b2n c.xbank, 17), (b2n c.ibank, 16), (b2n c.ie, 15), (c.ctx, 8), (c.stall.toNat, 4), (chmStateCode c, 0)])
    | 0x00C => some (causeWord c)
    | 0x010 => some c.jobTag
    | 0x014 => some (mkWord [(c.fenced.toNat, 16), (b2n c.lastFenced, 1), (b2n c.active, 0)])
    | 0x060 => some c.icMiss
    | _ => none
  else if off = 0x800 then some (arrStatWord h.ar)
  else if off = 0x804 then some (arrCfgWord h.ar)
  else if 0x810 ≤ off ∧ off < 0x820 ∧ off % 4 = 0 then some (streamStatWord h.ar ((off - 0x810) / 4))
  else if 0x820 ≤ off ∧ off < 0x830 ∧ off % 4 = 0 then some (streamModeWord h.ar ((off - 0x820) / 4))
  else if 0x1000 ≤ off ∧ off < 0x2000 then vicRead h.vic 2 (off - 0x1000)
  else if off = 0x2000 then
    some (mkWord [(h.fl.dl.length, 24), (arrBits (fun a => h.fl.dl.any fun t => decide (t.arr = a)), 20), (h.fl.fq.length, 8),
      (b2n h.fl.satBit, 4), (flsStateCode h.fl, 0)])
  else if off = 0x2004 then some (mkWord [(b2n h.fl.fValid, 31), (h.fl.fKind, 24), (h.fl.fUop, 14), (h.fl.fElem, 0)])
  else if off = 0x2008 then some (mkWord [(h.fl.done, 16), (h.fl.count, 0)])
  else if off = 0x3008 ∨ off = 0x3048 then
    let q := siphOf s (ph * 2 + (off - 0x3008) / 0x40)
    some (mkWord [(q.faultKind, 24), (q.faultRow, 0)])
  else if off = 0x3080 then
    (if c.active then let x := ctxOf s c.ctx; some (mkWord [(x.pkUnits, 16), (x.pkOff, 0)]) else some 0)
  else if off = 0x3084 then some (mkWord [(h.eccUncorr, 16), (h.eccCorr, 0)])
  else none

/-- 64-bit registers of a chamber window, by the offset of the low word (R122). -/
def chmReg64 (s : State) (ph off : Nat) : Option DWord :=
  let h := chmOf s ph
  let c := h.core
  match off with
  | 0x020 => some (BitVec.ofNat 64 c.lastPc.toNat)
  | 0x028 => some (BitVec.ofNat 64 c.epc.toNat)
  | 0x030 => some (BitVec.ofNat 64 c.eaddr.toNat)
  | 0x038 => some (BitVec.ofNat 64 c.excBase.toNat)
  | 0x040 => some (BitVec.ofNat 64 c.ipc.toNat)
  | 0x048 => some (s.crp.chmClk - c.cycBase)
  | 0x050 => some c.perfIssue
  | 0x058 => some c.perfStall
  | 0x1010 => some (BitVec.ofNat 64 h.vic.vbase)
  | 0x2010 => some (BitVec.ofNat 64 h.fl.faultAddr)
  | 0x2018 => some h.fl.perfBusy
  | 0x2020 => some h.fl.perfTiles
  | 0x3000 => some (siphStatWord (siphOf s (ph * 2)))
  | 0x3040 => some (siphStatWord (siphOf s (ph * 2 + 1)))
  | 0x3010 => some (BitVec.ofNat 64 (siphOf s (ph * 2)).faultAddr)
  | 0x3050 => some (BitVec.ofNat 64 (siphOf s (ph * 2 + 1)).faultAddr)
  | 0x3018 => some (BitVec.ofNat 64 (siphOf s (ph * 2)).chainDesc)
  | 0x3058 => some (BitVec.ofNat 64 (siphOf s (ph * 2 + 1)).chainDesc)
  | _ => none

/-! ### Canonical register addresses -/

/-- Base of a physical chamber's CSR window (R3, R19). -/
def windowBase (ph : Nat) : Nat := 0x1810000000 + 0x100000 * (ph / 9) + 0x10000 * (ph % 9)

/-- The physical chamber whose window holds an address, with the offset (R19). -/
def windowOf (a : Nat) : Option (Nat × Nat) :=
  if 0x1810000000 ≤ a ∧ a < 0x1811000000 then
    let o := (a - 0x1810000000) % 0x100000
    if o < 0x90000 then some ((a - 0x1810000000) / 0x100000 * 9 + o / 0x10000, o % 0x10000) else none
  else none

/-- An alias address names the window of the executing chamber (R18). -/
def unalias (ph a : Nat) : Nat := if 0x18FF000000 ≤ a then windowBase ph + (a - 0x18FF000000) else a

/-- The mailbox pair and offset of an LNT address (R317). -/
def mbxOf (a : Nat) : Option (Nat × Nat) :=
  let o := a - 0x1800000000
  if a < 0x1800000000 then none
  else if o < 0x20000 then some (o / 0x1000, o % 0x1000)
  else if 0x100000 ≤ o ∧ o < 0x100000 + 144 * 0x1000 then some (32 + (o - 0x100000) / 0x1000, o % 0x1000)
  else none

/-- May the chamber access the CSR address (R23, R271, R341, R358)? 0x18_0D00_0000 to 0x18_0FFF_FFFF, which no listed block holds, is denied
(log entry 45). -/
def csrGranted (s : State) (ph a : Nat) : Bool :=
  let ctx := (coreOf s ph).ctx
  if 0x1809000000 ≤ a ∧ a < 0x1809100000 then
    let c := cairnOf s ((a - 0x1809000000) / 16)
    decide (c.typ ≠ 0) && decide (c.ctx = ctx)
  else if 0x180A000000 ≤ a ∧ a < 0x180A100000 then
    let r := ringOf s ((a - 0x180A000000) / 0x40)
    r.isSet && decide (r.ctx = ctx)
  else if 0x1802001000 ≤ a ∧ a < 0x1802001200 then
    let c := cmpOf s ((a - 0x1802001000) / 0x20)
    c.grant && decide (c.ctx = ctx)
  else if 0x1806000000 ≤ a ∧ a < 0x1806040000 then
    decide ((a - 0x1806000000) / 0x1000 = ctx) && s.chains.any (fun e => e.2.isSet && decide (e.2.ctx = ctx))
  else match mbxOf a with
    | some (k, _) => decide (k = 32 + ph)
    | none => match windowOf a with
      | some (p, _) => decide (p = ph)
      | none => false

/-! ### Reads -/

/-- Control word of a compare (R364). -/
def cmpCtlWord (c : Cmp) : Word :=
  mkWord [(b2n c.en, 31), (b2n c.irq, 30), (b2n c.csig, 29), (b2n c.grant, 22), (c.ctx, 16), (c.cairn, 0)]

/-- CN_CFGn and CN_STATn (R341). -/
def cairnCfgWord (c : Cairn) : Word :=
  mkWord [(c.typ, 30), (b2n c.autoclear, 29), (b2n c.timed, 28), (c.ctx, 22), (b2n c.own, 21), (c.owner, 14), (c.target, 0)]
def cairnStatWord (c : Cairn) : Word :=
  mkWord [(b2n c.faulted, 31), (b2n c.ovf, 30), (c.last, 24), (c.gen.toNat, 16), (c.waiters.length, 0)]

/-- Tasks of a context on a unit (R271). -/
def runningOf (s : State) (ctx : Nat) : Nat :=
  (s.dec.run.filter fun e => match e.2 with | some r => decide (r.task.ctx = ctx) | none => false).length

/-- The 32-bit register a chamber reads at a canonical address; none where none is listed. -/
def reg32 (s : State) (ph a : Nat) : Option Word :=
  if 0x1809000000 ≤ a ∧ a < 0x1809100000 then
    let c := cairnOf s ((a - 0x1809000000) / 16)
    match (a - 0x1809000000) % 16 with
    | 0 => some c.v
    | 4 => some (cairnCfgWord c)
    | 8 => some 0
    | 12 => some (cairnStatWord c)
    | _ => none
  else if 0x180A000000 ≤ a ∧ a < 0x180A100000 then
    let o := (a - 0x180A000000) % 0x40
    if o ≤ 0x20 ∧ o % 4 = 0 then some 0
    else if o = 0x24 then some (w32 (Tab.get 0 (chmOf s ph).pushLast ((a - 0x180A000000) / 0x40)))
    else none
  else if 0x1802001000 ≤ a ∧ a < 0x1802001200 then
    let c := cmpOf s ((a - 0x1802001000) / 0x20)
    match (a - 0x1802001000) % 0x20 with
    | 8 => some (cmpCtlWord c)
    | 12 => some (mkWord [(b2n c.late, 1), (b2n c.fired, 0)])
    | _ => none
  else if 0x1806000000 ≤ a ∧ a < 0x1806040000 then
    let ctx := (a - 0x1806000000) / 0x1000
    let w := Tab.get {} s.dec.win ctx
    match (a - 0x1806000000) % 0x1000 with
    | 8 => some (mkWord [(runningOf s ctx, 16), (256 - queuedOf s ctx, 0)])
    | 12 => some (mkWord [(b2n w.valid, 31), (w.kind, 24)])
    | _ => none
  else match mbxOf a with
    | some (k, off) => if off % 4 = 0 then mbxRead s k off else none
    | none => match windowOf a with
      | some (p, off) => chmReg32 s p off
      | none => none

/-- The 64-bit register whose low word is at a canonical address. -/
def reg64 (s : State) (a : Nat) : Option DWord :=
  if 0x1802001000 ≤ a ∧ a < 0x1802001200 then
    (if (a - 0x1802001000) % 0x20 = 0 then some (cmpOf s ((a - 0x1802001000) / 0x20)).tgt else none)
  else if 0x1806000000 ≤ a ∧ a < 0x1806040000 then
    match (a - 0x1806000000) % 0x1000 with
    | 0 => some 0
    | 16 => some (BitVec.ofNat 64 (Tab.get {} s.dec.win ((a - 0x1806000000) / 0x1000)).addr)
    | _ => none
  else match windowOf a with
    | some (p, off) => chmReg64 s p off
    | none => none

/-- The key of a requester's latch or staged word for the register at an address (R20, R21). -/
def latchKey (who a : Nat) : Nat := 2 ^ 40 * who + a

/-- A read consumes what its access code says: RC fields clear (R7, R209). -/
def readClears (s : State) (a : Nat) : State :=
  match windowOf a with
  | some (p, 0x3084) => updChm s p fun c => { c with eccUncorr := 0, eccCorr := 0 }
  | _ => s

/-- A 32-bit read of the register space by a chamber (R20): the low word of a 64-bit register latches the high word of the
same moment; the next high-word read returns and consumes it, or reads the current high word. None: not listed. -/
def csrRead (s : State) (ph a : Nat) : Option (Word × State) :=
  match reg32 s ph a with
  | some v => some (v, readClears s a)
  | none => match reg64 s a with
    | some v => some (w32 v.toNat, { s with latch := Tab.put none s.latch (latchKey ph a) (some (w32hi v.toNat)) })
    | none => if a < 4 then none else match reg64 s (a - 4) with
      | some v => match Tab.get none s.latch (latchKey ph (a - 4)) with
        | some h => some (h, { s with latch := Tab.put none s.latch (latchKey ph (a - 4)) none })
        | none => some (w32hi v.toNat, s)
      | none => none

/-- Is the CSR address unmapped: a GAL offset from 0x9_0000 to 0xE_FFFF, or an offset outside the listed ones of a chamber window (R19, R122)? -/
def csrHole (s : State) (ph a : Nat) : Bool :=
  if 0x1810000000 ≤ a ∧ a < 0x1811000000 then
    match windowOf a with
    | some _ => (csrRead s ph a).isNone
    | none => decide ((a - 0x1810000000) % 0x100000 < 0xF0000)
  else false

/-! ### Writes -/

/-- What a write to a compare's control register puts in force (R357, R358, R364): enabling a past target fires at once
and sets late. A chamber may not change grant or ctx. -/
def cmpCtlWrite (s : State) (who : Agent) (k : Nat) (v : Word) : WrRes :=
  let c := cmpOf s k
  let bad := match who with
    | .chamber _ => decide (fld v.toNat 22 22 ≠ b2n c.grant) || decide (fld v.toNat 21 16 ≠ c.ctx)
    | _ => false
  if bad then .bus s
  else
    let c0 := { c with en := v.getLsbD 31, irq := v.getLsbD 30, csig := v.getLsbD 29, cairn := fld v.toNat 15 0 }
    let c1 := match who with
      | .chamber _ => c0
      | _ => { c0 with grant := v.getLsbD 22, ctx := fld v.toNat 21 16 }
    let s1 := setCmp s k (cmpReturn c1)
    if c1.en && !c.en && decide (0 ≤ cmpDiff s c1) && !cmpFar s c1 then .ok (cmpFire s1 k (decide (0 < cmpDiff s c1))) else .ok s1

/-- A write to CHM_CTL (R123): all its fields are Lantern only; halt_req and step act while debug is unlocked (R407). -/
def chmCtlWrite (s : State) (who : Agent) (ph : Nat) (v : Word) : WrRes :=
  let c := coreOf s ph
  match who with
  | .lantern =>
    let dbg := s.sec.scope.getLsbD 0
    let c1 := { c with icLock := v.getLsbD 2 }
    let c2 := if dbg then { c1 with haltReq := v.getLsbD 0, halted := v.getLsbD 0 && !accOut c } else c1
    let c3 := if dbg && v.getLsbD 1 && c2.halted then { c2 with stepping := true } else c2
    .ok (updCore s ph fun _ => c3)
  | _ => if decide (fld v.toNat 2 2 = b2n c.icLock) && decide (fld v.toNat 1 1 = 0) && decide (fld v.toNat 0 0 = b2n c.haltReq) then .ok s else .bus s

/-- A 32-bit register write in a chamber window by a chamber or the Lantern (R122); .addr where it is not listed. -/
def chmWrite32 (s : State) (who : Agent) (ph off : Nat) (v : Word) : WrRes :=
  if off = 4 then chmCtlWrite s who ph v
  else if off = 0x800 then .ok (updAr s ph fun a => { a with poison := a.poison &&& ~~~(BitVec.ofNat 4 (v.toNat / 256)), sat := a.sat &&& ~~~(BitVec.ofNat 4 v.toNat) })
  else if 0x1840 ≤ off ∧ off < 0x1900 then vicBind s who ph ((off - 0x1800) / 4) v
  else if 0x1000 ≤ off ∧ off < 0x2000 then
    match vicWrite (chmOf s ph).vic 2 (off - 0x1000) v with
    | some x => .ok (updChm s ph fun c => { c with vic := x })
    | none => .addr s
  else if off = 0x2000 then .ok (if v.getLsbD 4 then updFl s ph fun f => { f with satBit := false } else s)
  else if off = 0x2004 then .ok (if v.getLsbD 31 then updFl s ph fun f => { f with fValid := false } else s)
  else if (chmReg32 s ph off).isSome then .ok s
  else .addr s

/-- A 64-bit register write in a chamber window, both words at once (R21, R123). -/
def chmWrite64 (s : State) (who : Agent) (ph off : Nat) (v : DWord) : WrRes :=
  match off with
  | 0x038 =>
    let b := BitVec.ofNat 40 (v.toNat % 2 ^ 40 / 4096 * 4096)
    match who with
    | .lantern => .ok (updCore s ph fun c => { c with excBase := b })
    | _ => if b = (coreOf s ph).excBase then .ok s else .bus s
  | 0x1010 => .ok (updChm s ph fun c => { c with vic := { c.vic with vbase := v.toNat % 2 ^ 40 / 8192 * 8192 } })
  | 0x3000 => .ok (if v.getLsbD 7 then updSiph s (ph * 2) fun q => { q with fault := false } else s)
  | 0x3040 => .ok (if v.getLsbD 7 then updSiph s (ph * 2 + 1) fun q => { q with fault := false } else s)
  | _ => .ok s

/-- An add by a requester (R341, R342): a chamber's add to a cairn its context does not own, or no longer owns, is discarded. -/
def cairnAddBy (s : State) (who : Agent) (n : Nat) (v : Word) : State :=
  match who with
  | .chamber ch => cairnSignalFor s (coreOf s ch.val).ctx n v
  | .lantern | .host | .pciConfig => cairnAdd s n v

/-- A 32-bit write to a cairn's register at an offset (R341): an add, or what clears ovf. -/
def cairnWrite32 (s : State) (who : Agent) (n o : Nat) (v : Word) : WrRes :=
  match o with
  | 8 => .ok (cairnAddBy s who n v)
  | 12 => .ok (if v.getLsbD 30 then setCairn s n { cairnOf s n with ovf := false } else s)
  | 0 | 4 => .ok s
  | _ => .addr s

/-- A 32-bit write to a ring push register at an offset (R329). -/
def pushWrite32 (s : State) (who : Agent) (r o : Nat) (v : Word) : WrRes :=
  match who with
  | .chamber ch =>
    if o < 0x20 then (if mayPush s ch.val r then .ok (updChm s ch.val fun c => { c with pushW := Tab.put 0 c.pushW (r * 8 + o / 4) v }) else .bus s)
    else if o = 0x20 then ringPush s ch.val r
    else if o = 0x24 then .ok s
    else .addr s
  | _ => if o < 0x28 then .ok s else .addr s

/-- A 32-bit write to a compare's register at an offset (R357, R358). -/
def cmpWrite32 (s : State) (who : Agent) (k o : Nat) (v : Word) : WrRes :=
  match o with
  | 8 => cmpCtlWrite s who k v
  | 12 => let c := cmpOf s k; .ok (setCmp s k { c with late := c.late && !v.getLsbD 1, fired := c.fired && !v.getLsbD 0 })
  | _ => .addr s

/-- A 32-bit write to a context's DEC register at an offset (R271). -/
def decWrite32 (s : State) (ctx o : Nat) (v : Word) : WrRes :=
  match o with
  | 8 => .ok s
  | 12 => .ok (if v.getLsbD 31 then { s with dec := { s.dec with win := Tab.upd {} s.dec.win ctx fun w => { w with valid := false } } } else s)
  | _ => .addr s

/-- A 32-bit register write at a canonical address by a chamber or the Lantern. -/
def regWrite32 (s : State) (who : Agent) (a : Nat) (v : Word) : WrRes :=
  if 0x1809000000 ≤ a ∧ a < 0x1809100000 then cairnWrite32 s who ((a - 0x1809000000) / 16) ((a - 0x1809000000) % 16) v
  else if 0x180A000000 ≤ a ∧ a < 0x180A100000 then pushWrite32 s who ((a - 0x180A000000) / 0x40) ((a - 0x180A000000) % 0x40) v
  else if 0x1802001000 ≤ a ∧ a < 0x1802001200 then cmpWrite32 s who ((a - 0x1802001000) / 0x20) ((a - 0x1802001000) % 0x20) v
  else if 0x1806000000 ≤ a ∧ a < 0x1806040000 then decWrite32 s ((a - 0x1806000000) / 0x1000) ((a - 0x1806000000) % 0x1000) v
  else match mbxOf a with
    | some (k, off) => if off % 4 = 0 then mbxWrite s who k off v else .addr s
    | none => match windowOf a with
      | some (p, off) => chmWrite32 s who p off v
      | none => .addr s

/-- A 64-bit register takes both words (R21); DEC_SUBMIT submits for the writing chamber (R271). -/
def regWrite64 (s : State) (who : Agent) (a : Nat) (v : DWord) : WrRes :=
  if 0x1802001000 ≤ a ∧ a < 0x1802001200 then
    let k := (a - 0x1802001000) / 0x20
    .ok (setCmp s k { cmpOf s k with tgt := v })
  else if 0x1806000000 ≤ a ∧ a < 0x1806040000 then
    (if (a - 0x1806000000) % 0x1000 = 0 then
      match who with
      | .chamber ch => decSubmitAt s ch.val (v.toNat % 2 ^ 40 / 64 * 64)
      | _ => .ok s
     else .ok s)
  else match windowOf a with
    | some (p, off) => chmWrite64 s who p off v
    | none => .ok s

/-- The low word a high-word write puts in force: the staged one, or the register's as it stands (R21), in which no 1 is written to a field
that a 1 clears (R7, R209). -/
def stagedLow (s : State) (key : Nat) (cur : DWord) : Word :=
  match Tab.get none s.stage key with
  | some w => w
  | none => match windowOf (key % 2 ^ 40) with
    | some (_, 0x3000) | some (_, 0x3040) => 0
    | _ => w32 cur.toNat

/-- A 32-bit write of the register space (R20, R21): a low word of a 64-bit register is staged, a high word puts both in
force and ends the staging, a bus error discarding it too (R123). -/
def csrWrite (s : State) (who : Agent) (a : Nat) (v : Word) : WrRes :=
  match reg64 s a with
  | some _ => .ok { s with stage := Tab.put none s.stage (latchKey (reqId who) a) (some v) }
  | none => match (if a < 4 then none else reg64 s (a - 4)) with
    | some cur =>
      let k := latchKey (reqId who) (a - 4)
      let lo := stagedLow s k cur
      regWrite64 { s with stage := Tab.put none s.stage k none } who (a - 4) (BitVec.ofNat 64 (dword lo.toNat v.toNat))
    | none => regWrite32 s who a v

end Sys2Proof.Machine
end

