-- ==== Sys2Proof/Machine/JobOps.lean ====
section
/-!
DEFINITION. Shared operations of jobs (chapter 11): CRCs, digests (R304), completion records (R302, R331), and the end of
a chamber's part of a job (R118).
-/
namespace Sys2Proof.Machine

/-! ### CRC -/

/-- Shift one bit into a CRC register of w bits. -/
def crcStep (w poly reg : Nat) (b : Bool) : Nat :=
  let top := bitAt reg (w - 1)
  let r := reg * 2 % 2 ^ w
  if top != b then r ^^^ poly else r

/-- The CRC of bits, most significant first, initial value 0, no reflection, no final XOR. -/
def crcBits (w poly : Nat) (bs : List Bool) : Nat := bs.foldl (crcStep w poly) 0

/-- The bits of a byte, most significant first. -/
def byteBits (b : Byte) : List Bool := [7, 6, 5, 4, 3, 2, 1, 0].map b.getLsbD

/-- The bits of bytes in order. -/
def bytesBits : List Byte → List Bool
  | [] => []
  | b :: bs => byteBits b ++ bytesBits bs

/-- The digest CRC-64 (R304). -/
def crc64 (bs : List Byte) : Nat := crcBits 64 0x42F0E1EBA9EA3693 (bytesBits bs)

/-! ### Jobs -/

/-- The job with a tag. -/
def jobOf (s : State) (tag : Word) : Option Job := s.sched.jobs.find? fun j => decide (j.tag = tag)

/-- Change the jobs with a tag. -/
def updJob (s : State) (tag : Word) (f : Job → Job) : State :=
  { s with sched := { s.sched with jobs := s.sched.jobs.map fun j => if j.tag = tag then f j else j } }

/-- A template. -/
def tmplOf (s : State) (n : Nat) : Tmpl := Tab.get {} s.tmpls n

/-- A completion record (R331); ringPlace fills word 7. `chm` is the logical chamber of an EXCEPTION or FAULT_DROPPED. -/
def complRecord (e : Entry) (tag : Word) (aslot outcome : Nat) (chm : Option Nat) (detail : Word) (elapsed : Nat) : List Word :=
  [mkWord [(0x40, 24), (outcome, 16), (b2n e.chv, 15), (e.ctx, 8), (if e.chv then e.chain else 0, 0)],
   tag, w32 aslot, w32hi aslot, mkWord [(e.tmpl, 16), (b2n chm.isSome, 7), (chm.getD 0, 0)], detail, w32 elapsed, 0]

/-- Put a numbered row in its place; of one number, the later stands behind. -/
def insertRow (x : Nat × List Byte × TileFlags) : List (Nat × List Byte × TileFlags) → List (Nat × List Byte × TileFlags)
  | [] => [x]
  | y :: ys => if x.1 < y.1 then x :: y :: ys else y :: insertRow x ys

/-- The rows a job stored for a layer, in the order of the layer's output tensor, whatever the order in which they were stored (R304). -/
def layerRows (j : Job) (layer : Nat) : List (List Byte × TileFlags) :=
  (j.stores.foldl (fun l x => match Config.tensorRow j.e.tmpl layer x.1 with
    | some n => insertRow (n, x.2) l
    | none => l) []).map (·.2)

/-- One digest record of a job's layer (R304). -/
def digestRecord (j : Job) (layer : Nat) : List Word :=
  let rows := layerRows j layer
  let f := rows.foldl (fun f r => orTile f r.2) {}
  let c := crc64 (rows.flatMap (·.1))
  [mkWord [(0x30, 24), (b2n f.poison, 19), (b2n f.missing, 18), (b2n f.accSat, 17), (layer, 0)],
   j.tag, w32 j.aslot, w32hi j.aslot, w32 rows.length, 0, w32 c, w32hi c]

/-- The completion record of a job; the outcome and its words are free where a use with an undefined result reached the job (R302, R428). -/
def complOf (s : State) (j : Job) (outcome : Nat) (chm : Option Nat) (detail : Word) (elapsed : Nat) : List Word :=
  let x := Config.strayWord s.free
  if j.strayed then
    complRecord j.e j.tag j.aslot ((x 0).toNat % 5) (if (x 1).getLsbD 7 then some ((x 1).toNat % 128) else none) (x 2) (x 3).toNat
  else complRecord j.e j.tag j.aslot outcome chm detail elapsed

/-- The digest record of a layer; its flags, rows and CRC are free where a use with an undefined result reached the job (R304, R428). -/
def digestOf (n : Nat) (j : Job) (layer : Nat) : List Word :=
  let x (i : Nat) : Word := Config.strayWord n (4 + 4 * layer + i)
  if j.strayed then
    [mkWord [(0x30, 24), (fld (x 0).toNat 19 17, 17), (layer, 0)], j.tag, w32 j.aslot, w32hi j.aslot, x 1, 0, x 2, x 3]
  else digestRecord j layer

/-- Write the digests of a finished job: one per layer of the template's mask (R304). -/
def writeDigests (s : State) (j : Job) : State :=
  if j.e.dig then
    let t := tmplOf s j.e.tmpl
    ((List.range t.nlayer).filter fun l => t.dmask.getLsbD l).foldl (fun st l => ringNerzon st j.e.dring (digestOf s.free j l) false) s
  else s

/-- The records of a job whose every part has ended (R302, R304): DONE, or EXCEPTION when Nerzon's default handler ended a
part. -/
def finishJob (s : State) (j : Job) : State :=
  let s0 := if j.strayed then draw s else s
  match j.exc with
  | some (lc, w) => ringNerzon s0 j.e.cring (complOf s j 3 (some lc) w 0) true
  | none => ringNerzon (writeDigests s0 j) j.e.cring (complOf s j 0 none 0 (now s - j.tick)) true

/-- A chamber's part of its job has ended with JOB.END; strictly before the deadline it counts, and with the last part the
job is finished (R118, R301). `exc` is CHM_EXC_CAUSE when Nerzon's default handler ended the part (R113). -/
def partEnded (s : State) (ph : Nat) (exc : Option Word) : State :=
  let tag := (coreOf s ph).jobTag
  match jobOf s tag with
  | none => s
  | some j =>
    if decide (j.deadline ≤ now s) || j.finished then s
    else match j.chms.find? (fun c => decide (c.2 = ph)) with
      | none => s
      | some (lc, _) =>
        let ended := if j.ended.contains lc then j.ended else j.ended ++ [lc]
        let ex := match j.exc, exc with
          | none, some w => some (lc, w)
          | e, _ => e
        let fin := decide (ended.length = j.chms.length)
        let j1 := { j with ended := ended, exc := ex, finished := fin }
        let s1 := updJob s tag fun _ => j1
        if fin then finishJob s1 j1 else s1

/-- Clear the sump slots that carry a tag: accumulators, flags, counter, and tiles offered from them (R89, R118). -/
def clearSump (tag : Word) (a : ArrSt) : ArrSt :=
  let mine (sl : Nat) : Bool := decide ((Tab.get {} a.slots sl).tag = tag)
  { a with
    sump := a.sump.filter fun r => !mine (r.1 / 32)
    fin := a.fin.filter fun t => !decide (t.tag = tag)
    slots := a.slots.filter fun e => !decide (e.2.tag = tag) }

/-- Clear every sump slot of the chamber that carries the tag, and discard its tiles in the dripline (R118, R174). -/
def clearJobTiles (c : Chamber) (tag : Word) : Chamber :=
  { c with ar := { c.ar with arr := Tab.mapListed {} (fun _ a => clearSump tag a) c.ar.arr },
           fl := { c.fl with dl := c.fl.dl.filter fun t => !decide (t.tag = tag) } }

/-- IRET resumes held STREAMs (R116). -/
def resumeStreams (ar : Arrays) : Arrays :=
  { ar with aq := ar.aq.map (fun o => match o with | .stream p => .stream { p with held := false } | x => x),
            arr := Tab.mapListed {} (fun _ x => { x with run := x.run.map fun r => { r with held := false } }) ar.arr }

/-- End the most recently delivered active source (R345). -/
def vicEnd (v : Vic) : Vic := { v with stack := v.stack.drop 1 }

/-- An interrupt entry under way is not taken when the bundle raises an exception or its JOB.END ends the job (R111, R346): its source is
pending again. The STREAMs held for it resume at once, those held for an outer handler stay held (R87; log entry 44). -/
def cancelEntry (h : Chamber) : Chamber :=
  if h.core.entering.isSome then
    { h with core := { h.core with entering := none }, ar := if h.core.keepHeld then h.ar else resumeStreams h.ar,
             vic := match h.vic.stack with
               | (n, _) :: _ => vicRaise (vicEnd h.vic) n
               | [] => h.vic }
  else h

/-- JOB.END issues (R118): the job's sump slots and dripline tiles go, an entry under way is not taken (R346), the chamber is idle, the part
has ended. CHM_STAT.ctx and CHM_JOB_TAG keep the ended job's values (log entry 44). -/
def jobEnd (s : State) (ph : Nat) : State :=
  let c := coreOf s ph
  let exc := if c.xbank && c.defHandler then some (causeWord c) else none
  let s1 := updChm s ph fun h =>
    let h1 := cancelEntry (clearJobTiles h c.jobTag)
    { h1 with prevCtx := some c.ctx, core := { h1.core with active := false, lastFenced := false, stall := 0, issue := none } }
  partEnded s1 ph exc

end Sys2Proof.Machine
end

