-- ==== Sys2Proof/Machine/Watch.lean ====
section
/-!
DEFINITION. The sizes of weight tile records and STREAM planes (R62, R66, R67, R71), and the writes that change bytes an operation is reading
(R70, R158, R197, R428).
-/
namespace Sys2Proof.Machine

/-! ### Modes, records and planes -/

/-- Activation bits of a mode (R62). -/
def actBits (mode : Nat) : Nat := if mode = 1 ∨ mode = 3 then 2 else if mode = 5 ∨ mode = 6 ∨ mode = 7 then 8 else 4

/-- The weight format a mode takes: 0 W4, 1 W2, 2 W8, 3 codebook (R62, R67). -/
def modeWfmt (mode : Nat) : Nat := if mode = 2 ∨ mode = 3 then 1 else if mode = 4 ∨ mode = 6 then 2 else if mode = 7 then 3 else 0

/-- Input channels per pass: 32, or 64 in W2 modes (R62). -/
def kpass (mode : Nat) : Nat := if mode = 2 ∨ mode = 3 then 64 else 32

/-- Bytes of an activation row (R34, R62). -/
def rowBytes (mode : Nat) : Nat := kpass mode * actBits mode / 8

/-- The valid entries of an outlier map word: (entry, channel) (R49). -/
def omapEntries (w : Word) : List (Nat × Nat) :=
  (List.range 4).filterMap fun e => if bitAt w.toNat (8 * e + 7) then some (e, fld w.toNat (8 * e + 4) (8 * e)) else none

/-- The outlier entries in force: of word 0, and of word 1 in W2 records (R49, R67). -/
def tileEntries (wfmt : Nat) (o0 o1 : Word) : List (Nat × Nat) :=
  omapEntries o0 ++ (if wfmt = 1 then (omapEntries o1).map fun e => (e.1 + 4, e.2 + 32) else [])

/-- What STREAM's checks need of a weight tile: its format and outlier words. -/
structure TileHead where
  wfmt : Nat
  o0 : Word
  o1 : Word
deriving DecidableEq, Repr

/-- The head of a loaded tile. -/
def headOf (t : WeightTile) : TileHead := { wfmt := t.wfmt, o0 := t.omap0, o1 := t.omap1 }

/-- The head a record's header words give (R67). -/
def headOfWords (h : List Word) : TileHead := { wfmt := tf h 0 3 0, o0 := h.getD 1 0, o1 := h.getD 2 0 }

/-- Bytes of a weight tile record (R66). -/
def recordBytes (h : TileHead) : Nat :=
  let e := if h.wfmt = 2 then 1024 else 512
  let kb := if h.wfmt = 1 then 2 else 1
  96 + e + (if (tileEntries h.wfmt h.o0 h.o1).isEmpty then 0 else 128 * kb)

/-- The arrays of a group. -/
def groupOf (amask : Nat) : List Nat := (List.range 4).filter (bitAt amask)

/-! ### Bytes being read -/

/-- The bytes an ALDW that fills and the STREAMs that run have yet to read: the record, and the activation rows from the next one on (R70). -/
def arrReading (ar : Arrays) : List (Nat × Nat) :=
  (match ar.filling with | some (a, h) => [(a, recordBytes (headOfWords h))] | none => []) ++
  ar.arr.filterMap fun e => e.2.run.map fun r =>
    (r.op.abase + e.1 * r.op.astride + r.row * r.op.pitch, (r.op.rows - r.row - 1) * r.op.pitch + rowBytes r.op.mode)

/-- The word at a 4-byte-aligned memory address as it stands, without a read of the device. -/
def peekWord (s : State) (a : Nat) : Nat :=
  match storeKey s a with
  | some k => leNat (Memory.bytes s.mem k 4)
  | none => 0

/-- The program records of every FL.RUN issued and not ended (R158). -/
def progReading (s : State) (f : Fls) : List (Nat × Nat) :=
  (match f.run with | some r => [(r.recAddr, 32 + 8 * r.uops.length)] | none => []) ++
  f.fq.filterMap fun o => match o with
    | .run a => some (a, 32 + 8 * (peekWord s a % 64))
    | .move _ _ _ => none

/-- The descriptors of a siphon's chains that are queued or not yet moved, as far as their places are known (R197). -/
def chainReading (q : Siphon) : List (Nat × Nat) :=
  q.queue.map (fun e => (e.1, 32)) ++
  (match q.chain with | some c => (c.next, if c.ended then 0 else 32) :: c.burst.map (fun d => (d.1, 32)) | none => [])

/-- Does a write of `len` bytes at `a` change one of the ranges? -/
def hits (a len : Nat) (l : List (Nat × Nat)) : Bool := l.any fun r => overlaps a len r.1 r.2

/-- The contexts whose operations read bytes that a write changes (R428). -/
def hitCtxs (s : State) (a len : Nat) : List Nat :=
  (s.chms.filterMap fun e => if hits a len (arrReading e.2.ar ++ progReading s e.2.fl) then some e.2.core.ctx else none) ++
  s.siph.filterMap fun e => if hits a len (chainReading e.2) then e.2.chain.bind (·.ctx) else none

/-- A write of a program, a siphon or the host has changed bytes that an operation is reading: an undefined result of context reach (R70,
R158, R197, R428). -/
def watchWrite (s : State) (a len : Nat) : State := (hitCtxs s a len).foldl (fun t k => strayContext k t) s

end Sys2Proof.Machine
end

