-- ==== Sys2Proof/Machine/Bundle.lean ====
section
/-!
DEFINITION. What one bundle asks for: the result of an operation (exceptions, waits, effects), and how effects act when
the bundle issues (R92 to R97, R109 to R118). The operations themselves are in ExecX, ExecM, ExecA, ExecF and ExecC.
-/
namespace Sys2Proof.Machine

/-- The result of an operation: exceptions as (cause, position, eaddr), a stall code to wait with, a cairn to wait on, an
access outside the own pocket, effects, and the state after its reads (a read may correct or poison memory). -/
structure OpRes where
  excs : List (Nat × Nat × Nat) := []
  wait : Option Nat := none
  cairn : Option Nat := none
  out : Option OutAcc := none
  effs : List Eff := []
deriving DecidableEq, Repr

/-- An operation's effects alone. -/
def effs (l : List Eff) : OpRes := { effs := l }

/-- An operation's exception alone. -/
def raise (cause pos eaddr : Nat) : OpRes := { excs := [(cause, pos, eaddr)] }

/-- Both results. -/
def joinRes (x y : OpRes) : OpRes :=
  { excs := x.excs ++ y.excs, wait := x.wait.or y.wait, cairn := x.cairn.or y.cairn, out := x.out.or y.out, effs := x.effs ++ y.effs }

/-- The exception taken among several: the lowest code, then the position order (R111). -/
def pickExc : List (Nat × Nat × Nat) → Option (Nat × Nat × Nat)
  | [] => none
  | e :: r => match pickExc r with
    | none => some e
    | some x => if x.1 < e.1 then some x else some e

/-! ### Array and queue pumps (R70, R97) -/

/-- Let an ALDW at the head of the array queue begin: it leaves the queue and fills the shadow slot (R70, R97). -/
def pumpAldw (ar : Arrays) : Arrays :=
  match ar.filling, ar.aq with
  | none, .aldw a h :: q => { ar with aq := q, filling := some (a, h) }
  | _, _ => ar

/-! ### Effects -/

/-- Act one effect of a bundle issued by chamber `ph` under rotating base `rrb`. -/
def actEff (ph rrb : Nat) (s : State) : Eff → State
  | .reg code v => updCore s ph fun c => writeReg c rrb code v
  | .pred n v => updCore s ph fun c => writePred c rrb n v
  | .special n v => updCore s ph fun c => writeSpecial c n v
  | .rotate p8 => updCore s ph fun c => let c1 := { c with rrb := c.rrb + 1 }; writePred c1 c1.rrb.toNat 8 p8
  | .store a d => watchWrite (writeMem s a d noFlags) a d.length
  | .csrLoad code sx a => match csrRead s ph a with
    | some (v, s1) => updCore s1 ph fun c => writeReg c rrb code (if sx then v.signExtend 64 else v.zeroExtend 64)
    | none => s
  | .csrStore a v => if h : ph < 144 then (csrWrite s (.chamber ⟨ph, h⟩) a v).st else s
  | .aop o => updAr s ph fun a => pumpAldw { a with aq := a.aq ++ [o] }
  | .fop o => updFl s ph fun f => { f with fq := f.fq ++ [o] }
  | .siph q a => updSiph s q fun x => { x with queue := x.queue ++ [(a, (coreOf s ph).jobTag, some (coreOf s ph).ctx)] }
  | .cnAdd n amt => cairnSignalFor s (coreOf s ph).ctx n amt
  | .cnTry n pd =>
    let got := cairnTry s n (coreOf s ph).ctx
    let code := got.1
    let s1 := got.2
    updCore s1 ph fun c => writePred c rrb pd (decide (code = 0 ∨ code = 2))
  | .cnDone rt => updCore s ph fun c => { writeReg c rrb rt (c.grant.getD 0) with grant := none, grantBack := 0 }
  | .jump t => updCore s ph fun c => { c with pc := t }
  | .iret t => updChm s ph fun h => { h with core := exitIrq h.core t, ar := resumeStreams h.ar, vic := vicEnd h.vic }
  | .exret t => updCore s ph fun c => exitExc c t
  | .jobEnd => jobEnd s ph

/-- Act the effects of a bundle in position order. Where a bundle holds SETS of s11 beside IRET, IRET acts last and ist.ie reads 1 (log entry
44). -/
def actEffs (ph rrb : Nat) (s : State) : List Eff → State
  | [] => s
  | e :: r => actEffs ph rrb (actEff ph rrb s e) r

/-- Issue: the pc moves to the next bundle, CHM_PC and the counters follow (R92, R123). -/
def advancePc (s : State) (ph : Nat) : State :=
  updCore (draw s) ph fun c =>
    { c with lastPc := c.pc, pc := c.pc + 32, perfIssue := c.perfIssue + 1, issue := none, stall := 0, stepping := false,
             halted := c.haltReq, icMiss := c.icMiss + BitVec.ofNat 32 (Config.cacheMisses s.free) }

/-- The bundle takes full effect: the pc advances, then every operation acts in position order. -/
def commit (s : State) (ph : Nat) (l : List Eff) : State :=
  actEffs ph (coreOf s ph).rrb.toNat (advancePc s ph) l

end Sys2Proof.Machine
end

