-- ==== Sys2Proof/Machine/ExecM.lean ====
section
/-!
DEFINITION. The operations of the M position (R133 to R136, R105 to R107). `fin` says that an access outside the own
pocket is completing (R150).
-/
namespace Sys2Proof.Machine

/-- The address an LD or ST accesses: rb + simm16, or rb with post-increment (R134). -/
def accAddr (c : Core) (f : Nat) : Nat :=
  let rb := readReg c (fld f 27 21)
  if bitAt f 13 then rb.toNat else addr64 rb (simm f 43 28)

/-- The post-increment of rb (R134). -/
def postInc (c : Core) (f : Nat) : List Eff :=
  if bitAt f 13 then [.reg (fld f 27 21) (readReg c (fld f 27 21) + simm f 43 28)] else []

/-- The exceptions of the address alone: bits [63:40] and unmapped at issue; misaligned or of a wrong width at issue in CSR
space and the own pocket, on completion in other memory (R17, R105, R129, R150). -/
def accExc (own fin : Bool) (pos a size : Nat) : List (Nat × Nat × Nat) :=
  if !addrOk a then [(5, pos, a % 2 ^ 40)]
  else match spaceOf a with
    | .unmapped => [(5, pos, a)]
    | .csr | .ownCsr => if decide (size = 4) && decide (a % 4 = 0) then [] else [(5, pos, a)]
    | _ => if decide (a % size ≠ 0) && (own || fin) then [(5, pos, a)] else []

/-- Does the address lie in CSR space or its alias? -/
def isCsr (a : Nat) : Bool :=
  match spaceOf a with
  | .csr | .ownCsr => true
  | _ => false

/-- The loaded value, zero- or sign-extended (R133, R135). -/
def extend (bs : List Byte) (sx : Bool) : DWord :=
  if sx then BitVec.ofInt 64 (sgn (leNat bs) (8 * bs.length)) else BitVec.ofNat 64 (leNat bs)

/-- A load from memory: BUS_ERROR outside the context, MEMORY_ERROR on POISON, else the value (R184, R189). -/
def loadMem (s : State) (ph pos f a : Nat) : OpRes × State :=
  let c := coreOf s ph
  if !chmMay s ph a (accSize f) false then (raise 6 pos a, s)
  else
    let got := readBytes s a (accSize f)
    let bs := got.1
    let fl := got.2.1
    let s1 := got.2.2.2
    if fl.poison then (raise 7 pos a, s1)
    else (effs (.reg (fld f 20 14) (extend bs (bitAt f 12)) :: postInc c f), s1)

/-- LD (R134, R135, R150). -/
def evLd (s : State) (ph pos f : Nat) (fin : Bool) : OpRes × State :=
  let c := coreOf s ph
  let a := accAddr c f
  match accExc (inOwnPocket s ph a 1) fin pos a (accSize f) with
  | e :: _ => ({ excs := [e] }, s)
  | [] =>
    if isCsr a then
      let r := unalias ph a
      if fin then (effs (.csrLoad (fld f 20 14) (bitAt f 12) r :: postInc c f), s)
      else if csrHole s ph r then (raise 5 pos a, s)
      else if !csrGranted s ph r then (raise 6 pos a, s)
      else if (csrRead s ph r).isNone then (raise 5 pos a, s)
      else ({ out := some { store := false, addr := a, size := accSize f } }, s)
    else if inOwnPocket s ph a (accSize f) || fin then loadMem s ph pos f a
    else ({ out := some { store := false, addr := a, size := accSize f } }, s)

/-- The bytes an ST stores: the low sz bytes of rd (R133). -/
def stData (c : Core) (f : Nat) : List Byte := leBytes (readReg c (fld f 20 14)).toNat (accSize f)

/-- ST (R134, R135, R150). -/
def evSt (s : State) (ph : Fin 144) (pos f : Nat) (fin : Bool) : OpRes × State :=
  let c := coreOf s ph.val
  let a := accAddr c f
  match accExc (inOwnPocket s ph.val a 1) fin pos a (accSize f) with
  | e :: _ => ({ excs := [e] }, s)
  | [] =>
    if isCsr a then
      let r := unalias ph.val a
      let v := w32 (readReg c (fld f 20 14)).toNat
      if csrHole s ph.val r then (raise 5 pos a, s)
      else if !fin && !csrGranted s ph.val r then (raise 6 pos a, s)
      else match csrWrite s (.chamber ph) r v with
        | .addr _ => (raise 5 pos a, s)
        | .bus s1 => if fin then (raise 6 pos a, s1) else ({ out := some { store := true, addr := a, size := accSize f } }, s)
        | .ok _ => if fin then (effs (.csrStore r v :: postInc c f), s) else ({ out := some { store := true, addr := a, size := accSize f } }, s)
    else if inOwnPocket s ph.val a (accSize f) || fin then
      (if chmMay s ph.val a (accSize f) true then (effs (.store a (stData c f) :: postInc c f), s) else (raise 6 pos a, s))
    else ({ out := some { store := true, addr := a, size := accSize f } }, s)

/-- SIPH.RUN: queue the chain at rb; a full queue waits with stall code 3 (R97, R191). -/
def evSiphRun (s : State) (ph pos f : Nat) : OpRes :=
  let a := (readReg (coreOf s ph) (fld f 27 21)).toNat
  let q := ph * 2 + fld f 10 10
  if !addrOk a then raise 5 pos (a % 2 ^ 40)
  else { wait := if 4 ≤ siphQueued (siphOf s q) then some 3 else none, effs := [.siph q a] }

/-- SIPH.POLL: rd := the siphon's status word (R136). -/
def evSiphPoll (s : State) (ph f : Nat) : OpRes :=
  effs [.reg (fld f 20 14) (siphStatWord (siphOf s (ph * 2 + fld f 10 10)))]

/-- Does a siphon still have a chain? -/
def siphBusy (s : State) (ph : Nat) : Bool := decide (0 < siphQueued (siphOf s (ph * 2))) || decide (0 < siphQueued (siphOf s (ph * 2 + 1)))

/-- Does flowstone still have an operation? -/
def flsBusy (f : Fls) : Bool := f.run.isSome || !f.fq.isEmpty

/-- Is an ALDW or STREAM yet to read its last byte (R107)? -/
def arrReads (ar : Arrays) : Bool :=
  ar.filling.isSome || ar.aq.any (fun o => match o with | .aldw _ _ => true | .stream _ => true | _ => false) ||
  ar.arr.any (fun e => e.2.run.isSome)

/-- Is any A operation, STREAM or sump addition unfinished (R118)? -/
def arrWork (ar : Arrays) : Bool :=
  ar.filling.isSome || !ar.aq.isEmpty || ar.arr.any (fun e => e.2.run.isSome || !e.2.fly.isEmpty)

/-- FENCE: waits while a named class is busy, with stall code 6 (R107, R133). -/
def evFence (s : State) (ph f : Nat) : OpRes :=
  let h := chmOf s ph
  let busy := (bitAt f 10 && siphBusy s ph) || (bitAt f 11 && flsBusy h.fl) || (bitAt f 12 && arrReads h.ar)
  { wait := if busy then some 6 else none }

end Sys2Proof.Machine
end

