-- ==== Sys2Proof/Machine/ExecA.lean ====
section
/-!
DEFINITION. The operations of the A position at issue: ALDW, ASWP, ACFG and STREAM with their checks (R63, R66 to R72, R88,
R137 to R139).
-/
namespace Sys2Proof.Machine

/-- Mode, asign and tiles that will be in force. -/
structure Ahead where
  act : TileHead
  shadow : TileHead
  mode : Nat
  asign : Bool
deriving DecidableEq, Repr

/-- What one queued operation changes (R69, R70). -/
def aheadStep (x : Ahead) : AOp → Ahead
  | .aldw _ h => { x with shadow := headOfWords h }
  | .aswp => { x with act := x.shadow, shadow := x.act }
  | .acfg m sg => { x with mode := m, asign := sg }
  | .stream _ => x

/-- The mode and weight tile that will be in force behind every operation queued (R72). -/
def ahead (ar : Arrays) : Ahead :=
  let x0 : Ahead := { act := headOf ar.act, shadow := headOf ar.shadow, mode := ar.mode, asign := ar.asign }
  let x1 := match ar.filling with | some (_, h) => { x0 with shadow := headOfWords h } | none => x0
  ar.aq.foldl aheadStep x1

/-- Is any STREAM of the chamber held (R88)? -/
def anyHeld (ar : Arrays) : Bool := (List.range 4).any (arrHeld ar)

/-- ARRAY_HELD, when a STREAM is held (R88). -/
def heldExc (ar : Arrays) (pos : Nat) : List (Nat × Nat × Nat) := if anyHeld ar then [(4, pos, 0)] else []

/-- The stall code of a full array queue (R97). -/
def aqWait (ar : Arrays) : Option Nat := if 4 ≤ ar.aq.length then some 2 else none

/-- Do the bytes of a plane or record lie in the own pocket and the context (R68, R72, R189)? -/
def ownPlane (s : State) (ph a len : Nat) : Bool := inOwnPocket s ph a len && chmMay s ph a len false

/-- Is a header one that ALDW refuses (R68)? -/
def badHead (h : List Word) : Bool :=
  let t := headOfWords h
  decide (3 < t.wfmt) || decide (tf h 0 31 24 = 0xFF) ||
  (decide (t.wfmt = 1) && (decide (tf h 0 9 8 = 0) || decide (tf h 0 9 8 = 2) || decide (4 < (tileEntries 1 t.o0 t.o1).length)))

/-- ALDW (R68, R137): the record is checked and its load queued with the header read at issue. -/
def evAldw (s : State) (ph pos f : Nat) : OpRes × State :=
  let h := chmOf s ph
  let a := addr64 (readReg h.core (fld f 14 8)) (simm f 34 15 * 32)
  let he := heldExc h.ar pos
  if !addrOk a then ({ excs := he ++ [(5, pos, a % 2 ^ 40)] }, s)
  else if decide (a % 32 ≠ 0) || !ownPlane s ph a 32 then ({ excs := he ++ [(2, pos, 0)] }, s)
  else
    let got := readMemWords s a 8
    let hd := got.1
    let s1 := got.2.2
    if badHead hd || !ownPlane s ph a (recordBytes (headOfWords hd)) then ({ excs := he ++ [(2, pos, 0)] }, s1)
    else ({ excs := he, wait := aqWait h.ar, effs := [.aop (.aldw a hd)] }, s1)

/-- ASWP (R69, R88). -/
def evAswp (s : State) (ph pos : Nat) : OpRes :=
  let ar := (chmOf s ph).ar
  { excs := heldExc ar pos, wait := aqWait ar, effs := [.aop .aswp] }

/-- Does a mode allow asign = 1 (R63)? -/
def asignOk (mode : Nat) : Bool := decide (mode = 0) || decide (mode = 2) || decide (mode = 4)

/-- ACFG (R63, R88). -/
def evAcfg (s : State) (ph pos f : Nat) : OpRes :=
  let ar := (chmOf s ph).ar
  let mode := fld f 11 8
  let sg := bitAt f 12
  let bad := decide (7 < mode) || (sg && !asignOk mode)
  { excs := heldExc ar pos ++ (if bad then [(2, pos, 0)] else []), wait := aqWait ar, effs := [.aop (.acfg mode sg)] }

/-- The planes a STREAM reads, as (address, bytes) (R71). -/
def streamPlanes (o : StreamOp) (t : TileHead) : List (Nat × Nat) :=
  let kb := kpass o.mode / 32
  (groupOf o.amask).flatMap fun a =>
    [(o.abase + a * o.astride, (o.rows - 1) * o.pitch + rowBytes o.mode)] ++
    (if (tileEntries t.wfmt t.o0 t.o1).isEmpty then [] else [(o.sbase + a * o.astride, o.rows * 4 * kb)]) ++
    (if o.rskind = 1 then [(o.rsbase + a * o.astride, o.rows)]
     else if o.rskind = 2 then [(o.rsbase + a * o.astride, ceilDiv o.rows 12)] else [])

/-- STREAM's operands from its registers and the mode that will be in force (R71, R138). -/
def streamOperands (s : State) (ph f : Nat) : StreamOp :=
  let h := chmOf s ph
  let r (hi lo : Nat) : Nat := (readReg h.core (fld f hi lo)).toNat
  let x := ahead h.ar
  { mode := x.mode, asign := x.asign, amask := fld f 11 8, slot := fld f 15 12, first := bitAt f 16, final := bitAt f 17,
    rskind := fld f 19 18, rows := fld (r 26 20) 63 48, abase := fld (r 26 20) 39 0, pitch := fld (r 33 27) 47 32,
    astride := fld (r 33 27) 31 0, sbase := fld (r 40 34) 39 0, rsbase := fld (r 47 41) 39 0, tag := h.core.jobTag }

/-- STREAM (R72, R88, R139). -/
def evStream (s : State) (ph pos f : Nat) : OpRes :=
  let ar := (chmOf s ph).ar
  let o := streamOperands s ph f
  let t := (ahead ar).act
  let bad := decide (o.amask = 0) || decide (o.rows = 0) || decide (o.rskind = 3) ||
    (streamPlanes o t).any fun p => !ownPlane s ph p.1 p.2
  { excs := heldExc ar pos ++ (if bad then [(2, pos, 0)] else []) ++ (if t.wfmt ≠ modeWfmt o.mode then [(3, pos, 0)] else []),
    wait := aqWait ar, effs := [.aop (.stream o)] }

end Sys2Proof.Machine
end

