-- ==== Sys2Proof/Machine/Arr.lean ====
section
/-!
DEFINITION. The arrays, sumps and alcove at work (chapter 03): the shadow slot fills, swaps and mode changes take effect,
blocks of rows enter, sumps add, the dripline takes tiles, STREAMs are held.
-/
namespace Sys2Proof.Machine

/-! ### Weight tiles (R66 to R69) -/

/-- A table of bytes from a list, zero bytes unlisted. -/
def tabBytes (bs : List Byte) : Tab Byte := ((List.range bs.length).zip bs).filter fun e => !decide (e.2 = 0)

/-- A table of integers from a list, zeros unlisted. -/
def tabInts (xs : List Int) : Tab Int := ((List.range xs.length).zip xs).filter fun e => !decide (e.2 = 0)

/-- The weight tile of a record: its header as read at issue, its planes and the OR of its word flags (R66, R67, R68). -/
def tileOfRecord (hd : List Word) (bs : List Byte) (f : WFlags) : WeightTile :=
  let t := headOfWords hd
  let e := if t.wfmt = 2 then 1024 else 512
  { xref := tf hd 0 31 24, skind := decide (tf hd 0 16 16 = 1), gsize := tf hd 0 9 8, wfmt := t.wfmt, omap0 := t.o0, omap1 := t.o1,
    cbook := tabBytes ((wordBytes hd).drop 12 |>.take 16), elem := tabBytes (bs.drop 32 |>.take e),
    scale := tabBytes (bs.drop (32 + e) |>.take 64), alc := tabBytes (bs.drop (96 + e)), flags := tileOfWord f }

/-- ALDW_COMPLETE: the shadow slot of all four arrays holds the record's tile (R68). -/
def execAldwComplete (ch : Fin 144) (s : State) : Host.Outcome State Fault Refusal :=
  match (if noClock s 0 then none else (chmOf s ch.val).ar.filling) with
  | none => .next s
  | some (a, hd) =>
    let got := readBytes s a (recordBytes (headOfWords hd))
    let bs := got.1
    let f := got.2.1
    let s1 := got.2.2.2
    .next (updAr s1 ch.val fun ar => pumpAldw { ar with filling := none, shadow := tileOfRecord hd bs f })

/-- Are all four arrays idle: no STREAM running or held, one held behind in the queue included, and the last sump addition made (R70, R88)? -/
def arraysIdle (ar : Arrays) : Bool := !anyHeld ar && ar.arr.all fun e => e.2.run.isNone && e.2.fly.isEmpty

/-- ASWP_TAKES_EFFECT: the slots are exchanged once every earlier ALDW has completed and the arrays are idle (R69, R70). -/
def execAswpTakesEffect (ch : Fin 144) (s : State) : Host.Outcome State Fault Refusal :=
  let ar := (chmOf s ch.val).ar
  match ar.aq with
  | .aswp :: q =>
    if ar.filling.isNone && arraysIdle ar && !noClock s 0 then
      .next (updAr s ch.val fun x => pumpAldw { x with aq := q, act := x.shadow, shadow := x.act })
    else .next s
  | _ => .next s

/-- ACFG_TAKES_EFFECT: mode and asign change once the arrays are idle (R63, R70). -/
def execAcfgTakesEffect (ch : Fin 144) (s : State) : Host.Outcome State Fault Refusal :=
  let ar := (chmOf s ch.val).ar
  match ar.aq with
  | .acfg m sg :: q =>
    if arraysIdle ar && !noClock s 0 then .next (updAr s ch.val fun x => pumpAldw { x with aq := q, mode := m, asign := sg }) else .next s
  | _ => .next s

/-! ### Rows (R71, R73, R85) -/

/-- The value of packed activation k of a row (R32 to R34, R63). -/
def actElem (mode : Nat) (asign : Bool) (bs : List Byte) (k : Nat) : Int :=
  let n := actBits mode
  let v := packedElem bs n k
  if asign && decide (n = 4) then Int.ofNat v else sgn v n

/-- The outlier entries of the tile in force. -/
def activeEntries (t : WeightTile) : List (Nat × Nat) := tileEntries t.wfmt t.omap0 t.omap1

/-- Do two valid entries name one channel (R49, R428)? -/
def twiceNamed (es : List (Nat × Nat)) : Bool := es.any fun e => decide (1 < (es.filter fun x => decide (x.2 = e.2)).length)

/-- Row m of a STREAM as array a takes it: elements with the privileged channels at zero, privileged activations, the row
scale byte and the flags of the data (R49, R71, R73). -/
def readRow (s : State) (t : WeightTile) (o : StreamOp) (a m : Nat) : FlyRow × State :=
  let off := a * o.astride
  let got := readBytes s (o.abase + off + m * o.pitch) (rowBytes o.mode)
  let bs := got.1
  let f1 := got.2.1
  let s1 := got.2.2.2
  let es := activeEntries t
  let kb := kpass o.mode / 32
  let got2 := if es.isEmpty then ([], noFlags, false, s1) else readBytes s1 (o.sbase + off + m * 4 * kb) (4 * kb)
  let sb := got2.1
  let f2 := got2.2.1
  let s2 := got2.2.2.2
  let got3 :=
    if o.rskind = 1 then readBytes s2 (o.rsbase + off + m) 1
    else if o.rskind = 2 then readBytes s2 (o.rsbase + off + m / 12) 1 else ([], noFlags, false, s2)
  let rb := got3.1
  let f3 := got3.2.1
  let s3 := got3.2.2.2
  let rs := rb.getD 0 0#8
  let zero := decide (o.rskind = 1) && decide (rs = 0xFF#8)
  let x := (List.range (kpass o.mode)).map fun k => if zero || es.any (fun e => decide (e.2 = k)) then 0 else actElem o.mode o.asign bs k
  let ax := es.map fun e => if zero then 0 else sgn (sb.getD e.1 0#8).toNat 8
  let f := tileOfWord (orFlags f1 (orFlags f2 f3))
  ({ op := o, m := m, x := x, ax := ax, rs := rs,
     flags := { f with poison := f.poison || zero, missing := f.missing || (decide (o.rskind = 2) && rs.getLsbD 7) } }, s3)

/-- Rows m to m + n − 1 in order. -/
def readRows (s : State) (t : WeightTile) (o : StreamOp) (a m : Nat) : Nat → List FlyRow × State
  | 0 => ([], s)
  | n + 1 =>
    let got := readRow s t o a m
    let r := got.1
    let s1 := got.2
    let got2 := readRows s1 t o a (m + 1) n
    let rs := got2.1
    let s2 := got2.2
    (r :: rs, s2)

/-- The sump row of STREAM row m (R71). -/
def sumpRow (o : StreamOp) (m : Nat) : Nat := (32 * o.slot + m) % 512

/-- Does a sump row hold a finished tile not yet taken (R74)? -/
def rowFinished (a : ArrSt) (r : Nat) : Bool := a.fin.any fun t => (List.range t.nrows).any fun j => decide ((t.base + j) % 512 = r)

/-- Is a row in flight of a final pass to reach the slot of sump row r, where row m of STREAM o would enter, as part of another tile? That tile is not
yet emitted, and a block waits for it as for a finished one (R76; log entry 46). -/
def rowAwaited (a : ArrSt) (o : StreamOp) (m : Nat) : Bool :=
  a.fly.any fun f => f.op.final && decide (sumpRow f.op f.m / 32 = sumpRow o m / 32) &&
    !(decide (f.op = o) && decide (f.m < m) && decide (f.m / 32 = m / 32))

/-- Must a block with row m of STREAM o wait (R74, R76)? -/
def rowTaken (a : ArrSt) (o : StreamOp) (m : Nat) : Bool := rowFinished a (sumpRow o m) || rowAwaited a o m

/-- Write one array's state. -/
def putArr (ar : Arrays) (a : Nat) (x : ArrSt) : Arrays := { ar with arr := Tab.put {} ar.arr a x }

/-- A STREAM with final = 0 and more than 512 rows (R72, R428). -/
def overLong (o : StreamOp) : Bool := !o.final && decide (512 < o.rows)

/-- Has the pass of a STREAM over a weight tile an undefined result (R49, R72, R428)? -/
def undefinedPass (t : WeightTile) (o : StreamOp) : Bool := overLong o || twiceNamed (activeEntries t)

/-- A block of up to 8 rows enters array a, unless it must wait (R74). A pass with an undefined result reaches its context (R428). -/
def enterBlock (s : State) (ph a : Nat) (r : StreamRun) : Host.Outcome State Fault Refusal :=
  let ar := (chmOf s ph).ar
  let n := min 8 (r.op.rows - r.row)
  if (List.range n).any fun j => rowTaken (Tab.get {} ar.arr a) r.op (r.row + j) then .next s
  else
    let got := readRows s ar.act r.op a r.row n
    let rows := got.1
    let s1 := got.2
    let run := if r.op.rows ≤ r.row + n then none else some { r with row := r.row + n }
    let t := updAr s1 ph fun x =>
      let y := Tab.get {} x.arr a
      putArr x a { y with run := run, fly := y.fly ++ rows }
    .next (if undefinedPass ar.act r.op then strayContext (coreOf s ph).ctx t else t)

/-- A STREAM leaves the queue and runs on its group from row 0 (R70, R97). -/
def beginStream (ar : Arrays) (o : StreamOp) : Arrays :=
  (groupOf o.amask).foldl (fun x a => let y := Tab.get {} x.arr a; putArr x a { y with run := some { op := o } }) ar

/-- Can the array's STREAM begin: the group free of rows still to begin, the first block not waiting (R70, R74)? -/
def canBegin (ar : Arrays) (a : Nat) (o : StreamOp) : Bool :=
  bitAt o.amask a && !o.held && (groupOf o.amask).all fun g => (Tab.get {} ar.arr g).run.isNone

/-- STREAM_BLOCK_START: the next block of array a's STREAM enters; a queued STREAM begins with it (R70, R74). No block
starts while an interrupt is being entered (R114). -/
def execStreamBlockStart (ch : Fin 144) (a : Fin 4) (s : State) : Host.Outcome State Fault Refusal :=
  let h := chmOf s ch.val
  if h.core.entering.isSome || h.isolated || noClock s 0 then .next s
  else match (Tab.get {} h.ar.arr a.val).run with
    | some r => if r.held then .next s else enterBlock s ch.val a.val r
    | none => match h.ar.aq with
      | .stream o :: q =>
        if canBegin h.ar a.val o && !((List.range (min 8 o.rows)).any fun j => rowTaken (Tab.get {} h.ar.arr a.val) o j) then
          enterBlock (updAr s ch.val fun ar => pumpAldw (beginStream { ar with aq := q } o)) ch.val a.val { op := o }
        else .next s
      | _ => .next s

/-! ### Sump arithmetic (R42, R79 to R82) -/

/-- Weight w[k][c] of a tile (R33, R34, R66, R82). -/
def weightAt (t : WeightTile) (k c : Nat) : Int :=
  let byte (n : Nat) : Nat := (Tab.get 0#8 t.elem n).toNat
  if t.wfmt = 1 then sgn (byte (8 * k + c / 4) / 2 ^ (2 * (c % 4))) 2
  else if t.wfmt = 2 then sgn (byte (32 * k + c)) 8
  else
    let code := byte (16 * k + c / 2) / 2 ^ (4 * (c % 2)) % 16
    if t.wfmt = 3 then sgn (Tab.get 0#8 t.cbook code).toNat 8 else sgn code 4

/-- The sum of products of a row: the array's part. -/
def dotW (t : WeightTile) (c : Nat) : Nat → List Int → Int
  | _, [] => 0
  | k, x :: xs => weightAt t k c * x + dotW t c (k + 1) xs

/-- The alcove's part: entry e's weights are row e of the alcove plane (R50, R85). -/
def dotA (t : WeightTile) (c : Nat) : List (Nat × Nat) → List Int → Int
  | e :: es, x :: xs => sgn (Tab.get 0#8 t.alc (32 * e.1 + c)).toNat 8 * x + dotA t c es xs
  | _, _ => 0

/-- The exact partial sum of a row and column (R79). -/
def partialSum (t : WeightTile) (f : FlyRow) (c : Nat) : Int := dotW t c 0 f.x + dotA t c (activeEntries t) f.ax

/-- The contribution of a closed group and whether its scale is the E8M0 code 0xFF (R36, R42, R80). -/
def contrib (t : WeightTile) (c : Nat) (ga : Int) : Int × Bool :=
  let byte (n : Nat) : Nat := (Tab.get 0#8 t.scale n).toNat
  if t.skind then (asr (ga * Int.ofNat (byte (2 * c))) (byte (2 * c + 1) % 32), false)
  else if byte c = 0xFF then (0, true)
  else (scaleBy ga (Int.ofNat (byte c) - Int.ofNat t.xref), false)

/-- One column of a sump addition (R79): the new ga and wa, whether either saturated, whether a scale was 0xFF. -/
structure ColRes where
  ga : Int
  wa : Int
  satd : Bool
  poison : Bool
deriving DecidableEq, Repr

/-- R79 for one row and column. -/
def addColumn (t : WeightTile) (first close : Bool) (c : Nat) (ga0 wa0 p : Int) : ColRes :=
  let g := (if first then 0 else ga0) + p
  let ga := sat g 24
  let wa := if first then 0 else wa0
  if close then
    let (k, bad) := contrib t c ga
    let w := wa + k
    { ga := 0, wa := sat w 32, satd := decide (ga ≠ g) || decide (sat w 32 ≠ w), poison := bad }
  else { ga := ga, wa := wa, satd := decide (ga ≠ g), poison := false }

/-- The group size of a tile in input channels (R67). -/
def groupSize (t : WeightTile) : Nat := 32 * (t.gsize + 1)

/-- A column whose sums are free within their widths; a group that closes leaves its accumulator at zero (R72, R79, R428). -/
def strayColumn (n : Nat) (close : Bool) (c : Nat) : ColRes :=
  { ga := if close then 0 else sat (Config.straySum n (4 * c)) 24, wa := sat (Config.straySum n (4 * c + 1)) 32,
    satd := decide (Config.straySum n (4 * c + 2) = 0), poison := close && decide (Config.straySum n (4 * c + 3) = 0) }

/-- One column of the addition of a row: free sums for an over-long STREAM, a free partial sum where the outlier map names a channel
twice (R49, R72, R428), else R79. `n` numbers the free values. -/
def columnOf (n : Nat) (t : WeightTile) (f : FlyRow) (close : Bool) (old : SumpRow) (c : Nat) : ColRes :=
  if overLong f.op then strayColumn n close c
  else addColumn t f.op.first close c (Tab.get 0 old.ga c) (Tab.get 0 old.wa c)
    (if twiceNamed (activeEntries t) then Config.straySum n c else partialSum t f c)

/-- The row of a sump after the addition of a row (R75, R79, R81). The row scale byte is the last one a pass of the sum carried; a pass with
rskind 0 leaves an earlier pass's (R73, R78; log entry 46). -/
def addRow (n : Nat) (t : WeightTile) (f : FlyRow) (close : Bool) (old : SumpRow) : SumpRow :=
  let cols := (List.range 32).map (columnOf n t f close old)
  let fl0 := if f.op.first then {} else old.flags
  let fl := orTile (orTile fl0 f.flags) t.flags
  { ga := tabInts (cols.map (·.ga)), wa := tabInts (cols.map (·.wa)),
    flags := { fl with accSat := fl.accSat || cols.any (·.satd), poison := fl.poison || cols.any (·.poison) },
    rs := if f.op.rskind ≠ 0 then f.rs else if f.op.first then 0 else old.rs }

/-- Did the addition saturate a column? -/
def rowSat (n : Nat) (t : WeightTile) (f : FlyRow) (close : Bool) (old : SumpRow) : Bool :=
  (List.range 32).any fun c => (columnOf n t f close old c).satd

/-- The group counter that row m of a pass sees (R79): it counts once per slot per pass, with the slot's first row. -/
def countFor (t : WeightTile) (f : FlyRow) (sl : SlotSt) : Nat :=
  if f.m % 32 = 0 then (if f.op.first then 0 else sl.kcount) + (if t.wfmt = 1 then 64 else 32) else sl.kcount

/-- Is this the last row of its slot in the pass? -/
def lastOfSlot (f : FlyRow) : Bool := decide (f.m % 32 = 31) || decide (f.m + 1 = f.op.rows)

/-- One sump addition of array a (R75, R76, R79). -/
def addToSump (n : Nat) (t : WeightTile) (x : ArrSt) (f : FlyRow) (rest : List FlyRow) : ArrSt :=
  let r := sumpRow f.op f.m
  let sl := Tab.get {} x.slots (r / 32)
  let kc := countFor t f sl
  let close := decide (groupSize t ≤ kc) || f.op.final
  let lst := lastOfSlot f
  { x with
    fly := rest
    sump := Tab.put {} x.sump r (addRow n t f close (Tab.get {} x.sump r))
    slots := Tab.put {} x.slots (r / 32) { kcount := if lst && close then 0 else kc, tag := f.op.tag }
    fin := if f.op.final && lst then x.fin ++ [{ base := r - f.m % 32, nrows := f.m % 32 + 1, slot := r / 32, tag := f.op.tag }] else x.fin }

/-- SUMP_ADDITION: the oldest row in flight of array a is added (R79, R81). One with an undefined result reaches its context (R428). -/
def execSumpAddition (ch : Fin 144) (a : Fin 4) (s : State) : Host.Outcome State Fault Refusal :=
  let ar := (chmOf s ch.val).ar
  let x := Tab.get {} ar.arr a.val
  match (if noClock s 0 then [] else x.fly) with
  | [] => .next s
  | f :: rest =>
    let r := sumpRow f.op f.m
    let close := decide (groupSize ar.act ≤ countFor ar.act f (Tab.get {} x.slots (r / 32))) || f.op.final
    let hit := rowSat s.free ar.act f close (Tab.get {} x.sump r)
    let t := updAr s ch.val fun y =>
      { putArr y a.val (addToSump s.free y.act x f rest) with sat := if hit then setBit y.sat a.val true else y.sat }
    .next (if undefinedPass ar.act f.op then strayContext (coreOf s ch.val).ctx (draw t) else t)

/-! ### The dripline (R76 to R78, R151) -/

/-- The arrays in the order the dripline serves them (R77). -/
def takeOrder (last : Nat) : List Nat := (List.range 4).map fun k => (last + 1 + k) % 4

/-- The tile a sump offers (R78). -/
def tileOf (x : ArrSt) (a : Nat) (t : FinTile) : Tile :=
  let rows := (List.range t.nrows).map fun j => Tab.get {} x.sump ((t.base + j) % 512)
  { vals := tabInts (rows.flatMap fun r => (List.range 32).map fun c => Tab.get 0 r.wa c),
    flags := { rows.foldl (fun f r => orTile f r.flags) {} with late := false },
    vrows := t.nrows, arr := a, slot := t.slot, tag := t.tag, rs := tabBytes (rows.map (·.rs)) }

/-- The sump once the dripline has taken a tile: its rows and its slot's counter are clear (R76). -/
def clearTaken (x : ArrSt) (t : FinTile) (rest : List FinTile) : ArrSt :=
  { x with fin := rest, sump := (List.range t.nrows).foldl (fun m j => Tab.put {} m ((t.base + j) % 512) {}) x.sump,
           slots := Tab.upd {} x.slots t.slot fun sl => { sl with kcount := 0 } }

/-- DRIPLINE_TAKE: a finished tile enters the dripline, which holds 8 (R77, R151); a tile with POISON sets the array's
poison bit (R81). -/
def execDriplineTake (ch : Fin 144) (s : State) : Host.Outcome State Fault Refusal :=
  let h := chmOf s ch.val
  if decide (8 ≤ h.fl.dl.length) || noClock s 0 then .next s
  else match (takeOrder h.ar.lastArr).find? fun a => !(Tab.get {} h.ar.arr a).fin.isEmpty with
    | none => .next s
    | some a =>
      let x := Tab.get {} h.ar.arr a
      match x.fin with
      | [] => .next s
      | t :: rest =>
        let tile := tileOf x a t
        .next (updChm s ch.val fun c =>
          { c with ar := { putArr c.ar a (clearTaken x t rest) with
                             lastArr := a, poison := if tile.flags.poison then setBit c.ar.poison a true else c.ar.poison },
                   fl := { c.fl with dl := c.fl.dl ++ [tile] } })

/-! ### Holding STREAMs (R87, R114) -/

/-- Every running or queued STREAM is held. -/
def holdStreams (ar : Arrays) : Arrays :=
  { ar with aq := ar.aq.map (fun o => match o with | .stream p => .stream { p with held := true } | x => x),
            arr := Tab.mapListed {} (fun _ x => { x with run := x.run.map fun r => { r with held := true } }) ar.arr }

/-- STREAM_HOLD: on interrupt entry every running or queued STREAM is held at its block boundary (R87, R114). -/
def execStreamHold (ch : Fin 144) (s : State) : Host.Outcome State Fault Refusal :=
  if (coreOf s ch.val).entering.isSome then .next (updAr s ch.val holdStreams) else .next s

end Sys2Proof.Machine
end

