-- ==== Sys2Proof/Machine/ExecC.lean ====
section
/-!
DEFINITION. The operations of the C position at issue (R104, R108, R116, R118, R142 to R146).
-/
namespace Sys2Proof.Machine

/-- The relative target pc + 32 × offset, in the 40 bits of pc (R142, R143; log entry 13). -/
def relTarget (c : Core) (off : Int) : BitVec 40 := c.pc + BitVec.ofInt 40 (32 * off)

/-- The return address pc + 32 (R142). -/
def retAddr (c : Core) : DWord := BitVec.ofNat 64 (c.pc.toNat + 32)

/-- BR (R142). -/
def evBr (c : Core) (f : Nat) : OpRes := effs [.jump (relTarget c (sgn (fld f 28 9) 20))]

/-- CALL: rl := pc + 32 (R142). -/
def evCall (c : Core) (f : Nat) : OpRes := effs [.reg (fld f 15 9) (retAddr c), .jump (relTarget c (sgn (fld f 31 16) 16))]

/-- An indirect target: R129, then the 32-byte boundary (R143). -/
def indirect (pos : Nat) (t : DWord) (l : List Eff) : OpRes :=
  if !addrOk t.toNat || decide (t.toNat % 32 ≠ 0) then raise 5 pos (t.toNat % 2 ^ 40)
  else effs (l ++ [.jump (BitVec.ofNat 40 t.toNat)])

/-- JMP (R142, R143). -/
def evJmp (c : Core) (pos f : Nat) : OpRes := indirect pos (readReg c (fld f 15 9)) []

/-- CALLR (R142, R143). -/
def evCallr (c : Core) (pos f : Nat) : OpRes := indirect pos (readReg c (fld f 22 16)) [.reg (fld f 15 9) (retAddr c)]

/-- LOOP.BR (R104): while lc is not 0 it counts, rotates, sets p8 and branches. -/
def evLoopBr (c : Core) (f : Nat) : OpRes :=
  if c.lc = 0 then effs []
  else effs [.special 2 (c.lc - 1), .rotate (decide (c.ec.toNat ≤ (c.lc - 1).toNat)), .jump (relTarget c (sgn (fld f 28 9) 20))]

/-- LOOP.BR.N (R104). -/
def evLoopBrN (c : Core) (f : Nat) : OpRes :=
  if c.lc = 0 then effs [] else effs [.special 2 (c.lc - 1), .jump (relTarget c (sgn (fld f 28 9) 20))]

/-- Does the job's context own the cairn (R145)? -/
def ownsCairn (s : State) (c : Core) (n : Nat) : Bool := decide ((cairnOf s n).typ ≠ 0) && decide ((cairnOf s n).ctx = c.ctx)

/-- A cairn operation: BUS_ERROR with eaddr 0 when the cairn is not owned (R145). While the cairn network has no clock it waits, with stall
code 5 (R382, R385). -/
def evCairn (s : State) (c : Core) (pos n : Nat) (r : OpRes) : OpRes :=
  if ownsCairn s c n then (if noClock s 1 then { r with wait := some 5 } else r) else raise 6 pos 0

/-- The cairn named in the bundle, or in ra[15:0]. -/
def cairnImm (f : Nat) : Nat := fld f 24 9
def cairnReg (c : Core) (f : Nat) : Nat := (readReg c (fld f 15 9)).toNat % 65536

/-- A wait: ownership is checked at issue; a bundle that waits already has passed the check (R145, R342). -/
def evWait (s : State) (c : Core) (pos n rt : Nat) : OpRes :=
  let r : OpRes := { cairn := some n, effs := [.cnDone rt] }
  if c.waitCairn.isSome || c.grant.isSome then r else evCairn s c pos n r

/-- CN.SIG (R334, R142). -/
def evCnSig (s : State) (c : Core) (pos f : Nat) : OpRes := evCairn s c pos (cairnImm f) (effs [.cnAdd (cairnImm f) 1])
/-- CN.ADD (R334, R142). -/
def evCnAdd (s : State) (c : Core) (pos f : Nat) : OpRes :=
  evCairn s c pos (cairnImm f) (effs [.cnAdd (cairnImm f) (w32 (readReg c (fld f 31 25)).toNat)])
/-- CN.WAIT (R334, R142). -/
def evCnWait (s : State) (c : Core) (pos f : Nat) : OpRes :=
  evWait s c pos (cairnImm f) (fld f 31 25)
/-- CN.TRY (R335, R142). -/
def evCnTry (s : State) (c : Core) (pos f : Nat) : OpRes := evCairn s c pos (cairnImm f) (effs [.cnTry (cairnImm f) (fld f 28 25)])
/-- CN.SIGR (R142). -/
def evCnSigr (s : State) (c : Core) (pos f : Nat) : OpRes := evCairn s c pos (cairnReg c f) (effs [.cnAdd (cairnReg c f) 1])
/-- CN.ADDR (R142). -/
def evCnAddr (s : State) (c : Core) (pos f : Nat) : OpRes :=
  evCairn s c pos (cairnReg c f) (effs [.cnAdd (cairnReg c f) (w32 (readReg c (fld f 22 16)).toNat)])
/-- CN.WAITR (R142). -/
def evCnWaitr (s : State) (c : Core) (pos f : Nat) : OpRes :=
  evWait s c pos (cairnReg c f) (fld f 22 16)
/-- CN.TRYR (R142). -/
def evCnTryr (s : State) (c : Core) (pos f : Nat) : OpRes := evCairn s c pos (cairnReg c f) (effs [.cnTry (cairnReg c f) (fld f 19 16)])

/-- IRET (R116, R146). -/
def evIret (c : Core) (pos : Nat) : OpRes := if c.ibank then effs [.iret c.ipc] else raise 2 pos 0
/-- EXRET (R109, R146). -/
def evExret (c : Core) (pos : Nat) : OpRes := if c.xbank then effs [.exret c.epc] else raise 2 pos 0
/-- JOB.END: waits until the job's work has finished, with stall code 8 (R118). An A, F or SIPH.RUN operation of the same bundle is no earlier
work: it is queued as the bundle issues, and stays queued in the idle chamber (log entry 44). -/
def evJobEnd (s : State) (ph : Nat) : OpRes :=
  let h := chmOf s ph
  { wait := if arrWork h.ar || flsBusy h.fl || siphBusy s ph then some 8 else none, effs := [.jobEnd] }
/-- BREAK (R146). -/
def evBreak (pos : Nat) : OpRes := raise 8 pos 0

end Sys2Proof.Machine
end

