-- ==== Sys2Proof/Machine/ExecF.lean ====
section
/-!
DEFINITION. The operations of the F position at issue (R140, R141).
-/
namespace Sys2Proof.Machine

/-- The address of an F operation: ra + 32 × simm13 (R140). -/
def fAddr (c : Core) (f : Nat) : Nat := addr64 (readReg c (fld f 18 12)) (simm f 31 19 * 32)

/-- The checks every F operation shares, and its entry into the queue of 4 (R97, R141, R156). -/
def evF (s : State) (ph pos f len : Nat) (checkCtx store : Bool) (op : Nat → FOp) : OpRes :=
  let h := chmOf s ph
  let a := fAddr h.core f
  if !addrOk a then raise 5 pos (a % 2 ^ 40)
  else if !mappedRange a len then raise 5 pos a
  else if checkCtx && !chmMay s ph a len store then raise 6 pos a
  else { wait := if 4 ≤ h.fl.fq.length then some 4 else none, effs := [.fop (op a)] }

/-- FL.RUN: the 32-byte header is checked; its place in the own pocket is checked at launch (R141, R171). -/
def evFlRun (s : State) (ph pos f : Nat) : OpRes := evF s ph pos f 32 false false .run
/-- FL.LDT: 4,096 bytes. -/
def evFlLdt (s : State) (ph pos f : Nat) : OpRes := evF s ph pos f 4096 true false (.move .ldt (fld f 11 9))
/-- FL.STT: 4,096 bytes. -/
def evFlStt (s : State) (ph pos f : Nat) : OpRes := evF s ph pos f 4096 true true (.move .stt (fld f 11 9))
/-- FL.LDB: 128 bytes. -/
def evFlLdb (s : State) (ph pos f : Nat) : OpRes := evF s ph pos f 128 true false (.move .ldb (fld f 11 9))
/-- FL.STB: 128 bytes. -/
def evFlStb (s : State) (ph pos f : Nat) : OpRes := evF s ph pos f 128 true true (.move .stb (fld f 11 9))
/-- FL.LDM: 128 bytes. -/
def evFlLdm (s : State) (ph pos f : Nat) : OpRes := evF s ph pos f 128 true false (.move .ldm (fld f 11 9))
/-- FL.STM: 128 bytes. -/
def evFlStm (s : State) (ph pos f : Nat) : OpRes := evF s ph pos f 128 true true (.move .stm (fld f 11 9))

end Sys2Proof.Machine
end

