-- ==== Sys2Proof/Machine/ExecX.lean ====
section
/-!
DEFINITION. The operations of the X positions (R130 to R132): what each asks for at issue.
-/
namespace Sys2Proof.Machine

/-- A format R operation: rd := g ra src. -/
def evR (g : DWord → DWord → DWord) (c : Core) (f : Nat) : OpRes :=
  effs [.reg (fld f 17 11) (g (readReg c (fld f 24 18)) (srcR c f))]

/-- A format P operation: pt := ra cc src, pf := its complement. -/
def evP (cc : DWord → DWord → Bool) (c : Core) (f : Nat) : OpRes :=
  let b := cc (readReg c (fld f 25 19)) (srcP c f)
  effs [.pred (fld f 14 11) b, .pred (fld f 18 15) (!b)]

/-- The shift count src[5:0]. -/
def shCount (x : DWord) : Nat := x.toNat % 64

/-- NOP does nothing (R126). -/
def evNop : OpRes := effs []
/-- ADD (R130). -/
def evAdd (c : Core) (f : Nat) : OpRes := evR (fun a b => a + b) c f
/-- SUB (R130). -/
def evSub (c : Core) (f : Nat) : OpRes := evR (fun a b => a - b) c f
/-- AND (R130). -/
def evAnd (c : Core) (f : Nat) : OpRes := evR (fun a b => a &&& b) c f
/-- OR (R130). -/
def evOr (c : Core) (f : Nat) : OpRes := evR (fun a b => a ||| b) c f
/-- XOR (R130). -/
def evXor (c : Core) (f : Nat) : OpRes := evR (fun a b => a ^^^ b) c f
/-- SHL (R130). -/
def evShl (c : Core) (f : Nat) : OpRes := evR (fun a b => a <<< shCount b) c f
/-- SHR (R130). -/
def evShr (c : Core) (f : Nat) : OpRes := evR (fun a b => a >>> shCount b) c f
/-- SRA (R130). -/
def evSra (c : Core) (f : Nat) : OpRes := evR (fun a b => a.sshiftRight (shCount b)) c f
/-- MUL, the low 64 bits (R130). -/
def evMul (c : Core) (f : Nat) : OpRes := evR (fun a b => a * b) c f
/-- CONST.L: imm20 zero-extended (R130). -/
def evConstL (f : Nat) : OpRes := effs [.reg (fld f 17 11) (BitVec.ofNat 64 (fld f 37 18))]
/-- CONST.H: rd[39:20] := imm20, rd[19:0] kept, rd[63:40] zero or copies of bit 39 (R130, R131). -/
def evConstH (c : Core) (f : Nat) : OpRes :=
  let lowBits := (readReg c (fld f 17 11)).toNat % 2 ^ 20
  let v40 := lowBits + fld f 37 18 * 2 ^ 20
  effs [.reg (fld f 17 11) (if bitAt f 10 then BitVec.ofInt 64 (sgn v40 40) else BitVec.ofNat 64 v40)]

/-- CMP.EQ (R130). -/
def evCmpEq (c : Core) (f : Nat) : OpRes := evP condEq c f
/-- CMP.NE (R130). -/
def evCmpNe (c : Core) (f : Nat) : OpRes := evP condNe c f
/-- CMP.LT (R130). -/
def evCmpLt (c : Core) (f : Nat) : OpRes := evP condLt c f
/-- CMP.LE (R130). -/
def evCmpLe (c : Core) (f : Nat) : OpRes := evP condLe c f
/-- CMP.GT (R130). -/
def evCmpGt (c : Core) (f : Nat) : OpRes := evP condGt c f
/-- CMP.GE (R130). -/
def evCmpGe (c : Core) (f : Nat) : OpRes := evP condGe c f
/-- CMP.LTU (R130). -/
def evCmpLtu (c : Core) (f : Nat) : OpRes := evP condLtu c f
/-- CMP.GEU (R130). -/
def evCmpGeu (c : Core) (f : Nat) : OpRes := evP condGeu c f
/-- GETS: rd := special register s; s13 to s15 raise ILLEGAL_OPERAND (R132). -/
def evGets (s : State) (ph pos f : Nat) : OpRes :=
  if 12 < fld f 21 18 then raise 2 pos 0 else effs [.reg (fld f 17 11) (readSpecial s ph (fld f 21 18))]
/-- SETS: special register s := ra; a read-only or unknown register raises ILLEGAL_OPERAND (R103, R132). -/
def evSets (s : State) (ph pos f : Nat) : OpRes :=
  if writableSpecial (fld f 14 11) then effs [.special (fld f 14 11) (readReg (coreOf s ph) (fld f 24 18))] else raise 2 pos 0

end Sys2Proof.Machine
end

