-- ==== Sys2Proof/Machine/Issue.lean ====
section
/-!
DEFINITION. The issue of a bundle (R92 to R99, R109 to R112, R150) and the meaning of every command that names an operation
of a bundle. A command names a chamber, a position and the bundle its pc fetches; once a command has named every present
position, the bundle is at issue as a whole: it raises an exception, waits, or takes full effect.
-/
namespace Sys2Proof.Machine

/-- What an operation asks for at issue. -/
def evalOp (op : BOp) (s : State) (ph : Fin 144) (p f : Nat) (fin : Bool) : OpRes × State :=
  let c := coreOf s ph.val
  match op with
  | .nop => (evNop, s)
  | .add => (evAdd c f, s)
  | .sub => (evSub c f, s)
  | .and_ => (evAnd c f, s)
  | .or_ => (evOr c f, s)
  | .xor_ => (evXor c f, s)
  | .shl => (evShl c f, s)
  | .shr => (evShr c f, s)
  | .sra => (evSra c f, s)
  | .constL => (evConstL f, s)
  | .constH => (evConstH c f, s)
  | .cmpEq => (evCmpEq c f, s)
  | .cmpNe => (evCmpNe c f, s)
  | .cmpLt => (evCmpLt c f, s)
  | .cmpLe => (evCmpLe c f, s)
  | .cmpGt => (evCmpGt c f, s)
  | .cmpGe => (evCmpGe c f, s)
  | .cmpLtu => (evCmpLtu c f, s)
  | .cmpGeu => (evCmpGeu c f, s)
  | .mul => (evMul c f, s)
  | .gets => (evGets s ph.val p f, s)
  | .sets => (evSets s ph.val p f, s)
  | .ld => evLd s ph.val p f fin
  | .st => evSt s ph p f fin
  | .siphRun => (evSiphRun s ph.val p f, s)
  | .siphPoll => (evSiphPoll s ph.val f, s)
  | .fence => (evFence s ph.val f, s)
  | .aldw => evAldw s ph.val p f
  | .aswp => (evAswp s ph.val p, s)
  | .acfg => (evAcfg s ph.val p f, s)
  | .stream => (evStream s ph.val p f, s)
  | .flRun => (evFlRun s ph.val p f, s)
  | .flLdt => (evFlLdt s ph.val p f, s)
  | .flStt => (evFlStt s ph.val p f, s)
  | .flLdb => (evFlLdb s ph.val p f, s)
  | .flStb => (evFlStb s ph.val p f, s)
  | .flLdm => (evFlLdm s ph.val p f, s)
  | .flStm => (evFlStm s ph.val p f, s)
  | .br => (evBr c f, s)
  | .call => (evCall c f, s)
  | .jmp => (evJmp c p f, s)
  | .callr => (evCallr c p f, s)
  | .loopBr => (evLoopBr c f, s)
  | .loopBrN => (evLoopBrN c f, s)
  | .cnSig => (evCnSig s c p f, s)
  | .cnAdd => (evCnAdd s c p f, s)
  | .cnWait => (evCnWait s c p f, s)
  | .cnTry => (evCnTry s c p f, s)
  | .cnSigr => (evCnSigr s c p f, s)
  | .cnAddr => (evCnAddr s c p f, s)
  | .cnWaitr => (evCnWaitr s c p f, s)
  | .cnTryr => (evCnTryr s c p f, s)
  | .iret => (evIret c p, s)
  | .exret => (evExret c p, s)
  | .jobEnd => (evJobEnd s ph.val, s)
  | .break_ => (evBreak p, s)

/-- What a position asks for; nothing when it is empty or its predicate reads 0 (R93, R95). -/
def evalPos (s : State) (ph : Fin 144) (b : Bundle) (p : Pos) (fin : Bool) : OpRes × State :=
  let f := posField b p
  if !present b p || !readPred (coreOf s ph.val) (fld f 3 0) then ({}, s)
  else match opOf b p with
    | some op => evalOp op s ph (posCode p) f fin
    | none => ({}, s)

/-- What the positions of a bundle ask for, all reading the state before any effect (R94). -/
def evalBundle (s : State) (ph : Fin 144) (b : Bundle) : List Pos → OpRes × State
  | [] => ({}, s)
  | p :: r =>
    let got := evalPos s ph b p false
    let x := got.1
    let s1 := got.2
    let got2 := evalBundle s1 ph b r
    let y := got2.1
    let s2 := got2.2
    (joinRes x y, s2)

/-- The exceptions of the fetch (R99). -/
def fetchExcs (s : State) (ph : Nat) : List (Nat × Nat × Nat) :=
  let pc := (coreOf s ph).pc.toNat
  if !mappedRange pc 32 then [(5, 7, pc)] else if !chmMay s ph pc 32 false then [(6, 7, pc)] else []

/-- A recorded flowstone fault (R172). -/
def faultExcs (s : State) (ph : Nat) : List (Nat × Nat × Nat) := if (chmOf s ph).fl.faultPend then [(9, 7, 0)] else []

/-- Everything the bundle at the pc asks for, its own exceptions and those of the fetch, of its legality and of a recorded
flowstone fault among them. -/
def bundleAsks (s : State) (ph : Fin 144) (b : Bundle) : OpRes × State :=
  match fetchExcs s ph.val with
  | e :: _ => ({ excs := e :: faultExcs s ph.val }, s)
  | [] => match illegalPos b with
    | some p => ({ excs := [(1, p, 0)] }, s)
    | none =>
      let got := evalBundle s ph b allPos
      let r := got.1
      let s1 := got.2
      ({ r with excs := r.excs ++ faultExcs s ph.val }, s1)

/-- The wait or grant of the bundle at issue is withdrawn from its cairn (R338). -/
def withdrawIssue (s : State) (ph : Fin 144) : State :=
  let c := coreOf s ph.val
  match c.issue with
  | none => s
  | some i =>
    if c.waitCairn.isSome || c.grant.isSome then
      match (evalPos s ph i.word .c false).1.cairn with
      | some n => cairnWithdraw s ph.val n
      | none => s
    else s

/-- Take an exception of the bundle at issue (R109 to R112): its wait is withdrawn, and a requested halt holds at this boundary. -/
def raiseExc (s : State) (ph : Fin 144) (e : Nat × Nat × Nat) : State :=
  let s1 := takeExc (withdrawIssue s ph) ph.val e.1 e.2.1 e.2.2
  updChm s1 ph.val fun h => cancelEntry { h with core := { h.core with halted := h.core.haltReq, stepping := false } }

/-- An exception as a bundle reaches issue: a recorded flowstone fault is raised with it (R111, R172). -/
def raiseAt (s : State) (ph : Fin 144) (e : Nat × Nat × Nat) : State := updFl (raiseExc s ph e) ph.val fun f => { f with faultPend := false }

/-- The bundle stays at issue with a stall code (R92, R123). -/
def holdIssue (s : State) (ph : Nat) (b : Bundle) (done : List Pos) (acc : Option OutAcc) (es : List Eff) (code : Nat) : State :=
  updCore s ph fun c => { c with issue := some { word := b, done := done, acc := acc, effs := es }, stall := BitVec.ofNat 4 code }

/-- The cairn wait of a bundle: begun if it is not, and whether it is satisfied. -/
def cairnPhase (s : State) (ph : Nat) : Option Nat → Bool × State
  | none => (true, s)
  | some n =>
    let c := coreOf s ph
    if c.grant.isSome then (true, s)
    else if c.waitCairn.isSome then (false, s)
    else
      let s1 := cairnWait s n ph c.ctx
      ((coreOf s1 ph).grant.isSome, s1)

/-- A bundle whose every operation is named reaches issue: exceptions, then waits, then its access outside the own pocket, which goes out
while the effects of the other operations wait for it, or full effect. -/
def attempt (s : State) (ph : Fin 144) (b : Bundle) (done : List Pos) : Host.Outcome State Fault Refusal :=
  let got := bundleAsks s ph b
  let r := got.1
  let s1 := got.2
  match pickExc r.excs with
  | some e => .next (raiseAt s1 ph e)
  | none =>
    match r.wait with
    | some code => .next (holdIssue s1 ph.val b done none [] code)
    | none =>
      let got2 := cairnPhase s1 ph.val r.cairn
      let okay := got2.1
      let s2 := got2.2
      if !okay then .next (holdIssue s2 ph.val b done none [] 5)
      else match r.out with
        | some a => .next (holdIssue s2 ph.val b done (some a) r.effs 1)
        | none => .next (commit s2 ph.val r.effs)

/-- Can the chamber issue: a job runs, no double fault, not isolated, not halted (or stepping), no interrupt entry under
way, no access outstanding? -/
def canIssue (h : Chamber) : Bool :=
  h.core.active && !h.core.dbl && !h.isolated && (!h.core.halted || h.core.stepping) && h.core.entering.isNone && !accOut h.core

/-- Does the position of the bundle hold the operation? A bundle with every position empty counts as a NOP (R93). -/
def namesOp (op : BOp) (b : Bundle) (p : Pos) : Bool :=
  if allPos.any (present b) then present b p && decide (opOf b p = some op) else decide (op = .nop)

/-- The positions of the bundle named once `p` is; none when another bundle is at issue. -/
def namedWith (c : Core) (b : Bundle) (p : Pos) : Option (List Pos) :=
  match c.issue with
  | none => some [p]
  | some i => if i.word = b then some (if i.done.contains p then i.done else i.done ++ [p]) else none

/-- A command that names operation `op` at position `p` of the bundle `b` that chamber `ph` fetches. A fetch that fails, an
illegal bundle and a recorded flowstone fault act as soon as the bundle reaches issue. -/
def issueOp (op : BOp) (ph : Fin 144) (p : Pos) (b : Bundle) (s : State) : Host.Outcome State Fault Refusal :=
  let h := chmOf s ph.val
  if !canIssue h || noClock s 0 then .next s
  else match namedWith h.core b p with
    | none => .next s
    | some done =>
      if !(fetchExcs s ph.val).isEmpty || (illegalPos b).isSome || h.fl.faultPend then attempt s ph b done
      else if !namesOp op b p then .next s
      else if (allPos.filter (present b)).all done.contains then attempt s ph b done
      else .next (holdIssue s ph.val b done none [] h.core.stall.toNat)

/-- NOP at a position of a bundle. -/
def execNop (ch : Fin 144) (pos : Pos) (b : Bundle) (s : State) : Host.Outcome State Fault Refusal := issueOp .nop ch pos b s
/-- ADD at a position of a bundle. -/
def execAdd (ch : Fin 144) (pos : Pos) (b : Bundle) (s : State) : Host.Outcome State Fault Refusal := issueOp .add ch pos b s
/-- SUB at a position of a bundle. -/
def execSub (ch : Fin 144) (pos : Pos) (b : Bundle) (s : State) : Host.Outcome State Fault Refusal := issueOp .sub ch pos b s
/-- AND at a position of a bundle. -/
def execAnd (ch : Fin 144) (pos : Pos) (b : Bundle) (s : State) : Host.Outcome State Fault Refusal := issueOp .and_ ch pos b s
/-- OR at a position of a bundle. -/
def execOr (ch : Fin 144) (pos : Pos) (b : Bundle) (s : State) : Host.Outcome State Fault Refusal := issueOp .or_ ch pos b s
/-- XOR at a position of a bundle. -/
def execXor (ch : Fin 144) (pos : Pos) (b : Bundle) (s : State) : Host.Outcome State Fault Refusal := issueOp .xor_ ch pos b s
/-- SHL at a position of a bundle. -/
def execShl (ch : Fin 144) (pos : Pos) (b : Bundle) (s : State) : Host.Outcome State Fault Refusal := issueOp .shl ch pos b s
/-- SHR at a position of a bundle. -/
def execShr (ch : Fin 144) (pos : Pos) (b : Bundle) (s : State) : Host.Outcome State Fault Refusal := issueOp .shr ch pos b s
/-- SRA at a position of a bundle. -/
def execSra (ch : Fin 144) (pos : Pos) (b : Bundle) (s : State) : Host.Outcome State Fault Refusal := issueOp .sra ch pos b s
/-- CONST.L at a position of a bundle. -/
def execConstL (ch : Fin 144) (pos : Pos) (b : Bundle) (s : State) : Host.Outcome State Fault Refusal := issueOp .constL ch pos b s
/-- CONST.H at a position of a bundle. -/
def execConstH (ch : Fin 144) (pos : Pos) (b : Bundle) (s : State) : Host.Outcome State Fault Refusal := issueOp .constH ch pos b s
/-- CMP.EQ at a position of a bundle. -/
def execCmpEq (ch : Fin 144) (pos : Pos) (b : Bundle) (s : State) : Host.Outcome State Fault Refusal := issueOp .cmpEq ch pos b s
/-- CMP.NE at a position of a bundle. -/
def execCmpNe (ch : Fin 144) (pos : Pos) (b : Bundle) (s : State) : Host.Outcome State Fault Refusal := issueOp .cmpNe ch pos b s
/-- CMP.LT at a position of a bundle. -/
def execCmpLt (ch : Fin 144) (pos : Pos) (b : Bundle) (s : State) : Host.Outcome State Fault Refusal := issueOp .cmpLt ch pos b s
/-- CMP.LE at a position of a bundle. -/
def execCmpLe (ch : Fin 144) (pos : Pos) (b : Bundle) (s : State) : Host.Outcome State Fault Refusal := issueOp .cmpLe ch pos b s
/-- CMP.GT at a position of a bundle. -/
def execCmpGt (ch : Fin 144) (pos : Pos) (b : Bundle) (s : State) : Host.Outcome State Fault Refusal := issueOp .cmpGt ch pos b s
/-- CMP.GE at a position of a bundle. -/
def execCmpGe (ch : Fin 144) (pos : Pos) (b : Bundle) (s : State) : Host.Outcome State Fault Refusal := issueOp .cmpGe ch pos b s
/-- CMP.LTU at a position of a bundle. -/
def execCmpLtu (ch : Fin 144) (pos : Pos) (b : Bundle) (s : State) : Host.Outcome State Fault Refusal := issueOp .cmpLtu ch pos b s
/-- CMP.GEU at a position of a bundle. -/
def execCmpGeu (ch : Fin 144) (pos : Pos) (b : Bundle) (s : State) : Host.Outcome State Fault Refusal := issueOp .cmpGeu ch pos b s
/-- MUL at a position of a bundle. -/
def execMul (ch : Fin 144) (pos : Pos) (b : Bundle) (s : State) : Host.Outcome State Fault Refusal := issueOp .mul ch pos b s
/-- GETS. -/
def execGets (ch : Fin 144) (b : Bundle) (s : State) : Host.Outcome State Fault Refusal := issueOp .gets ch .x1 b s
/-- SETS. -/
def execSets (ch : Fin 144) (b : Bundle) (s : State) : Host.Outcome State Fault Refusal := issueOp .sets ch .x1 b s
/-- LD. -/
def execLd (ch : Fin 144) (b : Bundle) (s : State) : Host.Outcome State Fault Refusal := issueOp .ld ch .m b s
/-- ST. -/
def execSt (ch : Fin 144) (b : Bundle) (s : State) : Host.Outcome State Fault Refusal := issueOp .st ch .m b s
/-- SIPH.RUN. -/
def execSiphRun (ch : Fin 144) (b : Bundle) (s : State) : Host.Outcome State Fault Refusal := issueOp .siphRun ch .m b s
/-- SIPH.POLL. -/
def execSiphPoll (ch : Fin 144) (b : Bundle) (s : State) : Host.Outcome State Fault Refusal := issueOp .siphPoll ch .m b s
/-- FENCE. -/
def execFence (ch : Fin 144) (b : Bundle) (s : State) : Host.Outcome State Fault Refusal := issueOp .fence ch .m b s
/-- ALDW. -/
def execAldw (ch : Fin 144) (b : Bundle) (s : State) : Host.Outcome State Fault Refusal := issueOp .aldw ch .a b s
/-- ASWP. -/
def execAswp (ch : Fin 144) (b : Bundle) (s : State) : Host.Outcome State Fault Refusal := issueOp .aswp ch .a b s
/-- ACFG. -/
def execAcfg (ch : Fin 144) (b : Bundle) (s : State) : Host.Outcome State Fault Refusal := issueOp .acfg ch .a b s
/-- STREAM. -/
def execStream (ch : Fin 144) (b : Bundle) (s : State) : Host.Outcome State Fault Refusal := issueOp .stream ch .a b s
/-- FL.RUN. -/
def execFlRun (ch : Fin 144) (b : Bundle) (s : State) : Host.Outcome State Fault Refusal := issueOp .flRun ch .f b s
/-- FL.LDT. -/
def execFlLdt (ch : Fin 144) (b : Bundle) (s : State) : Host.Outcome State Fault Refusal := issueOp .flLdt ch .f b s
/-- FL.STT. -/
def execFlStt (ch : Fin 144) (b : Bundle) (s : State) : Host.Outcome State Fault Refusal := issueOp .flStt ch .f b s
/-- FL.LDB. -/
def execFlLdb (ch : Fin 144) (b : Bundle) (s : State) : Host.Outcome State Fault Refusal := issueOp .flLdb ch .f b s
/-- FL.STB. -/
def execFlStb (ch : Fin 144) (b : Bundle) (s : State) : Host.Outcome State Fault Refusal := issueOp .flStb ch .f b s
/-- FL.LDM. -/
def execFlLdm (ch : Fin 144) (b : Bundle) (s : State) : Host.Outcome State Fault Refusal := issueOp .flLdm ch .f b s
/-- FL.STM. -/
def execFlStm (ch : Fin 144) (b : Bundle) (s : State) : Host.Outcome State Fault Refusal := issueOp .flStm ch .f b s
/-- BR. -/
def execBr (ch : Fin 144) (b : Bundle) (s : State) : Host.Outcome State Fault Refusal := issueOp .br ch .c b s
/-- CALL. -/
def execCall (ch : Fin 144) (b : Bundle) (s : State) : Host.Outcome State Fault Refusal := issueOp .call ch .c b s
/-- JMP. -/
def execJmp (ch : Fin 144) (b : Bundle) (s : State) : Host.Outcome State Fault Refusal := issueOp .jmp ch .c b s
/-- CALLR. -/
def execCallr (ch : Fin 144) (b : Bundle) (s : State) : Host.Outcome State Fault Refusal := issueOp .callr ch .c b s
/-- LOOP.BR. -/
def execLoopBr (ch : Fin 144) (b : Bundle) (s : State) : Host.Outcome State Fault Refusal := issueOp .loopBr ch .c b s
/-- LOOP.BR.N. -/
def execLoopBrN (ch : Fin 144) (b : Bundle) (s : State) : Host.Outcome State Fault Refusal := issueOp .loopBrN ch .c b s
/-- CN.SIG. -/
def execCnSig (ch : Fin 144) (b : Bundle) (s : State) : Host.Outcome State Fault Refusal := issueOp .cnSig ch .c b s
/-- CN.ADD. -/
def execCnAdd (ch : Fin 144) (b : Bundle) (s : State) : Host.Outcome State Fault Refusal := issueOp .cnAdd ch .c b s
/-- CN.WAIT. -/
def execCnWait (ch : Fin 144) (b : Bundle) (s : State) : Host.Outcome State Fault Refusal := issueOp .cnWait ch .c b s
/-- CN.TRY. -/
def execCnTry (ch : Fin 144) (b : Bundle) (s : State) : Host.Outcome State Fault Refusal := issueOp .cnTry ch .c b s
/-- CN.SIGR. -/
def execCnSigr (ch : Fin 144) (b : Bundle) (s : State) : Host.Outcome State Fault Refusal := issueOp .cnSigr ch .c b s
/-- CN.ADDR. -/
def execCnAddr (ch : Fin 144) (b : Bundle) (s : State) : Host.Outcome State Fault Refusal := issueOp .cnAddr ch .c b s
/-- CN.WAITR. -/
def execCnWaitr (ch : Fin 144) (b : Bundle) (s : State) : Host.Outcome State Fault Refusal := issueOp .cnWaitr ch .c b s
/-- CN.TRYR. -/
def execCnTryr (ch : Fin 144) (b : Bundle) (s : State) : Host.Outcome State Fault Refusal := issueOp .cnTryr ch .c b s
/-- IRET. -/
def execIret (ch : Fin 144) (b : Bundle) (s : State) : Host.Outcome State Fault Refusal := issueOp .iret ch .c b s
/-- EXRET. -/
def execExret (ch : Fin 144) (b : Bundle) (s : State) : Host.Outcome State Fault Refusal := issueOp .exret ch .c b s
/-- JOB.END. -/
def execJobEnd (ch : Fin 144) (b : Bundle) (s : State) : Host.Outcome State Fault Refusal := issueOp .jobEnd ch .c b s
/-- BREAK. -/
def execBreak (ch : Fin 144) (b : Bundle) (s : State) : Host.Outcome State Fault Refusal := issueOp .break_ ch .c b s

/-- The access of a bundle completes (R150): its own exception, or the bundle takes full effect, the other operations as they asked at
issue. A flowstone fault recorded meanwhile waits for the next bundle that reaches issue (R111). -/
def finishAcc (s : State) (ch : Fin 144) (i : Issue) : State :=
  let got := evalPos s ch i.word .m true
  match pickExc got.1.excs with
  | some e => raiseExc got.2 ch e
  | none => commit got.2 ch.val (got.1.effs ++ i.effs)

/-- An outstanding access of a chamber completes, while the chamber and the fabric have their clocks (R150, R382, R385). -/
def completeAcc (store : Bool) (ch : Fin 144) (s : State) : Host.Outcome State Fault Refusal :=
  match (coreOf s ch.val).issue with
  | some i => match i.acc with
    | some a => if decide (a.store = store) && !noClock s 0 && !noClock s 1 then .next (finishAcc s ch i) else .next s
    | none => .next s
  | none => .next s

/-- LOAD_COMPLETION (R150, R184). -/
def execLoadCompletion (ch : Fin 144) (s : State) : Host.Outcome State Fault Refusal := completeAcc false ch s
/-- STORE_COMPLETION (R150). -/
def execStoreCompletion (ch : Fin 144) (s : State) : Host.Outcome State Fault Refusal := completeAcc true ch s

/-- FLOWSTONE_FAULT (R172, R111): raised on the bundle at issue, or on the one the pc fetches next. -/
def execFlowstoneFault (ch : Fin 144) (s : State) : Host.Outcome State Fault Refusal :=
  let h := chmOf s ch.val
  if !h.fl.faultPend || !canIssue h || noClock s 0 then .next s
  else match h.core.issue with
    | some i => attempt s ch i.word i.done
    | none => match pickExc (fetchExcs s ch.val ++ faultExcs s ch.val) with
      | some e => .next (raiseAt s ch e)
      | none => .next s

/-- A chamber program's access that is denied or no listed register: its running job takes the exception, named at the M position (R20,
R23). -/
def chmRefused (s : State) (ch : Fin 144) (cause a : Nat) : State :=
  let h := chmOf s ch.val
  if h.core.active && !h.core.dbl && !h.isolated && !noClock s 0 then raiseExc s ch (cause, 2, a) else s

/-- What a chamber's register write leaves: done, or the exception of its job: 6 a bus error, 5 an address error (R20, R23). -/
def chmWrote (ch : Fin 144) (a : Nat) : WrRes → State
  | .ok t => t
  | .bus t => chmRefused t ch 6 a
  | .addr t => chmRefused t ch 5 a

/-- An access of the Lantern that ends in an exception: 5 an address error, 6 a bus error; Nerzon logs it (R17; log entry 45). -/
def lanternExc (s : State) (cause a : Nat) : State := { s with err := { s.err with lexc := (cause, a) :: s.err.lexc } }

/-- What a register write leaves, by its requester. -/
def wroteBy (who : Agent) (a : Nat) (r : WrRes) : State :=
  match who with
  | .chamber ch => chmWrote ch a r
  | .lantern => match r with
    | .ok t => t
    | .bus t => lanternExc t 6 a
    | .addr t => lanternExc t 5 a
  | .host | .pciConfig => r.st

end Sys2Proof.Machine
end

