-- ==== Sys2Proof/Machine/Siph.lean ====
section
/-!
DEFINITION. Siphons (R190 to R204) and the patrol scrub (R181): chains, bursts of descriptors, the rows each kind moves,
transfer tiles and data errors, remote packets (R24, R372 to R375), faults and completion.
-/
namespace Sys2Proof.Machine

/-! ### Routes and remote packets (R371, R373, R375) -/

/-- The tag of the next remote packet: the initiating device in [31:26], a sequence number in [25:0] (R375). -/
def nextTag (e : Emx) : Word := BitVec.ofNat 32 (e.devid % 64 * 2 ^ 26 + e.txTag % 2 ^ 26)

/-- Send a remote packet and keep it as in flight. -/
def sendRemote (s : State) (r : Remote) (p : Packet) : State :=
  let e : Emx := { s.emx with txTag := s.emx.txTag + 1, remote := s.emx.remote ++ [{ r with sent := s.time.clk }] }
  sendPacket { s with emx := e } r.dev p

/-- A remote write of a siphon: packets of at most 256 bytes, posted in order (R370, R375). The global address is
device × 2^40 + address. -/
def sendWrites (s : State) (q d : Nat) (ctx : Option Nat) (g : Nat) (data : List Byte) (f : WFlags) : Nat → State
  | 0 => s
  | n + 1 =>
    if data.isEmpty then s
    else
      let t := nextTag s.emx
      let r : Remote := { tag := t, dev := g / 2 ^ 40, addr := g % 2 ^ 40, siphon := some q, desc := d, dest := none, tile := [], bad := false, sent := 0 }
      let s1 := sendRemote s r (.write (dev64 s.emx.devid) t (ctx.map dev64) (g % 2 ^ 40) (data.take 256) f)
      sendWrites s1 q d ctx (g + 256) (data.drop 256) f n

/-- A remote read of a row piece for a siphon. -/
def sendRead (s : State) (q d : Nat) (ctx : Option Nat) (g len dest : Nat) (tile : List (Nat × Nat)) : State :=
  let t := nextTag s.emx
  let r : Remote := { tag := t, dev := g / 2 ^ 40, addr := g % 2 ^ 40, siphon := some q, desc := d, dest := some (dest, len), tile := tile, bad := false, sent := 0 }
  sendRemote s r (.readReq (dev64 s.emx.devid) t (ctx.map dev64) (g % 2 ^ 40) len)

/-! ### Rows of a descriptor -/

/-- A row of a descriptor: its source (none for zeros, a pattern or a poisoned index), what stands in for a source, its
destination and length. Addresses are global. -/
structure Row where
  src : Option Nat
  fill : List Byte
  flags : WFlags
  dst : Nat
  len : Nat
deriving DecidableEq, Repr

/-- A siphon fault: kind, row, address. -/
abbrev SFault := Nat × Nat × Nat

/-- The context a chain's transfers are checked against and the logical chamber of its own pocket (R189, R190). -/
structure Checker where
  ctx : Option Nat
  own : Option Nat
deriving DecidableEq, Repr

/-- The fault of a local address for len bytes, none when it may be accessed (R17, R189, R196, R202). -/
def addrFault (s : State) (k : Checker) (a len : Nat) (store : Bool) : Option Nat :=
  if a % 8 ≠ 0 then some 2
  else if 2 ^ 40 ≤ a then some 3
  else match spaceOf a with
    | .unmapped | .ownCsr => some 3
    | .csr => some 4
    | _ =>
      if rangeEnd a < a + len then some 3
      else match k.ctx with
        | none => none
        | some c => if ctxMay s c k.own a len store then none else some 4

/-- The fault of a source or destination on device `dev`: a remote address is checked there for alignment alone here. -/
def endFault (s : State) (k : Checker) (dev a len : Nat) (store : Bool) : Option Nat :=
  if dev = s.emx.devid then addrFault s k a len store
  else if a % 8 ≠ 0 then some 2 else if 2 ^ 40 ≤ a then some 3 else none

/-- The header fields of a descriptor that say where its data lies: source device and base, destination device and base. -/
def srcDev (s : State) (d : List Word) : Nat := if tf d 0 23 23 = 1 then tf d 7 5 0 else s.emx.devid
def dstDev (s : State) (d : List Word) : Nat := if tf d 0 22 22 = 1 then tf d 7 11 6 else s.emx.devid
def srcBase (d : List Word) : Nat := taddr d 1 3 15 8
def dstBase (d : List Word) : Nat := taddr d 2 3 23 16

/-- Does a descriptor name a device that is not joined (R24, R202)? -/
def devFault (s : State) (d : List Word) : Bool :=
  [srcDev s d, dstDev s d].any fun v => decide (v ≠ s.emx.devid) && !(s.emx.joined && s.emx.members.contains v)

/-- Does a descriptor break a field rule of its kind (R192 to R195, R202)? -/
def kindFault (d : List Word) : Bool :=
  let kind := tf d 0 31 28
  decide (tf d 0 21 16 ≠ 0) ||
  (if kind = 1 then
    decide (tf d 3 7 0 ≠ 0) || decide (tf d 7 15 12 ≠ 0) || decide (tf d 5 31 16 = 0) || decide (tf d 5 15 0 = 0) ||
    decide (tf d 5 15 0 % 8 ≠ 0) || decide (4096 < tf d 5 15 0)
  else if kind = 2 then
    decide (tf d 0 24 24 ≠ 0) || decide (tf d 3 31 24 ≠ 0) || decide (tf d 3 7 0 ≠ 0) || decide (tf d 7 15 12 ≠ 0) ||
    decide (tf d 5 15 0 ≠ 0) || decide (tf d 5 31 16 = 0) || decide (wordAt d 4 = 0) || decide (wordAt d 4 % 8 ≠ 0) || decide (2 ^ 24 < wordAt d 4)
  else if kind = 3 then
    decide (tf d 0 24 23 ≠ 0) || decide (tf d 3 31 24 ≠ 0) || decide (tf d 3 15 0 ≠ 0) || decide (tf d 5 15 0 ≠ 0) ||
    decide (tf d 5 31 16 = 0) || decide (wordAt d 4 = 0) || decide (wordAt d 4 % 8 ≠ 0) || decide (2 ^ 24 < wordAt d 4) ||
    decide (wordAt d 6 ≠ 0) || decide (tf d 7 15 12 ≠ 0) || decide (tf d 7 5 0 ≠ 0)
  else if kind = 4 then
    decide (tf d 0 24 22 ≠ 0) || decide (wordAt d 2 ≠ 0) || decide (tf d 3 31 8 ≠ 0) || decide (wordAt d 4 ≠ 0) ||
    decide (wordAt d 5 ≠ 0) || decide (wordAt d 6 ≠ 0) || decide (wordAt d 7 ≠ 0)
  else true)

/-- The plan of a descriptor's rows up to its first fault, in row order, with the state after the index reads. -/
structure Plan where
  rows : List Row
  fault : Option SFault
  st : State
deriving Repr

/-- A GATHER index: its value, whether its word is POISON, the state after the read. -/
def readIndex (s : State) (d : List Word) (n : Nat) : Nat × Bool × State :=
  let w := if tf d 0 24 24 = 1 then 4 else 2
  let got := readBytes s (taddr d 4 3 31 24 + w * n) w
  let bs := got.1
  let f := got.2.1
  let s1 := got.2.2.2
  (leNat bs, f.poison, s1)

/-- Plan the rows of a GATHER from row n (R193, R196, R202): index, source, destination are checked before the row's first
access; a hole writes zeros, a poisoned index word zeros with POISON. -/
def planGather (k : Checker) (d : List Word) (s : State) (n : Nat) : Nat → Plan
  | 0 => { rows := [], fault := none, st := s }
  | fuel + 1 =>
    let w := if tf d 0 24 24 = 1 then 4 else 2
    let ia := taddr d 4 3 31 24 + w * n
    let len := tf d 5 15 0
    let da := dstBase d + n * tf d 7 31 16
    match (if taddr d 4 3 31 24 % 8 ≠ 0 then some 2 else addrFault s k (ia / 8 * 8) 8 false) with
    | some e => { rows := [], fault := some (e, n, ia), st := s }
    | none =>
      let got := readIndex s d n
      let j := got.1
      let bad := got.2.1
      let s1 := got.2.2
      let hole := decide (j = 2 ^ (8 * w) - 1)
      let sa := srcBase d + j * wordAt d 6
      match (if bad || hole then none else endFault s1 k (srcDev s1 d) sa len false) with
      | some e => { rows := [], fault := some (e, n, sa % 2 ^ 40), st := s1 }
      | none =>
        match endFault s1 k (dstDev s1 d) da len true with
        | some e => { rows := [], fault := some (e, n, da % 2 ^ 40), st := s1 }
        | none =>
          let row : Row :=
            { src := if bad || hole then none else some (2 ^ 40 * srcDev s1 d + sa), fill := List.replicate len 0#8,
              flags := { poison := bad, missing := false }, dst := 2 ^ 40 * dstDev s1 d + da, len := len }
          let p := planGather k d s1 (n + 1) fuel
          { p with rows := row :: p.rows }

/-- Plan the rows of a BLOCK or FILL from row n (R194, R195). -/
def planBlock (k : Checker) (d : List Word) (s : State) (n : Nat) : Nat → Plan
  | 0 => { rows := [], fault := none, st := s }
  | fuel + 1 =>
    let isFill := decide (tf d 0 31 28 = 3)
    let len := wordAt d 4
    let sa := srcBase d + n * wordAt d 6
    let da := dstBase d + n * tf d 7 31 16
    match (if isFill then none else endFault s k (srcDev s d) sa len false) with
    | some e => { rows := [], fault := some (e, n, sa % 2 ^ 40), st := s }
    | none =>
      match endFault s k (dstDev s d) da len true with
      | some e => { rows := [], fault := some (e, n, da % 2 ^ 40), st := s }
      | none =>
        let pat := leBytes (wordAt d 1) 4
        let row : Row :=
          { src := if isFill then none else some (2 ^ 40 * srcDev s d + sa),
            fill := if isFill then (List.replicate (len / 4) pat).flatten else [], flags := noFlags,
            dst := 2 ^ 40 * dstDev s d + da, len := len }
        let p := planBlock k d s (n + 1) fuel
        { p with rows := row :: p.rows }

/-- Does the source of some row overlap the destination of some row of the descriptor (R200, R428)? -/
def selfOverlap (rows : List Row) : Bool :=
  rows.any fun r => match r.src with
    | none => false
    | some a => rows.any fun x => overlaps a r.len x.dst x.len

/-! ### Moving rows (R183, R198, R201) -/

/-- A piece of a row within one transfer tile. `src` is the global source of a piece that a remote read fetches. -/
structure Piece where
  src : Option Nat
  data : List Byte
  flags : WFlags
  dst : Nat
  len : Nat
  tile : Nat
deriving DecidableEq, Repr

/-- A row as read: its bytes, the OR of its word flags, whether a read failed; a remote source is not read yet. -/
structure ReadRow where
  row : Row
  data : List Byte
  flags : WFlags
  bad : Bool
deriving DecidableEq, Repr

/-- The data of one row: read where its source is on this device, the pattern of a FILL, and nothing yet where the source is remote. -/
def readSource (s : State) (r : Row) : ReadRow × State :=
  match r.src with
  | none => ({ row := r, data := r.fill, flags := r.flags, bad := false }, s)
  | some g =>
    if g / 2 ^ 40 = s.emx.devid then
      let got := readBytes s (g % 2 ^ 40) r.len
      ({ row := { r with src := none }, data := got.1, flags := got.2.1, bad := got.2.2.1 }, got.2.2.2)
    else ({ row := r, data := [], flags := noFlags, bad := false }, s)

/-- Read the local sources of rows in order. -/
def readSources (s : State) : List Row → List ReadRow × State
  | [] => ([], s)
  | r :: rs =>
    let got := readSource s r
    let got2 := readSources got.2 rs
    (got.1 :: got2.1, got2.2)

/-- Split row n into the pieces of its transfer tiles: 32 destination rows of a GATHER, 4 KiB of destination data of a BLOCK
or FILL (R198). -/
def rowPieces (gather : Bool) (n : Nat) (x : ReadRow) : List Piece :=
  let one (o l t : Nat) : Piece :=
    { src := x.row.src.map (· + o), data := (x.data.drop o).take l, flags := x.flags, dst := x.row.dst + o, len := l, tile := t }
  if gather then [one 0 x.row.len (n / 32)]
  else
    let p := n * x.row.len
    (List.range ((p + x.row.len - 1) / 4096 - p / 4096 + 1)).map fun k =>
      let t := p / 4096 + k
      let lo := max p (4096 * t)
      one (lo - p) (min (p + x.row.len) (4096 * (t + 1)) - lo) t

/-- The transfer tiles that hold a failing row, of rows from row n on (R201). -/
def badTiles (gather : Bool) (n : Nat) (xs : List ReadRow) : List Nat :=
  (((List.range xs.length).zip xs).filter fun e => e.2.bad).flatMap fun e => (rowPieces gather (n + e.1) e.2).map (·.tile)

/-- Write one piece to its destination. -/
def putPiece (s : State) (q d : Nat) (ctx : Option Nat) (bad : List Nat) (all : List Piece) (p : Piece) : State :=
  match p.src with
  | some g => sendRead s q d ctx g p.len p.dst ((all.filter fun x => decide (x.tile = p.tile)).map fun x => (x.dst, x.len))
  | none =>
    let z := bad.contains p.tile
    let data := if z then List.replicate p.len 0#8 else p.data
    let f : WFlags := if z then { poison := true, missing := false } else p.flags
    if p.dst / 2 ^ 40 = s.emx.devid then writeMem s (p.dst % 2 ^ 40) data f
    else sendWrites s q d ctx p.dst data f (p.len / 256 + 1)

/-- Write rows as read, the first of them row n of its descriptor. -/
def putRows (s : State) (q d : Nat) (ctx : Option Nat) (gather : Bool) (n : Nat) (xs : List ReadRow) : State :=
  let ps := ((List.range xs.length).zip xs).flatMap fun e => rowPieces gather (n + e.1) e.2
  ps.foldl (fun st p => putPiece st q d ctx (badTiles gather n xs) ps p) s

/-- Move the rows of BLOCK or FILL descriptor d. -/
def moveRows (s : State) (q d : Nat) (ctx : Option Nat) (rows : List Row) : State :=
  let got := readSources s rows
  putRows got.2 q d ctx false 0 got.1

/-- Write the transfer tiles of a GATHER that wait, each with its number. -/
def putTiles (q d : Nat) (ctx : Option Nat) (w : List (Nat × List ReadRow)) (s : State) : State :=
  w.foldl (fun st t => putRows st q d ctx true (32 * t.1) t.2) s

/-- Move the rows of GATHER d, `total` of them, tile t and the rest: a tile is read while at most 4 earlier ones wait to be written, how many is free
(R198). -/
def gatherTiles (k : Checker) (d : List Word) (q id total : Nat) : Nat → Nat → List (Nat × List ReadRow) → State → Plan
  | 0, _, w, s => { rows := [], fault := none, st := putTiles q id k.ctx w s }
  | fuel + 1, t, w, s =>
    let cut := w.length - Config.readAhead s.free t % 5
    let p := planGather k d (putTiles q id k.ctx (w.take cut) s) (32 * t) (min 32 (total - 32 * t))
    let got := readSources p.st p.rows
    let w1 := w.drop cut ++ [(t, got.1)]
    match p.fault with
    | some f => { rows := p.rows, fault := some f, st := putTiles q id k.ctx w1 got.2 }
    | none =>
      let r := gatherTiles k d q id total fuel (t + 1) w1 got.2
      { r with rows := p.rows ++ r.rows }

/-! ### Chains (R191, R197, R199, R203) -/

/-- A siphon's chain ends (R209). -/
def endChain (x : Siphon) : Siphon := { x with chain := none, chains := x.chains + 1 }

/-- End the chain once it has ended and no descriptor is incomplete. -/
def settleChain (x : Siphon) : Siphon :=
  match x.chain with
  | some c => if c.ended && c.pend.isEmpty then endChain x else x
  | none => x

/-- Stop the chain with a fault (R203); earlier descriptors still complete. -/
def siphFault (s : State) (q : Nat) (f : SFault) : State :=
  let s1 := updSiph s q fun x =>
    settleChain { x with fkind := f.1, fault := true, faultKind := f.1, faultRow := f.2.1, faultAddr := f.2.2,
                         chain := x.chain.map fun c => { c with burst := [], ended := true } }
  if q < 288 then raiseChm s1 (q / 2) (1 + q % 2) else s1

/-- Who a siphon's transfers are checked as. -/
def checkerOf (s : State) (q : Nat) (c : Chain) : Checker :=
  { ctx := c.ctx, own := if q < 288 then (chmOf s (q / 2)).logical else none }

/-- Has a siphon no clock: its own domain's, or the fabric's (R382, R385)? -/
def siphStopped (s : State) (q : Nat) : Bool := noClock s 1 || (decide (q < 288) && noClock s 0)

/-- The chain a siphon starts next: the oldest queued, or on a gallery siphon one of Nerzon's (R190; log entry 47). -/
def nextChain (s : State) (q : Nat) : Option (Nat × Word × Option Nat) :=
  match (siphOf s q).queue with
  | e :: _ => some e
  | [] => if q < 288 then none else Config.nerzonChain s.free

/-- CHAIN_START: the next chain starts; an address not a multiple of 32 takes the ALIGN fault (R191). -/
def execChainStart (q : Fin 352) (s : State) : Host.Outcome State Fault Refusal :=
  if (siphOf s q.val).chain.isSome || siphStopped s q.val then .next s
  else match nextChain s q.val with
    | none => .next s
    | some (a, tag, ctx) =>
      let c : Chain := { tag := tag, ctx := ctx, next := a, burst := [], pend := [], ended := false }
      let s1 := updSiph (draw s) q.val fun y => { y with queue := y.queue.drop 1, chain := some c, desc := 0, chainDesc := a }
      .next (if a % 32 ≠ 0 then siphFault s1 q.val (2, 0, a) else s1)

/-- Read up to n descriptors from `a`: a burst ends at the end of the mapped range, and at an address the chain may not read (R197). -/
def readBurst (s : State) (k : Checker) (a : Nat) : Nat → List (Nat × List Word) × State
  | 0 => ([], s)
  | n + 1 =>
    if (addrFault s k a 32 false).isSome then ([], s)
    else
      let got := readMemWords s a 8
      let got2 := readBurst got.2.2 k (a + 32) n
      ((a, got.1) :: got2.1, got2.2)

/-- What a burst keeps: the descriptors after one with last = 1, or after a LINK, are discarded unused (R197). -/
def keepBurst : List (Nat × List Word) → List (Nat × List Word)
  | [] => []
  | e :: r => if decide (tf e.2 0 27 27 = 1) || decide (tf e.2 0 31 28 = 4) then [e] else e :: keepBurst r

/-- DESCRIPTOR_FETCH: a burst of 8 descriptors from the one needed next (R197, R202). -/
def execDescriptorFetch (q : Fin 352) (s : State) : Host.Outcome State Fault Refusal :=
  match (siphOf s q.val).chain with
  | some c =>
    if c.ended || !c.burst.isEmpty || siphStopped s q.val then .next s
    else
      let k := checkerOf s q.val c
      match addrFault s k c.next 32 false with
      | some e => .next (siphFault (updSiph s q.val fun x => { x with chainDesc := c.next }) q.val (e, 0, c.next))
      | none =>
        let got := readBurst s k c.next 8
        .next (updSiph got.2 q.val fun x => { x with chain := some { c with burst := keepBurst got.1 } })
  | none => .next s

/-- The descriptor a chain runs next, unless wfence holds it (R192). -/
def headDesc (x : Siphon) : Option (Chain × Nat × List Word) :=
  match x.chain with
  | some c => match c.burst with
    | (a, d) :: _ => if decide (tf d 0 25 25 = 1) && !c.pend.isEmpty then none else some (c, a, d)
    | [] => none
  | none => none

/-- The bytes rows write on this device. -/
def localDests (s : State) (rows : List Row) : List (Nat × Nat) :=
  (rows.filter fun r => decide (r.dst / 2 ^ 40 = s.emx.devid)).map fun r => (r.dst % 2 ^ 40, r.len)

/-- The descriptor has moved its rows: it is incomplete until its remote packets are answered (R199). -/
def pushDesc (s : State) (q id a : Nat) (d : List Word) (rows : List Row) : State :=
  let pd : PendDesc := { id := id, cairn := if tf d 0 26 26 = 1 then some (tf d 0 15 0) else none,
                         outstanding := (s.emx.remote.filter fun r => decide (r.siphon = some q) && decide (r.desc = id)).length,
                         last := decide (tf d 0 27 27 = 1), dests := localDests s rows }
  updSiph s q fun x => { x with chainDesc := a, chain := x.chain.map fun c =>
    { c with burst := c.burst.drop 1, next := a + 32, pend := c.pend ++ [pd], ended := decide (tf d 0 27 27 = 1) } }

/-- The reach of a descriptor whose source overlaps its destination: the bytes it writes here, and its context's (R200, R428). -/
def moveReach (s : State) (ctx : Option Nat) (rows : List Row) (a : Nat) : Bool :=
  (rows.any fun r => decide (r.dst / 2 ^ 40 = s.emx.devid) && within a 1 (r.dst % 2 ^ 40) r.len) ||
  match ctx with
  | some k => inReach s k a
  | none => false

/-- A descriptor whose source overlaps its destination has moved its rows: the bytes of its reach take free values, and of a context
its tile flags and jobs too (R200, R428). -/
def strayMove (ctx : Option Nat) (rows : List Row) (s : State) : State :=
  let s1 := strayBytes (moveReach s ctx rows) (draw s)
  match ctx with
  | some k => strayJobs k (strayFlags k s1)
  | none => s1

/-- The chains of other siphons with an incomplete descriptor that writes one of the same bytes (R200). -/
def clashing (s : State) (q : Nat) (rows : List Row) : List Chain :=
  (s.siph.filter fun e => decide (e.1 ≠ q)).filterMap fun e => e.2.chain.bind fun c =>
    if c.pend.any fun p => (localDests s rows).any fun r => hits r.1 r.2 p.dests then some c else none

/-- The undefined results a descriptor's rows meet once they have moved: its source over its destination, another siphon's writes in the same bytes,
bytes that an operation is reading (R200, R428). -/
def afterMove (q : Nat) (ctx : Option Nat) (rows : List Row) (s : State) : State :=
  let s1 := if selfOverlap rows || !(clashing s q rows).isEmpty then strayMove ctx rows s else s
  let s2 := (clashing s q rows).foldl (fun t c => strayMove c.ctx [] t) s1
  (localDests s rows).foldl (fun t r => watchWrite t r.1 r.2) s2

/-- Run the rows of a GATHER, BLOCK or FILL descriptor. -/
def runDesc (s : State) (q : Nat) (c : Chain) (a : Nat) (d : List Word) : Host.Outcome State Fault Refusal :=
  let k := checkerOf s q c
  let n := tf d 5 31 16
  let id := s.emx.descs
  let s0 : State := { s with emx := { s.emx with descs := id + 1 } }
  let p := if tf d 0 31 28 = 1 then gatherTiles k d q id n ((n + 31) / 32) 0 [] (draw s0)
           else let b := planBlock k d s0 0 n; { b with st := moveRows b.st q id c.ctx b.rows }
  let s1 := afterMove q c.ctx p.rows p.st
  match p.fault with
  | some f => .next (siphFault (updSiph s1 q fun x => { x with chainDesc := a }) q f)
  | none => .next (pushDesc s1 q id a d p.rows)

/-- Is the next address of a LINK unmapped (R17, R195)? CSR space is mapped: the fetch there is denied (R202). -/
def linkUnmapped (nx : Nat) : Bool :=
  match spaceOf nx with
  | .unmapped | .ownCsr => true
  | _ => false

/-- A LINK is reached (R195): its cairn is signalled, after those of earlier descriptors (R199), and the chain goes on at its next address or ends. -/
def runLink (s : State) (q : Nat) (c : Chain) (a : Nat) (d : List Word) : State :=
  let nx := taddr d 1 3 7 0
  let s0 := updSiph s q fun x => { x with chainDesc := a }
  if nx % 32 ≠ 0 then siphFault s0 q (2, 0, nx)
  else if linkUnmapped nx then siphFault s0 q (3, 0, nx)
  else
    let lst := decide (tf d 0 27 27 = 1)
    let cn := if tf d 0 26 26 = 1 then some (tf d 0 15 0) else none
    if c.pend.isEmpty then
      let s1 := updSiph s0 q fun x =>
        settleChain { x with desc := x.desc + 1, chain := x.chain.map fun y => { y with burst := [], next := nx, ended := lst } }
      match cn with | some n => cairnSignalOpt s1 c.ctx n | none => s1
    else updSiph s0 q fun x => { x with chain := x.chain.map fun y =>
      { y with burst := [], next := nx, ended := lst, pend := y.pend ++ [{ id := 0, cairn := cn, outstanding := 0, last := lst }] } }

/-- The descriptor at the head of the burst starts, if it is of kind `kind`; a reserved kind takes the KIND fault. -/
def startDesc (kind : Nat) (q : Fin 352) (s : State) : Host.Outcome State Fault Refusal :=
  match (if siphStopped s q.val then none else headDesc (siphOf s q.val)) with
  | none => .next s
  | some (c, a, d) =>
    let k := tf d 0 31 28
    let at_ := updSiph s q.val fun x => { x with chainDesc := a }
    if decide (k ≠ kind) && decide (1 ≤ k) && decide (k ≤ 4) then .next s
    else if kindFault d then .next (siphFault at_ q.val (1, 0, a))
    else if decide (k ≠ 4) && devFault s d then .next (siphFault at_ q.val (5, 0, a))
    else if k = 4 then .next (runLink s q.val c a d)
    else runDesc s q.val c a d

/-- GATHER (R193). -/
def execGather (q : Fin 352) (s : State) : Host.Outcome State Fault Refusal := startDesc 1 q s
/-- BLOCK (R194). -/
def execBlock (q : Fin 352) (s : State) : Host.Outcome State Fault Refusal := startDesc 2 q s
/-- FILL (R195). -/
def execFill (q : Fin 352) (s : State) : Host.Outcome State Fault Refusal := startDesc 3 q s
/-- LINK (R195). -/
def execLink (q : Fin 352) (s : State) : Host.Outcome State Fault Refusal := startDesc 4 q s

/-- DESCRIPTOR_COMPLETE: the oldest incomplete descriptor has every write answered; its cairn is signalled (R199). -/
def execDescriptorComplete (q : Fin 352) (s : State) : Host.Outcome State Fault Refusal :=
  match (siphOf s q.val).chain with
  | some c => match c.pend with
    | p :: r =>
      if decide (p.outstanding ≠ 0) || siphStopped s q.val then .next s
      else
        let s1 := updSiph s q.val fun x => settleChain { x with desc := x.desc + 1, chain := some { c with pend := r } }
        .next (match p.cairn with | some n => cairnSignalOpt s1 c.ctx n | none => s1)
    | [] => .next s
  | none => .next s

/-! ### The patrol scrub (R181, R185) -/

/-- Scrub one HBM access: a corrected error is counted and rewritten, an uncorrectable one rewritten as POISON. -/
def scrubOne (s : State) (e : Nat × EccErr) : State :=
  if 0x0C00000000 ≤ e.1 * 8 then s
  else match e.2 with
    | .ce => let s1 := correctedAt s (e.1 * 8) (e.1 * 8); { s1 with memErr := Tab.put .none_ s1.memErr e.1 .none_ }
    | .ue => rewriteUnit (uncorrectableAt s (e.1 * 8) (e.1 * 8)) (e.1 * 8)
    | .none_ => s

/-- PATROL_SCRUB: all of HBM is read and rewritten (R181). -/
def execPatrolScrub (s : State) : Host.Outcome State Fault Refusal := .next (s.memErr.foldl scrubOne s)

end Sys2Proof.Machine
end

