-- ==== Sys2Proof/Machine/Nci.lean ====
section
/-!
DEFINITION. The Nerzon Command Interface (R321 to R324): taking a request, the checks common to every command, the reply.
-/
namespace Sys2Proof.Machine

/-- The opcodes of the command tables. -/
def knownOp (op : Nat) : Bool :=
  [(0x0000, 8), (0x0100, 7), (0x0200, 9), (0x0300, 6), (0x0400, 6), (0x0500, 5), (0x0600, 8), (0x0700, 5), (0x0800, 10), (0x0900, 6)].any
    fun r => decide (r.1 ≤ op) && decide (op < r.1 + r.2)

/-- The commands a context session may not issue (R324). -/
def systemOnly (op : Nat) : Bool :=
  [0x0100, 0x0103, 0x0106, 0x0200, 0x0201, 0x0204, 0x0205, 0x0208, 0x0300].contains op || (decide (0x0600 ≤ op) && decide (op < 0x0A00))

/-- The 16 words of a pair's request mailbox. -/
def reqWords (s : State) (k : Nat) : List Word := (List.range 16).map fun n => Tab.get 0 (pairOf s k).req.w n

/-- What a command finds: the checks of its own table entry that fail, the contexts it names, and, when it acts, its return
code, its reply words from word 2 on and the state after it. `after` is what follows the reply, given the code. -/
structure NciRes where
  bad : Bool := false
  denied : Bool := false
  busy : Bool := false
  nores : Bool := false
  ctxs : List Nat := []
  code : Nat := 0
  words : List Word := []
  st : State
  after : Nat → State → State := fun _ t => t

/-- The context a session is bound to; none for a system session (R324). -/
def sessionCtx (s : State) (k : Nat) : Option Nat :=
  if 32 ≤ k then some (coreOf s (k - 32)).ctx
  else if (pairOf s k).ctxRole then some (pairOf s k).ctx else none

/-- Is the request's epoch stale (R323, R324)? A chamber pair has its running job's session at epoch 0; SESSION_OPEN on a host
pair is checked with epoch 0. -/
def staleEpoch (s : State) (k op ep : Nat) : Bool :=
  if 32 ≤ k then decide (ep ≠ 0) || !((coreOf s (k - 32)).active || decide (op = 0))
  else if op = 0 then decide (ep ≠ 0)
  else !(pairOf s k).isOpen || decide (ep ≠ (pairOf s k).epoch.toNat)

/-- Does a request set a bit outside the masks its fields have? `masks` are for words 1 onward; a word beyond them is reserved
(R11). -/
def reservedBits (masks : List Nat) (ws : List Word) : Bool :=
  (List.range 15).any fun n => decide (wordAt ws (n + 1) &&& masks.getD n 0 ≠ wordAt ws (n + 1))

/-- The return code of a request whose epoch is good: the first that applies in the order of R323. -/
def nciCode (op : Nat) (ses : Option Nat) (masks : List Nat) (ws : List Word) (r : NciRes) : Nat :=
  let foreign := match ses with
    | none => false
    | some c => systemOnly op || r.ctxs.any fun x => decide (x ≠ c)
  if reservedBits masks ws || r.bad then 2
  else if foreign || r.denied then 4
  else if r.busy then 1
  else if r.nores then 3
  else r.code

/-- Does a return code say that the command took effect? -/
def codeActs (c : Nat) : Bool := decide (c = 0) || decide (c = 6) || decide (c = 7)

/-- The reply of a command (R321): the code, the request's epoch and tag, its word 1, and the command's own words. -/
def replyWords (ws : List Word) (code : Nat) (more : List Word) : List Word :=
  let w0 := mkWord [(code, 16), (wordAt ws 0 % 2 ^ 16, 0)]
  let l := w0 :: ws.getD 1 0 :: more
  (l ++ List.replicate 16 0#32).take 16

/-- The request at the head of Nerzon's order, when Nerzon runs, is free and the request is of the pair named (R322). -/
def takesRequest (s : State) (k : Nat) : Bool :=
  decide (s.sts.state = 3) && !noClock s 2 && s.nci.isNone && decide (s.nciQ.head? = some k) && (pairOf s k).req.full

/-- Nerzon finds an internal inconsistency at a command it would carry out: it answers INTERNAL, logs it, and does nothing else (R323). -/
def nciInternal (s : State) (k : Nat) (ws : List Word) : State :=
  logErr { s with nci := some { pair := k, code := 0xFF, words := replyWords ws 0xFF [] }, sts := { s.sts with internal := false } } 0x12 0 0x8004 0 0 false

/-- Execute a command of opcode `op` (`pick` says which of the commands that share it). The reply is held until its mailbox
is empty. An unknown opcode is answered BAD_ARG by whichever command takes it. -/
def withNciPick (op : Nat) (pick : List Word → Bool) (masks : List Nat) (pair : Fin 176) (s : State)
    (body : List Word → State → NciRes) : Host.Outcome State Fault Refusal :=
  let k := pair.val
  let ws := reqWords s k
  let o := tf ws 0 31 16
  if !takesRequest s k then .next s
  else if staleEpoch s k o (tf ws 0 15 8) then .next { s with nci := some { pair := k, code := 5, words := replyWords ws 5 [] } }
  else if !knownOp o then .next { s with nci := some { pair := k, code := 2, words := replyWords ws 2 [] } }
  else if decide (o ≠ op) || !pick ws then .next s
  else
    let r := body ws s
    let c := nciCode op (sessionCtx s k) masks ws r
    if codeActs c && s.sts.internal then .next (nciInternal s k ws)
    else if codeActs c then .next (r.after c { r.st with nci := some { pair := k, code := c, words := replyWords ws c r.words } })
    else .next (r.after c { s with nci := some { pair := k, code := c, words := replyWords ws c [] } })

/-- Execute the command of an opcode. -/
def withNci (op : Nat) (masks : List Nat) (pair : Fin 176) (s : State) (body : List Word → State → NciRes) :
    Host.Outcome State Fault Refusal :=
  withNciPick op (fun _ => true) masks pair s body

/-- What was to wait for the reply: an LDPC offset table comes into force (R270), the 1 ms of a RESET begins (R410). -/
def afterReply (s : State) (r : NciReply) : State :=
  let s1 := match r.offs with
    | some (k, bg, t) => updCtx s k fun c => { c with offs := Tab.put [] c.offs bg t }
    | none => s
  match r.reset with
  | some l => { s1 with crp := { s1.crp with resetPend := some (l, s1.time.clk) } }
  | none => s1

/-- Write a reply into a reply mailbox and post it; acknowledge the request with the same code (R322). -/
def postReply (s : State) (r : NciReply) : State :=
  let s1 := updMbox s r.pair false fun m => { m with w := ((List.range 16).zip r.words).foldl (fun t e => Tab.put 0 t e.1 e.2) m.w }
  let s2 := mbxPost s1 r.pair false
  if (mboxOf s2 r.pair true).full then mbxAck s2 r.pair true (BitVec.ofNat 16 r.code) else s2

/-- A reply to a request that came through a tunnel goes back to the root (R377). -/
def postTunnel (s : State) (r : NciReply) : State :=
  let s1 := toRoot s (.tunnelRsp (dev64 s.emx.devid) ⟨r.pair % 32, Nat.mod_lt _ (by decide)⟩ (BitVec.ofNat 16 r.code) r.words)
  mbxAck { s1 with emx := { s1.emx with tunIn := s1.emx.tunIn.filter fun k => decide (k ≠ r.pair) } } r.pair true (BitVec.ofNat 16 r.code)

/-- Does a reply still wait for an OTP pulse or a pad (R406, R439)? -/
def replyWaits (s : State) (r : NciReply) : Bool :=
  (decide (r.waits = 1) && s.sec.pulse) || (decide (2 ≤ r.waits) && (Tab.get {} s.pin.pads (r.waits - 2)).busy)

/-- REPLY_POST: once the pair's reply mailbox is empty, the reply is posted and the request acknowledged (R322); a far
device's reply relayed through a tunnel likewise (R377). -/
def execReplyPost (s : State) : Host.Outcome State Fault Refusal :=
  match s.nci with
  | some r =>
    if noClock s 2 || replyWaits s r then .next s
    else if s.emx.tunIn.contains r.pair then .next (afterReply (postTunnel { s with nci := none } r) r)
    else if (mboxOf s r.pair false).full then .next s
    else .next (afterReply (postReply { s with nci := none } r) r)
  | none =>
    match s.emx.relay.find? fun r => !(mboxOf s r.pair false).full with
    | some r => .next (postReply { s with emx := { s.emx with relay := s.emx.relay.filter fun x => decide (x.pair ≠ r.pair) } } r)
    | none => .next s

end Sys2Proof.Machine
end

