-- ==== Sys2Proof/Machine/Mbx.lean ====
section
/-!
DEFINITION. Mailbox rows (R317 to R320), doorbells, pushes and waiting records (R327 to R329), BAR2 (R315, R186) and the PCIe
function (R312, R313).
-/
namespace Sys2Proof.Machine

/-- Does the requester reach the pair's registers (R22, R23, R317)? -/
def reachesPair (who : Agent) (k : Nat) : Bool :=
  match who with
  | .host => decide (k < 32)
  | .chamber ch => decide (k = 32 + ch.val)
  | .lantern => true
  | .pciConfig => false

/-- The device address of a register of a pair (R317). -/
def pairAddr (k off : Nat) : Nat := if k < 32 then 0x1800000000 + 0x1000 * k + off else 0x1800100000 + 0x1000 * (k - 32) + off

/-- A write to a register of a pair by an agent: a pair it does not reach is a bus error, as is a rejected write but of the host (R23,
R319). -/
def pairWrite (who : Agent) (k off : Nat) (s : State) (f : State → WrRes) : State :=
  wroteBy who (pairAddr k off) (if reachesPair who k then f s else .bus s)

/-- MBX_REQ_POST (R317 to R319). -/
def execMbxReqPost (who : Agent) (pair : Fin 176) (s : State) : Host.Outcome State Fault Refusal :=
  .next (byDoor who s fun s => pairWrite who pair.val 0x040 s fun s => mbxWritePost s who pair.val true 0)

/-- MBX_RSP_POST. -/
def execMbxRspPost (who : Agent) (pair : Fin 176) (s : State) : Host.Outcome State Fault Refusal :=
  .next (byDoor who s fun s => pairWrite who pair.val 0x0C0 s fun s => mbxWritePost s who pair.val false 0)

/-- MBX_REQ_ACK. -/
def execMbxReqAck (who : Agent) (pair : Fin 176) (code : BitVec 16) (s : State) : Host.Outcome State Fault Refusal :=
  .next (byDoor who s fun s => pairWrite who pair.val 0x048 s fun s => mbxWriteAck s who pair.val true (w32 code.toNat))

/-- MBX_RSP_ACK. -/
def execMbxRspAck (who : Agent) (pair : Fin 176) (code : BitVec 16) (s : State) : Host.Outcome State Fault Refusal :=
  .next (byDoor who s fun s => pairWrite who pair.val 0x0C8 s fun s => mbxWriteAck s who pair.val false (w32 code.toNat))

/-- May a doorbell move the client's index (R328)? -/
def doorbellOk (r : Ring) (idx : Word) : Bool :=
  r.isSet && (if r.hostWrites then decide ((idx - r.p).toNat ≤ ringFree r) else decide ((idx - r.c).toNat ≤ (r.p - r.c).toNat))

/-- A doorbell's effect (R328): the client's index moves; arm with ien = 1 arms a device-written ring. -/
def ringBell (s : State) (n : Nat) (idx : Word) (arm : Bool) : State :=
  let r := ringOf s n
  setRing s n (if r.hostWrites then { r with p := idx } else { r with c := idx, armed := r.armed || (arm && r.ien) })

/-- A doorbell write by the host: one that breaks R328 is ignored and recorded. -/
def doorbellWrite (s : State) (ring : Nat) (idx : Word) (arm : Bool) : State :=
  if doorbellOk (ringOf s ring) idx then ringBell s ring idx arm else leqPut s 3 ring 0 (0x100000 + 8 * ring) idx

/-- DOORBELL. -/
def execDoorbell (ring : Fin 16384) (idx : Word) (arm : Bool) (s : State) : Host.Outcome State Fault Refusal :=
  .next (hostDoor s fun s => doorbellWrite s ring.val idx arm)

/-- RING_PUSH_GO (R329): a push to a ring that is not the chamber's to push to is a bus error. -/
def execRingPushGo (ch : Fin 144) (ring : Fin 16384) (s : State) : Host.Outcome State Fault Refusal :=
  .next (chmWrote ch (0x180A000020 + 0x40 * ring.val) (ringPush s ch.val ring.val))

/-- WAITING_RECORD_WRITTEN: the oldest waiting record is placed once there is room (R327). -/
def execWaitingRecordWritten (ring : Fin 16384) (s : State) : Host.Outcome State Fault Refusal :=
  let r := ringOf s ring.val
  match r.waiting with
  | [] => .next s
  | (ws, compl) :: rest =>
    if decide (1 ≤ ringFree r) && !ringHeld s r then .next (ringPlace (setRing s ring.val { r with waiting := rest }) ring.val ws compl)
    else .next s

/-! ### BAR2 -/

/-- Read words for the host: a word marked POISON reads zero and sets EP (R186). -/
def hostWords (s : State) (a : Nat) : Nat → List Byte × Bool × State
  | 0 => ([], false, s)
  | n + 1 =>
    let got := readWord s a
    let w := got.1
    let s1 := got.2
    let got2 := hostWords s1 (a + 8) n
    let bs := got2.1
    let ep := got2.2.1
    let s2 := got2.2.2
    ((if w.flags.poison then List.replicate 8 0#8 else w.data) ++ bs, w.flags.poison || ep, s2)

/-- Does an access of len bytes at HBM address `a` stay in HBM outside Nerzon's reserve, with the window open (R315)? -/
def bar2Ok (s : State) (a len : Nat) : Bool :=
  s.pcie.bar2Open && s.sec.bootcfg.getLsbD 2 && decide (a + len ≤ 0x0BE0000000)

/-- A BAR2 access (R315). -/
def bar2Access (off : Nat) (acc : Bar2Op) (s : State) : State :=
  let a := s.pcie.bar2Base + off
  match acc with
  | .read len =>
    if bar2Ok s a len then
      let got := hostWords s (a / 8 * 8) (if len = 0 then 0 else (a + len - 1) / 8 - a / 8 + 1)
      let bs := got.1
      let ep := got.2.1
      let s1 := got.2.2
      emit s1 (.bar2Data ((bs.drop (a % 8)).take len) ep)
    else emit s .unsupported
  | .write data =>
    if bar2Ok s a data.length then watchWrite (writeMem s a data noFlags) a data.length else barDropped s 2 off (w32 (leNat (data.take 4)))

/-- BAR2_ACCESS. -/
def execBar2Access (off : Nat) (acc : Bar2Op) (s : State) : Host.Outcome State Fault Refusal := .next (hostDoor s (bar2Access off acc))

/-! ### The PCIe function -/

/-- A mailbox emptied without acknowledgement (R320). -/
def emptyMbox (m : Mbox) : Mbox := { m with full := false }

/-- A pair emptied and its session closed. -/
def closePair (p : Pair) : Pair := { p with req := emptyMbox p.req, rsp := emptyMbox p.rsp, isOpen := false }

/-- PCIE_CONVENTIONAL_RESET (R313): host sessions close, host mailboxes are emptied, the configuration space is reset. A reply
not yet posted to a host pair is dropped (log entry 24). -/
def execPcieConventionalReset (s : State) : Host.Outcome State Fault Refusal :=
  .next { deviceEvent s with
    pcie := { s.pcie with d3 := false, bme := false, bar0 := 0, bar2 := 0, mps := 0, mrrs := 2, advisory := false, msiEn := false, msiAddr := 0,
                          msiData := 0, msiMask := 0 }
    pairs := Tab.mapListed {} (fun k p => if k < 32 then closePair p else p) s.pairs
    nciQ := s.nciQ.filter fun k => decide (32 ≤ k)
    nci := s.nci.bind fun r => if r.pair < 32 then none else some r }

/-- HELD_MSI_SEND (R312). -/
def execHeldMsiSend (vec : Fin 32) (s : State) : Host.Outcome State Fault Refusal :=
  if s.pcie.msiHeld.getLsbD vec.val && s.pcie.bme && s.pcie.msiEn && !s.pcie.msiMask.getLsbD vec.val then
    .next (emit { s with pcie := { s.pcie with msiHeld := setBit s.pcie.msiHeld vec.val false } } (msiWrite s vec.val))
  else .next s

/-! ### Session and ring commands (R324 to R326) -/

/-- STS_ID (R316); stepping B0. -/
def stsIdWord (s : State) : Word := mkWord [(2, 28), (s.emx.devid, 22), (0x6480, 0)]

/-- SESSION_OPEN. -/
def execSessionOpen (pair : Fin 176) (s : State) : Host.Outcome State Fault Refusal :=
  withNci 0x0000 [0x80003F1F] pair s fun ws st =>
    let k := pair.val
    let ctxRole := decide (tf ws 1 31 31 = 1)
    let p := pairOf st k
    { bad := !ctxRole && decide (tf ws 1 13 8 ≠ 0)
      denied := decide (32 ≤ k) || (!ctxRole && decide (3 < k))
      words := [w32 (p.epoch + 1).toNat]
      st := updPair st k fun x => { x with isOpen := true, ctxRole := ctxRole, ctx := tf ws 1 13 8, vector := tf ws 1 4 0, epoch := x.epoch + 1 } }

/-- SESSION_CLOSE. -/
def execSessionClose (pair : Fin 176) (s : State) : Host.Outcome State Fault Refusal :=
  withNci 0x0001 [] pair s fun _ st => { st := updPair st pair.val fun x => { x with isOpen := false } }

/-- NCI_INFO. -/
def execNciInfo (pair : Fin 176) (s : State) : Host.Outcome State Fault Refusal :=
  withNci 0x0002 [] pair s fun _ st => { words := [st.sts.nerzon, stsIdWord st, st.sts.epoch], st := st }

/-- Does a survey table name the ring? -/
def surveyNamesRing (v : Option Survey) (n : Nat) : Bool :=
  match v with
  | some t => t.entries.any fun e => decide (e.cring = n) || (e.dig && decide (e.dring = n))
  | none => false

/-- Is the ring named by a flow, chain, channel, context or survey entry (R324)? -/
def ringNamed (s : State) (n : Nat) : Bool :=
  s.flows.any (fun f => decide (f.2.state ≠ 0) && (decide (f.2.cfg.evring = n) || (decide (f.2.cfg.kind ≠ 2) && decide (f.2.cfg.grring = n)))) ||
  s.chains.any (fun c => c.2.isSet && decide (c.2.rring = n)) ||
  s.echs.any (fun e => decide (e.2.state ≠ 0) && decide (e.2.cfg.rring = n)) ||
  s.ctxs.any (fun c => c.2.isSet && decide (c.2.evring = n)) ||
  surveyNamesRing s.sched.committed n || surveyNamesRing s.sched.staged n

/-- The ring a RING_SET describes. -/
def ringOfWords (ws : List Word) : Ring :=
  { isSet := true, ctx := tf ws 1 13 8, hostWrites := decide (tf ws 1 1 1 = 1), inHost := decide (tf ws 1 0 0 = 1),
    base := dword (wordAt ws 2) (wordAt ws 3), lsize := tf ws 4 4 0, wb := dword (wordAt ws 5) (wordAt ws 6),
    ien := decide (tf ws 7 8 8 = 1), vector := tf ws 7 4 0 }

/-- Does a RING_SET break its field rules (R324)? -/
def badRing (s : State) (r : Ring) : Bool :=
  decide (r.lsize < 2) || decide (20 < r.lsize) || decide (r.base % 4096 ≠ 0) || decide (r.wb % 16 ≠ 0) ||
  (!r.inHost && (decide (2 ^ 40 ≤ r.base) || decide (2 ^ 40 ≤ r.wb) || !inHbm (ctxOf s r.ctx) r.base (32 * 2 ^ r.lsize) || !inHbm (ctxOf s r.ctx) r.wb 16))

/-- RING_SET. -/
def execRingSet (pair : Fin 176) (s : State) : Host.Outcome State Fault Refusal :=
  withNci 0x0003 [0x3FFF3F03, 0xFFFFFFFF, 0xFFFFFFFF, 0x1F, 0xFFFFFFFF, 0xFFFFFFFF, 0x11F] pair s fun ws st =>
    let n := tf ws 1 29 16
    let r := ringOfWords ws
    let st1 := setRing st n r
    { bad := badRing st r, busy := ringNamed st n
      ctxs := r.ctx :: (if (ringOf st n).isSet then [(ringOf st n).ctx] else [])
      st := ringNote st1 n }

/-- RING_CLEAR. -/
def execRingClear (pair : Fin 176) (s : State) : Host.Outcome State Fault Refusal :=
  withNci 0x0004 [0x3FFF0000] pair s fun ws st =>
    let n := tf ws 1 29 16
    { bad := !(ringOf st n).isSet, busy := ringNamed st n, ctxs := [(ringOf st n).ctx], st := setRing st n {} }

/-- RING_STATUS. -/
def execRingStatus (pair : Fin 176) (s : State) : Host.Outcome State Fault Refusal :=
  withNci 0x0005 [0x3FFF0000] pair s fun ws st =>
    let r := ringOf st (tf ws 1 29 16)
    { bad := !r.isSet, ctxs := [r.ctx], words := [r.p, r.c, w32 r.count.toNat, w32hi r.count.toNat, r.dropped], st := st }

end Sys2Proof.Machine
end

