-- ==== Sys2Proof/Machine/Emaux.lean ====
section
/-!
DEFINITION. Emaux (chapter 15): flits and their acknowledgement, remote reads and writes at both ends, link training and failure, routes
around a failed link, the root's relay, and the multi-device commands. The status page's words (R316) stand here too.
-/
namespace Sys2Proof.Machine

/-! ### Status words (R316) -/

/-- STS_STATE. -/
def stsState (s : State) : Word := mkWord [(s.sts.code, 24), (s.sts.state, 0)]

/-- STS_ALARM. -/
def stsAlarm (s : State) : Word :=
  mkWord [(b2n (s.leq.prod ≠ s.leq.cons), 3), (b2n (s.units.any fun u => decide (u.2.state = 1) || decide (u.2.state = 3)), 2), (b2n s.sts.clamp, 1), (b2n s.sts.thermal, 0)]

/-! ### The initiator's end (R199, R201, R375) -/

/-- Count again the remote packets a descriptor waits for (R199). -/
def recount (s : State) (q id : Nat) : State :=
  updSiph s q fun x => { x with chain := x.chain.map fun c => { c with pend := c.pend.map fun p =>
    if p.id = id then { p with outstanding := (s.emx.remote.filter fun r => decide (r.siphon = some q) && decide (r.desc = id)).length } else p } }

/-- A remote access is answered: it no longer counts against its descriptor. -/
def answered (s : State) (r : Remote) : State :=
  let s1 := { s with emx := { s.emx with remote := s.emx.remote.filter fun x => decide (x.tag ≠ r.tag) } }
  match r.siphon with
  | some q => recount s1 q r.desc
  | none => s1

/-- The context of the chain that waits for a remote access. -/
def remoteCtx (s : State) (r : Remote) : Option Nat := (r.siphon.bind fun q => (siphOf s q).chain).bind (·.ctx)

/-- Write data to a global destination of a remote read: here, or by remote writes that count for the same descriptor. -/
def putGlobal (s : State) (r : Remote) (g : Nat) (data : List Byte) (f : WFlags) : State :=
  if g / 2 ^ 40 = s.emx.devid then writeMem s (g % 2 ^ 40) data f
  else match r.siphon with
    | some q => sendWrites s q r.desc (remoteCtx s r) g data f (data.length / 256 + 1)
    | none => s

/-- A remote read that fails is a data error: its whole transfer tile becomes zero and POISON (R201). -/
def readFails (s : State) (r : Remote) : State :=
  let s1 := r.tile.foldl (fun st p => putGlobal st r p.1 (List.replicate p.2 0#8) { poison := true, missing := false }) s
  let same (x : Remote) : Bool := decide (x.siphon = r.siphon) && decide (x.desc = r.desc) && x.dest.isSome && decide (x.tile = r.tile)
  answered { s1 with emx := { s1.emx with remote := s1.emx.remote.map fun x => if same x then { x with bad := true } else x } } r

/-- A remote access fails: a write leaves a REMOTE_WRITE record before it counts as answered (R375). -/
def remoteFails (s : State) (r : Remote) (code : Nat) : State :=
  if r.dest.isSome then readFails s r
  else answered (leqPut s 1 r.dev r.tag (2 ^ 40 * r.dev + r.addr) (w32 code)) r

/-- The remote access with a tag. -/
def remoteOf (s : State) (tag : Word) : Option Remote := s.emx.remote.find? fun r => decide (r.tag = tag)

/-- Read data arrives (R199, R201). -/
def readArrives (s : State) (tag : Word) (okay : Bool) (data : List Byte) (f : WFlags) : State :=
  match remoteOf s tag with
  | some r => match r.dest with
    | some (g, len) =>
      if r.bad then answered s r
      else if okay then answered (putGlobal s r g ((data ++ List.replicate len 0#8).take len) f) r
      else readFails s r
    | none => s
  | none => s

/-! ### The far end (R372, R375) -/

/-- Why a remote access may not be made here: 0 it may, else its failure code. -/
def remoteCheck (s : State) (ctx : Option (Fin 64)) (a len : Nat) (store : Bool) : Nat :=
  let at_ := unitStarts a len
  if at_.any (fun x => decide (spaceOf x = .unmapped) || decide (spaceOf x = .ownCsr)) then 1
  else if at_.any (fun x => !isMemory x) || (match ctx with | some c => !ctxMay s c.val none a len store | none => false) then 2
  else if store && at_.any (fun x => (storeKey s x).isNone) then 5
  else 0

/-- A remote write arrives on a link: it is made and acknowledged, or fails and is logged here (R375, R411). -/
def serveWrite (s : State) (l : Nat) (src : Fin 64) (tag : Word) (ctx : Option (Fin 64)) (a : Nat) (data : List Byte) (f : WFlags) : State :=
  match remoteCheck s ctx a data.length true with
  | 0 => sendPacket (writeMem s a data f) src.val (.ack tag)
  | c => sendPacket (logErr s 0x0C 1 (0x6000 + l) (w32 src.val) (2 ^ 40 * s.emx.devid + a) false) src.val (.fail tag (BitVec.ofNat 8 c))

/-- A remote read arrives: the data goes back, or word that the read failed. -/
def serveRead (s : State) (src : Fin 64) (tag : Word) (ctx : Option (Fin 64)) (a len : Nat) : State :=
  if remoteCheck s ctx a len false = 0 then
    let got := readBytes s a len
    let bs := got.1
    let f := got.2.1
    let bad := got.2.2.1
    let s1 := got.2.2.2
    sendPacket s1 src.val (.readResp tag (!bad) bs f)
  else sendPacket s src.val (.readResp tag false [] noFlags)

/-! ### Joining and relaying (R376 to R378) -/

/-- A join request: a device not joined takes its identity and tells the root of its Nerzon's start; a joined one learns of new members alone
(R376). -/
def joinArrives (s : State) (devid root : Fin 64) (dims : Nat × Nat × Nat) (members : List (Fin 64)) : State :=
  let ms := members.map (·.val)
  if s.emx.joined then { s with emx := { s.emx with members := ms } }
  else
    let e : Emx := { s.emx with joined := true, devid := devid.val, isRoot := false, root := root.val, dims := dims, members := ms, down := [] }
    sendPacket (sendPacket { s with emx := e } root.val (.ack (w32 (2 ^ 26 * devid.val)))) root.val (.epoch devid s.sts.epoch)

/-- A request relayed to a host pair of this device (R377). -/
def tunnelArrives (s : State) (k : Nat) (ws : List Word) : State :=
  if (pairOf s k).req.full then s
  else
    let s1 := updMbox s k true fun m => { m with w := ((List.range 16).zip ws).foldl (fun t e => Tab.put 0 t e.1 e.2) m.w }
    mbxPost { s1 with emx := { s1.emx with tunIn := s1.emx.tunIn ++ [k] } } k true

/-- A far device's reply waits for the root pair bound to it (R377). -/
def relayArrives (s : State) (src pair : Nat) (code : BitVec 16) (ws : List Word) : State :=
  match s.emx.tunnels.find? fun e => decide (e.2 = some { pair := pair, dev := src }) with
  | some e => { s with emx := { s.emx with relay := s.emx.relay ++ [{ pair := e.1, code := code.toNat, words := ws }] } }
  | none => s

/-- A far device's Nerzon has started anew: requests of root pairs that wait there are answered STALE_EPOCH (R377). -/
def epochArrives (s : State) (src : Nat) : State :=
  let bound := s.emx.tunnels.filter fun t => match t.2 with
    | some u => decide (u.dev = src) && (pairOf s t.1).req.full && !s.emx.relay.any fun r => decide (r.pair = t.1)
    | none => false
  { s with emx := { s.emx with relay := s.emx.relay ++ bound.map fun t => { pair := t.1, code := 5, words := replyWords (reqWords s t.1) 5 [] } } }

/-- A joined device's late-error record, copied unchanged except seq (R378, R332). -/
def leqCopy (s : State) (ws : List Word) : State :=
  let q := s.leq
  if q.prod - q.cons = 2048#32 then { s with leq := { q with lost := min 0xFFFF (q.lost + 1), ovf := true } }
  else
    let s1 := { s with leq := { q with prod := q.prod + 1, recs := Tab.put [] q.recs (q.prod.toNat % 2048) (ws.take 7 ++ [q.prod]) } }
    logErr (if q.prod = q.cons then msi s1 0 else s1) 0x13 1 0x8002 0 0 false

/-- A write to host memory for a joined device: made, or held while Bus Master Enable is 0 (R312, R378). -/
def hostWrite (s : State) (a : Nat) (bs : List Byte) : State :=
  if s.pcie.bme then { s with hostMem := Memory.setBytes s.hostMem a bs }
  else { s with emx := { s.emx with hostHeld := s.emx.hostHeld ++ [(a, bs)] } }

/-- The held writes are made once Bus Master Enable is 1. -/
def releaseHeld (s : State) : State :=
  { s with hostMem := s.emx.hostHeld.foldl (fun m w => Memory.setBytes m w.1 w.2) s.hostMem, emx := { s.emx with hostHeld := [] } }

/-- A packet for this device. -/
def servePacket (s : State) (l : Nat) (p : Packet) : State :=
  match p with
  | .write src tag ctx a data f => serveWrite s l src tag ctx a data f
  | .readReq src tag ctx a len => serveRead s src tag ctx a len
  | .readResp tag okay data f => readArrives s tag okay data f
  | .ack tag => match remoteOf s tag with | some r => answered s r | none => s
  | .fail tag code => match remoteOf s tag with | some r => remoteFails s r code.toNat | none => s
  | .join d r x y z ms => joinArrives s d r (x, y, z) ms
  | .tunnelReq k ws => tunnelArrives s k.val ws
  | .tunnelRsp src k code ws => relayArrives s src.val k.val code ws
  | .hostWrite a bs => if s.emx.isRoot then hostWrite s a bs else s
  | .hostMsi v => if s.emx.isRoot then msi s v.val else s
  | .lateError ws => if s.emx.isRoot then leqCopy s ws else s
  | .epoch src _ => if s.emx.isRoot then epochArrives s src.val else s

/-- Pass a packet on (R369, R373): on the second virtual channel of its class once its route in the dimension crosses the wrap link. -/
def forwardPacket (s : State) (l vc dev : Nat) (p : Packet) : State :=
  let o := linkFor s.emx dev
  sendOn s o (packetVc p + if (decide (o / 2 = l / 2) && decide (vc % 2 = 1)) || wraps s.emx o then 1 else 0) dev p

/-- Deliver one packet that has arrived: its virtual channel, its device, the packet. A device not joined takes join requests alone (R371,
R376). -/
def deliver (l : Nat) (s : State) (x : Nat × Nat × Packet) : State :=
  if s.emx.joined then (if x.2.1 = s.emx.devid then servePacket s l x.2.2 else forwardPacket s l x.1 x.2.1 x.2.2)
  else match x.2.2 with
    | .join d r a b c ms => joinArrives s d r (a, b, c) ms
    | _ => s

/-! ### Flits (R366, R367) -/

/-- The flits still to be acknowledged after an acknowledgement of `seq`. -/
def afterAck (seq : BitVec 12) (l : List (Flit × Option (Nat × Packet))) : List (Flit × Option (Nat × Packet)) :=
  if l.any (fun f => decide (f.1.seq = seq)) then (l.dropWhile fun f => decide (f.1.seq ≠ seq)).drop 1 else l

/-- Send every flit of the retry buffer again. -/
def resend (s : State) (l : Nat) : State := (elinkOf s l).retry.foldl (fun st f => emit st (.flit l (flitBytes f.1))) s

/-- What a good flit says of ours: acknowledged flits leave the retry buffer, a nak resends the others (R367). -/
def takeAck (s : State) (l : Nat) (f : Flit) : State :=
  let s1 := updLink s l fun x =>
    let left := afterAck f.ack x.retry
    { x with retry := left, ackAt := if left.length = x.retry.length then x.ackAt else s.time.clk
             naks := if f.nak then x.naks + 1 else x.naks, nakRun := if f.nak then x.nakRun + 1 else 0 }
  if f.nak then resend s1 l else s1

/-- Does a flit hold nothing: no packet bytes and no credits? -/
def emptyFlit (f : Flit) : Bool := f.slots.all (fun b => decide (b = 0)) && f.cred.all fun c => decide (c = 0)

/-- Take a flit in sequence (R366, R369): its credits come back, its bytes join those of a packet that continues, and it owes the credit of its
virtual channel, its packets being taken in at once. -/
def takeFlit (f : Flit) (x : ELink) : ELink × List (Nat × Nat × Packet) :=
  let bs := x.rxBuf ++ f.slots
  let got := takePackets 32 bs
  ({ x with
    rxSeq := f.seq, rxBuf := got.2
    used := (List.range 6).foldl (fun t v => Tab.upd 0 t v (· - f.cred.getD v 0)) x.used
    owed := if f.slots.all (fun b => decide (b = 0)) then x.owed else Tab.upd 0 x.owed ((bs.getD 1 0).toNat % 6) (· + 1) }, got.1)

/-- Answer a flit taken: waiting packets leave, and the credits owed go back on a flit of their own where the retry buffer has room. -/
def answerTaken (s : State) (l : Nat) : State :=
  let s1 := drainLink l (elinkOf s l).wait [] s
  let x := elinkOf s1 l
  if (creditsOf x).any (fun c => decide (0 < c)) && decide (x.retry.length < 64) then sendFlit s1 l none none [] else answerFlit s1 l false

/-- FLIT_RECEIVE: checked, answered with an acknowledgement or a nak, its packets delivered in order (R366, R367). -/
def execFlitReceive (link : Fin 6) (bytes : List Byte) (s : State) : Host.Outcome State Fault Refusal :=
  let l := link.val
  if (elinkOf s l).state < 2 then .next s
  else match flitOf bytes with
    | none => .next (answerFlit s l true)
    | some f =>
      let s1 := takeAck s l f
      let x := elinkOf s1 l
      if emptyFlit f && decide (f.seq = x.rxSeq) then .next (drainLink l x.wait [] s1)
      else if f.seq ≠ x.rxSeq + 1 then .next (answerFlit s1 l true)
      else
        let got := takeFlit f x
        .next (answerTaken (got.2.foldl (deliver l) (updLink s1 l fun _ => got.1)) l)

/-! ### Links (R365, R367, R368, R371, R374) -/

/-- LINK_RETRAIN: sixteen consecutive naks, or 10 µs without a due acknowledgement (R367). -/
def execLinkRetrain (link : Fin 6) (s : State) : Host.Outcome State Fault Refusal :=
  let x := elinkOf s link.val
  if decide (s.sts.state = 3) && decide (2 ≤ x.state) && (decide (16 ≤ x.nakRun) || (!x.retry.isEmpty && decide (x.ackAt + 10000 ≤ s.time.clk))) then
    .next (updLink s link.val fun y => { y with state := 1, retrains := y.retrains + 1, nakRun := 0 })
  else .next s

/-- The state a training ends in: 4 lanes, the clean pair, or down (R368). -/
def trainedState (failed : BitVec 4) : Nat :=
  if failed = 0 then 2 else if failed &&& 3#4 = 0 ∨ failed &&& 12#4 = 0 then 3 else 0

/-- An EMX_LINK error (R411, R368, R374): a degraded link is DEGRADED, one that went down RETIRED; the Lantern's source is raised (R348). -/
def linkError (s : State) (l st : Nat) (inj : Bool) : State :=
  deviceEvent (markUnit (logErr s 0x0B 2 (0x6000 + l) 0 0 inj) (0x6000 + l) (if st = 0 then 3 else 1) 0x0B)

/-- RETRAIN_END: at full width, at half width, or down, while Nerzon runs (R365). Flits that waited are sent again. An error the unit table
already shows is no new one. -/
def execRetrainEnd (link : Fin 6) (failed : BitVec 4) (s : State) : Host.Outcome State Fault Refusal :=
  let l := link.val
  let x := elinkOf s l
  if decide (x.state ≠ 1) || decide (s.sts.state ≠ 3) then .next s
  else
    let st := trainedState failed
    let s1 := updLink s l fun y => { y with state := st, failed := failed, found := true, ackAt := s.time.clk }
    let known := decide (failed = x.failed) && decide ((unitOf s (0x6000 + l)).state ≠ 0)
    let s2 := if failed = 0 || known then s1 else linkError s1 l st false
    if st = 0 then .next s2 else .next (drainLink l (elinkOf s2 l).wait [] (resend s2 l))

/-- A packet lost with a link: an access of this device fails with code 3, a far one's initiator is told so (R374, R375). A lost answer fails
its access when no answer has come within 1 ms. -/
def packetLost (s : State) (p : Packet) : State :=
  match p with
  | .write src t _ _ _ _ =>
    if src.val = s.emx.devid then (match remoteOf s t with | some r => remoteFails s r 3 | none => s) else sendPacket s src.val (.fail t 3)
  | .readReq src t _ _ _ =>
    if src.val = s.emx.devid then (match remoteOf s t with | some r => remoteFails s r 3 | none => s) else sendPacket s src.val (.readResp t false [] noFlags)
  | _ => s

/-- The other end of a link of a device. -/
def linkEnd (e : Emx) (dev l : Nat) : Nat × Nat :=
  let d := l / 2
  let c := coordOf dev d + (if l % 2 = 0 then 1 else dimOf e d - 1)
  (dev - coordOf dev d * 4 ^ d + c % dimOf e d * 4 ^ d, if l % 2 = 0 then l + 1 else l - 1)

/-- Route around a link of this device that is down: packets lost with it fail, those that have not left take the new route. -/
def rerouteOwn (s : State) (l : Nat) : State :=
  let x := elinkOf s l
  let s1 := updLink s l fun y => { y with retry := [], wait := [], used := [], owed := [], rxBuf := [] }
  let s2 := (x.retry.filterMap (·.2)).foldl (fun st p => packetLost st p.2) s1
  x.wait.foldl (fun st w => sendPacket st w.2.1 w.2.2) s2

/-- REROUTE: Nerzon routes around a link of a joined device that is down, its own or another's (R374). -/
def execReroute (link : FarLink) (s : State) : Host.Outcome State Fault Refusal :=
  let dev := link.dev
  let l := link.link.val
  if !s.emx.joined || decide (s.sts.state ≠ 3) then .next s
  else if dev.val = s.emx.devid then (if (elinkOf s l).state = 0 then .next (rerouteOwn s l) else .next s)
  else
    let fresh := [(dev.val, l), linkEnd s.emx dev.val l].filter fun x => decide (x.1 ≠ s.emx.devid) && !s.emx.down.contains x
    .next { s with emx := { s.emx with down := s.emx.down ++ fresh } }

/-- NO_RESPONSE: a remote access without an answer for 1 ms fails (R375, R201). -/
def execNoResponse (tag : Word) (s : State) : Host.Outcome State Fault Refusal :=
  match remoteOf s tag with
  | some r => if r.sent + 1000000 ≤ s.time.clk then .next (remoteFails s r 4) else .next s
  | none => .next s

/-- LINK_NO_PARTNER: a link that has found no partner 1 s after Nerzon started is powered down (R371). -/
def execLinkNoPartner (link : Fin 6) (s : State) : Host.Outcome State Fault Refusal :=
  let x := elinkOf s link.val
  if x.state = 1 ∧ s.sts.state = 3 ∧ !x.found ∧ s.sts.readyAt + 1000000000 ≤ s.time.clk then
    .next (updLink s link.val fun x => { x with state := 0, off := true, offAt := s.time.clk })
  else .next s

/-- LINK_RETRY: every 10 s a powered-down link is tried again; with a partner it trains (R371). -/
def execLinkRetry (link : Fin 6) (partner : Option (Fin 64)) (s : State) : Host.Outcome State Fault Refusal :=
  let x := elinkOf s link.val
  if x.off ∧ s.sts.state = 3 ∧ x.offAt + 10000000000 ≤ s.time.clk then
    .next (updLink s link.val fun x => match partner with
      | some d => { x with state := 1, off := false, found := true, peer := d.val }
      | none => { x with offAt := s.time.clk })
  else .next s

/-! ### Commands (R380) -/

/-- The size a dimension code names. -/
def dimSize (c : Nat) : Nat := if c = 0 then 2 else 4

/-- Is it one of the shapes of R371? -/
def shapeOk (d : Nat × Nat × Nat) : Bool := [(2, 2, 2), (4, 2, 2), (4, 4, 2), (4, 4, 4)].contains d

/-- Does a device lie in a shape? -/
def inShape (d : Nat × Nat × Nat) (n : Nat) : Bool := decide (n % 4 < d.1) && decide (n / 4 % 4 < d.2.1) && decide (n / 16 < d.2.2)

/-- The bits of a set of devices as a number. -/
def devBits (l : List Nat) : Nat := (List.range 64).foldl (fun n d => n + b2n (l.contains d) * 2 ^ d) 0

/-- Hops of a route from one device to another (R373). -/
def hopsTo (dims : Nat × Nat × Nat) (src dst : Nat) : Nat :=
  let one (n a b : Nat) : Nat := min ((b + n - a) % n) ((a + n - b) % n)
  one dims.1 (src % 4) (dst % 4) + one dims.2.1 (src / 4 % 4) (dst / 4 % 4) + one dims.2.2 (src / 16) (dst / 16)

/-- The root joins the devices that answered, the nearer ones first, so that every route to a device runs over joined ones; a device already
joined learns of the new members alone (R376). -/
def joinSystem (s : State) (d : Nat × Nat × Nat) (root : Nat) (ans : List Nat) : State :=
  let others := ans.filter fun n => decide (n ≠ root)
  let fresh := others.filter fun n => !s.emx.members.contains n
  let ms := (if s.emx.members.contains root then s.emx.members else root :: s.emx.members) ++ fresh
  let s1 := { s with emx := { s.emx with joined := true, isRoot := true, devid := root, root := root, dims := d, members := ms, down := [] } }
  (List.range 7).foldl (fun t h => (others.filter fun n => decide (hopsTo d root n = h)).foldl (fun st n =>
    sendPacket st n (.join (dev64 n) (dev64 root) d.1 d.2.1 d.2.2 (ms.map dev64))) t) s1

/-- EMX_JOIN. `answered` are the devices that answered within 2 s. -/
def execEmxJoin (pair : Fin 176) (answered : List (Fin 64)) (s : State) : Host.Outcome State Fault Refusal :=
  withNci 0x0700 [0x30303, 0x3F] pair s fun ws st =>
    let d := (dimSize (tf ws 1 1 0), dimSize (tf ws 1 9 8), dimSize (tf ws 1 17 16))
    let root := tf ws 2 5 0
    let ans := (answered.map (·.val)).filter (inShape d)
    let st1 := joinSystem st d root ans
    let missing := (List.range 64).filter fun n => inShape d n && decide (n ≠ root) && !ans.contains n
    { bad := decide (1 < tf ws 1 1 0) || decide (1 < tf ws 1 9 8) || decide (1 < tf ws 1 17 16) || !shapeOk d || !inShape d root
      denied := st.emx.joined && !st.emx.isRoot
      words := [w32 st1.emx.members.length, w32 (devBits missing), w32hi (devBits missing)], st := st1 }

/-- EMX_LINK_STATUS. -/
def execEmxLinkStatus (pair : Fin 176) (s : State) : Host.Outcome State Fault Refusal :=
  withNci 0x0701 [7] pair s fun ws st =>
    let x := elinkOf st (tf ws 1 2 0)
    { bad := decide (5 < tf ws 1 2 0), words := [mkWord [(x.state, 30), (x.failed.toNat, 24), (x.peer, 0)], x.naks, x.retrains], st := st }

/-- EMX_TUNNEL_SET (R377). -/
def execEmxTunnelSet (pair : Fin 176) (s : State) : Host.Outcome State Fault Refusal :=
  withNci 0x0702 [0x801F1F3F] pair s fun ws st =>
    let t := tf ws 1 20 16
    let d := tf ws 1 5 0
    let en := decide (tf ws 1 31 31 = 1)
    { bad := decide (t < 4) || (en && (!st.emx.joined || !st.emx.members.contains d || decide (d = st.emx.devid)))
      busy := (pairOf st t).isOpen
      st := { st with emx := { st.emx with tunnels := Tab.put none st.emx.tunnels t (if en then some { pair := tf ws 1 12 8, dev := d } else none) } } }

/-- EMX_DOORBELL (R378). -/
def execEmxDoorbell (pair : Fin 176) (s : State) : Host.Outcome State Fault Refusal :=
  withNci 0x0703 [0x3FFF0001, 0xFFFFFFFF] pair s fun ws st =>
    let n := tf ws 1 29 16
    { bad := !doorbellOk (ringOf st n) (w32 (wordAt ws 2)), st := ringBell st n (w32 (wordAt ws 2)) (decide (tf ws 1 0 0 = 1)) }

/-- EMX_STATUS. `far` is what a joined far device answers. -/
def execEmxStatus (pair : Fin 176) (far : List Word) (s : State) : Host.Outcome State Fault Refusal :=
  withNci 0x0704 [0x3F] pair s fun ws st =>
    let d := tf ws 1 5 0
    { bad := !(st.emx.joined && st.emx.members.contains d)
      words := if d = st.emx.devid then [stsIdWord st, stsState st, st.sts.epoch, stsAlarm st, w32 (now st), w32hi (now st)] else far.take 6, st := st }

end Sys2Proof.Machine
end

