-- ==== Sys2Proof/Machine/Irq.lean ====
section
/-!
DEFINITION. Interrupts (R114, R343 to R349), timed barriers and cairn registers (R340, R341), halting and stepping (R123).
-/
namespace Sys2Proof.Machine

/-! ### Arbitration (R343, R344) -/

/-- The group of a source: prio >> bp. -/
def groupOfSrc (v : Vic) (n : Nat) : Nat := vicPrio v n / 2 ^ v.bp

/-- Is a source eligible? -/
def eligible (v : Vic) (n : Nat) : Bool := v.pend.getLsbD n && v.en.getLsbD n

/-- The better of two sources: the lower priority value, then the lower number. Group and sub-priority together order as the
priority does. -/
def betterSrc (v : Vic) (best : Option Nat) (n : Nat) : Option Nat :=
  if !eligible v n then best
  else match best with
    | none => some n
    | some b => if vicPrio v n < vicPrio v b then some n else some b

/-- The source an arbitration picks among nw sources. -/
def pickSource (v : Vic) (nw : Nat) : Option Nat := (List.range nw).foldl (betterSrc v) none

/-- The running group: that of the most urgent active source (R344). -/
def runGroup (v : Vic) : Option Nat :=
  v.stack.foldl (fun b e => match b with | none => some e.2 | some g => some (min g e.2)) none

/-- The source chosen for delivery with its group: its group must be strictly lower than the running group. -/
def arbitrate (v : Vic) (nw : Nat) : Option (Nat × Nat) :=
  match pickSource v nw with
  | none => none
  | some n => match runGroup v with
    | none => some (n, groupOfSrc v n)
    | some g => if groupOfSrc v n < g then some (n, groupOfSrc v n) else none

/-- The vector VBASE + step × source is presented: pending clears, the source becomes active (R345). -/
def presentSrc (v : Vic) (step : Nat) (c : Nat × Nat) : Vic :=
  { v with chosen := none, pend := setBit v.pend c.1 false, stack := c :: v.stack, vec := v.vbase + step * c.1 }

/-- The delivery is not taken: the source is pending (R346). -/
def repend (v : Vic) (n : Nat) : Vic := { vicRaise v n with chosen := none }

/-- INTERRUPT_DELIVERY in the Lantern: its processor always accepts the vector VBASE + 16 × source (R345; log entry 5). -/
def deliverLantern (s : State) : State :=
  match s.lvic.chosen with
  | some c => { s with lvic := presentSrc s.lvic 16 c }
  | none => { s with lvic := { s.lvic with chosen := arbitrate s.lvic 256 } }

/-- May the chamber take a delivery now (R114, R344, R346)? A halted chamber may: it enters the handler and stays halted there (log entry
44). -/
def acceptsIrq (c : Core) : Bool := c.active && c.ie && !c.dbl && c.entering.isNone

/-- INTERRUPT_DELIVERY in a chamber: an arbitration chooses, and three cycles later the vector VBASE + 128 × source is
presented; ist.ie is judged then (R345, R346). -/
def deliverChamber (s : State) (ph : Nat) : State :=
  let h := chmOf s ph
  match h.vic.chosen with
  | some c =>
    if acceptsIrq h.core then
      updChm s ph fun x => { x with
        vic := presentSrc x.vic 128 c
        core := { x.core with entering := some (BitVec.ofNat 40 (x.vic.vbase + 128 * c.1)), keepHeld := anyHeld x.ar } }
    else updChm s ph fun x => { x with vic := repend x.vic c.1 }
  | none =>
    if acceptsIrq h.core then updChm s ph fun x => { x with vic := { x.vic with chosen := arbitrate x.vic 64 } } else s

/-- INTERRUPT_DELIVERY (R344 to R346). -/
def execInterruptDelivery (vic : VicId) (s : State) : Host.Outcome State Fault Refusal :=
  match vic with
  | .lantern => .next (deliverLantern s)
  | .chamber ch => .next (deliverChamber s ch.val)

/-- Is every STREAM of the chamber held (R114)? -/
def allHeld (ar : Arrays) : Bool :=
  ar.arr.all (fun e => match e.2.run with | some r => r.held | none => true) &&
  ar.aq.all (fun o => match o with | .stream p => p.held | _ => true)

/-- INTERRUPT_ENTRY: with every STREAM held and no access outstanding, the bundle at issue is abandoned and the handler
begins (R114, R115, R338). -/
def execInterruptEntry (ch : Fin 144) (s : State) : Host.Outcome State Fault Refusal :=
  let h := chmOf s ch.val
  match h.core.entering with
  | some v =>
    if allHeld h.ar && !accOut h.core then .next (updCore (withdrawIssue s ch) ch.val fun c => enterIrq c v) else .next s
  | none => .next s

/-- VIC_EOI: the Lantern's most recent active source ends (R345). -/
def execVicEoi (s : State) : Host.Outcome State Fault Refusal := .next { s with lvic := vicEnd s.lvic }

/-- The address of VIC_BINDk of a chamber (R349). -/
def bindAddr (ch k : Nat) : Nat := windowBase ch + 0x1800 + 4 * k

/-- VIC_BINDK (R348): by the Lantern, or by a chamber in its own window, for k from 16 to 63. Another k is no listed register (R122, R20), another
chamber's window is denied (R23). -/
def execVicBindk (who : Agent) (ch : Fin 144) (k : Fin 64) (v : Word) (s : State) : Host.Outcome State Fault Refusal :=
  let a := bindAddr ch.val k.val
  match who with
  | .lantern => .next (wroteBy who a (if k.val < 16 then .addr s else vicBind s who ch.val k.val v))
  | .chamber c => .next (wroteBy who a (if k.val < 16 then .addr s else if c = ch then vicBind s who ch.val k.val v else .bus s))
  | .host | .pciConfig => .next s

/-! ### Cairns -/

/-- TIMED_BARRIER_OPEN: at its release time a timed barrier whose count has reached target opens (R340). -/
def execTimedBarrierOpen (cairn : Fin 65536) (s : State) : Host.Outcome State Fault Refusal :=
  .next (if noClock s 1 then s else settleTimed s cairn.val)

/-- CN_ADDN (R341): a write by the Lantern, or by a chamber whose job's context owns the cairn; another chamber's is denied (R23). -/
def execCnAddn (who : Agent) (cairn : Fin 65536) (n : Word) (s : State) : Host.Outcome State Fault Refusal :=
  if noClock s 1 then .next s
  else match who with
  | .lantern => .next (cairnAdd s cairn.val n)
  | .chamber ch => .next (wroteBy who (0x1809000008 + 16 * cairn.val) (if ownsCairn s (coreOf s ch.val) cairn.val then .ok (cairnAdd s cairn.val n) else .bus s))
  | .host | .pciConfig => .next s

/-! ### Debug (R123, R407) -/

/-- CHM_CTL_HALT_REQ. -/
def execChmCtlHaltReq (ch : Fin 144) (halt : Bool) (s : State) : Host.Outcome State Fault Refusal :=
  .next (chmCtlWrite s .lantern ch.val (mkWord [(b2n (coreOf s ch.val).icLock, 2), (b2n halt, 0)])).st

/-- CHM_CTL_STEP. -/
def execChmCtlStep (ch : Fin 144) (s : State) : Host.Outcome State Fault Refusal :=
  .next (chmCtlWrite s .lantern ch.val (mkWord [(b2n (coreOf s ch.val).icLock, 2), (1, 1), (b2n (coreOf s ch.val).haltReq, 0)])).st

end Sys2Proof.Machine
end

