-- ==== Sys2Proof/Machine/Part.lean ====
section
/-!
DEFINITION. Cairn commands (R341, R342) and memory and placement commands (R208).
-/
namespace Sys2Proof.Machine

/-! ### Survey tables -/

/-- The entries of a table half. -/
def surveyEntries : Option Survey → List Entry
  | some t => t.entries
  | none => []

/-- The entries of the committed and the staged table. -/
def bothTables (s : State) : List Entry := surveyEntries s.sched.committed ++ surveyEntries s.sched.staged

/-- Has the context entries in either table? -/
def ctxInTables (s : State) (c : Nat) : Bool := (bothTables s).any fun e => decide (e.ctx = c)

/-- Is the template in either table? -/
def tmplInTables (s : State) (n : Nat) : Bool := (bothTables s).any fun e => decide (e.tmpl = n)

/-! ### Cairn commands -/

/-- Is the cairn named by a flow, or by a template of either survey table (R341)? -/
def cairnNamed (s : State) (n : Nat) : Bool :=
  s.flows.any (fun f => decide (f.2.state ≠ 0) && decide (f.2.cfg.cairn = n)) ||
  (bothTables s).any fun e => (Tab.get {} s.tmpls e.tmpl).jcairns.any fun j => decide (j.1 = n)

/-- Timed barriers pending besides cairn n. -/
def timedPending (s : State) (n : Nat) : Nat := (s.cairns.filter fun e => e.2.timed && decide (e.1 ≠ n)).length

/-- The cairn a CAIRN_SET leaves (R342): faulted, ovf and gen cleared, the fields set, no waiter. -/
def cairnOfWords (c : Cairn) (ws : List Word) : Cairn :=
  { c with typ := tf ws 1 5 4, ctx := tf ws 1 13 8, autoclear := decide (tf ws 1 1 1 = 1), timed := decide (tf ws 1 0 0 = 1),
           v := w32 (wordAt ws 2), own := decide (tf ws 3 23 23 = 1), owner := tf ws 3 22 16, target := tf ws 3 13 0,
           t := BitVec.ofNat 64 (dword (wordAt ws 4) (wordAt ws 5)), faulted := false, ovf := false, gen := 0, waiters := [] }

/-- Put a cairn in force; a value that becomes non-zero is a bound cairn's event (chamber sources 16 to 63). -/
def putCairn (s : State) (n : Nat) (c : Cairn) : State :=
  let s1 := setCairn s n c
  if decide ((cairnOf s n).v = 0) && !decide (c.v = 0) && !decide (c.typ = 0) then bindEvent s1 n else s1

/-- CAIRN_SET (R341, R342): present waiters are released with CLEARED, then the fields are set, in one step. -/
def cairnSet (s : State) (n : Nat) (c : Cairn) : State :=
  let g := statusWord 3 (Config.cairnValue s.free)
  putCairn (grantAll (draw s) g 0 (cairnOf s n).waiters) n c

/-- CAIRN_SET. -/
def execCairnSet (pair : Fin 176) (s : State) : Host.Outcome State Fault Refusal :=
  withNci 0x0006 [0xFFFF3F33, 0xFFFFFFFF, 0x00FF3FFF, 0xFFFFFFFF, 0xFFFFFFFF] pair s fun ws st =>
    let n := tf ws 1 31 16
    let o := cairnOf st n
    let c := cairnOfWords o ws
    { bad := !(ctxOf st c.ctx).isSet || (decide (c.typ = 2) && decide (c.target = 0)) ||
             (c.timed && (decide (c.typ ≠ 2) || decide (c.t.toNat < now st)))
      ctxs := c.ctx :: (if o.typ = 0 then [] else [o.ctx])
      busy := cairnNamed st n && (decide (c.typ ≠ o.typ) || decide (c.ctx ≠ o.ctx))
      nores := c.timed && decide (16 ≤ timedPending st n)
      st := cairnSet st n c }

/-- CAIRN_GET. -/
def execCairnGet (pair : Fin 176) (s : State) : Host.Outcome State Fault Refusal :=
  withNci 0x0007 [0xFFFF0000] pair s fun ws st =>
    let c := cairnOf st (tf ws 1 31 16)
    { bad := decide (c.typ = 0), ctxs := [c.ctx], words := [c.v, cairnCfgWord c, cairnStatWord c], st := st }

/-! ### Partitions (R187, R208) -/

/-- The parts of interval x (base, size) outside interval y. -/
def minusOne (x y : Nat × Nat) : List (Nat × Nat) :=
  let a := (x.1, min (x.1 + x.2) y.1 - x.1)
  let lo := max x.1 (y.1 + y.2)
  let b := (lo, x.1 + x.2 - lo)
  if y.2 = 0 then [x] else [a, b].filter fun i => decide (i.2 ≠ 0)

/-- The parts of the intervals xs outside every interval of ys. -/
def minusAll (xs ys : List (Nat × Nat)) : List (Nat × Nat) := ys.foldl (fun acc y => acc.flatMap fun x => minusOne x y) xs

/-- What lies in exactly one of two sets of intervals. -/
def changed (xs ys : List (Nat × Nat)) : List (Nat × Nat) := minusAll xs ys ++ minusAll ys xs

/-- Zero intervals of units of `u` bytes at a base, with their flags (R208). -/
def zeroIvs (s : State) (base u : Nat) (ivs : List (Nat × Nat)) : State :=
  ivs.foldl (fun st i => zeroKeys st (base + i.1 * u) (i.2 * u)) s

/-- Zero intervals of 16 KiB units in every pocket. -/
def zeroPockets (s : State) (ivs : List (Nat × Nat)) : State := (List.range 144).foldl (fun st ph => zeroIvs st (pocketKey ph) 0x4000 ivs) s

/-- Zero intervals of 64 KiB units in every cistern. -/
def zeroCisterns (s : State) (ivs : List (Nat × Nat)) : State :=
  (List.range 16).foldl (fun st g => zeroIvs st (0x1000000000 + 0x400000 * g) 0x10000 ivs) s

/-- Zero what differs between two sets of partitions: memory that changes owner (R208). -/
def zeroChanged (s : State) (a b : Ctx) : State :=
  let s1 := zeroPockets s (changed [(a.pkOff, a.pkUnits)] [(b.pkOff, b.pkUnits)])
  let s2 := zeroCisterns s1 (changed [(a.csOff, a.csUnits)] [(b.csOff, b.csUnits)])
  zeroIvs s2 0 0x200000 (changed a.hbm b.hbm)

/-- The HBM ranges of a MEM_PART_SET: those below nhbm. -/
def hbmOfWords (ws : List Word) : List (Nat × Nat) := (List.range (tf ws 4 3 0)).map fun i => (tf ws (5 + i) 30 16, tf ws (5 + i) 14 0)

/-- Do the partitions reach past their memory, or into Nerzon's reserve (R208)? -/
def partBad (c : Ctx) (nhbm : Nat) : Bool :=
  decide (56 < c.pkUnits) || decide (64 < c.csUnits) || decide (8 < nhbm) || decide (64 < c.pkOff + c.pkUnits) ||
  decide (64 < c.csOff + c.csUnits) || c.hbm.any fun r => decide (0x5F00 < r.1 + r.2)

/-- Do the partitions of two contexts overlap? -/
def partOverlap (a b : Ctx) : Bool :=
  overlaps a.pkOff a.pkUnits b.pkOff b.pkUnits || overlaps a.csOff a.csUnits b.csOff b.csUnits ||
  a.hbm.any fun x => b.hbm.any fun y => overlaps x.1 x.2 y.1 y.2

/-- Do the partitions overlap another context's, or leave a transient region under 128 KiB (R188, R208)? -/
def partShort (s : State) (k : Nat) (c : Ctx) : Bool :=
  let others := s.ctxs.filter fun e => decide (e.1 ≠ k)
  others.any (fun e => partOverlap c e.2) || decide (56 < others.foldl (fun n e => n + e.2.pkUnits) c.pkUnits)

/-- MEM_PART_SET. -/
def execMemPartSet (pair : Fin 176) (s : State) : Host.Outcome State Fault Refusal :=
  withNci 0x0100 ([0x3F, 0xFFFFFFFF, 0xFFFFFFFF, 0xF] ++ List.replicate 8 0x7FFF7FFF) pair s fun ws st =>
    let k := tf ws 1 5 0
    let o := ctxOf st k
    let c := { o with pkUnits := tf ws 2 31 16, pkOff := tf ws 2 15 0, csUnits := tf ws 3 31 16, csOff := tf ws 3 15 0, hbm := hbmOfWords ws }
    { bad := partBad c (tf ws 4 3 0), busy := ctxInTables st k, nores := partShort st k c
      st := updCtx (zeroChanged st o c) k fun _ => c }

/-- The reply words of MEM_PART_GET from word 2. -/
def partWords (c : Ctx) : List Word :=
  [mkWord [(c.pkUnits, 16), (c.pkOff, 0)], mkWord [(c.csUnits, 16), (c.csOff, 0)], w32 c.hbm.length] ++
  c.hbm.map fun r => mkWord [(r.1, 16), (r.2, 0)]

/-- MEM_PART_GET. -/
def execMemPartGet (pair : Fin 176) (s : State) : Host.Outcome State Fault Refusal :=
  withNci 0x0101 [0x3F] pair s fun ws st =>
    { ctxs := [tf ws 1 5 0], words := partWords (ctxOf st (tf ws 1 5 0)), st := st }

/-! ### Images (R207, R208) -/

/-- Copy an image into the pocket partition of a logical chamber, its gallery powered up (R208, R396): a gallery siphon moves it as a BLOCK of one
row, by transfer tiles (R190, R198, R201). -/
def loadImage (s : State) (c : Ctx) (i : Image) (lc : Nat) : State :=
  let g (a : Nat) : Nat := 2 ^ 40 * s.emx.devid + a
  if i.len = 0 then powerUp s (lc / 8)
  else moveRows (powerUp s (lc / 8)) (288 + 4 * (lc / 8)) s.emx.descs none
    [{ src := some (g i.addr), fill := [], flags := noFlags, dst := g (pocketBase lc + 0x4000 * c.pkOff + i.off), len := i.len }]

/-- The logical chambers of a set. -/
def setMembers (v : BitVec 128) : List Nat := (List.range 128).filter fun n => v.getLsbD n

/-- Load images into chambers. -/
def loadImages (s : State) (c : Ctx) (is : List Image) (lcs : List Nat) : State :=
  is.foldl (fun st i => lcs.foldl (fun st2 lc => loadImage st2 c i lc) st) s

/-- Does a template of the committed configuration use the bytes an image would be bound over: its code, or what else its jobs use (R309, R428)? -/
def codeInUse (s : State) (k off len : Nat) : Bool :=
  (surveyEntries s.sched.committed).any fun e =>
    let t := Tab.get {} s.tmpls e.tmpl
    decide (e.ctx = k) && (overlaps off len t.entry (t.clen * 32) || (decide (t.hbase ≠ 0xFFFFFFFF) && overlaps off len t.hbase (t.hlen * 32)) ||
      Config.usesPocket e.tmpl off len)

/-- The image a MEM_IMAGE_BIND names. -/
def imageOfWords (ws : List Word) : Image := { addr := dword (wordAt ws 2) (wordAt ws 3), off := wordAt ws 4, len := wordAt ws 5 }

/-- Does a MEM_IMAGE_BIND break its field rules? -/
def imageBad (c : Ctx) (i : Image) : Bool :=
  !c.isSet || decide (i.off % 32 ≠ 0) || decide (i.len % 32 ≠ 0) || !inHbm c i.addr i.len || decide (0x4000 * c.pkUnits < i.off + i.len)

/-- MEM_IMAGE_BIND. Binding over bytes that a committed template's locked code uses has an undefined result (R309, R428). -/
def execMemImageBind (pair : Fin 176) (s : State) : Host.Outcome State Fault Refusal :=
  withNci 0x0102 [0x3F, 0xFFFFFFFF, 0xFF, 0xFFFFFFFF, 0xFFFFFFFF] pair s fun ws st =>
    let k := tf ws 1 5 0
    let c := ctxOf st k
    let i := imageOfWords ws
    let bound := updCtx (loadImages st c [i] (setMembers c.chset)) k fun x => { x with images := x.images.filter (fun y => decide (y.off ≠ i.off)) ++ [i] }
    { bad := imageBad c i, ctxs := [k], st := if codeInUse st k i.off i.len then strayContext k bound else bound }

/-- The chamber set of a request. -/
def chsetOfWords (ws : List Word) : BitVec 128 := BitVec.ofNat 128 (wordAt ws 2 + 2 ^ 32 * wordAt ws 3 + 2 ^ 64 * wordAt ws 4 + 2 ^ 96 * wordAt ws 5)

/-- Is a logical chamber of the gallery in any context's chamber set? -/
def galleryUsed (s : State) (g : Nat) : Bool := s.ctxs.any fun e => (setMembers e.2.chset).any fun c => decide (c / 8 = g)

/-- Nerzon may gate a gallery in no context's chamber set, on which no job runs (R396): its pockets and cistern lose their contents
and read as after power-on. Whether it does is Nerzon's choice. -/
def gateOne (k : Nat) (s : State) (g : Nat) : State :=
  if Config.gates k g && !galleryUsed s g && !s.gated.getLsbD g && !(galleryChms g).any fun ph => (coreOf s ph).active then
    let s1 := (galleryChms g).foldl (fun st ph => zeroKeys st (pocketKey ph) 0x100000) s
    zeroKeys { s1 with gated := setBit s1.gated g true } (0x1000000000 + 0x400000 * g) 0x400000
  else s

/-- Gate idle galleries. -/
def gateIdle (s : State) : State := (List.range 16).foldl (gateOne s.free) (draw s)

/-- PLACE_SET_CHAMBERS. -/
def execPlaceSetChambers (pair : Fin 176) (s : State) : Host.Outcome State Fault Refusal :=
  withNci 0x0103 [0x3F, 0xFFFFFFFF, 0xFFFFFFFF, 0xFFFFFFFF, 0xFFFFFFFF] pair s fun ws st =>
    let k := tf ws 1 5 0
    let c := ctxOf st k
    let v := chsetOfWords ws
    { bad := decide (v = 0) || !c.isSet, ctxs := [k], busy := ctxInTables st k
      st := gateIdle (loadImages (updCtx st k fun x => { x with chset := v }) c c.images (setMembers (v &&& ~~~c.chset))) }

/-! ### Maps and reports -/

/-- The position of a logical chamber in its gallery, 0xFF when offline. -/
def mapByte (s : State) (lc : Nat) : Nat := match carrier s lc with | some ph => ph % 9 | none => 0xFF

/-- Is a physical chamber retired (R416)? -/
def retired (s : State) (u : Nat) : Bool := decide ((unitOf s u).state = 3)

/-- An unused spare: no logical chamber, in service. -/
def spareFree (s : State) (ph : Nat) : Bool := (chmOf s ph).logical.isNone && decide ((unitOf s ph).state ≤ 1) && !(chmOf s ph).isolated

/-- One bit per position of a gallery. -/
def galBits (g : Nat) (f : Nat → Bool) : Nat := (List.range 9).foldl (fun n p => n + b2n (f (g * 9 + p)) * 2 ^ p) 0

/-- The reply words of PLACE_MAP_GET. -/
def mapWords (s : State) (g : Nat) : List Word :=
  let b (k : Nat) : Nat := mapByte s (8 * g + k)
  [mkWord [(b 0, 0), (b 1, 8), (b 2, 16), (b 3, 24)], mkWord [(b 4, 0), (b 5, 8), (b 6, 16), (b 7, 24)],
   mkWord [(galBits g (spareFree s), 16), (galBits g (retired s), 0)]]

/-- PLACE_MAP_GET. -/
def execPlaceMapGet (pair : Fin 176) (s : State) : Host.Outcome State Fault Refusal :=
  withNci 0x0104 [0xF] pair s fun ws st => { words := mapWords st (tf ws 1 3 0), st := st }

/-- The placement of a template's last released job: one word per layer and rank that runs part of it, its array group
Nerzon's choice, which a frozen placement repeats (R205, R206, R208). -/
def layerWords (t : Tmpl) (n : Nat) : List Word :=
  (List.range t.nlayer).flatMap fun l => ((List.range t.lastChms.length).zip t.lastChms).filterMap fun rc =>
    let g := Config.layerGroup n t.lastKey l rc.1 % 16
    if g = 0 then none else some (mkWord [(l, 16), (rc.2, 8), (g, 0)])

/-- The bytes PLACE_REPORT writes. -/
def reportBytes (t : Tmpl) (n : Nat) : List Byte :=
  match t.lastSlot with
  | none => List.replicate 8 0xFF#8
  | some a => leBytes a 8 ++ wordBytes (layerWords t n)

/-- PLACE_REPORT. -/
def execPlaceReport (pair : Fin 176) (s : State) : Host.Outcome State Fault Refusal :=
  withNci 0x0105 [0xFFFF003F, 0xFFFFFFFF, 0xFF, 0xFFFFFFFF] pair s fun ws st =>
    let n := tf ws 1 31 16
    let t := Tab.get {} st.tmpls n
    let buf := dword (wordAt ws 2) (wordAt ws 3)
    let bs := reportBytes t n
    { bad := !t.isSet || !(ctxOf st (tf ws 1 5 0)).isSet || decide (t.ctx ≠ tf ws 1 5 0) || decide (buf % 8 ≠ 0) || decide (0x0C00000000 < buf + wordAt ws 4)
      ctxs := [tf ws 1 5 0, t.ctx], nores := decide (wordAt ws 4 < bs.length), words := [w32 ((bs.length - 8) / 4)]
      st := writeMem st buf bs noFlags }

/-- MEM_BAR2_SET. -/
def execMemBar2Set (pair : Fin 176) (s : State) : Host.Outcome State Fault Refusal :=
  withNci 0x0106 [0xFFFFFFFF, 0x800000FF] pair s fun ws st =>
    let base := wordAt ws 1 + 2 ^ 32 * tf ws 2 7 0
    { bad := decide (base % 0x40000000 ≠ 0) || decide (0x0C00000000 < base + 0x40000000)
      st := { st with pcie := { st.pcie with bar2Base := base, bar2Open := decide (tf ws 2 31 31 = 1) } } }

end Sys2Proof.Machine
end

