-- ==== Sys2Proof/Machine/Time.lean ====
section
/-!
DEFINITION. The time block (chapter 14): the grid, domains and their sources, switches, compares, pulses, the time commands, and the
PTP and ESMC messages Nerzon sends.
-/
namespace Sys2Proof.Machine

/-! ### The grid (R219, R362) -/

/-- Air slot length in ns by spacing: 0 15 kHz, 1 30 kHz, 2 120 kHz. -/
def slotLen (scs : Nat) : Nat := if scs = 0 then 1000000 else if scs = 1 then 500000 else 125000

/-- T_sym: the air slot length divided by 14, truncated (R219). -/
def tSym (scs : Nat) : Nat := slotLen scs / 14

/-- A frame: 10 ms. -/
def frameNs : Nat := 10000000

/-- Slots per frame. -/
def slotsPerFrame (scs : Nat) : Nat := frameNs / slotLen scs

/-- The frame offset in force; 0 while no tick setting exists. -/
def toffOf (t : Time) : Int := match t.tick with | some (_, o) => o | none => 0

/-- The number of the grid slot that starts at t = toff: whole cycles of 1,024 frames, more than any signed 64-bit toff reaches back, so
that slots before toff have numbers too. -/
def gridBias (scs : Nat) : Nat := 2 ^ 40 * slotsPerFrame scs

/-- The grid slot that holds a device time. -/
def gridSlot (t : Time) (scs at_ : Nat) : Nat := ((Int.ofNat at_ - toffOf t) / Int.ofNat (slotLen scs) + Int.ofNat (gridBias scs)).toNat

/-- The device time at which a grid slot starts. -/
def slotStart (t : Time) (scs g : Nat) : Nat := ((Int.ofNat g - Int.ofNat (gridBias scs)) * Int.ofNat (slotLen scs) + toffOf t).toNat

/-- The air start of symbol k of slot g, numbered 14 g + k (R362). -/
def airStart (t : Time) (scs sym : Nat) : Nat := slotStart t scs (sym / 14) + sym % 14 * tSym scs

/-- The air end of a symbol: the next symbol tick, or for symbol 13 the next slot tick (R219). -/
def airEnd (t : Time) (scs sym : Nat) : Nat := if sym % 14 = 13 then slotStart t scs (sym / 14 + 1) else airStart t scs sym + tSym scs

/-- frameId, subframeId and slotId of a grid slot (R362). -/
def frameOf (scs g : Nat) : Nat := g / slotsPerFrame scs % 256
def subframeOf (scs g : Nat) : Nat := g % slotsPerFrame scs / (slotsPerFrame scs / 10)
def slotIdOf (scs g : Nat) : Nat := g % (slotsPerFrame scs / 10)

/-- The first frame boundary at or after a device time. -/
def nextBoundary (t : Time) (at_ : Nat) : Nat :=
  let d := Int.ofNat at_ - toffOf t
  ((d + Int.ofNat frameNs - 1) / Int.ofNat frameNs * Int.ofNat frameNs + toffOf t).toNat

/-- While no slot tick falls, the next one can fall at the next frame boundary (R363). -/
def retick (s : State) : State := if s.time.ticking then s else { s with time := { s.time with nextTick := nextBoundary s.time (now s) } }

/-! ### Domains (R351 to R354, R444) -/

/-- Change a domain of the state. -/
def setDom (s : State) (d : Dom) (f : Domain → Domain) : State := { s with time := updDom s.time d f }

/-- Is the domain the active one? -/
def isActive (s : State) (d : Dom) : Bool := decide (s.time.active = some d)

/-- Remove a measured phase error of x ns: an active domain slews, dropping what remains of an earlier slew, an inactive one is
stepped (R353, R444). -/
def applyPhase (act : Bool) (x : Int) (d : Domain) : Domain :=
  if act then { d with slew := -(shl x 32) } else { d with cnt := (Int.ofNat d.cnt - shl x 32).toNat, slew := 0 }

/-- Does a phase measured at time t of the time clock go on with a run that began at g (R353, R444)? A HOST run has a TIME_DOMAIN_ADJ in
each second from g on; the others' sources are not silent for more than 2 s. -/
def runGoesOn (d : Domain) (g t : Nat) : Bool :=
  if d.source = 2 then decide ((t - g) / 1000000000 ≤ (d.last - g) / 1000000000 + 1) else decide (t ≤ d.last + 2000000000)

/-- The source is heard: one that returns in HOLDOVER takes the domain back to ACQUIRING (R353). -/
def noteAlive (d : Domain) : Domain := if d.state = 3 then { d with state := 1, good := none } else d

/-- A phase error x measured at time t of the time clock: the run within ±100 ns goes on, begins or ends (R353). -/
def noteError (t : Nat) (x : Int) (d : Domain) : Domain :=
  let m := noteAlive d
  let run := match m.good with
    | some g => if runGoesOn m g t then some g else some t
    | none => some t
  { m with err := x, good := if 100 < x.natAbs then none else run, last := t }

/-- A measured phase error is noted and removed. -/
def correct (s : State) (d : Dom) (x : Int) : State := setDom s d fun m => applyPhase (isActive s d) x (noteError s.time.clk x m)

/-- The rate that takes effect: within ±50 ppm, and within 10 ppm of the current one on the active domain (R353, R444). -/
def clampRate (act : Bool) (cur r : Int) : Int :=
  let x := clamp r (-50000000) 50000000
  if act then clamp x (cur - 10000000) (cur + 10000000) else x

/-- A PTP or PPS source corrects its domain: the phase error is removed, the servo sets the rate (R352, R353). -/
def servo (s : State) (d : Dom) (x : Int) : State :=
  let s1 := correct s d x
  setDom (draw s1) d fun m => { m with rate := clampRate (isActive s d) m.rate (Config.servoRate s.free) }

/-- Make a domain active (R354): the residual offset is the old device time less the new domain, less any part below 2 ns; what the
old domain still slews is stepped in. -/
def switchTo (s : State) (d : Dom) : State :=
  let old := timeFine s.time
  let diff := Int.ofNat old - Int.ofNat (domOf s.time d).cnt
  let t1 := updDom s.time (otherDom d) fun m => { m with cnt := (Int.ofNat m.cnt + m.slew).toNat, slew := 0 }
  retick { s with time := { t1 with active := some d, offset := diff - Int.tmod diff (2 ^ 33) } }

/-- A domain becomes LOCKED; the first one to do so becomes active (log entry 15). -/
def lockDom (s : State) (d : Dom) : State :=
  let s1 := setDom s d fun m => { m with state := 2 }
  match s1.time.active with
  | none => retick { s1 with time := { s1.time with active := some d } }
  | some _ => retick s1

/-- Has the run within ±100 ns lasted 16 consecutive seconds: the phases measured span them, and a HOST domain has had a TIME_DOMAIN_ADJ
in each (R353, R444)? -/
def runFull (m : Domain) : Bool :=
  match m.good with
  | some g => if m.source = 2 then decide (15 ≤ (m.last - g) / 1000000000) else decide (g + 16000000000 ≤ m.last)
  | none => false

/-- DOMAIN_LOCKED: phase error within ±100 ns for 16 consecutive seconds (R353, R444). -/
def execDomainLocked (dom : Dom) (s : State) : Host.Outcome State Fault Refusal :=
  let m := domOf s.time dom
  if decide (m.source ≠ 0) && decide (m.state = 1) && runFull m then .next (lockDom s dom) else .next s

/-- Has the source been silent long enough to be lost (R353)? The receipt timeouts of PTP are its profile's. -/
def silent (s : State) (m : Domain) : Bool :=
  decide (m.source = 1) || (decide (m.source = 2) && decide (m.last + 4000000000 ≤ s.time.clk)) || (decide (m.source = 3) && decide (m.last + 2000000000 ≤ s.time.clk))

/-- SOURCE_LOST: from LOCKED to HOLDOVER; with auto = 1 the time block switches to a LOCKED other domain (R353, R354). -/
def execSourceLost (dom : Dom) (s : State) : Host.Outcome State Fault Refusal :=
  let m := domOf s.time dom
  if !silent s m then .next s
  else
    let s1 := setDom s dom fun x => { x with state := if x.state = 2 then 3 else x.state, good := none }
    if decide (m.state = 2) && isActive s dom && s.time.auto && decide ((domOf s.time (otherDom dom)).state = 2) then .next (switchTo s1 (otherDom dom))
    else .next s1

/-- The phase error of a PPS domain at an edge: its distance from the nearest whole second since tod. -/
def ppsError (m : Domain) : Int :=
  let d := (Int.ofNat (m.cnt / 2 ^ 32) - Int.ofNat m.tod.toNat) % 1000000000
  if d < 500000000 then d else d - 1000000000

/-- A PPS edge at a domain: a new source takes tod, else the edge corrects the phase (R352). -/
def ppsEdge (s : State) (d : Dom) : State :=
  let m := domOf s.time d
  if m.source ≠ 3 then s
  else if m.todPend then setDom s d fun x => { noteError s.time.clk 0 x with cnt := x.tod.toNat * 2 ^ 32, todPend := false, slew := 0 }
  else servo s d (ppsError m)

/-- PPS_IN_EDGE: the edge is captured, whether or not a domain uses PPS (R352, R356). -/
def execPpsInEdge (s : State) : Host.Outcome State Fault Refusal :=
  let s1 := { s with time := { s.time with ppsIn := BitVec.ofNat 64 (now s) } }
  .next (ppsEdge (ppsEdge s1 .a) .b)

/-- A PTP Announce or Sync of the selected time transmitter on a domain's receiver port and in its PTP domain, captured at ts; a Sync
gives the transmitter's time of that capture (R212, R352, R353). -/
def ptpAt (lport ts : Nat) (m : PtpMsg) (s : State) (d : Dom) : State :=
  let x := domOf s.time d
  if decide (x.source = 1) && decide (x.rport = lport) && decide (x.ptpdom = m.domain.toNat) && m.selected then
    match m.ref with
    | some r => servo s d (Int.ofNat (x.cnt / 2 ^ 32) + Int.ofNat ts - Int.ofNat (now s) - r)
    | none => setDom s d noteAlive
  else s

/-- A PTP frame reaches the time block with its capture. -/
def ptpFrame (s : State) (lport ts : Nat) (m : PtpMsg) : State := ptpAt lport ts m (ptpAt lport ts m s .a) .b

/-- The logical port whose recovered clock is selected and there (R355). -/
def recovered (t : Time) : Option Nat := if t.synceExt && !t.synceHold then some t.syncePort else none

/-- Change the time block's SyncE selection; the SYNCE_RCLK pin carries the recovered clock, divided to 25 MHz, while there is one (R355). -/
def synceTo (s : State) (f : Time → Time) : State :=
  let s1 := { s with time := f s.time }
  if recovered s1.time = recovered s.time then s1 else emit s1 (.rclk (recovered s1.time))

/-- An ESMC frame: the quality level of the selected port is reported (R355). -/
def esmcFrame (s : State) (lport : Nat) (ql : BitVec 8) : State := if s.time.syncePort = lport then { s with time := { s.time with ql := ql } } else s

/-- The PTP messages of a domain: on its receiver port, and on its transmitter ports (R352). -/
def ptpSends (s : State) (d : Dom) : State :=
  let m := domOf s.time d
  if m.source ≠ 1 then s
  else (List.range 32).foldl (fun st p => if m.tports.getLsbD p then emit st (.ptp d false p) else st) (emit s (.ptp d true m.rport))

/-- PTP_MESSAGE_SEND. -/
def execPtpMessageSend (s : State) : Host.Outcome State Fault Refusal := .next (if s.sts.state = 3 then ptpSends (ptpSends s .a) .b else s)

/-- ESMC_SEND: on every logical port whose link is up. -/
def execEsmcSend (s : State) : Host.Outcome State Fault Refusal :=
  .next (if s.sts.state = 3 then s.lports.foldl (fun st p => if p.2.link then emit st (.esmc p.1 (Config.esmcLevel (recovered s.time) s.time.ql p.1)) else st) s else s)

/-! ### Compares and pulses -/

/-- Do slot ticks start once the next frame boundary comes: a setting exists and the active domain is LOCKED (R363)? -/
def tickReady (s : State) : Bool :=
  s.time.tick.isSome && (match s.time.active with | some d => decide ((domOf s.time d).state = 2) | none => false)

/-- Is a slot tick due (R363)? -/
def tickDue (s : State) : Bool := (s.time.ticking || tickReady s) && decide (s.time.nextTick ≤ now s)

/-- Is a slot tick due whose update of TIME_SLOT comes before what falls at the instant (R25, R359)? -/
def tickFirst (s : State) (at_ : Nat) : Bool := tickDue s && decide (s.time.nextTick ≤ at_)

/-- Is a compare enabled and its target reached (R357)? The firing time of one more than 2^47 ns away is undefined. -/
def cmpDue (s : State) (k : Nat) : Bool := (cmpOf s k).en && (decide (0 ≤ cmpDiff s (cmpOf s k)) || cmpFar s (cmpOf s k))

/-- COMPARE_FIRE (R357): an enabled compare whose target is reached fires, and with it those that fire in the same cycle, whose sources
rise together (R359). A slot tick of that cycle comes first. -/
def execCompareFire (k : Fin 16) (s : State) : Host.Outcome State Fault Refusal :=
  if cmpDue s k.val && !tickFirst s (now s) then .next (((List.range 16).filter (cmpDue s)).foldl (fun st i => cmpFire st i false) s) else .next s

/-- A pulse output. -/
def pulseOf (s : State) (p : Nat) : Pulse := Tab.get {} s.time.pulses p

/-- Write a pulse output. -/
def setPulse (s : State) (p : Nat) (x : Pulse) : State := { s with time := { s.time with pulses := Tab.put {} s.time.pulses p x } }

/-- The ordinal of the first pulse of a schedule whose rising edge is at or after a time; past the last one of a single pulse (R361). -/
def firstPulse (c : PulseCfg) (at_ : Nat) : Nat :=
  if at_ ≤ c.start then 0 else if c.period = 0 then 1 else ceilDiv (at_ - c.start) c.period

/-- The rising edge of pulse n of a schedule; none when it has no such pulse (R360). -/
def riseOf (c : PulseCfg) (n : Nat) : Option Nat := if c.en && (decide (c.period ≠ 0) || decide (n = 0)) then some (c.start + n * c.period) else none

/-- PULSE_EDGE: the next edge whose time is reached (R360); a waiting setting takes effect after the falling edge (R361). -/
def execPulseEdge (p : Fin 4) (s : State) : Host.Outcome State Fault Refusal :=
  let x := pulseOf s p.val
  let rise := x.cfg.start + x.next * x.cfg.period
  if x.high then
    let fall := rise + x.cfg.width
    if now s < fall then .next s
    else
      let y : Pulse := match x.pend with
        | some c => { cfg := c, next := firstPulse c fall }
        | none => { x with high := false, next := x.next + 1 }
      .next (emit (setPulse s p.val y) (.pulse p.val x.cfg.pol fall))
  else match riseOf x.cfg x.next with
    | some r => if r ≤ now s then .next (emit (setPulse s p.val { x with high := true }) (.pulse p.val (!x.cfg.pol) r)) else .next s
    | none => .next s

/-! ### Commands (R364) -/

/-- The domain a bit names. -/
def domBit (b : Nat) : Dom := if b = 0 then .a else .b

/-- TIME_DOMAIN_SET (R352). -/
def domainSet (s : State) (d : Dom) (ws : List Word) : Domain :=
  let m := domOf s.time d
  let src := tf ws 1 5 4
  let base := { m with ptpdom := tf ws 1 31 24, rport := tf ws 1 20 16, profile := tf ws 1 9 8, tports := BitVec.ofNat 32 (wordAt ws 2), swSlew := tf ws 3 13 0 }
  if isActive s d then base
  else
    { base with source := src, state := if src = 0 then 0 else 1, rate := 0, slew := 0, err := 0, good := none, last := s.time.clk,
                tod := BitVec.ofNat 64 (dword (wordAt ws 4) (wordAt ws 5)), todPend := decide (src = 3),
                cnt := if src = 1 ∨ src = 2 then timeFine s.time else m.cnt }

/-- TIME_DOMAIN_SET. -/
def execTimeDomainSet (pair : Fin 176) (s : State) : Host.Outcome State Fault Refusal :=
  withNci 0x0600 [0xFF1F0331, 0xFFFFFFFF, 0x3FFF, 0xFFFFFFFF, 0xFFFFFFFF] pair s fun ws st =>
    let d := domBit (tf ws 1 0 0)
    { bad := decide (1 < tf ws 1 9 8) || decide (10000 < tf ws 3 13 0)
      busy := isActive st d && decide (tf ws 1 5 4 ≠ (domOf st.time d).source)
      st := setDom st d fun _ => domainSet st d ws }

/-- TIME_DOMAIN_ADJ (R444). -/
def execTimeDomainAdj (pair : Fin 176) (s : State) : Host.Outcome State Fault Refusal :=
  withNci 0x0601 [1, 0xFFFFFFFF, 0xFFFFFFFF, 0xFFFFFFFF] pair s fun ws st =>
    let d := domBit (tf ws 1 0 0)
    let m := domOf st.time d
    let r := sgn (wordAt ws 4) 32
    let r1 := clampRate (isActive st d) m.rate r
    { denied := decide (m.source ≠ 2), code := if r1 = r then 0 else 7
      st := setDom (correct st d (sgn (dword (wordAt ws 2) (wordAt ws 3)) 64)) d fun x => { x with rate := r1 } }

/-- May the time block be switched to the domain (R354)? -/
def canSwitch (s : State) (d : Dom) : Bool :=
  decide ((domOf s.time d).state = 2) && decide ((Int.ofNat s.time.da.cnt - Int.ofNat s.time.db.cnt).natAbs ≤ 100000 * 2 ^ 32)

/-- TIME_SWITCH (R354); with no domain active there is none to switch from (log entry 15). -/
def execTimeSwitch (pair : Fin 176) (s : State) : Host.Outcome State Fault Refusal :=
  withNci 0x0602 [3] pair s fun ws st =>
    let st1 := { st with time := { st.time with auto := decide (tf ws 1 0 0 = 1) } }
    if tf ws 1 1 1 = 0 then { st := st1 }
    else match st.time.active with
      | some d => { denied := !canSwitch st (otherDom d), st := switchTo st1 (otherDom d) }
      | none => { denied := true, st := st1 }

/-- TIME_TICK_SET (R362, R363). -/
def execTimeTickSet (pair : Fin 176) (s : State) : Host.Outcome State Fault Refusal :=
  withNci 0x0603 [3, 0xFFFFFFFF, 0xFFFFFFFF] pair s fun ws st =>
    { bad := decide (tf ws 1 1 0 = 3), busy := st.sched.committed.isSome || st.sched.staged.isSome
      st := retick { st with time := { st.time with tick := some (tf ws 1 1 0, sgn (dword (wordAt ws 2) (wordAt ws 3)) 64), ticking := false, nextSym := 14 } } }

/-- The schedule of a TIME_PULSE_SET. -/
def pulseOfWords (ws : List Word) : PulseCfg :=
  { start := dword (wordAt ws 2) (wordAt ws 3), period := wordAt ws 4, width := wordAt ws 5, pol := decide (tf ws 1 9 9 = 1), en := decide (tf ws 1 8 8 = 1) }

/-- Does a schedule break the limits of R360? -/
def pulseBad (c : PulseCfg) : Bool :=
  decide (c.width < 20) || (if c.period = 0 then decide (2 ^ 31 ≤ c.width) else decide (c.period < 100) || decide (c.period ≤ c.width))

/-- TIME_PULSE_SET (R361): never cuts a pulse short. -/
def execTimePulseSet (pair : Fin 176) (s : State) : Host.Outcome State Fault Refusal :=
  withNci 0x0604 [0x303, 0xFFFFFFFF, 0xFFFFFFFF, 0xFFFFFFFF, 0xFFFFFFFF] pair s fun ws st =>
    let p := tf ws 1 1 0
    let c := pulseOfWords ws
    let x := pulseOf st p
    { bad := pulseBad c
      st := setPulse st p (if x.high then { x with pend := some c } else { cfg := c, next := firstPulse c (now st) }) }

/-- TIME_CMP_GRANT (R358). -/
def execTimeCmpGrant (pair : Fin 176) (s : State) : Host.Outcome State Fault Refusal :=
  withNci 0x0605 [0x000F013F] pair s fun ws st =>
    let k := tf ws 1 19 16
    let g := decide (tf ws 1 8 8 = 1)
    let c := cmpOf st k
    { bad := g && !(ctxOf st (tf ws 1 5 0)).isSet, busy := g && c.en, code := if !g && c.en then 6 else 0
      st := setCmp st k (if g then { c with grant := true, ctx := tf ws 1 5 0, retPend := false } else cmpReturn { c with retPend := true }) }

/-- TIME_STAT (R364). -/
def timeStatWord (t : Time) : Word :=
  mkWord [(match t.tick with | some (scs, _) => scs | none => 0, 12), (b2n t.ticking, 11), (b2n (t.offset ≠ 0), 10), (b2n t.auto, 9),
    (b2n (t.active = some .b), 8), (t.db.state, 4), (t.da.state, 0)]

/-- TIME_STATUS. -/
def execTimeStatus (pair : Fin 176) (s : State) : Host.Outcome State Fault Refusal :=
  withNci 0x0606 [] pair s fun _ st =>
    { words := [timeStatWord st.time, w32 (low st.time.da.err 32), w32 (low st.time.db.err 32), w32 st.time.ql.toNat], st := st }

/-- SYNCE_SET (R355). -/
def execSynceSet (pair : Fin 176) (s : State) : Host.Outcome State Fault Refusal :=
  withNci 0x0607 [0x11F] pair s fun ws st =>
    let p := tf ws 1 4 0
    let e := decide (tf ws 1 8 8 = 1)
    { st := synceTo st fun t => { t with synceExt := e, syncePort := p, synceHold := e && !(Tab.get {} st.lports p).link } }

end Sys2Proof.Machine
end

