-- ==== Sys2Proof/Machine/Fence.lean ====
section
/-!
DEFINITION. Deadline and fault fences (R89, R119, R120, R175, R204, R262, R301, R302), chamber resets (R90, R121, R176, R209, R349),
isolation, retirement and spares (R207, R417, R418), and the parity errors of chambers, DEC units and the data fabric (R411).
-/
namespace Sys2Proof.Machine

/-! ### The transient region (R188) -/

/-- The 16 KiB units of a pocket that lie in no context's pocket partition. -/
def transientUnits (s : State) : List Nat :=
  (List.range 64).filter fun u => !s.ctxs.any fun e => decide (e.2.pkOff ≤ u) && decide (u < e.2.pkOff + e.2.pkUnits)

/-- Where the transient region starts in a pocket. -/
def transientStart (s : State) : Nat := 0x4000 * (transientUnits s).head?.getD 0

/-- Zero the transient region of a chamber with its word flags. -/
def zeroTransient (s : State) (ph : Nat) : State :=
  updChm ((transientUnits s).foldl (fun st u => zeroKeys st (pocketKey ph + 0x4000 * u) 0x4000) s) ph fun h => { h with prevCtx := none }

/-! ### A fence reaches a chamber -/

/-- The chamber's processor at a fence (R119): issue stops, handlers are abandoned, the fence is counted. -/
def fenceCore (c : Core) : Core :=
  { c with active := false, issue := none, entering := none, waitCairn := none, grant := none, grantBack := 0, stall := 0,
           ibank := false, xbank := false, lastFenced := true, fenced := c.fenced + 1 }

/-- The interrupt controller at a fence (R120): every active source ends; one whose delivery is under way is pending again. -/
def fenceVic (v : Vic) (entering : Bool) : Vic :=
  let v1 := match v.chosen with | some c => repend v c.1 | none => v
  let v2 := match entering, v1.stack with | true, (n, _) :: _ => vicRaise v1 n | _, _ => v1
  { v2 with stack := [] }

/-- The arrays at a fence (R89, R119): the queue is discarded, STREAMs are abandoned with their rows; an ALDW already filling
goes on, and weight slots, mode and status stay. -/
def fenceArrays (a : Arrays) : Arrays :=
  { a with aq := [], arr := Tab.mapListed {} (fun _ x => { x with run := none, fly := [] }) a.arr }

/-- Flowstone at a fence (R175): run and queue go, an unraised fault is dropped, the registers are cleared. -/
def fenceFl (f : Fls) : Fls := { f with run := none, fq := [], faultPend := false, t := [], b := [], m := [] }

/-- A scalar store already issued completes with the bundle that holds it, but for a JOB.END, which the fence overtakes (R119, R301); an
exception the store would raise is not taken (R120). -/
def finishStore (s : State) (ph : Fin 144) : State :=
  match (coreOf s ph.val).issue with
  | none => s
  | some i =>
    if i.acc.any (·.store) then
      let got := evalPos s ph i.word .m true
      if got.1.excs.isEmpty then commit got.2 ph.val (got.1.effs ++ i.effs.filter fun e => decide (e ≠ .jobEnd)) else got.2
    else s

/-- The part of a fence in a chamber whose job it is, running or ended there (R119, R294, R301). -/
def fenceRunning (s : State) (ph : Nat) (tag : Word) : State :=
  let f : Fin 144 := ⟨ph % 144, Nat.mod_lt _ (by decide)⟩
  updChm (withdrawIssue (finishStore s f) f) ph fun h =>
    clearJobTiles { h with core := fenceCore h.core, vic := fenceVic h.vic h.core.entering.isSome, ar := fenceArrays h.ar, fl := fenceFl h.fl } tag

/-- A fence reaches one chamber of the job: a part running or ended there is cleaned, one not started never starts and leaves flowstone
clear, the transient region is zeroed (R175, R188, R301). -/
def fenceChamber (tag : Word) (s : State) (ph : Nat) : State :=
  let h := chmOf s ph
  let s1 := if h.startTag = some tag then updFl s ph fenceFl else if h.core.jobTag = tag then fenceRunning s ph tag else s
  zeroTransient (updChm s1 ph fun x => { x with startTag := if x.startTag = some tag then none else x.startTag }) ph

/-- A siphon at a fence (R204): the job's queued chains and its running one go. -/
def fenceSiphon (tag : Word) (x : Siphon) : Siphon :=
  { x with queue := x.queue.filter fun e => !decide (e.2.1 = tag),
           chain := x.chain.bind fun c => if c.tag = tag then none else some c }

/-- Does the siphon run a chain of the job? -/
def runsTag (s : State) (tag : Word) (q : Nat) : Bool := match (siphOf s q).chain with | some c => decide (c.tag = tag) | none => false

/-- A remote access of a siphon that is stopped: a read is discarded, a write completes for no one. -/
def cutRemote (stops : Nat → Bool) (r : Remote) : Option Remote :=
  match r.siphon with
  | some q => if stops q then (if r.dest.isSome then none else some { r with siphon := none }) else some r
  | none => some r

/-- Every siphon at a fence: writes already issued complete, reads still outstanding are discarded. -/
def fenceSiphons (s : State) (tag : Word) : State :=
  { s with
    emx := { s.emx with remote := s.emx.remote.filterMap (cutRemote (runsTag s tag)) }
    siph := Tab.mapListed {} (fun _ x => fenceSiphon tag x) s.siph }

/-- Set or clear the header of a HARQ buffer (R249, R251). -/
def harqHeader (s : State) (a h ncb ntx : Nat) : State :=
  writeMem s a (wordBytes [mkWord [(1, 31), (h, 16), (ncb, 0)], w32 ntx]) noFlags

/-- Clear valid in a HARQ buffer's header (R251, R270). -/
def harqInvalid (s : State) (a : Nat) : State := writeMem s (a + 3) [0#8] noFlags

/-- The HARQ buffer address of a task. -/
def harqOf (t : Task) : Nat := taddr t.words 7 6 31 24

/-- The HARQ_FLUSH commands that waited for a task on the buffer (R270). -/
def applyFlush (s : State) (a : Nat) : State :=
  if s.dec.flush.contains a then harqInvalid { s with dec := { s.dec with flush := s.dec.flush.filter fun x => decide (x ≠ a) } } a else s

/-- A unit is done with its task: one whose combiner overlapped its decoding moves up (R256). -/
def takeOff (run : Tab (Option RunTask)) (u : Nat) : Tab (Option RunTask) :=
  match Tab.get none run (u + 32) with
  | some r => Tab.put none (Tab.put none run u (some r)) (u + 32) none
  | none => Tab.put none run u none

/-- An abandoned task (R262): its HARQ buffer keeps valid = 0 where its combiner was still writing. -/
def abandonRun (s : State) (u : Nat) (r : RunTask) : State :=
  let s1 := { s with dec := { s.dec with run := takeOff s.dec.run u, abandoned := s.dec.abandoned + 1 } }
  if tf r.task.words 0 31 28 = 1 then
    let s2 := if Config.combined s1.free then harqHeader s1 (harqOf r.task) r.h (tf r.task.words 4 15 0) r.ntx else s1
    applyFlush (draw s2) (harqOf r.task)
  else s1

/-- Abandon the task of a unit, if it runs one. -/
def abandonUnit (s : State) (u : Nat) : State :=
  match Tab.get none s.dec.run u with
  | some r => abandonRun s u r
  | none => s

/-- DEC at a fence, and at the deadline of a finished job (R262, R302): the job's queued tasks are discarded, its running ones
abandoned. -/
def fenceDec (s : State) (tag : Word) : State :=
  let isMine (r : Option RunTask) : Bool := match r with | some x => decide (x.task.tag = tag) | none => false
  let n := (s.dec.queue.filter fun t => decide (t.tag = tag)).length
  let s1 := { s with dec := { s.dec with queue := s.dec.queue.filter fun t => !decide (t.tag = tag), abandoned := s.dec.abandoned + w32 n } }
  ((s.dec.run.filter fun e => isMine e.2).map (·.1)).reverse.foldl abandonUnit s1

/-- Take a job out of flight. -/
def dropJob (s : State) (tag : Word) : State := { s with sched := { s.sched with jobs := s.sched.jobs.filter fun j => !decide (j.tag = tag) } }

/-- Keep a fence whose parts may time out, and forget those more than 2 µs old (R301). -/
def noteCleaning (s : State) (j : Job) : State :=
  let t := now s
  { s with sched := { s.sched with cleaning := { tag := j.tag, at_ := t, chms := j.chms.map (·.2) } :: s.sched.cleaning.filter fun c => decide (t ≤ c.at_ + 2000) } }

/-- The fence of a job (R301): every part is cleaned, and the completion record is written. -/
def fenceJob (s : State) (j : Job) (outcome : Nat) (chm : Option Nat) (detail : Word) : State :=
  let s1 := j.chms.foldl (fun st c => fenceChamber j.tag st c.2) s
  let s2 := noteCleaning (dropJob (fenceDec (fenceSiphons s1 j.tag) j.tag) j.tag) j
  let s3 := if outcome = 1 then { s2 with sched := { s2.sched with late := s2.sched.late + 1 } } else s2
  ringNerzon (if j.strayed then draw s3 else s3) j.e.cring (complOf s3 j outcome chm detail 0) true

/-- A job's deadline: an unfinished job is fenced; a finished one gives up its chambers and DEC tasks (R294, R301, R302). -/
def deadlineJob (s : State) (j : Job) : State := if j.finished then dropJob (fenceDec s j.tag) j.tag else fenceJob s j 1 none 0

/-- Does a job's fence come before another's: by deadline, then air slot, then entry (R25, R301)? -/
def dueBefore (j x : Job) : Bool :=
  decide (j.deadline < x.deadline) || (decide (j.deadline = x.deadline) && (decide (j.aslot < x.aslot) || (decide (j.aslot = x.aslot) && decide (j.idx < x.idx))))

/-- Insert a job in the order of fences. -/
def insertDue (j : Job) : List Job → List Job
  | [] => [j]
  | x :: xs => if dueBefore j x then j :: x :: xs else x :: insertDue j xs

/-- The jobs whose deadline is reached, in the order of their fences (R301). -/
def dueJobs (s : State) (t : Nat) : List Job := (s.sched.jobs.filter fun j => decide (j.deadline ≤ t)).foldl (fun l j => insertDue j l) []

/-- The jobs whose fences act with a job's: those due before it, and it. -/
def dueUpTo (s : State) (j : Job) : List Job := (dueJobs s j.deadline).filter fun x => dueBefore x j || decide (x.tag = j.tag)

/-- DEADLINE_FENCE: from its deadline on, the job with the tag, after every job whose fence comes before it. -/
def execDeadlineFence (tag : Word) (s : State) : Host.Outcome State Fault Refusal :=
  match jobOf s tag with
  | some j => if decide (j.deadline ≤ now s) && !tickFirst s j.deadline then .next ((dueUpTo s j).foldl deadlineJob s) else .next s
  | none => .next s

/-! ### Chamber reset, isolation, retirement -/

/-- A mailbox pair emptied without acknowledgement (R320); its request and a reply not yet posted go. -/
def emptyPair (s : State) (k : Nat) : State :=
  { updPair s k fun p => { p with req := emptyMbox p.req, rsp := emptyMbox p.rsp } with
    nciQ := s.nciQ.filter fun j => decide (j ≠ k)
    nci := s.nci.bind fun r => if r.pair = k then none else some r }

/-- The core reset of a chamber (R90, R121, R176, R209, R320, R339, R349): its cairns are released, its registers, queues, arrays,
flowstone, siphons, interrupt controller and push staging are reset, its pocket is zeroed (R417). Nerzon's map stays. -/
def resetChamber (s : State) (ph : Nat) : State :=
  let f : Fin 144 := ⟨ph % 144, Nat.mod_lt _ (by decide)⟩
  let h := chmOf s ph
  let s1 := withdrawIssue s f
  let s2 := match h.logical with | some lc => cairnsFaultOwner s1 lc | none => s1
  let s3 := setChm s2 ph { core := { cycBase := s2.crp.chmClk }, logical := h.logical, isolated := h.isolated, workFrom := h.workFrom }
  let s4 := zeroKeys (emptyPair s3 (32 + ph)) (pocketKey ph) 0x100000
  { s4 with
    siph := s4.siph.filter fun e => !decide (e.1 = 2 * ph) && !decide (e.1 = 2 * ph + 1)
    emx := { s4.emx with remote := s4.emx.remote.filterMap (cutRemote fun q => decide (q / 2 = ph) && decide (q < 288)) }
    latch := s4.latch.filter fun e => !decide (e.1 / 2 ^ 40 = ph)
    stage := s4.stage.filter fun e => !decide (e.1 / 2 ^ 40 = ph) }

/-- Isolate a chamber, release what it holds and reset it (R417). -/
def isolate (s : State) (ph : Nat) : State := resetChamber (updChm s ph fun h => { h with isolated := true }) ph

/-- A change of the map while load balancing is frozen: placement is frozen again from the next hyperperiod (R306), unless it ends there. -/
def refreeze (s : State) : State :=
  if s.sched.dlbFrozen && decide (s.sched.dlbPend ≠ some false) then { s with sched := { s.sched with refreeze := true } } else s

/-- Put the spare in a retired chamber's place (R207): the map changes, the bound images are loaded into the spare's pocket, and
it takes work 20 µs after the error was detected, at `t0`. Without a spare the logical chamber is offline. -/
def substitute (s : State) (ph t0 : Nat) : State :=
  match (chmOf s ph).logical with
  | none => s
  | some lc =>
    let s1 := refreeze (updChm s ph fun h => { h with logical := none })
    match (galleryChms (ph / 9)).find? fun p => decide (p ≠ ph) && spareFree s1 p with
    | none => s1
    | some sp =>
      let s2 := updChm s1 sp fun h => { h with logical := some lc, workFrom := t0 + 20000 }
      s2.ctxs.foldl (fun st e => if e.2.chset.getLsbD lc then loadImages st e.2 e.2.images [lc] else st) s2

/-- Take a physical chamber out of service without a fence, after an error detected at `t0` (R301, R417 steps 2 to 5). -/
def retireChamber (s : State) (ph cls t0 : Nat) : State := substitute (markUnit (isolate s ph) ph 3 cls) ph t0

/-- The job running on a physical chamber: in flight, not finished, its part there not ended. -/
def jobOn (s : State) (ph : Nat) : Option Job :=
  s.sched.jobs.find? fun j => !j.finished && j.chms.any fun c => decide (c.2 = ph) && !j.ended.contains c.1

/-- End the job running on a chamber with a fault fence (R417 step 1). -/
def faultFenceOn (s : State) (ph : Nat) (code : Word) : State :=
  match jobOn s ph with
  | some j => fenceJob s j 4 ((j.chms.find? fun c => decide (c.2 = ph)).map (·.1)) code
  | none => s

/-- A fault code (R413). -/
def faultCode (cls u : Nat) : Word := w32 (2 ^ 24 * cls + u)

/-- Retire a gallery (R418): jobs on its logical chambers end FAULT_DROPPED where `fence` says so, its chambers are isolated and
carry no logical chamber, its gallery siphons stop. -/
def retireGallery (s : State) (g cls : Nat) (fence : Bool) : State :=
  let s1 := (galleryChms g).foldl (fun st ph => if fence then faultFenceOn st ph (faultCode cls (0x1000 + g)) else st) s
  let s2 := (galleryChms g).foldl (fun st ph => updChm (isolate st ph) ph fun h => { h with logical := none }) s1
  let s3 := { s2 with siph := s2.siph.filter fun e => !(decide (288 + 4 * g ≤ e.1) && decide (e.1 < 292 + 4 * g)) }
  refreeze (markUnit s3 (0x1000 + g) 3 cls)

/-- The unit identifier of DEC unit u: decoders 0 to 15, encoders 16 to 19. -/
def decUnit (u : Nat) : Nat := if u < 16 then 0x2000 + u else 0x3000 + (u - 16)

/-- Retire a decoder or encoder: its running tasks are abandoned (R418). -/
def retireDec (s : State) (u cls : Nat) : State := markUnit (abandonUnit (abandonUnit s (u + 32)) u) (decUnit u) 3 cls

/-! ### Commands -/

/-- Does unit u hold a part of the fence (R301)? -/
def partOf (c : Cleaning) (u : Nat) : Bool :=
  if u < 144 then c.chms.contains u
  else if 0x1000 ≤ u ∧ u < 0x1010 then c.chms.any fun ph => decide (ph / 9 = u - 0x1000)
  else decide (0x2000 ≤ u ∧ u < 0x2010) || decide (0x3000 ≤ u ∧ u < 0x3004)

/-- Isolate and retire a unit of a fence (R301). -/
def retireUnit (s : State) (u cls : Nat) : State :=
  if u < 144 then retireChamber s u cls (now s)
  else if u < 0x2000 then retireGallery s (u - 0x1000) cls true
  else if u < 0x3000 then retireDec s (u - 0x2000) cls
  else retireDec s (u - 0x3000 + 16) cls

/-- FENCE_TIMEOUT: a part that has not ended its cleaning 1 µs after its fence arrived (R301). -/
def execFenceTimeout (unit : BitVec 16) (tag : Word) (s : State) : Host.Outcome State Fault Refusal :=
  let u := unit.toNat
  match s.sched.cleaning.find? fun c => decide (c.tag = tag) with
  | some c =>
    if decide (c.at_ + 1000 ≤ now s) && partOf c u && !retired s u then
      .next (retireUnit (logErr s 7 2 u (if u < 144 then causeWord (coreOf s u) else 0) 0 false) u 7)
    else .next s
  | none => .next s

/-- Log a parity error of a chamber (R411, R413). -/
def chmParityErr (s : State) (ph : Nat) (inj : Bool) : State := logErr s 6 2 ph (causeWord (coreOf s ph)) 0 inj

/-- CHM_PARITY. -/
def execChmParity (ch : Fin 144) (s : State) : Host.Outcome State Fault Refusal := .next (chmParityErr s ch.val false)

/-- The logged error of severity UNIT in a chamber that is not yet retired: its class and its time (R417). -/
def unitFault (s : State) (ph : Nat) : Option (Nat × Nat) :=
  if retired s ph then none
  else ((s.err.hw ++ s.err.log).find? fun e => decide (e.sev = 2) && decide (e.unit = ph)).map fun e => (e.cls, e.time)

/-- FAULT_FENCE: the response to an error of severity UNIT in a chamber (R417). -/
def execFaultFence (ch : Fin 144) (s : State) : Host.Outcome State Fault Refusal :=
  match unitFault s ch.val with
  | some (cls, t0) => .next (retireChamber (faultFenceOn s ch.val (faultCode cls ch.val)) ch.val cls t0)
  | none => .next s

/-- A parity error of a DEC unit in service (R411, R418). -/
def decParityErr (s : State) (u : Nat) (inj : Bool) : State :=
  if retired s (decUnit u) then s else retireDec (logErr s 9 2 (decUnit u) 0 0 inj) u 9

/-- DEC_PARITY. -/
def execDecParity (unit : Fin 20) (s : State) : Host.Outcome State Fault Refusal := .next (decParityErr s unit.val false)

/-- A parity error on a data fabric link of a gallery: retried, or the gallery is retired (R411, R418). -/
def fabricErr (s : State) (g : Nat) (retryOk inj : Bool) : State :=
  if retryOk then logErr s 8 0 (0x1000 + g) 0 0 inj
  else if retired s (0x1000 + g) then s
  else retireGallery (logErr s 8 2 (0x1000 + g) 0 0 inj) g 8 true

/-- FABRIC. -/
def execFabric (gal : Fin 16) (retryOk : Bool) (s : State) : Host.Outcome State Fault Refusal := .next (fabricErr s gal.val retryOk false)

end Sys2Proof.Machine
end

