-- ==== Sys2Proof/Machine/Reset.lean ====
section
/-!
DEFINITION. Resets and boot (chapter 16): the three reset levels and what each spares (R390 to R392), the pins, clock stops, temperature and
watchdog that assert them (R384 to R388, R394, R400), block resets (R393), the boot ROM (R401 to R404) and Nerzon's start (R26, R391, R412).
-/
namespace Sys2Proof.Machine

/-! ### What a reset leaves (R390, R391) -/

/-- The reset cause is recorded: last, and its bit of seen (R409). -/
def noteCause (c : Crp) (cause : Nat) : Crp := { c with causeLast := BitVec.ofNat 8 cause, causeSeen := setBit c.causeSeen (cause - 1) true }

/-- OTP contents, which no reset changes (R405). -/
def otpOf (x : Sec) : Sec :=
  { uid := x.uid, keyHash := x.keyHash, revoked := x.revoked, secver := x.secver, bootcfg := x.bootcfg, dbgHash := x.dbgHash, otpOk := x.otpOk,
    repair := x.repair }

/-- What lies outside the device's state, or is the model's own: the queue, the free values, the outputs, host memory. -/
def outside (s t : State) : State := { t with pending := s.pending, free := s.free + 1, out := s.out, hostMem := s.hostMem }

/-- Pads after a reset that reaches PIN: Reset values, the levels the board drives (R437). -/
def padsAfter (p : Pin) : Pin :=
  { bootSel := p.bootSel, pads := Tab.mapListed {} (fun _ x => ({ level := x.level } : Pad)) p.pads }

/-- A power-on reset (R390): everything; the pin holds it until PORST_N rises. -/
def powerReset (s : State) : State :=
  outside s { State.reset with sec := otpOf s.sec, pin := padsAfter s.pin, crp := { porstLow := s.crp.porstLow, sysLow := s.crp.sysLow, monRef := s.crp.stopRef, stopRef := s.crp.stopRef } }

/-- A mailbox pair after a reset that restarts Nerzon: emptied and closed; its epoch goes on (R320, R324). -/
def pairAfter (p : Pair) : Pair := { epoch := p.epoch }

/-- A system reset (R390): everything but the debug unlock state and the reset cause; the epochs go on (R316). A reference that is still stopped
shows in CRP_CLKMON at once (R384); the PLLs start anew (log entry 35). -/
def systemReset (s : State) (cause : Nat) : State :=
  let c : Crp := { porstLow := s.crp.porstLow, sysLow := s.crp.sysLow, refHold := s.crp.refHold, tempHold := s.crp.tempHold, oscDone := s.crp.oscDone,
                   monRef := s.crp.stopRef, stopRef := s.crp.stopRef, causeLast := s.crp.causeLast, causeSeen := s.crp.causeSeen, tj := s.crp.tj }
  outside s { State.reset with
    sec := { otpOf s.sec with scope := s.sec.scope, failures := s.sec.failures }
    pin := padsAfter s.pin
    pairs := Tab.mapListed {} (fun _ p => pairAfter p) s.pairs
    sts := { epoch := s.sts.epoch }
    crp := noteCause c cause }

/-- Far requests that a restart loses are answered STALE_EPOCH (R377). -/
def staleTunnels (s : State) : State :=
  s.emx.tunIn.foldl (fun st k => toRoot st (.tunnelRsp (dev64 s.emx.devid) ⟨k % 32, Nat.mod_lt _ (by decide)⟩ 5 (replyWords (reqWords s k) 5 []))) s

/-- A compare after a core reset: disabled, its grant with the Lantern (R391). -/
def cmpAfter (c : Cmp) : Cmp := { c with en := false, grant := false, ctx := 0, retPend := false }

/-- The Emaux block after a core reset: links and membership stay; what Nerzon and the siphons held is gone (R379, R391). -/
def emxAfter (e : Emx) : Emx := { e with tunnels := [], remote := [], relay := [], tunIn := [], hostHeld := [] }

/-- A core reset (R390, R391): the time block, PCIe, Ethernet and Emaux links, clocks, pins and security stay; every Nerzon object, memory
and error log is gone. Of ERR the counts and the injection register stay. -/
def coreReset (s0 : State) (cause : Nat) : State :=
  let s := staleTunnels s0
  outside s { State.reset with
    sec := { s.sec with pulse := false }
    pin := s.pin
    pcie := { s.pcie with bar2Base := 0, bar2Open := false }
    ports := s.ports
    lports := Tab.mapListed {} (fun _ l => ({ link := l.link } : LPort)) s.lports
    time := { s.time with cmps := Tab.mapListed {} (fun _ c => cmpAfter c) s.time.cmps }
    sched := { aslot := s.sched.aslot, started := s.sched.started }
    emx := emxAfter s.emx
    err := { cnt := s.err.cnt, injClass := s.err.injClass, injUnit := s.err.injUnit }
    pairs := Tab.mapListed {} (fun _ p => pairAfter p) s.pairs
    sts := { epoch := s.sts.epoch }
    crp := noteCause { s.crp with wdtEn := false, blkBusy := false, resetPend := none, chmClk := 0 } cause }

/-! ### The boot ROM (R401 to R404) -/

/-- Does the device boot over PCIe: the OTP's src when srclock is set, else BOOT_SEL (R401)? -/
def pcieBoot (s : State) : Bool := if s.sec.bootcfg.getLsbD 1 then s.sec.bootcfg.getLsbD 0 else s.pin.bootSel

/-- The clock of a domain at boot: the PLL, unless a source of the switch is stopped (R386, R401). -/
def bootClock (c : Crp) (t : Tab ClkSel) (d : Nat) : Tab ClkSel :=
  if c.stopRef || c.stopPll.getLsbD d || (Tab.get {} t d).busy then t else Tab.put {} t d { sel := true, busy := false }

/-- Boot has failed with a code (R403, R316). -/
def bootFailed (s : State) (code : Nat) : State := { s with sts := { s.sts with state := 4, code := code } }

/-- The boot ROM starts (R401): OTP, clocks, PCIe link, the boot source. For a PCIe boot BAR2 opens onto HBM from 0 (R404). -/
def bootStart (s0 : State) : State :=
  let s := draw { s0 with
    crp := { s0.crp with pllLock := ~~~s0.crp.stopPll, clksel := [0, 1, 2, 3].foldl (bootClock s0.crp) s0.crp.clksel } }
  if !s.sec.otpOk then bootFailed s 0x08
  else if pcieBoot s && !s.sec.bootcfg.getLsbD 2 then bootFailed s 0x0A
  else if !Config.hbmTrains s.free then bootFailed s 0x07
  else if pcieBoot s then { s with sts := { s.sts with state := 1, code := 0x10 }, pcie := { s.pcie with bar2Open := true, bar2Base := 0 } }
  else { s with sts := { s.sts with state := 1, code := 0x11 } }

/-- Is a reset held: by a pin, before the oscillator count, by a stopped reference, by temperature? -/
def resetHeld (c : Crp) : Bool := c.porstLow || !c.oscDone || c.sysLow || c.refHold || c.tempHold

/-- Once nothing holds the reset, the boot ROM starts; a reset that waits for an OTP pulse has still to act (R392). -/
def release (s : State) : State := if resetHeld s.crp || s.sec.pulse then s else bootStart s

/-- The level of a reset in progress: 3 power-on, 2 system, 0 none. -/
def levelHeld (c : Crp) : Nat := if c.porstLow || !c.oscDone then 3 else if c.sysLow || c.refHold || c.tempHold then 2 else 0

/-- A reset of a level acts: 1 core, 2 system, 3 power-on. -/
def resetNow (s : State) (level cause : Nat) : State :=
  if level = 3 then powerReset s
  else if level = 2 then release (systemReset s cause)
  else release (coreReset s cause)

/-- A reset of a level arrives (R392): during an OTP pulse it waits for its end, a lower level is absorbed by a higher one in progress.
`held` is the level in progress before this reset's own cause holds it. -/
def assertReset (s : State) (held level cause : Nat) : State :=
  if s.sec.pulse then
    { s with crp := { s.crp with otpReset := match s.crp.otpReset with
        | some (l, c) => if l < level then some (level, cause) else some (l, c)
        | none => some (level, cause) } }
  else if level < held then s
  else resetNow s level cause

/-! ### Pins, clocks, temperature, watchdog -/

/-- PORST_N (R381, R390, R401): low asserts a power-on reset; its rise samples BOOT_SEL and starts the oscillator count. -/
def execPorstN (level : Bool) (s : State) : Host.Outcome State Fault Refusal :=
  if level then
    let s1 := draw s
    .next (if s.crp.porstLow then { s1 with crp := { s1.crp with porstLow := false }, pin := { s1.pin with bootSel := Config.bootSelPin s1.free } } else s)
  else .next (assertReset { s with crp := { s.crp with porstLow := true } } 3 3 1)

/-- OSCILLATOR_COUNT_END (R381, R401). -/
def execOscillatorCountEnd (s : State) : Host.Outcome State Fault Refusal :=
  .next (if !s.crp.porstLow && !s.crp.oscDone && !s.crp.stopRef then release { s with crp := { s.crp with oscDone := true } } else s)

/-- SYS_RST_N (R390): low asserts and holds a system reset. -/
def execSysRstN (level : Bool) (s : State) : Host.Outcome State Fault Refusal :=
  if level then .next (if s.crp.sysLow then release { s with crp := { s.crp with sysLow := false } } else s)
  else .next (assertReset { s with crp := { s.crp with sysLow := true } } (levelHeld s.crp) 2 2)

/-- Does a PLL feed a domain in use: 0 to 3 while selected, the lane and stack clocks always (R382, R383)? -/
def pllInUse (s : State) (k : Nat) : Bool := decide (4 ≤ k) || (Tab.get {} s.crp.clksel k).sel

/-- CLOCK_STOP (R384, R387, R388): source 8 is the 25 MHz reference. CRP resets the device for the reference; Nerzon does for a PLL that
feeds a domain in use, but for PLL 2, without which it does not run. -/
def execClockStop (src : Fin 9) (s : State) : Host.Outcome State Fault Refusal :=
  let k := src.val
  if k = 8 then
    let s1 := deviceEvent { s with crp := { s.crp with stopRef := true, monRef := true, refHold := true } }
    .next (assertReset s1 (levelHeld s.crp) 2 8)
  else
    let s1 := deviceEvent { s with crp := { s.crp with stopPll := setBit s.crp.stopPll k true, monPll := setBit s.crp.monPll k true, pllLock := setBit s.crp.pllLock k false } }
    .next (if decide (s.sts.state = 3) && decide (k ≠ 2) && pllInUse s k then assertReset s1 (levelHeld s.crp) 2 8 else s1)

/-- REFERENCE_RETURN (R388). -/
def execReferenceReturn (s : State) : Host.Outcome State Fault Refusal :=
  .next (if s.crp.stopRef then
    (if s.crp.refHold then release { s with crp := { s.crp with stopRef := false, refHold := false } } else { s with crp := { s.crp with stopRef := false } })
   else s)

/-- PLL_LOCK_LOSS (R382, R411). -/
def execPllLockLoss (k : Fin 8) (s : State) : Host.Outcome State Fault Refusal :=
  .next (if s.crp.pllLock.getLsbD k.val then
    logErr { s with crp := { s.crp with pllLost := setBit s.crp.pllLost k.val true, pllLock := setBit s.crp.pllLock k.val false } } 0x0E 0 0x8003 0 0 false
   else s)

/-- LOCKSTEP_MISMATCH (R390). -/
def execLockstepMismatch (s : State) : Host.Outcome State Fault Refusal := .next (assertReset s (levelHeld s.crp) 1 6)

/-- OVERTEMP (R400): from 115 °C a system reset is asserted and held. -/
def execOvertemp (tj : BitVec 8) (s : State) : Host.Outcome State Fault Refusal :=
  .next (if 115 ≤ tj.toInt then assertReset { s with crp := { s.crp with tj := tj, tempHold := true } } (levelHeld s.crp) 2 7 else s)

/-- Is Tj above twarn (R398)? -/
def aboveTwarn (c : Crp) : Bool := decide (Int.ofNat c.twarn < c.tj.toInt)

/-- OVERTEMP_RECOVERY: Tj has fallen to 95 °C (R400). -/
def execOvertempRecovery (s : State) : Host.Outcome State Fault Refusal :=
  .next (if s.crp.tempHold then release { s with crp := { s.crp with tempHold := false, tj := 95 } } else s)

/-- Take a temperature measurement; crossing twarn upward logs a THERMAL entry (R398, R411). -/
def measureTj (s : State) (tj : BitVec 8) : State :=
  let s1 := { s with crp := { s.crp with tj := tj } }
  let hot := aboveTwarn s1.crp
  let s2 := { s1 with sts := { s1.sts with thermal := hot && decide (s1.sts.state = 3) } }
  if hot && !aboveTwarn s.crp then deviceEvent (logErr s2 0x0F 0 0x8003 0 0 false) else s2

/-- TJ_ABOVE_TWARN. -/
def execTjAboveTwarn (tj : BitVec 8) (s : State) : Host.Outcome State Fault Refusal := .next (measureTj s tj)

/-- CRP_RESET_CTL (R409): level 1 core, 2 system; others are ignored. -/
def crpResetCtl (s : State) (v : Word) : State :=
  match fld v.toNat 1 0 with
  | 1 => assertReset s (levelHeld s.crp) 1 4
  | 2 => assertReset s (levelHeld s.crp) 2 3
  | _ => s

/-- CRP_RESET_CTL. -/
def execCrpResetCtl (v : Word) (s : State) : Host.Outcome State Fault Refusal := .next (crpResetCtl s v)

/-- RESET (R410): the reply is OK, the reset follows 1 ms after it. -/
def execReset (pair : Fin 176) (s : State) : Host.Outcome State Fault Refusal :=
  withNci 0x0802 [3] pair s fun ws st =>
    { bad := decide (tf ws 1 1 0 = 0) || decide (tf ws 1 1 0 = 3), st := st
      after := fun c t => if c = 0 then { t with nci := t.nci.map fun r => { r with reset := some (tf ws 1 1 0) } } else t }

/-- RESET_TAKES_EFFECT. -/
def execResetTakesEffect (s : State) : Host.Outcome State Fault Refusal :=
  match s.crp.resetPend with
  | some (l, t) =>
    if t + 1000000 ≤ s.time.clk then .next (assertReset { s with crp := { s.crp with resetPend := none } } (levelHeld s.crp) l (if l = 1 then 4 else 3)) else .next s
  | none => .next s

/-- A write to CRP_WDT (R394, R409); a period outside 10 to 1,000 ms changes nothing of the period. -/
def crpWdt (s : State) (v : Word) : State :=
  let p := fld v.toNat 15 0
  let en := v.getLsbD 31
  { s with crp := { s.crp with wdtEn := en, wdtPeriod := if 10 ≤ p ∧ p ≤ 1000 then p else s.crp.wdtPeriod,
                               wdtAt := if v.getLsbD 30 || (en && !s.crp.wdtEn) then s.time.clk else s.crp.wdtAt } }

/-- CRP_WDT. -/
def execCrpWdt (v : Word) (s : State) : Host.Outcome State Fault Refusal := .next (crpWdt s v)

/-- WATCHDOG_EXPIRY (R394, R387): a core reset, or with PLL 2 stopped a system reset. -/
def execWatchdogExpiry (s : State) : Host.Outcome State Fault Refusal :=
  .next (if s.crp.wdtEn && decide (s.crp.wdtAt + 1000000 * s.crp.wdtPeriod ≤ s.time.clk) then
    (if s.crp.stopPll.getLsbD 2 then assertReset s (levelHeld s.crp) 2 8 else assertReset s (levelHeld s.crp) 1 5)
   else s)

/-- OTP_PROGRAM_PULSE_END (R392, R406): the bit is programmed; the next pulse follows, or a reset that waited acts. -/
def execOtpProgramPulseEnd (s : State) : Host.Outcome State Fault Refusal :=
  if !s.sec.pulse then .next s
  else
    let x := s.sec
    let need := x.imgRevoke &&& ~~~x.revoked
    let y : Sec := if x.secver < x.imgSecver then { x with secver := x.secver + 1 }
      else match (List.range 4).find? fun i => need.getLsbD i with
        | some i => { x with revoked := setBit x.revoked i true }
        | none => x
    let more := decide (y.secver < y.imgSecver) || decide (y.imgRevoke &&& ~~~y.revoked ≠ 0)
    match s.crp.otpReset with
    | some (l, c) =>
      let s1 := { s with sec := { y with pulse := false }, crp := { s.crp with otpReset := none } }
      .next (assertReset s1 (if l = 3 then 3 else levelHeld s1.crp) l c)
    | none => .next { s with sec := { y with pulse := more } }

/-! ### Block resets (R393) -/

/-- Is a chamber idle: no job at release or running, queues empty, no siphon chain; an isolated one counts as idle (R393, R417)? -/
def chmIdle (s : State) (ph : Nat) : Bool :=
  let h := chmOf s ph
  h.isolated ||
  (!h.core.active && h.startTag.isNone && h.ar.aq.isEmpty && h.fl.fq.isEmpty && h.fl.run.isNone && !s.sched.jobs.any (fun j => j.chms.any fun c => decide (c.2 = ph)) &&
   [2 * ph, 2 * ph + 1].all fun q => (siphOf s q).queue.isEmpty && (siphOf s q).chain.isNone)

/-- A block reset of a gallery (R393). -/
def resetGallery (s : State) (g : Nat) : State :=
  let s1 := (galleryChms g).foldl resetChamber s
  zeroKeys { s1 with siph := s1.siph.filter fun e => !(decide (288 + 4 * g ≤ e.1) && decide (e.1 < 292 + 4 * g))
                     err := { s1.err with frozen := s1.err.frozen.filter fun f => decide (f.1 ≠ g) } } (0x1000000000 + 0x400000 * g) 0x400000

/-- A write to CRP_BLK_RST: a block reset of a busy block has an undefined result (R393, R428); one of a position above 8 starts nothing (log
entry 35). -/
def crpBlkRst (s : State) (v : Word) : Host.Outcome State Fault Refusal :=
  let n := v.toNat
  let g := fld n 11 8
  let p := fld n 3 0
  let s1 := { s with crp := { s.crp with blkGal := v.getLsbD 12, blkG := g, blkP := p } }
  if !v.getLsbD 31 then .next s1
  else
    let s2 := { s1 with crp := { s1.crp with blkBusy := true } }
    if v.getLsbD 12 then
      (if (galleryChms g).all (chmIdle s) && [0, 1, 2, 3].all (fun k => (siphOf s (288 + 4 * g + k)).queue.isEmpty && (siphOf s (288 + 4 * g + k)).chain.isNone)
       then .next (resetGallery s2 g) else .fault .blockResetBusy)
    else if 9 ≤ p then .next s1
    else if chmIdle s (g * 9 + p) then .next (resetChamber s2 (g * 9 + p))
    else .fault .blockResetBusy

/-- CRP_BLK_RST. -/
def execCrpBlkRst (v : Word) (s : State) : Host.Outcome State Fault Refusal := crpBlkRst s v

/-- BLOCK_RESET_DONE. -/
def execBlockResetDone (s : State) : Host.Outcome State Fault Refusal := .next { s with crp := { s.crp with blkBusy := false } }

/-! ### Images (R402, R403) -/

/-- A little-endian field of an image. -/
def imgField (img : List Byte) (off len : Nat) : Nat := leNat ((img.drop off).take len)

/-- Are the bytes of a reserved range all 0? -/
def zeroRange (img : List Byte) (off len : Nat) : Bool := ((img.drop off).take len).all fun b => decide (b = 0)

/-- The first boot check an image fails, as its boot code; 0 when it passes all (R403). A header field outside the values R402 gives it fails the
first check (log entry 18). -/
def imageCheck (x : Sec) (img : List Byte) : Nat :=
  let part (o l : Nat) : List Byte := (img.drop o).take l
  let slot := imgField img 5 1
  let len := imgField img 12 4
  let enc := decide (imgField img 6 2 % 2 = 1)
  let payload := (img.drop 512).take len
  if decide (imgField img 0 4 ≠ 0x4E5A4247) || decide (imgField img 4 1 ≠ 1) || decide (1 < imgField img 6 2) || decide (3 < slot) || decide (63 < imgField img 8 4) ||
     decide (len % 64 ≠ 0) || decide (0x4000000 < len) || decide (15 < imgField img 16 4) ||
     !([(20, 44), (161, 31), (252, 4), (272, 112), (480, 32)].all fun r => zeroRange img r.1 r.2) then 1
  else if decide (Config.sha384 (part 64 97) ≠ Tab.get [] x.keyHash slot) || x.revoked.getLsbD slot then 2
  else if !Config.ecdsaP384 (part 64 97) (Config.sha384 (part 0 384)) (part 384 96) then 3
  else if imgField img 8 4 < x.secver then 4
  else if decide (payload.length ≠ len) || decide (Config.sha384 payload ≠ part 192 48) then 5
  else if (if enc then !x.bootcfg.getLsbD 4 || !Config.gcmOk (part 240 12) (part 0 256) payload (part 256 16) else x.bootcfg.getLsbD 3) then 6
  else 0

/-- An accepted image starts Nerzon: what SEC keeps of it (R406, R410). -/
def imageAccepted (s : State) (img : List Byte) : State :=
  { s with sts := { s.sts with state := 2, code := 0 }
           sec := { s.sec with kslot := imgField img 5 1, imgSecver := imgField img 8 4, imgRevoke := BitVec.ofNat 4 (imgField img 16 4) } }

/-- A flash image is checked (R401, R403): the secondary is tried once the primary has failed. -/
def flashCheck (s : State) (secondary : Bool) (img : List Byte) : State :=
  let tried := decide (1 ≤ s.sts.code) && decide (s.sts.code ≤ 6)
  if secondary != tried then s
  else match imageCheck s.sec img with
    | 0 => imageAccepted s img
    | c => if secondary then bootFailed s (c + 128) else { s with sts := { s.sts with code := c } }

/-- The host's image at HBM address 0, its length in MBX_REQ_W0 of pair 0, is checked once the request is posted (R404). -/
def hostCheck (s : State) : State :=
  let len := wordAt (reqWords s 0) 0
  if !(pairOf s 0).req.full then s
  else
    let got := readBytes s 0 len
    let img := got.1
    let s1 := got.2.2.2
    match imageCheck s1.sec img with
    | 0 => mbxAck (imageAccepted s1 img) 0 true 0
    | c => mbxAck { s1 with sts := { s1.sts with code := c } } 0 true 2

/-- BOOT_IMAGE_CHECK: in the state loading image, a flash image or the image the host wrote. -/
def execBootImageCheck (secondary : Bool) (img : List Byte) (s : State) : Host.Outcome State Fault Refusal :=
  .next (if s.sts.state ≠ 1 then s else if pcieBoot s then hostCheck s else flashCheck s secondary img)

/-! ### Nerzon starts (R3, R26, R316, R324, R391, R412) -/

/-- The DEVICE entry that a reset lost, written anew from its cause (R412). -/
def lostEntry (s : State) : State :=
  match s.crp.causeLast.toNat with
  | 5 => logErr s 0x15 3 0x8004 0 0 false
  | 6 => logErr s 0x14 3 0x7000 0 0 false
  | 7 => logErr s 0x0F 3 0x8003 0 0 false
  | 8 => logErr s 0x0E 3 0x8003 0 0 false
  | _ => s

/-- The logical chamber that a physical one carries at Nerzon's start (R3), `bad` being what the repair map retires: position k of a gallery its
k-th, position 8 that of the first retired position; a further retired position's is offline. Which position carries which logical chamber is the
model's choice (log entry 45). -/
def mapAtStart (bad : List Nat) (ph : Nat) : Option Nat :=
  let g := ph / 9
  if bad.contains ph then none
  else if ph % 9 = 8 then ((List.range 8).find? fun k => bad.contains (9 * g + k)).map fun k => 8 * g + k
  else some (8 * g + ph % 9)

/-- Nerzon's map at start (R3). -/
def mapChambers (bad : List Nat) (t : Tab Chamber) : Tab Chamber :=
  (List.range 144).foldl (fun u ph => Tab.upd {} u ph fun c => { c with logical := mapAtStart bad ph }) t

/-- The unit table at Nerzon's start (R368, R416): chambers that the repair map retires, links that are up on two lanes. -/
def unitsAtStart (s : State) : Tab UnitSt :=
  let t := s.sec.repair.foldl (fun t ph => if ph < 144 then Tab.put {} t ph { state := 3 } else t) []
  (List.range 6).foldl (fun t l => if (elinkOf s l).state = 3 then Tab.put {} t (0x6000 + l) { state := 1 } else t) t

/-- A link at Nerzon's start: one that is not up trains (R365, R371). -/
def startLink (t : Tab ELink) (l : Nat) : Tab ELink := Tab.upd {} t l fun x => if 2 ≤ x.state then x else { x with state := 1, found := false, off := false }

/-- Nerzon is ready (R26, R391): memory is zero, the map is in force, every session and object is gone, the epochs have gone on, the watchdog
runs. -/
def nerzonReady (s0 : State) : State :=
  let s := draw s0
  lostEntry { s with
    mem := [], wflags := [], memErr := []
    chms := mapChambers s.sec.repair s.chms
    units := unitsAtStart s
    pairs := (List.range 176).foldl (fun t k => Tab.upd {} t k fun p => { p with isOpen := false, epoch := p.epoch + 1 }) s.pairs
    emx := { s.emx with links := (List.range 6).foldl startLink s.emx.links }
    crp := { s.crp with wdtEn := true, wdtAt := s.time.clk }
    sts := { s.sts with state := 3, code := 0, nerzon := Config.nerzonVersion s.free, epoch := s.sts.epoch + 1, clamp := s.crp.limiting, thermal := aboveTwarn s.crp, readyAt := s.time.clk } }

/-- NERZON_READY. -/
def execNerzonReady (selfTest : Bool) (s : State) : Host.Outcome State Fault Refusal :=
  .next (if s.sts.state ≠ 2 then s else if selfTest then nerzonReady s else bootFailed s 0x09)

/-- STS_HEARTBEAT (R316). -/
def execStsHeartbeat (s : State) : Host.Outcome State Fault Refusal :=
  .next (if decide (s.sts.state = 3) && !noClock s 2 then { s with sts := { s.sts with heartbeat := s.sts.heartbeat + 1 } } else s)

end Sys2Proof.Machine
end

