-- ==== Sys2Proof/Machine/Crp.lean ====
section
/-!
DEFINITION. The rest of CRP (chapter 16): clock switches (R385), CLKOUT (R389), the power settings and their envelopes (R399), the current and
thermal limiter (R398), the adaptive voltage loop (R397), and the status words (R409).
-/
namespace Sys2Proof.Machine

/-! ### Register words (R409) -/

/-- CRP_RESET_CAUSE. -/
def resetCauseWord (c : Crp) : Word := mkWord [(c.causeLast.toNat, 24), (c.causeSeen.toNat, 0)]

/-- CRP_CLKMON. -/
def clkmonWord (c : Crp) : Word := mkWord [(b2n c.monRef, 8), (c.monPll.toNat, 0)]

/-- CRP_PLL_STAT. -/
def pllStatWord (c : Crp) : Word := mkWord [(c.pllLost.toNat, 8), (c.pllLock.toNat, 0)]

/-- CRP_PWR_CAP. -/
def pwrCapWord (c : Crp) : Word := mkWord [(c.twarn, 16), (c.cap, 0)]

/-- CRP_PWR_STAT. -/
def pwrStatWord (c : Crp) : Word := mkWord [(b2n c.limiting, 31), (b2n c.vlimit, 30), (c.vcore.toNat, 16), (c.power.toNat, 0)]

/-- CRP_TEMP. -/
def tempWord (c : Crp) : Word := mkWord [(c.tj.toNat, 0)]

/-- CRP_STATUS. -/
def execCrpStatus (pair : Fin 176) (s : State) : Host.Outcome State Fault Refusal :=
  withNci 0x0800 [] pair s fun _ st =>
    let c := st.crp
    { words := [resetCauseWord c, clkmonWord c, pllStatWord c, pwrCapWord c, pwrStatWord c, tempWord c], st := st }

/-! ### Clocks -/

/-- A write to CRP_CLKSELd (R385): ignored while busy; a change of sel starts a switch. -/
def crpClksel (s : State) (d : Nat) (v : Word) : State :=
  let k := Tab.get {} s.crp.clksel d
  if k.busy || decide (v.getLsbD 0 = k.sel) then s
  else { s with crp := { s.crp with clksel := Tab.put {} s.crp.clksel d { sel := v.getLsbD 0, busy := true } } }

/-- CRP_CLKSELd. -/
def execCrpClkseld (d : Fin 4) (v : Word) (s : State) : Host.Outcome State Fault Refusal := .next (crpClksel s d.val v)

/-- CLOCK_SWITCH_DONE: with either clock stopped the switch never completes (R385). -/
def execClockSwitchDone (d : Fin 4) (s : State) : Host.Outcome State Fault Refusal :=
  let k := Tab.get {} s.crp.clksel d.val
  .next (if k.busy && !s.crp.stopRef && !s.crp.stopPll.getLsbD d.val then
    { s with crp := { s.crp with clksel := Tab.put {} s.crp.clksel d.val { k with busy := false } } }
   else s)

/-- The frequency of a CLKOUT source in kHz (R382, R384, R389). -/
def clkoutKHz (src : Nat) : Nat :=
  match src with
  | 0 => 25000
  | 1 => 1800000
  | 2 => 1200000
  | 3 => 1000000
  | 4 => 250000
  | 9 => 32000
  | k => Config.pllKHz (k - 1)

/-- CRP_CLKOUT takes a setting (R389, R409). -/
def crpClkout (s : State) (v : Word) : State :=
  let en := v.getLsbD 31
  let src := fld v.toNat 19 16
  let div := fld v.toNat 9 0
  emit { s with crp := { s.crp with coEn := en, coSrc := src, coDiv := div } } (.clkout en src div)

/-- CLKOUT_SET. -/
def execClkoutSet (pair : Fin 176) (s : State) : Host.Outcome State Fault Refusal :=
  withNci 0x0801 [0x800F03FF] pair s fun ws st =>
    { bad := decide (9 < tf ws 1 19 16) || decide (200000 * (tf ws 1 9 0 + 1) < clkoutKHz (tf ws 1 19 16)), st := crpClkout st (ws.getD 1 0) }

/-! ### Power and temperature -/

/-- A value clamped to an envelope. -/
def envelope (x lo hi : Nat) : Nat := if x < lo then lo else if hi < x then hi else x

/-- POWER_SET (R399): each value is clamped to its envelope, vmin to vmax too. -/
def execPowerSet (pair : Fin 176) (s : State) : Host.Outcome State Fault Refusal :=
  withNci 0x0803 [0x00FF01FF, 0x03FF03FF] pair s fun ws st =>
    let tw := envelope (tf ws 1 23 16) 70 105
    let cap := envelope (tf ws 1 8 0) 150 320
    let vmax := envelope (tf ws 2 25 16) 650 850
    let vmin := envelope (tf ws 2 9 0) 650 vmax
    let c := { st.crp with twarn := tw, cap := cap, vmax := vmax, vmin := vmin }
    { code := if tw = tf ws 1 23 16 ∧ cap = tf ws 1 8 0 ∧ vmax = tf ws 2 25 16 ∧ vmin = tf ws 2 9 0 then 0 else 7
      words := [mkWord [(tw, 16), (cap, 0)], mkWord [(vmax, 16), (vmin, 0)]]
      st := { st with crp := c, sts := { st.sts with thermal := aboveTwarn c } } }

/-- Has the limiter cause to act: power over 320 W or a lower cap that software sets, or Tj at 105 °C (R15, R398)? -/
def limiterCause (c : Crp) : Bool := decide (min c.cap 320 < c.power.toNat) || decide (105 ≤ c.tj.toInt)

/-- A measurement of the limiter: mean power over 1 ms, and Tj. -/
def measure (s : State) (power : BitVec 9) (tj : BitVec 8) : State := measureTj { s with crp := { s.crp with power := power } } tj

/-- LIMITER_ACT: a measurement; with cause one more sixteenth of the issue cycles goes; its onset is a LIMIT event (R398, R411). -/
def execLimiterAct (power : BitVec 9) (tj : BitVec 8) (s : State) : Host.Outcome State Fault Refusal :=
  let s1 := measure s power tj
  .next (if limiterCause s1.crp then
    let s2 := { s1 with crp := { s1.crp with limiting := true, limSteps := min 16 (s1.crp.limSteps + 1) }, sts := { s1.sts with clamp := decide (s1.sts.state = 3) } }
    if s1.crp.limiting then s2 else logErr s2 0x10 0 0x8003 0 0 false
   else s1)

/-- LIMITER_RELEASE: once by the last measurement the cause has passed, one sixteenth comes back; with the last one the limiter no longer acts (R398). -/
def execLimiterRelease (s : State) : Host.Outcome State Fault Refusal :=
  let n := s.crp.limSteps - 1
  .next (if !s.crp.limiting || limiterCause s.crp then s
   else { s with crp := { s.crp with limSteps := n, limiting := decide (n ≠ 0) }, sts := { s.sts with clamp := decide (n ≠ 0) && s.sts.clamp } })

/-- ADAPTIVE_VOLTAGE_LOOP: VDD_CORE becomes the lowest voltage that suffices, `need`, within the window; vmax with vlimit where the window is too
low (R397). -/
def execAdaptiveVoltageLoop (need : BitVec 10) (s : State) : Host.Outcome State Fault Refusal :=
  let v := if s.crp.vmax < need.toNat then s.crp.vmax else max s.crp.vmin need.toNat
  .next (emit { s with crp := { s.crp with vcore := BitVec.ofNat 10 v, vlimit := decide (s.crp.vmax < need.toNat) } } (.vout v))

end Sys2Proof.Machine
end

