-- ==== Sys2Proof/Machine/Wire.lean ====
section
/-!
DEFINITION. The eCPRI messages of the fronthaul as bytes, read and written (R213 to R215, R273). R213 and R214 take field names and
positions from the eCPRI and O-RAN standards; those places are presumed (log entry 31).
-/
namespace Sys2Proof.Machine

/-- Big-endian value of bytes: network order. -/
def beNat (bs : List Byte) : Nat := bs.foldl (fun n b => n * 256 + b.toNat) 0

/-- The n bytes of a value, most significant first. -/
def beBytes (v n : Nat) : List Byte := (leBytes v n).reverse

/-- The n bytes of a message from an offset, as a number. -/
def netAt (m : List Byte) (off n : Nat) : Nat := beNat ((m.drop off).take n)

/-! ### PRBs and sections (R214) -/

/-- One PRB of a U-plane section: its exponent and its 24 mantissas of w bits. -/
structure PrbData where
  exp : Nat
  man : List Int
deriving DecidableEq, Repr

/-- Read a PRB of mantissa width w: the udCompParam byte, then 24 mantissas in network order. -/
def prbOfBytes (w : Nat) (bs : List Byte) : PrbData :=
  let v := netAt bs 1 (3 * w)
  { exp := netAt bs 0 1 % 16, man := (List.range 24).map fun i => sgn (v / 2 ^ ((23 - i) * w)) w }

/-- The bytes of a PRB of mantissa width w. -/
def prbBytes (w : Nat) (p : PrbData) : List Byte :=
  BitVec.ofNat 8 (p.exp % 16) :: beBytes (p.man.foldl (fun n m => n * 2 ^ w + low m w) 0) (3 * w)

/-- A U-plane section. `comp` is (udCompMeth, udIqWidth) when the udCompHdr is present. -/
structure USection where
  sectionId : Nat
  rb : Bool
  symInc : Bool
  startPrbu : Nat
  numPrbu : Nat
  comp : Option (Nat × Nat)
  prbs : List PrbData
deriving DecidableEq, Repr

/-- Bytes of a section's header: four, and two for a udCompHdr. -/
def sectionHead (udhdr : Bool) : Nat := if udhdr then 6 else 4

/-- The header of the section at the front of bytes. -/
def headOfBytes (udhdr : Bool) (bs : List Byte) : USection :=
  let v := netAt bs 0 4
  { sectionId := fld v 31 20, rb := bitAt v 19, symInc := bitAt v 18, startPrbu := fld v 17 8, numPrbu := fld v 7 0,
    comp := if udhdr then some (fld (netAt bs 4 1) 3 0, fld (netAt bs 4 1) 7 4) else none, prbs := [] }

/-- PRBs of a section in a flow of nprb: a numPrbu of 0 means every PRB from startPrbu. -/
def sectionCount (nprb : Nat) (x : USection) : Nat := if x.numPrbu = 0 then nprb - x.startPrbu else x.numPrbu

/-- The mantissa width of a section: its own, or the flow's; none when it is not block floating point. -/
def sectionWidth (w : Nat) (x : USection) : Option Nat :=
  match x.comp with
  | none => some w
  | some (m, v) => if m = 1 then some (if v = 0 then 16 else v) else none

/-- The sections of a payload of at most n, and false when one runs past it (R224). Fewer than 4 bytes after a section are padding; a
section of another compression ends the reading, since its length is not known. -/
def sectionsOf (udhdr : Bool) (w nprb : Nat) : Nat → List Byte → List USection × Bool
  | 0, _ => ([], true)
  | n + 1, bs =>
    if bs.length < 4 then ([], true)
    else
      let x := headOfBytes udhdr bs
      match sectionWidth w x with
      | none => ([x], decide (sectionHead udhdr ≤ bs.length))
      | some v =>
        let size := 1 + 3 * v
        let len := sectionHead udhdr + sectionCount nprb x * size
        if bs.length < len then ([], false)
        else
          let body := bs.drop (sectionHead udhdr)
          let got := sectionsOf udhdr w nprb n (bs.drop len)
          ({ x with prbs := (List.range (sectionCount nprb x)).map fun i => prbOfBytes v (body.drop (i * size)) } :: got.1, got.2)

/-! ### eCPRI messages (R213, R214, R273) -/

/-- The fields of an eCPRI message whose bytes follow the Ethertype; `first16` are the 16 bytes after its header (R225). -/
structure Ecpri where
  revision : Nat
  concat : Bool
  mtype : Nat
  size : Nat
  pcId : Nat
  seqId : Nat
  dataDirection : Nat
  payloadVersion : Nat
  filterIndex : Nat
  frameId : Nat
  subframeId : Nat
  slotId : Nat
  symbolId : Nat
  first16 : List Byte
deriving DecidableEq, Repr

/-- Read the header fields of a message; a byte that is not there reads as 0. The sequence number is the first byte of seq_id; the
second, E bit and subsequence ID, is ignored (R213). -/
def ecpriOf (m : List Byte) : Ecpri :=
  let h := netAt m 0 1
  let a := netAt m 8 1
  let t := netAt m 10 2
  { revision := fld h 7 4, concat := bitAt h 0, mtype := netAt m 1 1, size := netAt m 2 2, pcId := netAt m 4 2, seqId := netAt m 6 1,
    dataDirection := fld a 7 7, payloadVersion := fld a 6 4, filterIndex := fld a 3 0, frameId := netAt m 9 1, subframeId := fld t 15 12,
    slotId := fld t 11 6, symbolId := fld t 5 0, first16 := (m.drop 4).take 16 }

/-- Does the payload size agree with the frame? A frame of minimum length carries padding: 46 bytes after the Ethertype, 42 after a tag. -/
def sizeAgrees (tagged : Bool) (m : List Byte) : Bool :=
  let n := netAt m 2 2 + 4
  decide (n = m.length) || (decide (n ≤ m.length) && decide (m.length = if tagged then 42 else 46))

/-- The payload of a U-plane message after its application header. -/
def sectionBytes (m : List Byte) : List Byte := (m.take (netAt m 2 2 + 4)).drop 12

/-- The NB fields after SEQ_ID and the samples, I and Q (R273). -/
structure NbPlane where
  version : Nat
  sfmt : Nat
  resv : Bool
  nsamp : Nat
  samples : List (Int × Int)
deriving DecidableEq, Repr

/-- Bytes of one sample: 4 as INT16, 2 as INT8. -/
def sampleSize (sfmt : Nat) : Nat := if sfmt = 1 then 2 else 4

/-- Read the NB fields of a message. -/
def nbOf (m : List Byte) : NbPlane :=
  let f := netAt m 9 1
  let n := netAt m 10 2
  let sfmt := fld f 7 6
  let h := sampleSize sfmt / 2
  { version := netAt m 8 1, sfmt := sfmt, resv := decide (fld f 5 0 ≠ 0), nsamp := n,
    samples := (List.range n).map fun i => (sgn (netAt m (12 + 2 * h * i) h) (8 * h), sgn (netAt m (12 + 2 * h * i + h) h) (8 * h)) }

/-- The NB form of the LENGTH cause: a payload size other than 8 + nsamp samples (R273); a reserved sfmt names no size. -/
def nbLength (m : List Byte) : Bool :=
  let p := nbOf m
  decide (p.sfmt ≤ 1) && decide (netAt m 2 2 ≠ 8 + p.nsamp * sampleSize p.sfmt)

/-! ### What the resurgence sends (R213, R215, R233, R234) -/

/-- An eCPRI message: revision 1, C = 0, the exact payload size, E = 1, subsequence ID 0. -/
def ecpriMessage (mtype pc seq : Nat) (body : List Byte) : List Byte :=
  [0x10#8, BitVec.ofNat 8 mtype] ++ beBytes (body.length + 4) 2 ++ beBytes pc 2 ++ [BitVec.ofNat 8 seq, 0x80#8] ++ body

/-- The first four bytes of a U-plane or C-plane message: direction, payloadVersion 1, filterIndex, and the symbol. -/
def planeHead (dir fidx frame subframe slot symbol : Nat) : List Byte :=
  [BitVec.ofNat 8 (dir * 128 + 16 + fidx), BitVec.ofNat 8 frame] ++ beBytes (subframe * 4096 + slot * 64 + symbol) 2

/-- The udCompHdr: udCompMeth 0b0001, udIqWidth w with 0 for 16 bits. -/
def compByte (w : Nat) : Byte := BitVec.ofNat 8 (w % 16 * 16 + 1)

/-- The first three or four bytes of a section: sectionId, rb 0, symInc 0, the PRBs. -/
def sectionStart (id start num : Nat) : List Byte := beBytes (id % 4096 * 2 ^ 20 + start * 2 ^ 8 + num) 4

/-- The section numbers of PRBs: 0 for every PRB of the carrier from the first. 256 or more that do not reach the carrier's end have no
stated code. -/
def prbCount (nprb start n : Nat) : Nat :=
  if n < 256 then n else if start + n = nprb then 0 else (Config.wideSection n).toNat

/-- The bytes of a downlink U-plane message with one section. -/
def uplaneBody (w : Nat) (udhdr : Bool) (frame subframe slot symbol id start num : Nat) (ps : List PrbData) : List Byte :=
  planeHead 1 0 frame subframe slot symbol ++ sectionStart id start num ++ (if udhdr then [compByte w, 0#8] else []) ++ ps.flatMap (prbBytes w)

/-- The bytes of reMask 0xFFF and numSymbol, then ef 0 and beamId. -/
def sectionTail (nsym beam : Nat) : List Byte := beBytes (0xFFF0 + nsym) 2 ++ beBytes (beam % 2 ^ 15) 2

/-- The bytes of a C-plane message with one section of type 1. -/
def cplane1Body (dir w frame subframe slot ssym id start num nsym beam : Nat) : List Byte :=
  planeHead dir 0 frame subframe slot ssym ++ [1#8, 1#8, compByte w, 0#8] ++ sectionStart id start num ++ sectionTail nsym beam

/-- The bytes of a C-plane message with one section of type 3. -/
def cplane3Body (w frame subframe slot fidx ssym id start num nsym beam timeOffset frameStruct cpLength freqOff : Nat) : List Byte :=
  planeHead 0 fidx frame subframe slot ssym ++ [1#8, 3#8] ++ beBytes timeOffset 2 ++ [BitVec.ofNat 8 frameStruct] ++ beBytes cpLength 2 ++ [compByte w] ++
  sectionStart id start num ++ sectionTail nsym beam ++ beBytes freqOff 3 ++ [0#8]

end Sys2Proof.Machine
end

