-- ==== Sys2Proof/Machine/Echo.lean ====
section
/-!
DEFINITION. The echo bank (chapter 10): NB packets, preambles, sync words, length fields, the convolutional code, packets and their
records, capture, and the echo commands.
-/
namespace Sys2Proof.Machine

/-- An echo channel. -/
def echOf (s : State) (k : Nat) : Ech := Tab.get {} s.echs k

/-- Change an echo channel. -/
def updEch (s : State) (k : Nat) (f : Ech → Ech) : State := { s with echs := Tab.upd {} s.echs k f }

/-- An input stream. -/
def estreamOf (s : State) (k : Nat) : EStream := Tab.get {} s.estreams k

/-- Change an input stream. -/
def updStream (s : State) (k : Nat) (f : EStream → EStream) : State := { s with estreams := Tab.upd {} s.estreams k f }

/-! ### Detection (R280, R282) -/

/-- The noise code N of a channel: frozen in a look or a packet, a measurement in search (R282). -/
def noiseNow (s : State) (h : Ech) : Nat := if h.state = 1 then Config.echoNoise s.free % 255 else h.noise

/-- The threshold in force, T = min(floor, N − margin) (R282). -/
def threshold (h : Ech) (n : Nat) : Int := min (Int.ofNat h.cfg.floor) (Int.ofNat n - Int.ofNat h.cfg.margin)

/-- Symbol rates in baud (R277). -/
def baudOf (r : Nat) : Nat := [2400, 4800, 9600, 19200, 38400, 50000, 100000, 200000].getD r 2400

/-- Have the samples of n symbols after a stream position arrived, up to position `upTo` (a symbol is fs / Rs samples)? -/
def passed (s : State) (h : Ech) (at_ n upTo : Nat) : Bool :=
  let e := estreamOf s h.cfg.stream
  decide (at_ * baudOf h.cfg.rate + n * e.fs ≤ upTo * baudOf h.cfg.rate)

/-- The last 16 bits of a channel's preamble, which alternates from the ppol bit (R280). -/
def preambleBits (c : EchCfg) : List Bool := (List.range 16).map fun i => c.ppol != decide ((c.plen - 16 + i) % 2 = 1)

/-- How many of 16 decisions match the preamble. -/
def matching (c : EchCfg) (bits : List Bool) : Nat := ((preambleBits c).zip bits).countP fun p => p.1 == p.2

/-- Is this a preamble detection (R280): 16 symbols of input that has arrived since the stream began, enough of them matching, strong
enough? -/
def detects (s : State) (h : Ech) (n : Nat) (m : PreambleMeas) (pos : Nat) : Bool :=
  let e := estreamOf s h.cfg.stream
  decide (pos < e.pos) && passed s h e.since 16 (pos + 1) && decide (h.cfg.qmin ≤ matching h.cfg m.bits) && decide (Int.ofNat m.code ≤ threshold h n)

/-- A sync look that starts from a preamble; N is frozen at n. -/
def startLook (m : PreambleMeas) (pos n : Nat) (h : Ech) : Ech := { h with state := 2, noise := n, at_ := pos, code := m.code }

/-- PREAMBLE_DETECTION (R280): a channel in search starts its sync look; in a look a stronger preamble restarts the look. -/
def execPreambleDetection (ech : Fin 4096) (m : PreambleMeas) (pos : Nat) (s : State) : Host.Outcome State Fault Refusal :=
  let h := echOf s ech.val
  let n := noiseNow s h
  let stronger := decide (h.state = 2) && decide (m.code < h.code) && decide (h.at_ < pos)
  if noClock s 1 then .next s
  else if (decide (h.state = 1) || stronger) && detects s h n m pos then .next (updEch (draw s) ech.val (startLook m pos n)) else .next s

/-! ### The end of a packet (R285, R286, R288, R289) -/

/-- A channel whose packet or look has ended: a pending disable or setting takes effect, else search. A disable keeps the counters, which
only the command that sets the channel clears (R291). -/
def settleEch (h : Ech) : Ech :=
  if h.disPend then { cnt := h.cnt }
  else match h.pend with
    | some c => { state := 1, cfg := c }
    | none => { h with state := 1, need := 0, got := [] }

/-- Write a payload from an offset of the area, wrapping at its end. -/
def writeArea (s : State) (c : EchCfg) (off : Nat) (bs : List Byte) : State :=
  let room := 2 ^ c.pasz - off
  writeMem (writeMem s (c.pa + off) (bs.take room) noFlags) c.pa (bs.drop room) noFlags

/-- Which counter of ECHO_CH_STATUS a status counts in: OK, aborted, BAD_LENGTH. -/
def echCounter (status : Nat) : Option Nat := if status = 0 then some 0 else if status = 1 ∨ status = 4 then some 1 else if status = 2 then some 4 else none

/-- The packet record of R285. -/
def packetRecord (ch : Nat) (h : Ech) (status n : Nat) (ferr : BitVec 16) (pseq : BitVec 16) (fill : Word) : List Word :=
  [mkWord [(0x20, 24), (status, 16), (ch, 0)], mkWord [(n, 16), (h.rssi, 8), (h.swdiff, 4)], w32 h.tsync.toNat, w32hi h.tsync.toNat, w32 h.off,
   mkWord [(pseq.toNat, 16), (ferr.toNat, 0)], 0, fill]

/-- A packet in progress ends (R285): its bytes are written, its record goes to the ring or is dropped. -/
def endPacket (s : State) (ch status : Nat) (bs : List Byte) (ferr : BitVec 16) : State :=
  let h := echOf s ch
  let n := bs.length
  let fill := h.fill + w32 (roundUp n 32)
  let pseq := h.pseq + 1
  let got := ringDropper (writeArea s h.cfg h.off bs) h.cfg.rring (packetRecord ch h status n ferr pseq fill)
  let okay := got.1
  let s1 := got.2
  let cnt1 := match echCounter status with | some i => Tab.upd 0 h.cnt i (· + 1) | none => h.cnt
  let cnt2 := if okay then cnt1 else Tab.upd 0 cnt1 3 (· + 1)
  updEch s1 ch fun x => { x with cnt := cnt2, fill := fill, pseq := pseq, off := (h.off + roundUp n 32) % 2 ^ h.cfg.pasz }

/-- Bits per symbol after the sync word (R279). -/
def bitsPer (c : EchCfg) : Nat := if c.lev then 2 else 1

/-- Bits of a whole body (R283). -/
def bodySoft (h : Ech) : Nat := if h.cfg.fec then 2 * (8 * h.need + 6) else 8 * h.need

/-- Soft bits that the length field needs at least. -/
def lengthSoft (c : EchCfg) : Nat := if c.fec then 16 * c.lmode else 8 * c.lmode

/-- Symbols from the sync word to the end of the payload, or of the length field while the length is not decoded. -/
def dueSyms (h : Ech) : Nat := ceilDiv (if h.need = 0 then lengthSoft h.cfg else bodySoft h) (bitsPer h.cfg)

/-- Has the symbol passed by a stream position that completes the payload, or the length field while the length is not decoded? -/
def dueBy (s : State) (h : Ech) (upTo : Nat) : Bool := passed s h (h.at_ + 1) (dueSyms h) upTo

/-- Has the payload of a packet in progress completed by a position? It then ends OK, whatever else would end it (R286). -/
def completeBy (s : State) (h : Ech) (upTo : Nat) : Bool := decide (h.state = 3) && decide (h.need ≠ 0) && dueBy s h upTo

/-- The bytes a packet has completed when it is cut short at a stream position: those of its length field, then what the symbols since
the sync word gave. How many a coded body gave, and which they are, is the demodulator's (R285). -/
def partialBytes (s : State) (h : Ech) (upTo : Nat) : List Byte :=
  let syms := (upTo - h.at_ - 1) * baudOf h.cfg.rate / (estreamOf s h.cfg.stream).fs
  let most := if h.cfg.fec then syms * bitsPer h.cfg / 16 else syms * bitsPer h.cfg / 8
  let n := min (if h.cfg.fec then min most (Config.echoCount s.free) else most) ((if h.need = 0 then h.cfg.lmode else h.need) - 1)
  h.got ++ (List.range (n - h.got.length)).map (Config.echoByte s.free)

/-- A packet is cut short at a stream position, then the channel settles. -/
def cutPacket (s : State) (ch status upTo : Nat) : State :=
  updEch (endPacket (draw s) ch status (partialBytes s (echOf s ch) upTo) (Config.echoOffset s.free)) ch settleEch

/-- SYNC_MISS: plen + 8 symbols have passed without a sync word; no record. -/
def execSyncMiss (ech : Fin 4096) (s : State) : Host.Outcome State Fault Refusal :=
  let h := echOf s ech.val
  if noClock s 1 then .next s
  else if decide (h.state = 2) && passed s h (h.at_ + 1) (h.cfg.plen + 8) (estreamOf s h.cfg.stream).pos then
    .next (updEch s ech.val fun x => settleEch { x with cnt := Tab.upd 0 x.cnt 2 (· + 1) })
  else .next s

/-- The packet that carried a stream position. -/
def segAt (e : EStream) (p : Nat) : Option NbSeg := e.segs.find? fun g => decide (g.start ≤ p) && decide (p < g.start + g.samples.length)

/-- The sync time (R281): ts − tlat + i × 10^9 / fs. -/
def syncTime (e : EStream) (ts i : Nat) : DWord := BitVec.ofNat 64 ts - BitVec.ofNat 64 e.tlat + BitVec.ofNat 64 (i * 1000000000 / e.fs)

/-- The RSSI code (R281): floor(20 × log10(P_fs / P)) clamped to 0 to 254, P the mean power over `count` samples. -/
def rssiCode (sfmt power count : Nat) : Nat := if power = 0 then 254 else stepsBelow ((if sfmt = 1 then 2 ^ 14 else 2 ^ 30) * count) power 254

/-- Bits of a received sync word that differ. -/
def syncDiff (c : EchCfg) (w : Word) : Nat := (List.range c.swlen).countP fun i => w.getLsbD i != c.sync.getLsbD i

/-- Does the sync word end within the look, in input the stream holds (R280)? -/
def inLook (s : State) (h : Ech) (p : Nat) : Bool :=
  let e := estreamOf s h.cfg.stream
  decide (h.at_ < p) && passed s h e.since h.cfg.swlen (p + 1) && !passed s h (h.at_ + 1) (h.cfg.plen + 8) p

/-- SYNC_WORD_FOUND: RSSI and sync time are latched, the packet is in progress (R281). -/
def execSyncWordFound (ech : Fin 4096) (m : SyncMeas) (s : State) : Host.Outcome State Fault Refusal :=
  let h := echOf s ech.val
  let e := estreamOf s h.cfg.stream
  match segAt e m.pos with
  | none => .next s
  | some g =>
    if noClock s 1 then .next s
    else if decide (h.state = 2) && decide (syncDiff h.cfg m.word ≤ h.cfg.swerr) && inLook s h m.pos then
      .next (updEch s ech.val fun x =>
        { x with state := 3, at_ := m.pos, rssi := rssiCode e.sfmt m.power m.count, swdiff := syncDiff h.cfg m.word, got := [],
                 tsync := syncTime e g.ts (m.pos - g.start), need := if x.cfg.lmode = 0 then x.cfg.len else 0 })
    else .next s

/-! ### Decoding (R279, R283, R284) -/

/-- The soft bits of a symbol decision under the sign of R54, positive for 0 (R279): 2-FSK, bit 0 is the positive deviation; 4-FSK, 01
is +3, 00 is +1, 10 is -1, 11 is -3. -/
def softBits (lev : Bool) (d : SymDec) : List Int :=
  let one : Int := if d.level < 0 then -(Int.ofNat d.conf1.val) else Int.ofNat d.conf1.val
  let two : Int := if d.level.natAbs = 3 then -(Int.ofNat d.conf2.val) else Int.ofNat d.conf2.val
  if lev then [one, two] else [one]

/-- The hard decision of soft bit i (R54): a negative value is a 1; 0 carries no information. -/
def hardBit (x : Nat × Int) : Bool := if x.2 = 0 then Config.zeroBit x.1 else decide (x.2 < 0)

/-- Parity of the bits of a number's low 7 bits. -/
def parity7 (v : Nat) : Bool := (List.range 7).foldl (fun p i => p != bitAt v i) false

/-- What a coded bit contributes to a path: the soft value when the coded bit is 0, its negative when it is 1. -/
def branch (soft : Int) (bit : Bool) : Int := if bit then -soft else soft

/-- A survivor: its metric and its last input bits, newest first (at most 48). -/
abbrev Survivor := Int × List Bool

/-- The survivor of state ns after one step with soft values x, y. A state is the last six input bits, the newest in bit 5; ties
go as Config says. -/
def extendTo (k : Nat) (sv : List (Option Survivor)) (x y : Int) (ns : Nat) : Option Survivor :=
  let u := bitAt ns 5
  let from_ (old : Nat) : Option Survivor :=
    let ps := ns % 32 * 2 + old
    match sv.getD ps none with
    | none => none
    | some (m, p) =>
      let reg := b2n u * 64 + ps
      some (m + branch x (parity7 (reg &&& 0o171)) + branch y (parity7 (reg &&& 0o133)), (u :: p).take 49)
  match from_ 0, from_ 1 with
  | none, b => b
  | a, none => a
  | some a, some b => if a.1 = b.1 then (if Config.trellisTie (k * 64 + ns) then some b else some a) else if a.1 < b.1 then some b else some a

/-- The best survivor. -/
def bestSurvivor (k : Nat) (sv : List (Option Survivor)) : Survivor :=
  sv.foldl (fun (b : Survivor) x => match x with
    | none => b
    | some a => if b.2.isEmpty then a else if a.1 = b.1 then (if Config.trellisTie (k * 64 + a.2.length) then a else b) else if b.1 < a.1 then a else b) (0, [])

/-- Run the trellis over pairs of soft bits: the survivors, the decided bits and the steps made. After 48 further steps a bit is decided
from the best survivor (traceback depth 48). -/
def trellis : List Int → Nat → List (Option Survivor) → List Bool → List (Option Survivor) × List Bool × Nat
  | x :: y :: r, k, sv, out =>
    let sv1 := (List.range 64).map (extendTo k sv x y)
    let out1 := if 48 ≤ k then out ++ ((bestSurvivor k sv1).2.getLast?.toList) else out
    trellis r (k + 1) sv1 out1
  | _, k, sv, out => (sv, out, k)

/-- The decoded bits of a coded body from the zero state; a whole body ends in the zero state, a prefix in its best state (R283). -/
def decodeBits (soft : List Int) (whole : Bool) : List Bool :=
  let (sv, out, k) := trellis soft 0 (some (0, []) :: List.replicate 63 none) []
  let last := (if whole then (sv.getD 0 none).getD (0, []) else bestSurvivor k sv).2
  out ++ ((last.take (k - out.length)).reverse)

/-- The bits of a body, or of its beginning. -/
def bodyBits (c : EchCfg) (soft : List Int) (whole : Bool) : List Bool := if c.fec then decodeBits soft whole else ((List.range soft.length).zip soft).map hardBit

/-- A byte from eight bits in bitord order (R277, R284). -/
def byteOfBits (lsbFirst : Bool) (bs : List Bool) : Byte :=
  let l := if lsbFirst then bs.reverse else bs
  BitVec.ofNat 8 (l.foldl (fun n b => n * 2 + b2n b) 0)

/-- The first n bytes of bits. -/
def bytesOfBits (lsbFirst : Bool) (bs : List Bool) : Nat → List Byte
  | 0 => []
  | n + 1 => byteOfBits lsbFirst (bs.take 8) :: bytesOfBits lsbFirst (bs.drop 8) n

/-- LENGTH_FIELD: the length bytes are decoded; a length outside 1 to len ends the packet BAD_LENGTH (R284). -/
def execLengthField (ech : Fin 4096) (syms : List SymDec) (s : State) : Host.Outcome State Fault Refusal :=
  let h := echOf s ech.val
  let soft := syms.flatMap (softBits h.cfg.lev)
  if noClock s 1 then .next s
  else if decide (h.state = 3) && decide (h.need = 0) && decide (lengthSoft h.cfg ≤ soft.length) && dueBy s h (estreamOf s h.cfg.stream).pos then
    let bs := bytesOfBits h.cfg.bitord (bodyBits h.cfg soft false) h.cfg.lmode
    let n := Int.ofNat (beNat bs) + h.cfg.lofs
    if 1 ≤ n ∧ n ≤ Int.ofNat h.cfg.len then .next (updEch s ech.val fun x => { x with need := n.toNat, got := bs.take n.toNat })
    else .next (updEch (endPacket (draw s) ech.val 2 bs (Config.echoOffset s.free)) ech.val settleEch)
  else .next s

/-- PACKET_END: the payload completes; it and its record are written (R285). Length bytes already decoded stand. -/
def execPacketEnd (ech : Fin 4096) (syms : List SymDec) (ferr : BitVec 16) (s : State) : Host.Outcome State Fault Refusal :=
  let h := echOf s ech.val
  let soft := syms.flatMap (softBits h.cfg.lev)
  if noClock s 1 then .next s
  else if completeBy s h (estreamOf s h.cfg.stream).pos && decide (soft.length = bodySoft h) then
    .next (updEch (endPacket s ech.val 0 (h.got ++ (bytesOfBits h.cfg.bitord (bodyBits h.cfg soft true) h.need).drop h.got.length) ferr) ech.val settleEch)
  else .next s

/-- CAPTURE: a stronger preamble ends the packet in progress; the sync look of the new one begins, unless a pending setting takes effect
(R287, R288). What completes or decides the packet by the same symbol comes first (R286). -/
def execCapture (ech : Fin 4096) (m : PreambleMeas) (pos : Nat) (s : State) : Host.Outcome State Fault Refusal :=
  let h := echOf s ech.val
  if noClock s 1 then .next s
  else if decide (h.state = 3) && decide (h.cfg.capm ≠ 0) && decide (h.at_ < pos) && detects s h h.noise m pos && decide (h.cfg.capm + m.code ≤ h.rssi) &&
      !dueBy s h (pos + 1) then
    let s1 := cutPacket s ech.val 1 (pos + 1)
    .next (if h.pend.isNone && !h.disPend then updEch s1 ech.val (startLook m pos h.noise) else s1)
  else .next s

/-! ### Input (R273 to R275) -/

/-- The channels of a stream: packets in progress end LOST_INPUT, but for one whose payload has completed (R286). `looks` also returns
channels in a sync look to search. -/
def lostStream (looks : Bool) (s : State) (k : Nat) : State :=
  let p := (estreamOf s k).pos
  s.echs.foldl (fun st e =>
    if decide (e.2.cfg.stream = k) && decide (e.2.state = 3) then (if completeBy s e.2 p then st else cutPacket st e.1 3 p)
    else if looks && decide (e.2.cfg.stream = k) && decide (e.2.state = 2) then updEch st e.1 settleEch else st) s

/-- The streams bound to a flow. -/
def streamsOf (s : State) (flow : Nat) : List Nat := (s.estreams.filter fun e => e.2.isSet && decide (e.2.flow = flow)).map (·.1)

/-- The flow leaves ARMED or its link goes down (R275): its streams' packets end, SEQ_ID starts anew, and search begins again with the
first sample that arrives then. -/
def lostFlow (s : State) (flow : Nat) : State :=
  (streamsOf s flow).foldl (fun st k => updStream (lostStream true st k) k fun e => { e with expect := none, since := e.pos }) s

/-- The samples of a packet enter a stream behind a gap of g packets: up to 4 become zero samples, more restart the channeliser and drop
what came before (R274). -/
def takeSamples (g seq ts : Nat) (p : NbPlane) (e : EStream) : EStream :=
  let start := if 1 ≤ g ∧ g ≤ 4 then e.pos + g * p.nsamp else e.pos
  { e with expect := some ((seq + 1) % 256), samples := e.samples + BitVec.ofNat 64 p.nsamp, pos := start + p.nsamp,
           since := if 4 < g then start else e.since,
           segs := { start := start, ts := ts, samples := p.samples } :: (if 4 < g then [] else e.segs.take 31),
           gaps := if 1 ≤ g ∧ g ≤ 4 then e.gaps + 1 else e.gaps, restarts := if 4 < g then e.restarts + 1 else e.restarts }

/-- A packet of samples reaches a stream (R273, R274). -/
def nbStream (seq ts : Nat) (p : NbPlane) (s : State) (k : Nat) : State :=
  let e := estreamOf s k
  let g := match e.expect with | some x => (seq + 256 - x) % 256 | none => 0
  if decide (p.version ≠ 1) || decide (p.sfmt ≠ e.sfmt) || p.resv || decide (p.nsamp = 0) || decide (2048 < p.nsamp) || decide (128 ≤ g) then
    updStream s k fun x => { x with discards := x.discards + 1 }
  else updStream (if g = 0 then s else lostStream false s k) k (takeSamples g seq ts p)

/-- An NB packet of a flow, with its capture. -/
def nbPacket (s : State) (flow seq ts : Nat) (p : NbPlane) : State := (streamsOf s flow).foldl (nbStream (seq % 256) ts p) s

/-! ### Commands -/

/-- ECHO_STREAM_SET. -/
def execEchoStreamSet (pair : Fin 176) (s : State) : Host.Outcome State Fault Refusal :=
  withNci 0x0500 [0x007F1FCF, 0x003FFFFF, 0x00FFFFFF] pair s fun ws st =>
    let k := tf ws 1 3 0
    let f := flowOf st (tf ws 1 22 16)
    let mlog := tf ws 1 12 8
    let fs := tf ws 2 21 0
    { bad := decide (mlog < 2) || decide (9 < mlog) || decide (1 < tf ws 1 7 6) || decide (fs < 100000) || decide (2560000 < fs) || decide (f.state = 0) || decide (f.cfg.kind ≠ 2)
      ctxs := [f.cfg.ctx]
      busy := st.echs.any fun e => decide (e.2.state ≠ 0) && decide (e.2.cfg.stream = k)
      st := updStream st k fun _ => { isSet := true, flow := tf ws 1 22 16, mlog := mlog, sfmt := tf ws 1 7 6, fs := fs, tlat := tf ws 3 23 0 } }

/-- The settings of an ECHO_CH_SET, the margin clamped (R277, R282). -/
def echOfWords (ws : List Word) : EchCfg :=
  { ctx := tf ws 1 13 8, foff := sgn (tf ws 2 23 0) 24, stream := tf ws 3 31 28, bin := tf ws 3 24 16, rate := tf ws 3 15 13,
    lev := decide (tf ws 3 12 12 = 1), bt := decide (tf ws 3 11 11 = 1), fec := decide (tf ws 3 10 10 = 1), bitord := decide (tf ws 3 9 9 = 1),
    hmod := tf ws 3 7 0, plen := if tf ws 4 31 26 = 0 then 64 else tf ws 4 31 26, swlen := 16 + 8 * tf ws 4 25 24, swerr := tf ws 4 23 22,
    ppol := decide (tf ws 4 21 21 = 1), qmin := tf ws 4 20 16, floor := tf ws 4 15 8, margin := max 6 (tf ws 4 7 0), sync := w32 (wordAt ws 5),
    lmode := tf ws 6 31 30, len := tf ws 6 25 16, lofs := sgn (tf ws 6 15 8) 8, capm := tf ws 6 7 0, rring := tf ws 7 29 16,
    pa := taddr ws 8 9 7 0, pasz := tf ws 9 20 16 }

/-- Does a bin feed the channel, by its setting or by one that waits to take effect (R276, R288)? -/
def feedsBin (h : Ech) (stream bin : Nat) : Bool :=
  (decide (h.cfg.stream = stream) && decide (h.cfg.bin = bin)) || (match h.pend with | some c => decide (c.stream = stream) && decide (c.bin = bin) | none => false)

/-- Does a channel setting break a range or R278? -/
def echBad (s : State) (ch : Nat) (c : EchCfg) : Bool :=
  let e := estreamOf s c.stream
  let m := 2 ^ e.mlog
  let rs := baudOf c.rate
  let r := ringOf s c.rring
  decide (c.plen < 16) || decide (32 < c.swlen) || decide (c.qmin < 8) || decide (16 < c.qmin) || decide (2 ^ c.swlen ≤ c.sync.toNat) ||
  decide (c.lmode = 3) || decide (c.len = 0) || decide (60 < c.capm) || decide (c.hmod < 16) || decide (128 < c.hmod) ||
  decide (c.pasz < 12) || decide (24 < c.pasz) || decide (c.pa % 4096 ≠ 0) || decide (2 ^ 23 < c.foff.natAbs * m) ||
  !e.isSet || decide (m ≤ c.bin) || !(ctxOf s c.ctx).isSet || !r.isSet || r.hostWrites ||
  s.echs.any (fun x => decide (x.1 ≠ ch) && decide (x.2.state ≠ 0) && !x.2.disPend && feedsBin x.2 c.stream c.bin) ||
  decide (2 * e.fs < 4 * (m * rs)) || decide (64 * (m * rs) < 2 * e.fs) ||
  decide (256 * e.fs < 5 * m * rs * (c.hmod * (if c.lev then 3 else 1) + 64)) ||
  !inHbm (ctxOf s c.ctx) c.pa (2 ^ c.pasz)

/-- Is the channel in a look or a packet? -/
def echBusy (h : Ech) : Bool := decide (2 ≤ h.state)

/-- ECHO_CH_SET (R277, R278, R282, R288). -/
def execEchoChSet (pair : Fin 176) (s : State) : Host.Outcome State Fault Refusal :=
  withNci 0x0501 [0x0FFF3F00, 0x00FFFFFF, 0xF1FFFEFF, 0xFFFFFFFF, 0xFFFFFFFF, 0xC3FFFFFF, 0x3FFF0000, 0xFFFFFFFF, 0x001F00FF] pair s fun ws st =>
    let ch := tf ws 1 27 16
    let h := echOf st ch
    let c := echOfWords ws
    let clamped := decide (tf ws 4 7 0 < 6)
    { bad := echBad st ch c
      denied := decide ((ringOf st c.rring).ctx ≠ c.ctx)
      ctxs := c.ctx :: (if h.state = 0 then [] else [h.cfg.ctx])
      code := if clamped then 7 else if echBusy h then 6 else 0
      words := [if clamped && echBusy h then 1 else 0]
      st := updEch st ch fun x => if echBusy x then { x with pend := some c, disPend := false } else { state := 1, cfg := c } }

/-- ECHO_CH_DISABLE (R289). An abort does not cut a packet whose payload has completed (R286). -/
def execEchoChDisable (pair : Fin 176) (s : State) : Host.Outcome State Fault Refusal :=
  withNci 0x0502 [0x00010FFF] pair s fun ws st =>
    let ch := tf ws 1 11 0
    let h := echOf st ch
    { bad := decide (h.state = 0), ctxs := [h.cfg.ctx]
      st := if tf ws 1 16 16 = 1 ∧ completeBy st h (estreamOf st h.cfg.stream).pos = false then
              updEch (if h.state = 3 then cutPacket st ch 4 (estreamOf st h.cfg.stream).pos else st) ch fun x => { cnt := x.cnt }
            else updEch st ch fun x => if echBusy x then { x with disPend := true, pend := none } else { cnt := x.cnt } }

/-- ECHO_CH_STATUS; a threshold below 0 reads as 0. -/
def execEchoChStatus (pair : Fin 176) (s : State) : Host.Outcome State Fault Refusal :=
  withNci 0x0503 [0xFFF] pair s fun ws st =>
    let h := echOf st (tf ws 1 11 0)
    let n := noiseNow st h
    { ctxs := if h.state = 0 then [] else [h.cfg.ctx]
      words := mkWord [((threshold h n).toNat, 24), (n, 16), (h.state, 0)] :: (List.range 5).map (fun i => Tab.get 0 h.cnt i)
      st := draw st }

/-- ECHO_STREAM_STATUS. -/
def execEchoStreamStatus (pair : Fin 176) (s : State) : Host.Outcome State Fault Refusal :=
  withNci 0x0504 [0xF] pair s fun ws st =>
    let e := estreamOf st (tf ws 1 3 0)
    { words := [w32 e.samples.toNat, w32hi e.samples.toNat, e.gaps, e.restarts, e.discards], st := st }

end Sys2Proof.Machine
end

