-- ==== Sys2Proof/Machine/Fh.lean ====
section
/-!
DEFINITION. Fronthaul ingest (chapter 08): frames, flow matching, alignment windows, release, the squeeze unit (R51, R52), energy
records, malformed input, links, parity errors of the datapath.
-/
namespace Sys2Proof.Machine

/-! ### Flows -/

/-- The antenna streams of a flow. -/
def nStreams (c : FlowCfg) : Nat := c.eaxc.length

/-- Does the flow serve the symbol: armed or halted from its arming symbol on, and earlier air slots after it has left (R217)? -/
def serves (f : Flow) (sym : Nat) : Bool :=
  ((decide (f.state = 2) || decide (f.state = 3)) && decide (f.armSym ≤ sym)) ||
  (match f.endSym with | some e => decide (f.armPrev ≤ sym) && decide (sym < e) | none => false)

/-- Is the flow armed, halted, or, as a UL flow, still serving earlier air slots? -/
def takesInput (f : Flow) : Bool :=
  decide (f.state = 2) || decide (f.state = 3) || (decide (f.cfg.kind = 0) && match f.endSym with | some e => decide (f.nextRel < e) | none => false)

/-- The keys under which a flow has configurations: its number, and where an earlier one still serves symbols (R217). -/
def keysOf (s : State) (k : Nat) : List Nat := (s.flows.map (·.1)).filter fun x => decide (x % 128 = k)

/-- Has a flow that left ARMED or HALTED symbols still to be released, converted or sent (R217)? -/
def unserved (s : State) (k : Nat) : Bool :=
  let f := flowOf s k
  (match f.endSym with | some e => if f.cfg.kind = 0 then decide (f.nextRel < e) else decide (f.cfg.kind = 1) && decide (f.nextSend < e) | none => false) ||
  s.released.any fun r => decide (r.flow = k)

/-- A free key for an earlier configuration of flow k. -/
def spareKey (s : State) (k : Nat) : Nat := 128 * (1 + s.flows.length) + k

/-- A flow leaves its number, FREE, and keeps serving what it has to (R217); its basin share is released. -/
def setAside (s : State) (k : Nat) : State :=
  if unserved s k then
    let j := spareKey s k
    { updFlow s j fun _ => { flowOf s k with state := 0, pendState := none, share := 0 } with
      released := s.released.map fun r => if r.flow = k then { r with flow := j } else r }
  else s

/-- The symbol after n that the flow releases: past its end, the next arming symbol (R217). -/
def nextAfter (f : Flow) (n : Nat) : Nat := if f.endSym = some (n + 1) ∧ n + 1 ≤ f.armSym then f.armSym else n + 1

/-- Count in a counter of FH_FLOW_STATUS: 0 accepted, 1 late, 2 early, 3 dup, 4 seqgap, 5 bfull, 6 missym, 7 dllate, 8 msat,
9 grlate. -/
def bump (f : Flow) (i n : Nat) : Flow := { f with cnt := Tab.upd 0 f.cnt i (· + w32 n) }

/-- Write an event record to a flow's event ring, at most one per kind per air slot (R235). -/
def flowEvent (s : State) (k kind cause t : Nat) (data : List Byte) : State :=
  let f := flowOf s k
  if f.evMask.getLsbD kind then s
  else
    let s1 := raiseLantern (updFlow s k fun x => { x with evMask := setBit x.evMask kind true }) (176 + Config.flowSource (k % 128) % 16)
    ringNerzon s1 f.cfg.evring ([mkWord [(kind, 24), (k % 128, 0)], w32 cause, w32 t, w32hi t] ++ leWords (data ++ List.replicate 16 0#8) 4) false

/-! ### Energy (R231, R232) -/

/-- The energy of a staged PRB: the sum over its mantissas of (m × 2^e)². -/
def prbEnergy (p : Staged) : Nat := (p.man.foldl (fun a m => a + m * m) (0 : Int)).toNat * 2 ^ (2 * p.exp)

/-- Full scale: 24 × (2^(w−1) × 2^15)². -/
def fullScale (w : Nat) : Nat := 24 * (2 ^ (w - 1) * 2 ^ 15) ^ 2

/-- The energy code of a sum over `cnt` staged occurrences: floor(20 × log10(E_fs / E)) clamped to 254, or 255 (R231). -/
def energyCode (w sum cnt : Nat) : Nat := if cnt = 0 ∨ sum = 0 then 255 else stepsBelow (fullScale w * cnt) sum 254

/-- Add the staged PRBs of a released symbol to the air slot's energy. -/
def addEnergy (e : Tab (Nat × Nat)) (ps : List Staged) : Tab (Nat × Nat) :=
  ps.foldl (fun t p => Tab.upd (0, 0) t p.prb fun x => (x.1 + prbEnergy p, x.2 + 1)) e

/-- The air slot number of a grid slot, counted from the last slot tick (R293). -/
def aslotOf (s : State) (scs g : Nat) : Int := Int.ofNat s.sched.aslot + Int.ofNat g - Int.ofNat (gridSlot s.time scs s.time.slot.toNat)

/-- The grant of a grid slot. -/
def grantOf (f : Flow) (g : Nat) : Option Grant := f.grants.find? fun x => decide (x.slot = g)

/-- Does a region that keeps PRBs out of the steer map cover PRB p? -/
def covered (gr : Grant) (p : Nat) : Bool := gr.regions.any fun r => decide (r.kind ≤ 3) && decide (r.sprb ≤ p) && decide (p < r.sprb + r.nprbr)

/-- The bytes of bits, bit p at bit p mod 8 of byte p / 8. -/
def bitBytes (f : Nat → Bool) (n : Nat) : List Byte :=
  (List.range n).map fun i => BitVec.ofNat 8 ((List.range 8).foldl (fun a b => a + b2n (f (8 * i + b)) * 2 ^ b) 0)

/-- The header word of a symbol record or energy record (R226, R232). -/
def symbolWord (scs g closed k : Nat) : Word :=
  mkWord [(frameOf scs g, 24), (subframeOf scs g, 20), (slotIdOf scs g, 12), (closed, 4), (k, 0)]

/-- Write the energy record of a finished air slot and start the next (R231, R232). -/
def writeEnergy (s : State) (k g : Nat) : State :=
  let f := flowOf s k
  let c := f.cfg
  let gr := (grantOf f (g + 1)).filter fun x => !x.late
  let code (p : Nat) : Nat := let e := Tab.get (0, 0) f.energy p; energyCode c.w e.1 e.2
  let steer (p : Nat) : Bool := decide (p < c.nprb) && decide (code p ≤ c.thr) && !(match gr with | some x => covered x p | none => false)
  let base := 0x1200000000 + f.basin + c.depth * flowBuf c + 512 * ((aslotOf s c.scs g) % 2).toNat
  let s1 := writeMem s base (wordBytes [symbolWord c.scs g 0 0, w32 (b2n gr.isNone)]) noFlags
  let s2 := writeMem s1 (base + 64) ((List.range c.nprb).map fun p => BitVec.ofNat 8 (code p)) noFlags
  updFlow (writeMem s2 (base + 384) (bitBytes steer 40) noFlags) k fun x => { x with energy := [] }

/-! ### Release (R221 to R225) -/

/-- The window open time of a symbol: the arrival of its first packet, or its air end + L (R221). -/
def openTime (t : Time) (f : Flow) (sym : Nat) : Nat :=
  let e := airEnd t f.cfg.scs sym + f.cfg.lmax
  match (Tab.get {} f.syms sym).opened with
  | some o => min o e
  | none => e

/-- The buffer of a symbol: counted from the arming tick it belongs to, modulo the ring's depth (R226, R234). -/
def bufOf (f : Flow) (sym : Nat) : Nat := (if f.armSym ≤ sym then sym - f.armSym else sym - f.armPrev) % f.cfg.depth

/-- Release the flow's next symbol (R221, R222); with the last symbol of an air slot its energy record is written. -/
def releaseOne (s : State) (k t : Nat) (closed : Bool) : State :=
  let f := flowOf s k
  let sym := f.nextRel
  let x := Tab.get {} f.syms sym
  let ps := if x.bad then [] else x.prbs
  let r : Released := { flow := k, sym := sym, closed := closed, tOpen := openTime s.time f sym, tRel := t, seq := f.relCount + 1, bufIx := bufOf f sym, prbs := ps }
  let s1 := updFlow { s with released := s.released ++ [r] } k fun y =>
    { y with nextRel := nextAfter y sym, syms := Tab.put {} y.syms sym {}, relCount := y.relCount + 1, lastRel := t, energy := addEnergy y.energy ps }
  if sym % 14 = 13 then writeEnergy s1 k (sym / 14) else s1

/-- When a symbol is to be released, and whether by window close: at completion, or once its window has opened at its close (R221). -/
def releaseTime (t : Time) (f : Flow) (sym : Nat) : Option (Nat × Bool) :=
  let x := Tab.get {} f.syms sym
  match x.done with
  | some d => some (d, false)
  | none => if x.opened.isSome then some (openTime t f sym + f.cfg.win, true) else none

/-- Release every symbol that is due by device time t, in order, none before an earlier symbol's release (R221). -/
def pumpRelease (s : State) (k t : Nat) : Nat → State
  | 0 => s
  | n + 1 =>
    let f := flowOf s k
    match (if serves f f.nextRel then releaseTime s.time f f.nextRel else none) with
    | some (r, closed) => if r ≤ t then pumpRelease (releaseOne s k (max r f.lastRel) closed) k t n else s
    | none => s

/-- A window of key k opens that no packet has opened. -/
def openWindow (sym : Nat) (s : State) (k : Nat) : State :=
  let f := flowOf s k
  let e := airEnd s.time f.cfg.scs sym + f.cfg.lmax
  if decide (f.cfg.kind = 0) && serves f sym && decide (f.nextRel ≤ sym) && decide (e ≤ now s) && (Tab.get {} f.syms sym).opened.isNone then
    updFlow s k fun x => { x with syms := Tab.upd {} x.syms sym fun y => { y with opened := some e } }
  else s

/-- WINDOW_OPEN: at the symbol's air end + L a window opens that no packet has opened (R221). -/
def execWindowOpen (flow : Fin 128) (sym : Nat) (s : State) : Host.Outcome State Fault Refusal :=
  .next (if noClock s 1 then s else (keysOf s flow.val).foldl (openWindow sym) s)

/-- The window of key k closes: symbols that are due are released. -/
def closeWindow (sym : Nat) (s : State) (k : Nat) : State :=
  let f := flowOf s k
  if decide (f.cfg.kind = 0) && decide (sym = f.nextRel) then pumpRelease s k (now s) (f.syms.length + 1) else s

/-- WINDOW_CLOSE: W after it opened, the symbol's window closes; symbols that are due are released (R221). -/
def execWindowClose (flow : Fin 128) (sym : Nat) (s : State) : Host.Outcome State Fault Refusal :=
  .next (if noClock s 1 then s else (keysOf s flow.val).foldl (closeWindow sym) s)

/-! ### The squeeze unit (R51, R52, R222, R226, R227) -/

/-- The entry H_N[k][j] (R47). -/
def hadamard (k j : Nat) : Int := if (List.range 6).foldl (fun p b => p != bitAt (k &&& j) b) false then -1 else 1

/-- The N outputs of one component of one subcarrier. -/
def rotate (rot : Bool) (vs : List Int) : List Int :=
  if rot then (List.range vs.length).map fun k => (((List.range vs.length).zip vs).map fun e => hadamard k e.1 * e.2).foldl (· + ·) 0 else vs

/-- The staged PRB of a stream. -/
def stagedOf (ps : List Staged) (stream prb : Nat) : Option Staged := ps.find? fun p => decide (p.stream = stream) && decide (p.prb = prb)

/-- One PRB of a rotation group: its twelve rows of 2N elements and its exponent byte (R51, R52, R222). -/
def squeezePrb (c : FlowCfg) (ps : List Staged) (g p : Nat) : List (List Int) × Nat :=
  let ants := (List.range c.n).map fun a => stagedOf ps (g * c.n + a) p
  if ants.any (·.isNone) then (List.replicate 12 (List.replicate (2 * c.n) 0), 0x80)
  else
    let v (i : Nat) : List Int := ants.map fun a => match a with | some x => shl (x.man.getD i 0) x.exp | none => 0
    let us := (List.range 24).map fun i => rotate c.rot (v i)
    let lo : Int := if c.nq8 then -128 else -8
    let hi : Int := if c.nq8 then 127 else 7
    let x := chooseExp (us.flatMap id) lo hi 0 63
    let q (i k : Nat) : Int := clamp (asr ((us.getD i []).getD k 0) x) lo hi
    ((List.range 12).map (fun sc => (List.range c.n).flatMap fun k => [q (2 * sc) k, q (2 * sc + 1) k]), x)

/-- The bytes of the element plane of a group of squeezed PRBs. -/
def planeBytes (nq8 : Bool) (xs : List (List (List Int) × Nat)) : List Byte :=
  xs.flatMap fun x => x.1.flatMap fun row => packElems (if nq8 then 8 else 4) (row.map fun e => low e (if nq8 then 8 else 4))

/-- Write one rotation group of a release buffer; the missing PRBs it holds. -/
def writeGroup (c : FlowCfg) (ps : List Staged) (base : Nat) (acc : State × Nat) (g : Nat) : State × Nat :=
  let xs := (List.range c.nprb).map fun p => squeezePrb c ps g p
  let a := base + 64 + g * (elemPlane c + expPlane c)
  let s1 := writeMem acc.1 a (planeBytes c.nq8 xs) noFlags
  (writeMem s1 (a + elemPlane c) (xs.map fun x => BitVec.ofNat 8 x.2) noFlags, acc.2 + (xs.filter fun x => decide (x.2 = 0x80)).length)

/-- The released symbol of the earliest release time; of equal ones the first. -/
def firstReleased : List Released → Option Released
  | [] => none
  | r :: rs => match firstReleased rs with
    | some x => if x.tRel < r.tRel then some x else some r
    | none => some r

/-- A released symbol is converted, its record is written last, the release cairn is signalled (R226, R227). -/
def convert (s : State) (r : Released) : State :=
  let c := (flowOf s r.flow).cfg
  let base := 0x1200000000 + (flowOf s r.flow).basin + r.bufIx * flowBuf c
  let got := (List.range (nStreams c / c.n)).foldl (writeGroup c r.prbs base) ({ s with released := s.released.erase r }, 0)
  let s1 := got.1
  let nmiss := got.2
  let recw := [symbolWord c.scs (r.sym / 14) (b2n r.closed) (r.sym % 14), mkWord [(r.seq % 65536, 16), (nmiss, 0)],
               w32 r.tOpen, w32hi r.tOpen, w32 r.tRel, w32hi r.tRel] ++ List.replicate 10 0
  let s2 := writeMem s1 base (wordBytes recw) noFlags
  let s3 := if nmiss = 0 then s2 else updFlow s2 r.flow fun f => bump f 6 1
  cairnSignalFor s3 c.ctx c.cairn 1

/-- SQUEEZE_CONVERSION: the symbol released first, across all flows, is converted (R227). -/
def execSqueezeConversion (s : State) : Host.Outcome State Fault Refusal :=
  match (if noClock s 1 then none else firstReleased s.released) with
  | none => .next s
  | some r => .next (convert s r)

/-! ### Ingest (R211 to R214, R218, R220, R224) -/

/-- Count at a logical port. -/
def countPort (s : State) (p : Nat) (f : LPort → LPort) : State := { s with lports := Tab.upd {} s.lports p f }

/-- The stream of a flow that a packet names by VLAN ID and pc_id. -/
def streamIx (c : FlowCfg) (vlan : Option Nat) (pc : Nat) : Option Nat :=
  ((List.range c.eaxc.length).zip c.eaxc).findSome? fun e => if e.2.1 = vlan ∧ e.2.2 = pc then some e.1 else none

/-- The stream of an ingest flow that matches a packet by port, VLAN ID, pc_id and, for UL, filterIndex (R218). -/
def matchFlow (lport : Nat) (vlan : Option Nat) (e : Ecpri) (f : Flow) : Option Nat :=
  if (decide (f.state ≠ 0) || takesInput f) && decide (f.cfg.kind ≠ 1) && f.cfg.ports.getLsbD lport &&
      (decide (f.cfg.kind = 2) || decide (f.cfg.fidx = e.filterIndex)) then
    streamIx f.cfg vlan e.pcId
  else none

/-- The flow and stream a packet matches, the ones that take input first. -/
def findFlow (s : State) (lport : Nat) (vlan : Option Nat) (e : Ecpri) : Option (Nat × Nat) :=
  let m (live : Bool) := s.flows.findSome? fun f => if takesInput f.2 = live then (matchFlow lport vlan e f.2).map (f.1, ·) else none
  match m true with
  | some x => some x
  | none => m false

/-- The halt cause of a section (R224). -/
def sectionCause (c : FlowCfg) (x : USection) : Option Nat :=
  if decide (c.nprb < x.startPrbu + sectionCount c.nprb x) || decide (c.nprb ≤ x.startPrbu) || x.rb || x.symInc then some 5
  else match x.comp with
    | some (m, w) => if decide (m ≠ 1) || decide (w % 16 ≠ c.w % 16) then some 6 else none
    | none => none

/-- The sections of a U-plane message of a flow, and whether they fit its payload. -/
def sections (c : FlowCfg) (m : List Byte) : List USection × Bool := sectionsOf c.udhdr c.w c.nprb (m.length / 4) (sectionBytes m)

/-- The least code that U-plane sections give; none when they are well formed. -/
def leastCause (xs : List Nat) : Option Nat := match xs with | [] => none | x :: r => some (r.foldl min x)

/-- The halt cause of a message matched to a flow, in code order; none when it is well formed (R224). -/
def haltCause (c : FlowCfg) (tagged : Bool) (m : List Byte) : Option Nat :=
  let e := ecpriOf m
  if decide (e.revision ≠ 1) || e.concat then some 1
  else if !sizeAgrees tagged m || decide (e.size < 8) then some 2
  else if c.kind = 2 then (if nbLength m then some 2 else none)
  else if !(sections c m).2 then some 2
  else if decide (e.dataDirection ≠ 0) || decide (e.payloadVersion ≠ 1) then some 3
  else if decide (9 < e.subframeId) || decide (slotsPerFrame c.scs / 10 ≤ e.slotId) || decide (13 < e.symbolId) then some 4
  else leastCause ((sections c m).1.filterMap (sectionCause c))

/-- The symbol a packet names: of those with its frame, subframe, slot and symbol identifiers the one whose air start lies nearest the
arrival (R220). -/
def symbolNamed (t : Time) (scs : Nat) (u : Ecpri) (ts : Nat) : Nat :=
  let off := u.frameId % 256 * frameNs + u.subframeId * 1000000 + u.slotId * slotLen scs + u.symbolId * tSym scs
  let p := 256 * frameNs
  let n := (Int.ofNat ts - toffOf t - Int.ofNat off + Int.ofNat (p / 2)) / Int.ofNat p
  let spf := slotsPerFrame scs
  ((n * Int.ofNat (256 * spf) + Int.ofNat (gridBias scs + u.frameId % 256 * spf + u.subframeId * (spf / 10) + u.slotId)) * 14 + Int.ofNat u.symbolId).toNat

/-- Count a gap in a stream's sequence numbers (R213). -/
def noteSeq (f : Flow) (stream seq : Nat) : Flow :=
  let f1 := { f with seqs := Tab.put 256 f.seqs stream ((seq + 1) % 256) }
  let want := Tab.get 256 f.seqs stream
  if decide (want < 256) && decide (want ≠ seq % 256) then bump f1 4 1 else f1

/-- The PRBs of a section as staged for a stream. -/
def sectionPrbs (stream : Nat) (x : USection) : List Staged :=
  ((List.range x.prbs.length).zip x.prbs).map fun e => { stream := stream, prb := x.startPrbu + e.1, exp := e.2.exp, man := e.2.man }

/-- Stage PRBs; one already staged for its stream is discarded and counted (R220). -/
def stagePrbs (acc : List Staged × Nat) (p : Staged) : List Staged × Nat :=
  if (stagedOf acc.1 p.stream p.prb).isSome then (acc.1, acc.2 + 1) else (acc.1 ++ [p], acc.2)

/-- Staging buffers of a flow: ceil(W / T_sym) + 1 symbols (R223). -/
def stagingSyms (c : FlowCfg) : Nat := ceilDiv c.win (tSym c.scs) + 1

/-- Is there no staging buffer for the symbol (R223)? -/
def basinFull (s : State) (k sym : Nat) : Bool :=
  let f := flowOf s k
  let used := (f.syms.filter fun e => !e.2.prbs.isEmpty).length + (s.released.filter fun r => decide (r.flow = k) && !r.prbs.isEmpty).length
  (Tab.get {} f.syms sym).prbs.isEmpty && decide (stagingSyms f.cfg ≤ used)

/-- A well-formed U-plane packet of a stream that names symbol `sym` (R220, R221, R223). -/
def stagePacket (s : State) (k stream sym : Nat) (xs : List USection) (ts : Nat) : State :=
  let f := flowOf s k
  let c := f.cfg
  if ts + tSym c.scs < airEnd s.time c.scs sym then updFlow s k fun x => bump x 2 1
  else if decide (sym < f.nextRel) || !serves f sym || decide (openTime s.time f sym + c.win ≤ ts) then updFlow s k fun x => bump x 1 1
  else if basinFull s k sym then updFlow s k fun x => bump x 5 1
  else
    let x := Tab.get {} f.syms sym
    let got := (xs.flatMap (sectionPrbs stream)).foldl stagePrbs (x.prbs, 0)
    let y : SymSt := { x with opened := some (min (openTime s.time f sym) ts), prbs := got.1 }
    let z : SymSt := { y with done := if !y.bad && decide (got.1.length = nStreams c * c.nprb) then some (x.done.getD ts) else none }
    let s1 := updFlow s k fun g => { bump (bump g 0 1) 3 got.2 with syms := Tab.put {} g.syms sym z }
    pumpRelease s1 k ts (f.syms.length + 1)

/-- Halt a flow on malformed input (R224, R225). -/
def haltFlow (s : State) (k cause ts : Nat) (data : List Byte) : State :=
  let s1 := updFlow s k fun f => { f with state := 3, cause := cause }
  flowEvent (if (flowOf s k).cfg.kind = 2 then lostFlow s1 k else s1) k 1 cause ts data

/-- A packet for which no flow takes input is discarded and counted (R26, R217). -/
def noFlow (s : State) (lport : Nat) : State := countPort s lport fun p => { p with noflow := p.noflow + 1 }

/-- A message matched to an ingest flow. A flow that halted takes nothing of the symbols before the tick that ends the halt (R225); one
that has left ARMED and serves earlier symbols only discards malformed input. -/
def flowPacket (s : State) (lport k stream : Nat) (tagged : Bool) (m : List Byte) (ts : Nat) : State :=
  let f := flowOf s k
  let e := ecpriOf m
  if !takesInput f || decide (f.state = 3) then noFlow s lport
  else match haltCause f.cfg tagged m with
    | some c => if f.state = 2 then haltFlow s k c ts e.first16 else noFlow s lport
    | none =>
      let s1 := updFlow s k fun x => noteSeq x stream e.seqId
      let sym := symbolNamed s.time f.cfg.scs e ts
      if f.cfg.kind = 2 then nbPacket (updFlow s1 k fun x => bump x 0 1) k e.seqId ts (nbOf m)
      else if sym < f.deadSym then noFlow s lport
      else stagePacket s1 k stream sym (sections f.cfg m).1 ts

/-- An eCPRI message (R213, R218). -/
def ecpriFrame (s : State) (lport : Nat) (vlan : Option Nat) (m : List Byte) (ts : Nat) : State :=
  let e := ecpriOf m
  if e.mtype = 2 then countPort s lport fun p => { p with cplane := p.cplane + 1 }
  else if e.mtype ≠ 0 then countPort s lport fun p => { p with other := p.other + 1 }
  else match findFlow s lport vlan e with
    | some (k, stream) => flowPacket s lport k stream vlan.isSome m ts
    | none =>
      if s.flows.any (fun f => takesInput f.2 && f.2.cfg.ports.getLsbD lport) then countPort s lport fun p => { p with unmatched := p.unmatched + 1 }
      else noFlow s lport

/-- A physical port. -/
def portOf (s : State) (p : Nat) : Port := Tab.get {} s.ports p

/-- A logical port. -/
def lportOf (s : State) (l : Nat) : LPort := Tab.get {} s.lports l

/-- Does a port mode give the sub-port a PHY (R210)? -/
def subPort (mode sub : Nat) : Bool := decide (mode = 3) || (decide (mode = 2) && decide (sub % 2 = 0)) || (decide (mode = 1) && decide (sub = 0))

/-- Can a logical port take a frame: its port's mode has the sub-port, and its link is up (R210)? -/
def hears (s : State) (l : Nat) : Bool := subPort (portOf s (l / 4)).mode (l % 4) && (lportOf s l).link

/-- The sink's timestamp of a frame that arrives now: device time, accurate to ±4 ns (R212). -/
def stamp (s : State) : Nat := (Int.ofNat (now s) + Int.ofNat (Config.stampError s.free % 9) - 4).toNat

/-- FRAME_RECEIVE (R211, R212). -/
def execFrameReceive (lport : Fin 32) (fcsOk : Bool) (f : Frame) (s : State) : Host.Outcome State Fault Refusal :=
  let l := lport.val
  let s1 := draw s
  if !hears s l || noClock s 1 then .next s
  else if !fcsOk then .next (countPort s l fun p => { p with fcs := p.fcs + 1 })
  else match f.body with
    | .ecpri m => .next (ecpriFrame s1 l f.vlan m (stamp s))
    | .ptp m => .next (ptpFrame s1 l (stamp s) m)
    | .esmc ql => .next (esmcFrame s l ql)
    | .pause | .other => .next (countPort s l fun p => { p with other := p.other + 1 })

/-! ### Links (R235, R275, R355) and parity errors (R411, R416) -/

/-- The flows that use a logical port and are not FREE. -/
def flowsOn (s : State) (lport : Nat) : List Nat := (s.flows.filter fun f => decide (f.2.state ≠ 0) && f.2.cfg.ports.getLsbD lport).map (·.1)

/-- A link that was up goes down: the port's flows get an event; NB packets in progress end LOST_INPUT; a selected SyncE clock is held. -/
def linkDown (s : State) (l : Nat) : State :=
  let s1 := countPort s l fun p => { p with link := false }
  let s2 := synceTo s1 fun t => { t with synceHold := t.synceHold || (t.synceExt && decide (t.syncePort = l)) }
  (flowsOn s l).foldl (fun st k =>
    let st1 := flowEvent st k 3 0 (now s) []
    if (flowOf st k).cfg.kind = 2 then lostFlow st1 k else st1) s2

/-- LINK_DOWN (R235, R275, R355). -/
def execLinkDown (lport : Fin 32) (s : State) : Host.Outcome State Fault Refusal :=
  .next (if (lportOf s lport.val).link then linkDown s lport.val else s)

/-- LINK_UP (R235). A port whose mode powers the sub-port down has no link. -/
def execLinkUp (lport : Fin 32) (s : State) : Host.Outcome State Fault Refusal :=
  let l := lport.val
  if !subPort (portOf s (l / 4)).mode (l % 4) || (lportOf s l).link then .next s
  else
    let s1 := countPort s l fun p => { p with link := true }
    let s2 := synceTo s1 fun t => { t with synceHold := t.synceHold && !decide (t.syncePort = l) }
    .next ((flowsOn s l).foldl (fun st k => flowEvent st k 4 0 (now s) []) s2)

/-- The lowest-numbered Ethernet port of a flow, as a unit (R414). -/
def flowUnit (c : FlowCfg) : Nat := 0x5000 + ((List.range 32).find? fun l => c.ports.getLsbD l).getD 0 / 4

/-- Sixteen FH_PARITY errors within one second degrade a port (R416). -/
def degradePort (s : State) (u : Nat) : State :=
  if decide (16 ≤ recentEnts s 0xA u (now s - 1000000000)) && decide ((unitOf s u).state = 0) then markUnit s u 1 0xA else s

/-- Does a symbol of key k wait to be released, converted or sent? -/
def symWaits (s : State) (sym k : Nat) : Bool :=
  let f := flowOf s k
  (decide (f.cfg.kind = 0) && decide (f.nextRel ≤ sym) && serves f sym) || (decide (f.cfg.kind = 1) && decide (f.nextSend ≤ sym) && serves f sym) ||
  s.released.any fun r => decide (r.flow = k) && decide (r.sym = sym)

/-- A datapath parity error at a symbol of key k: its PRBs are missing, or the DL symbol is sent late (R411). -/
def parityAt (sym : Nat) (s : State) (k : Nat) : State :=
  if symWaits s sym k then
    let s1 := updFlow s k fun f => { f with syms := Tab.upd {} f.syms sym fun x => { x with bad := true, done := none } }
    { s1 with released := s1.released.map fun r => if r.flow = k ∧ r.sym = sym then { r with prbs := [] } else r }
  else s

/-- FH_PARITY (R411, R416). -/
def execFhParity (flow : Fin 128) (sym : Nat) (s : State) : Host.Outcome State Fault Refusal :=
  let ks := (keysOf s flow.val).filter fun k => decide ((flowOf s k).state ≠ 0) || symWaits s sym k
  match ks with
  | [] => .next s
  | k :: _ =>
    let u := flowUnit (flowOf s k).cfg
    .next (ks.foldl (parityAt sym) (degradePort (logErr s 0xA 1 u 0 0 false) u))

end Sys2Proof.Machine
end

