-- ==== Sys2Proof/Machine/Egress.lean ====
section
/-!
DEFINITION. Grants (R229, R230, R239, R330), C-plane and U-plane egress (R53, R213, R215, R233, R234), and the fronthaul commands (R236).
-/
namespace Sys2Proof.Machine

/-! ### Grant rings -/

/-- Where unit i of a ring lies. -/
def unitAddr (r : Ring) (i : Word) : Nat := r.base + 32 * (i.toNat % 2 ^ r.lsize)

/-- Read one unit of a ring. -/
def readUnit (s : State) (r : Ring) (i : Word) : List Byte × State :=
  if r.inHost then (Memory.bytes s.hostMem (unitAddr r i) 32, s)
  else
    let got := readBytes s (unitAddr r i) 32
    (got.1, got.2.2.2)

/-- Read n units of a ring from its consumer index on, as words. -/
def readUnits (s : State) (r : Ring) (i : Word) : Nat → List Word × State
  | 0 => ([], s)
  | n + 1 =>
    let got := readUnit s r i
    let got2 := readUnits got.2 r (i + 1) n
    (leWords got.1 8 ++ got2.1, got2.2)

/-- The regions of a grant record's entries; a PRACH region takes two (R229). -/
def regionsOf : List (Word × Word) → List Region
  | [] => []
  | e :: r =>
    let k := fld e.1.toNat 31 28
    let base : Region := { kind := k, nprbr := fld e.1.toNat 24 16, sprb := fld e.1.toNat 8 0, ssym := fld e.2.toNat 31 28, nsym := fld e.2.toNat 27 24,
                           fidx := fld e.2.toNat 19 16, beam := fld e.2.toNat 14 0 }
    if k = 1 then
      match r with
      | x :: r2 =>
        { base with timeOffset := fld x.1.toNat 31 16, frameStruct := fld x.1.toNat 15 8, cpLength := fld x.2.toNat 31 16,
                    freqOff := fld x.2.toNat 15 0 * 256 + fld x.1.toNat 7 0 } :: regionsOf r2
      | [] => []
    else base :: regionsOf r

/-- Words two by two. -/
def wordPairs : List Word → List (Word × Word)
  | a :: b :: r => (a, b) :: wordPairs r
  | _ => []

/-- Units of a grant record (R325). -/
def grantUnits (hd : List Word) : Nat := 1 + ceilDiv (tf hd 1 15 0) 4

/-- The grid position of a record within the 256-frame cycle of frameId. -/
def recordPos (scs : Nat) (hd : List Word) : Nat :=
  let spf := slotsPerFrame scs
  tf hd 0 31 24 * spf + tf hd 0 23 20 * (spf / 10) + tf hd 0 17 12

/-- How a record stands to grid slot g: 0 the same slot, 1 a slot passed, 2 a later one. -/
def recordAge (scs g : Nat) (hd : List Word) : Nat :=
  let n := 256 * slotsPerFrame scs
  let d := (recordPos scs hd + n - g % n) % n
  if d = 0 then 0 else if n / 2 ≤ d then 1 else 2

/-- Consume n units of a host-written ring; its write-back carries the new c (R330). -/
def consume (s : State) (n units : Nat) : State :=
  ringNote (setRing s n { ringOf s n with c := (ringOf s n).c + w32 units }) n

/-- The grant of slot g from a ring: records of passed slots are discarded; a record of a later slot, or none, is no grant (R230). -/
def takeGrant (s : State) (n scs g : Nat) : Nat → Option (Nat × List Region) × State
  | 0 => (none, s)
  | fuel + 1 =>
    let r := ringOf s n
    if r.p = r.c then (none, s)
    else
      let got := readUnits s r r.c 1
      let hd := got.1
      let s1 := got.2
      let u := grantUnits hd
      if decide ((r.p - r.c).toNat < u) || decide (4096 < tf hd 1 15 0) then (none, s1)
      else match recordAge scs g hd with
        | 0 =>
          let got2 := readUnits s1 r r.c u
          let ws := got2.1
          let s2 := got2.2
          (some (dword (wordAt hd 2) (wordAt hd 3), regionsOf ((wordPairs (ws.drop 8)).take (tf hd 1 15 0))), consume s2 n u)
        | 1 => takeGrant (consume s1 n u) n scs g fuel
        | _ => (none, s1)

/-- The slot whose grant is read next. -/
def grantSlot (f : Flow) : Nat := match f.grants with | x :: _ => max (x.slot + 1) f.nextC | [] => f.nextC

/-- Keep a grant, the newest first, with those of the slots still being served. -/
def keepGrant (f : Flow) (x : Grant) : Flow := { f with grants := x :: f.grants.take 31 }

/-- A grant that was not there at T_g (R230). -/
def lateGrant (s : State) (k g : Nat) : State :=
  flowEvent (updFlow s k fun f => bump (keepGrant f { slot := g, late := true, cparm := 0, regions := [] }) 9 1) k 2 0 (now s) []

/-- The chain parameter block at an address of the context's HBM ranges: its header, then the UE, CORESET and DCI entries it counts (R239);
empty where the record names none. -/
def readBlock (s : State) (ctx a : Nat) : List Byte × State :=
  if decide (a % 64 = 0) && inHbm (ctxOf s ctx) a 32 then
    let got := readBytes s a 32
    let hd := leWords got.1 8
    let n := 32 * (tf hd 1 8 0 + tf hd 4 13 12 + tf hd 4 5 0)
    if inHbm (ctxOf s ctx) a (32 + n) then
      let rest := readBytes got.2.2.2 (a + 32) n
      (got.1 ++ rest.1, rest.2.2.2)
    else (got.1, got.2.2.2)
  else ([], s)

/-- Do a block's frame, subframe or slot differ from the grant record's (R239)? -/
def blockLate (scs g : Nat) (blk : List Byte) : Bool := decide (recordAge scs g (leWords blk 8) ≠ 0)

/-- The grant of a flow's next slot is read with the chain parameter block it names (R230, R239). A host-memory ring finds nothing new while Bus
Master Enable is 0 (R312); a read that fails takes no record and is a late error (R330). -/
def readGrant (s : State) (k g : Nat) : State :=
  let f := flowOf s k
  let r := ringOf s f.cfg.grring
  if ringHeld s r then lateGrant s k g
  else if r.inHost && Config.hostReadFails s.free then lateGrant (leqPut (draw s) 5 f.cfg.grring 0 (unitAddr r r.c) 0) k g
  else
    let got := takeGrant (draw s) f.cfg.grring f.cfg.scs g (r.p - r.c).toNat
    match got.1 with
    | some x =>
      let blk := readBlock got.2 f.cfg.ctx x.1
      updFlow blk.2 k fun y =>
        keepGrant y { slot := g, late := false, cparm := x.1, regions := x.2, block := blk.1, cpLate := blockLate f.cfg.scs g blk.1 }
    | none => lateGrant got.2 k g

/-- Does the flow run in slot g: armed or halted from its arming on, earlier slots after it has left? -/
def runsSlot (f : Flow) (g : Nat) : Bool := serves f (14 * g)

/-- The C-plane send time of slot g (R233). -/
def cplaneTime (t : Time) (f : Flow) (g : Nat) : Nat := slotStart t f.cfg.scs g - f.cfg.tcp

/-- The first configuration of a flow that something is due for. -/
def dueKey (s : State) (k : Nat) (due : Nat → Bool) : Option Nat := (keysOf s k).find? due

/-- Is the grant of key k's next slot to be read: 20 µs before the C-plane send time? -/
def grantDue (s : State) (k : Nat) : Bool :=
  let f := flowOf s k
  decide (f.cfg.kind ≤ 1) && runsSlot f (grantSlot f) && decide (cplaneTime s.time f (grantSlot f) ≤ now s + 20000)

/-- GRANT_READ: 20 µs before the C-plane send time Nerzon reads the grant record and the block it names. -/
def execGrantRead (flow : Fin 128) (s : State) : Host.Outcome State Fault Refusal :=
  match (if decide (s.sts.state = 3) && !noClock s 2 then dueKey s flow.val (grantDue s) else none) with
  | some k => .next (readGrant s k (grantSlot (flowOf s k)))
  | none => .next s

/-! ### C-plane (R215, R233) -/

/-- The next sequence number of a stream and plane: 0 U-plane, 1 C-plane (R213). -/
def takeSeq (s : State) (k stream plane : Nat) : Nat × State :=
  let n := Tab.get 0 (flowOf s k).txSeqs (2 * stream + plane)
  (n, updFlow s k fun f => { f with txSeqs := Tab.put 0 f.txSeqs (2 * stream + plane) ((n + 1) % 256) })

/-- The beam of a section: the region's for category B, else 0. -/
def beamOf (c : FlowCfg) (r : Region) : Nat := if c.catB then r.beam else 0

/-- Send an eCPRI message of a stream of a flow. -/
def sendEcpri (s : State) (k stream mtype seq : Nat) (body : List Byte) : State :=
  let c := (flowOf s k).cfg
  let e := c.eaxc.getD stream (none, 0)
  emit s (.ecpri (k % 128) stream c.ports c.mac e.1 (ecpriMessage mtype e.2 seq body))

/-- A section type 1 that covers a region, or with no index every PRB of symbols 0 to 13. -/
def sendType1 (k g : Nat) (s : State) (stream : Nat) (ix : Option Nat) (r : Region) : State :=
  let c := (flowOf s k).cfg
  let q := takeSeq s k stream 1
  let id := match ix with | some i => i | none => (Config.wholeSection (k % 128) g).toNat
  sendEcpri q.2 k stream 2 q.1 (cplane1Body c.kind c.w (frameOf c.scs g) (subframeOf c.scs g) (slotIdOf c.scs g) r.ssym id r.sprb
    (prbCount c.nprb r.sprb r.nprbr) r.nsym (beamOf c r))

/-- A section type 3 for a PRACH region. -/
def sendType3 (k g : Nat) (s : State) (stream ix : Nat) (r : Region) : State :=
  let c := (flowOf s k).cfg
  let q := takeSeq s k stream 1
  sendEcpri q.2 k stream 2 q.1 (cplane3Body c.w (frameOf c.scs g) (subframeOf c.scs g) (slotIdOf c.scs g) r.fidx r.ssym ix r.sprb
    (prbCount c.nprb r.sprb r.nprbr) r.nsym (beamOf c r) r.timeOffset r.frameStruct r.cpLength r.freqOff)

/-- The whole carrier: startPrbc 0, numPrbc 0, symbols 0 to 13. -/
def wholeRegion : Region := { kind := 0, nprbr := 0, sprb := 0, ssym := 0, nsym := 14, fidx := 0, beam := 0 }

/-- The regions of a grant with their indices. -/
def indexed (gr : Grant) : List (Nat × Region) := (List.range gr.regions.length).zip gr.regions

/-- The C-plane of one stream in a slot (R233). -/
def sendCplane (k g : Nat) (gr : Grant) (s : State) (stream : Nat) : State :=
  if (flowOf s k).cfg.kind = 0 then
    (indexed gr).foldl (fun st e => if e.2.kind = 1 then sendType3 k g st stream e.1 e.2 else st) (sendType1 k g s stream none wholeRegion)
  else (indexed gr).foldl (fun st e => if e.2.kind = 0 then sendType1 k g st stream (some e.1) e.2 else st) s

/-- Is key k's C-plane to leave: t_cp ahead of symbol 0 of its next slot, whose grant has been read (R233)? -/
def cplaneDue (s : State) (k : Nat) : Bool :=
  let f := flowOf s k
  (grantOf f f.nextC).isSome && decide (f.cfg.kind ≤ 1) && runsSlot f f.nextC && decide (cplaneTime s.time f f.nextC ≤ now s)

/-- The C-plane of key k's next slot leaves; a DL flow without a grant sends none (R230). -/
def sendSlot (s : State) (k : Nat) : State :=
  let f := flowOf s k
  let s1 := match grantOf f f.nextC with
    | some gr => if f.cfg.kind = 1 ∧ gr.late = true then s else (List.range (nStreams f.cfg)).foldl (sendCplane k f.nextC gr) s
    | none => s
  updFlow s1 k fun x => { x with nextC := f.nextC + 1 }

/-- CPLANE_SEND (R233). -/
def execCplaneSend (flow : Fin 128) (s : State) : Host.Outcome State Fault Refusal :=
  match (if noClock s 1 then none else dueKey s flow.val (cplaneDue s)) with
  | some k => .next (sendSlot s k)
  | none => .next s

/-! ### U-plane (R53, R234) -/

/-- The 24 decompressed values per antenna of one PRB of a group in an egress buffer: u := q << x, then H_N (R53); none where miss is 1. -/
def egressPrb (c : FlowCfg) (elems : List Byte) (xb : Byte) : Option (List (List Int)) :=
  if xb.getLsbD 7 then none
  else
    let n := if c.nq8 then 8 else 4
    let q (sc j : Nat) : Int := shl (sgn (packedElem elems n (sc * 2 * c.n + j)) n) (xb.toNat % 64)
    let comp (i : Nat) : List Int := rotate c.rot ((List.range c.n).map fun k => q (i / 2) (2 * k + i % 2))
    some ((List.range 24).map comp)

/-- BFP compression of the 24 values of one antenna: exponent, mantissas, mantissas clamped (R39, R53). -/
def bfpPrb (w : Nat) (vs : List Int) : PrbData × Nat :=
  let lo : Int := -(Int.ofNat (2 ^ (w - 1)))
  let hi : Int := Int.ofNat (2 ^ (w - 1)) - 1
  let e := chooseExp vs lo hi 0 15
  ({ exp := e, man := vs.map fun v => clamp (asr v e) lo hi }, (vs.filter fun v => decide (clamp (asr v e) lo hi ≠ asr v e)).length)

/-- A PRB with exponent 0 and zero mantissas. -/
def zeroPrb : PrbData := { exp := 0, man := List.replicate 24 0 }

/-- PRB p of rotation group g read from an egress buffer. -/
def readPrb (s : State) (c : FlowCfg) (base g p : Nat) : Option (List (List Int)) × State :=
  let a := base + 64 + g * (elemPlane c + expPlane c)
  let rowb := (if c.nq8 then 2 else 1) * c.n
  let got := readBytes s (a + p * 12 * rowb) (12 * rowb)
  let el := got.1
  let s1 := got.2.2.2
  let got2 := readBytes s1 (a + elemPlane c + p) 1
  let xb := got2.1
  let s2 := got2.2.2.2
  (egressPrb c el (xb.getD 0 0), s2)

/-- The BFP data of PRBs of one stream, and the mantissas clamped. -/
def readPrbs (s : State) (c : FlowCfg) (base stream : Nat) : List Nat → List PrbData × Nat × State
  | [] => ([], 0, s)
  | p :: ps =>
    let got := readPrb s c base (stream / c.n) p
    let x := got.1
    let s1 := got.2
    let prb : PrbData × Nat := match x with
      | none => (zeroPrb, 0)
      | some us => bfpPrb c.w (us.map fun u => u.getD (stream % c.n) 0)
    let got2 := readPrbs s1 c base stream ps
    let ds := got2.1
    let m := got2.2.1
    let s2 := got2.2.2
    (prb.1 :: ds, prb.2 + m, s2)

/-- PRBs a packet can carry: the payload limit less the application and section headers (R234), and no more than a section can count. -/
def prbsPerPacket (s : State) (c : FlowCfg) : Nat :=
  let lim := ((List.range 32).filter fun l => c.ports.getLsbD l).foldl (fun m l => min m (portOf s (l / 4)).plim) 9000
  let room := (lim - 4 - 4 - sectionHead c.udhdr) / (1 + 3 * c.w)
  max 1 (if room < c.nprb then min room 255 else room)

/-- Send PRBs from `start` in packets of at most n. -/
def sendPackets (k stream g sym ix n : Nat) (s : State) (start : Nat) (ps : List PrbData) : Nat → State
  | 0 => s
  | fuel + 1 =>
    if ps.isEmpty then s
    else
      let c := (flowOf s k).cfg
      let q := takeSeq s k stream 0
      let s1 := sendEcpri q.2 k stream 0 q.1 (uplaneBody c.w c.udhdr (frameOf c.scs g) (subframeOf c.scs g) (slotIdOf c.scs g) sym ix start
        (prbCount c.nprb start (ps.take n).length) (ps.take n))
      sendPackets k stream g sym ix n s1 (start + n) (ps.drop n) fuel

/-- Send one section of one stream: the symbol's data, or zeros when it is late. -/
def sendSection (k sym base : Nat) (late : Bool) (ix : Nat) (r : Region) (s : State) (stream : Nat) : State :=
  let c := (flowOf s k).cfg
  let prbs := (List.range r.nprbr).map (r.sprb + ·)
  let got := if late then (prbs.map fun _ => zeroPrb, 0, s) else readPrbs s c base stream prbs
  let ds := got.1
  let clamped := got.2.1
  let s1 := got.2.2
  let s2 := if clamped = 0 then s1 else updFlow s1 k fun f => bump f 8 clamped
  sendPackets k stream (sym / 14) (sym % 14) ix (prbsPerPacket s c) s2 r.sprb ds (ds.length + 1)

/-- Send the sections of a symbol (R234). -/
def sendSymbol (s : State) (k sym : Nat) (gr : Grant) (late : Bool) : State :=
  let f := flowOf s k
  let base := f.cfg.er + bufOf f sym * flowBuf f.cfg
  let rs := (indexed gr).filter fun e => decide (e.2.kind = 0) && decide (e.2.ssym ≤ sym % 14) && decide (sym % 14 < e.2.ssym + e.2.nsym)
  (List.range (nStreams f.cfg)).foldl (fun st stream => rs.foldl (fun st2 e => sendSection k sym base late e.1 e.2 st2 stream) st) s

/-- Is key k's next symbol to be sent: the air start of the symbol minus t_adv has come (R234)? -/
def uplaneDue (s : State) (k : Nat) : Bool :=
  let f := flowOf s k
  decide (f.cfg.kind = 1) && serves f f.nextSend && decide (airStart s.time f.cfg.scs f.nextSend ≤ now s + f.cfg.tadv)

/-- The next symbol of key k has been sent or passed over. -/
def stepSend (s : State) (k : Nat) : State :=
  updFlow s k fun x => { x with nextSend := nextAfter x x.nextSend, syms := Tab.put {} x.syms x.nextSend {} }

/-- A symbol that is late: its sections go out with zeros, and it is counted. -/
def sendLate (s : State) (k : Nat) (gr : Grant) : State := updFlow (sendSymbol s k (flowOf s k).nextSend gr true) k fun x => bump x 7 1

/-- Key k's next symbol is sent; without a grant for its slot nothing is (R230, R234). -/
def sendNext (s : State) (k : Nat) : State :=
  let f := flowOf s k
  match (grantOf f (f.nextSend / 14)).filter fun x => !x.late with
  | none => stepSend s k
  | some gr =>
    if (Tab.get {} f.syms f.nextSend).bad then stepSend (sendLate s k gr) k
    else
      let got := cairnTry s f.cfg.cairn f.cfg.ctx
      if got.1 = 0 then stepSend (sendSymbol got.2 k f.nextSend gr false) k else stepSend (sendLate got.2 k gr) k

/-- UPLANE_SEND (R234). -/
def execUplaneSend (flow : Fin 128) (s : State) : Host.Outcome State Fault Refusal :=
  match (if noClock s 1 then none else dueKey s flow.val (uplaneDue s)) with
  | some k => .next (sendNext s k)
  | none => .next s

/-! ### Commands (R236) -/

/-- Does an armed or halted flow use the physical port? -/
def portInUse (s : State) (p : Nat) : Bool :=
  s.flows.any fun f => (decide (f.2.state = 2) || decide (f.2.state = 3)) && (List.range 4).any fun q => f.2.cfg.ports.getLsbD (4 * p + q)

/-- FH_PORT_SET. A new mode is another PHY: the links of the port go down (R210, R235). -/
def execFhPortSet (pair : Fin 176) (s : State) : Host.Outcome State Fault Refusal :=
  withNci 0x0300 [0x337, 0xFFFF, 0xFFFFFFFF, 0xFFFF, 0xFFFFFFFF, 0xFFFF, 0xFFFFFFFF, 0xFFFF, 0xFFFFFFFF, 0xFFFF] pair s fun ws st =>
    let p := tf ws 1 2 0
    let mode := tf ws 1 5 4
    let x : Port := { mode := mode, fec := tf ws 1 9 8, plim := tf ws 2 15 0,
                      macs := (List.range 4).foldl (fun t i => Tab.put 0 t i (BitVec.ofNat 64 (dword (wordAt ws (3 + 2 * i)) (wordAt ws (4 + 2 * i))))) [] }
    { bad := decide (tf ws 1 9 8 = 3) || decide (tf ws 2 15 0 < 1500) || decide (9000 < tf ws 2 15 0), busy := portInUse st p
      st := (List.range 4).foldl (fun st2 q => if (lportOf st2 (4 * p + q)).link && decide (mode ≠ (portOf st p).mode) then linkDown st2 (4 * p + q) else st2)
              { st with ports := Tab.put {} st.ports p x } }

/-- The speed code of a port mode. -/
def speedCode (mode : Nat) : Nat := if mode = 1 then 3 else if mode = 2 then 2 else if mode = 3 then 1 else 0

/-- FH_PORT_STATUS. -/
def execFhPortStatus (pair : Fin 176) (s : State) : Host.Outcome State Fault Refusal :=
  withNci 0x0301 [0x1F] pair s fun ws st =>
    let l := tf ws 1 4 0
    let x := Tab.get {} st.lports l
    { words := [mkWord [(b2n x.link, 31), (if x.link then speedCode (portOf st (l / 4)).mode else 0, 0)], x.noflow, x.fcs, x.other, x.cplane, x.unmatched], st := st }

/-- The eAxC table at an address: the radio unit's MAC and n entries (VLAN, eAxC ID). -/
def readEaxc (s : State) (a n : Nat) : Nat × List (Option Nat × Nat) × State :=
  let got := readBytes s a 8
  let hd := got.1
  let s1 := got.2.2.2
  let got2 := readMemWords s1 (a + 8) n
  let ws := got2.1
  let s2 := got2.2.2
  (leNat (hd.take 6), ws.map fun w => (if w.getLsbD 31 then some (fld w.toNat 27 16) else none, fld w.toNat 15 0), s2)

/-- The configuration a FH_FLOW_SET carries, without its table. -/
def flowOfWords (ws : List Word) : FlowCfg :=
  { ctx := tf ws 1 13 8, kind := tf ws 1 1 0, ports := BitVec.ofNat 32 (wordAt ws 2), scs := tf ws 3 26 25, catB := decide (tf ws 3 24 24 = 1),
    w := if tf ws 3 23 20 = 0 then 16 else tf ws 3 23 20, udhdr := decide (tf ws 3 19 19 = 1), rot := decide (tf ws 3 18 18 = 1),
    n := 16 * 2 ^ tf ws 3 17 16, nq8 := decide (tf ws 3 15 15 = 1), fidx := tf ws 3 14 11, nprb := tf ws 3 8 0, eaxc := [], mac := 0,
    win := tf ws 7 17 0, lmax := tf ws 8 17 0, cairn := tf ws 9 31 16, depth := tf ws 9 7 0, er := taddr ws 10 11 7 0, tadv := tf ws 12 17 0,
    tcp := tf ws 13 17 0, evring := tf ws 14 29 16, grring := tf ws 14 13 0, thr := tf ws 15 7 0 }

/-- Does a ring exist for a context and direction? -/
def ringFits (s : State) (n ctx : Nat) (hostWrites : Bool) : Bool :=
  let r := ringOf s n
  r.isSet && decide (r.ctx = ctx) && decide (r.hostWrites = hostWrites)

/-- Do two ingest flows share an eAxC ID without different filterIndex values (R218)? An NB flow matches any filterIndex. -/
def eaxcOverlap (a b : FlowCfg) : Bool :=
  decide (a.kind ≠ 1) && decide (b.kind ≠ 1) && (decide (a.kind = 2) || decide (b.kind = 2) || decide (a.fidx = b.fidx)) &&
  a.eaxc.any fun e => b.eaxc.any fun x => decide (x.2 = e.2)

/-- Does a list name something twice? -/
def repeats : List (Option Nat × Nat) → Bool
  | [] => false
  | x :: xs => xs.contains x || repeats xs

/-- Does a flow's configuration break a field rule (R216, R221, R233, R236)? -/
def flowBad (s : State) (k : Nat) (c : FlowCfg) (gsize neaxc : Nat) : Bool :=
  decide (c.kind = 3) || decide (neaxc = 0) || decide (1024 < neaxc) || !(ctxOf s c.ctx).isSet || !ringFits s c.evring c.ctx false ||
  repeats c.eaxc || s.flows.any (fun f => decide (f.1 ≠ k) && decide (f.2.state ≠ 0) && eaxcOverlap c f.2.cfg) ||
  (if c.kind = 2 then decide (neaxc ≠ 1)
   else decide (c.scs = 3) || decide (c.w < 7) || decide (gsize = 3) || decide (c.nprb = 0) || decide (275 < c.nprb) || decide (neaxc % c.n ≠ 0) ||
        decide (c.depth < 2) || decide (28 < c.depth) || !ringFits s c.grring c.ctx true ||
        (if c.kind = 0 then decide (c.win < 1000) || decide (3 * tSym c.scs < c.win) || decide (200000 < c.lmax)
         else decide (c.tcp < c.tadv + 10000) || !ctxMay s c.ctx none c.er (c.depth * flowBuf c) true))

/-- The basin share of a flow (R223). -/
def basinShare (c : FlowCfg) : Nat :=
  if c.kind = 0 then
    roundUp (stagingSyms c * nStreams c * roundUp (c.nprb * (1 + 3 * c.w)) 64 + c.depth * flowBuf c + 1024) 4096
  else 0

/-- The places in the basin's 24 MiB where a share fits beside those of the other flows. -/
def basinFits (s : State) (k size : Nat) : List Nat :=
  let others := s.flows.filter fun f => decide (f.1 ≠ k) && decide (f.2.share ≠ 0)
  (0 :: others.map fun f => f.2.basin + f.2.share).filter fun b =>
    decide (b + size ≤ 0x1800000) && others.all fun f => !overlaps b size f.2.basin f.2.share

/-- Are the stream limits of R216 exceeded? -/
def streamsOver (s : State) (k : Nat) (c : FlowCfg) : Bool :=
  let same := s.flows.filter fun f => decide (f.1 ≠ k) && decide (f.2.state ≠ 0) && decide (f.2.cfg.kind = c.kind)
  if c.kind = 2 then decide (16 ≤ same.length) else decide (1024 < same.foldl (fun n f => n + nStreams f.2.cfg) (nStreams c))

/-- FH_FLOW_SET. -/
def execFhFlowSet (pair : Fin 176) (s : State) : Host.Outcome State Fault Refusal :=
  withNci 0x0302 [0x007F3F03, 0xFFFFFFFF, 0x07FFF9FF, 0x7FF, 0xFFFFFFFF, 0xFF, 0x3FFFF, 0x3FFFF, 0xFFFF00FF, 0xFFFFFFFF, 0xFF, 0x3FFFF, 0x3FFFF, 0x3FFF3FFF, 0xFF] pair s fun ws st =>
    let k := tf ws 1 22 16
    let a := taddr ws 5 6 7 0
    let n := tf ws 4 10 0
    let okTab := mappedRange a (8 + 4 * n)
    let got := if okTab then readEaxc st a n else (0, [], st)
    let mac := got.1
    let es := got.2.1
    let st1 := got.2.2
    let c := { flowOfWords ws with mac := mac, eaxc := es }
    let f := flowOf st k
    let size := basinShare c
    let fits := basinFits st k size
    let base := if size = 0 then 0 else fits.getD (Config.basinPick st.free % fits.length) 0
    { bad := !okTab || flowBad st k c (tf ws 3 17 16) n
      ctxs := c.ctx :: (if f.state = 0 then [] else [f.cfg.ctx])
      busy := decide (f.state = 2) || decide (f.state = 3)
      nores := (decide (size ≠ 0) && fits.isEmpty) || streamsOver st k c
      words := if c.kind = 0 then [w32 (0x1200000000 + base), w32hi (0x1200000000 + base), w32 (flowBuf c)] else [0, 0, if c.kind = 1 then w32 (flowBuf c) else 0]
      st := updFlow (draw (setAside st1 k)) k fun _ => { state := 1, cfg := c, basin := base, share := size } }

/-- Is a time domain configured? -/
def timeConfigured (s : State) : Bool := decide (s.time.da.source ≠ 0) || decide (s.time.db.source ≠ 0)

/-- FH_FLOW_ARM. -/
def execFhFlowArm (pair : Fin 176) (s : State) : Host.Outcome State Fault Refusal :=
  withNci 0x0303 [0x7F] pair s fun ws st =>
    let k := tf ws 1 6 0
    let f := flowOf st k
    { bad := decide (f.state = 0), ctxs := [f.cfg.ctx], busy := decide (f.state = 2), denied := !timeConfigured st
      st := updFlow st k fun x => { x with pendState := some 2 } }

/-- FH_FLOW_STOP. -/
def execFhFlowStop (pair : Fin 176) (s : State) : Host.Outcome State Fault Refusal :=
  withNci 0x0304 [0x17F] pair s fun ws st =>
    let k := tf ws 1 6 0
    let f := flowOf st k
    let free := decide (tf ws 1 8 8 = 1)
    { bad := decide (f.state = 0), ctxs := [f.cfg.ctx], busy := free && (decide (f.state = 2) || decide (f.state = 3))
      st := if free then updFlow (setAside st k) k fun _ => {}
            else updFlow st k fun x => if x.state = 1 then { x with pendState := none } else { x with pendState := some 1 } }

/-- FH_FLOW_STATUS. -/
def execFhFlowStatus (pair : Fin 176) (s : State) : Host.Outcome State Fault Refusal :=
  withNci 0x0305 [0x7F] pair s fun ws st =>
    let f := flowOf st (tf ws 1 6 0)
    { ctxs := if f.state = 0 then [] else [f.cfg.ctx]
      words := mkWord [(f.cause, 24), (f.state, 0)] :: (List.range 10).map (fun i => Tab.get 0 f.cnt i), st := st }

/-! ### Slot ticks (R217, R235) -/

/-- The first slot from g on whose C-plane send time is at or after t. -/
def firstSend (tm : Time) (f : Flow) (t g : Nat) : Nat → Nat
  | 0 => g
  | n + 1 => if t ≤ cplaneTime tm f g then g else firstSend tm f t (g + 1) n

/-- A flow is armed at the tick that opens slot g at time t (R217, R225). -/
def armFlow (tm : Time) (t g : Nat) (f : Flow) : Flow :=
  let e := if f.state = 3 then some (14 * g) else f.endSym
  let prev := if f.state = 3 then f.armSym else f.armPrev
  let left := match e with | some x => decide (f.nextRel < x) && decide (prev ≤ f.nextRel) | none => false
  let c := firstSend tm f t g 4
  { f with state := 2, pendState := none, armSym := 14 * g, armPrev := prev, endSym := e, nextRel := if left then f.nextRel else 14 * g,
           deadSym := if f.state = 3 then 14 * g else f.deadSym,
           nextC := c, nextSend := 14 * c, grants := if f.state = 3 then f.grants else [] }

/-- A flow stops at the tick that opens slot g (R217). -/
def stopFlow (g : Nat) (f : Flow) : Flow :=
  { f with state := 1, pendState := none, endSym := some (14 * g), armPrev := f.armSym, deadSym := if f.state = 3 then 14 * g else f.deadSym }

/-- What a slot tick at time t does to a flow: a pending change takes effect, events may be written again. -/
def tickFlow (t : Nat) (s : State) (k : Nat) : State :=
  let f := flowOf s k
  let g := gridSlot s.time f.cfg.scs t
  match f.pendState with
  | some 2 => updFlow s k fun x => armFlow s.time t g { x with evMask := 0 }
  | some _ =>
    let s1 := if f.cfg.kind = 2 ∧ f.state = 2 then lostFlow s k else s
    updFlow s1 k fun x => stopFlow g { x with evMask := 0 }
  | none => updFlow s k fun x => { x with evMask := 0 }

/-- A slot tick at every flow. -/
def tickFlows (s : State) (t : Nat) : State := (s.flows.map (·.1)).foldl (tickFlow t) s

end Sys2Proof.Machine
end

