-- ==== Sys2Proof/Machine/Dec.lean ====
section
/-!
DEFINITION. The DEC block (chapter 09): submission, HARQ combining, boxwork decoding, encoding, transport block records, and the chain
and decoder commands.
-/
namespace Sys2Proof.Machine

/-- DEC_SUBMIT: a chamber writes the high word of its context's DEC_SUBMIT, with the low word it staged (R21, R271). A full queue, or a
window the context does not have, is a bus error. -/
def execDecSubmit (ch : Fin 144) (hi : Word) (s : State) : Host.Outcome State Fault Refusal :=
  let a := 0x1806000000 + 0x1000 * (coreOf s ch.val).ctx + 4
  .next (if noClock s 1 then s else chmWrote ch a (if csrGranted s ch.val a then csrWrite s (.chamber ch) a hi else .bus s))

/-! ### Choosing a task (R248) -/

/-- Does a running DECODE task name the HARQ buffer? -/
def harqBusy (s : State) (a : Nat) : Bool :=
  s.dec.run.any fun e => match e.2 with | some r => decide (tf r.task.words 0 31 28 = 1) && decide (harqOf r.task = a) | none => false

/-- May queue entry i start: no running task and no earlier queued one names its HARQ buffer? -/
def canStart (s : State) (i : Nat) (t : Task) : Bool :=
  decide (tf t.words 0 31 28 = 2) ||
  (!harqBusy s (harqOf t) && !(s.dec.queue.take i).any fun q => decide (tf q.words 0 31 28 = 1) && decide (harqOf q = harqOf t))

/-- The earlier deadline of two queue entries, the first on a tie. -/
def earlier (b : Option (Nat × Task)) (e : Nat × Task) : Option (Nat × Task) :=
  match b with
  | some x => if e.2.deadline < x.2.deadline then some e else some x
  | none => some e

/-- The queued task of kind `op` that starts next: the earliest job deadline, ties in submission order. -/
def nextTask (s : State) (op : Nat) : Option (Nat × Task) :=
  (((List.range s.dec.queue.length).zip s.dec.queue).filter fun e => decide (tf e.2.words 0 31 28 = op) && canStart s e.1 e.2).foldl earlier none

/-- The first unit in service among n from `lo` whose place at distance `at_` is free. -/
def freePlace (s : State) (lo n at_ : Nat) : Option Nat :=
  (((List.range n).map (lo + ·)).find? fun u => (Tab.get none s.dec.run (u + at_)).isNone && decide ((unitOf s (decUnit u)).state ≤ 1)).map (· + at_)

/-- Where the next DECODE task runs: the first free combiner and decoder pair; with none, the first pair whose combiner is free while its
decoder decodes the task before (R248, R256). -/
def freePair (s : State) : Option Nat :=
  match freePlace s 0 16 0 with
  | some u => some u
  | none => freePlace s 0 16 32

/-- Take queue entry i onto unit u. -/
def runTask (s : State) (i u : Nat) (r : RunTask) : State :=
  { s with dec := { s.dec with queue := s.dec.queue.eraseIdx i, run := Tab.put none s.dec.run u (some r) } }

/-! ### HARQ combining (R250, R251) -/

/-- Is circular buffer position j a filler position (R250)? -/
def isFiller (kp k zc j : Nat) : Bool := decide (kp ≤ j + 2 * zc) && decide (j + 2 * zc < k)

/-- The non-filler positions from k0 on, modulo ncb (R250). -/
def bufferWalk (k0 ncb kp k zc : Nat) : List Nat := ((List.range ncb).map fun i => (k0 + i) % ncb).filter fun j => !isFiller kp k zc j

/-- The position in the rate-matched sequence of soft bit t: the bit interleaver undone (R250). -/
def deinterleave (e qm t : Nat) : Nat := t % qm * (e / qm) + t / qm

/-- A soft bit of a codeblock buffer: the code 0b1000 reads as −7 (R54, R55). -/
def softValue (n : Nat) : Int := if n = 8 then -7 else sgn n 4

/-- The 16 soft bits of a word; a word marked POISON gives zeros (R251). -/
def softWord (w : RdWord) : List Int :=
  (List.range 16).map fun i => if w.flags.poison then 0 else softValue (packedElem w.data 4 i)

/-- Read soft bits by words: the values and whether any word was POISON. -/
def readSoft (s : State) (a : Nat) : Nat → List Int × Bool × State
  | 0 => ([], false, s)
  | n + 1 =>
    let got := readWord s a
    let w := got.1
    let s1 := got.2
    let got2 := readSoft s1 (a + 8) n
    let xs := got2.1
    let p := got2.2.1
    let s2 := got2.2.2
    (softWord w ++ xs, w.flags.poison || p, s2)

/-- Read HARQ values by words. -/
def readHarq (s : State) (a : Nat) : Nat → List Int × Bool × State
  | 0 => ([], false, s)
  | n + 1 =>
    let got := readWord s a
    let w := got.1
    let s1 := got.2
    let got2 := readHarq s1 (a + 8) n
    let xs := got2.1
    let p := got2.2.1
    let s2 := got2.2.2
    ((w.data.map fun b => if w.flags.poison then 0 else b.toInt) ++ xs, w.flags.poison || p, s2)

/-- The sum of the soft bits mapped to each position, in the unit of u (R251). -/
def softSums (walk : List Nat) (e qm : Nat) (d : Int) (qs : List Int) : Tab Int :=
  ((List.range e).zip qs).foldl (fun t x =>
    match walk[deinterleave e qm x.1 % walk.length]? with
    | some j => Tab.upd 0 t j (· + scaleBy x.2 d)
    | none => t) []

/-- The combination: new values and new scale (R251). -/
def combine (ncb : Nat) (b : List Int) (h s : Nat) (walk : List Nat) (e qm : Nat) (qs : List Int) : List Int × Nat :=
  let u := max (min (Int.ofNat h) (Int.ofNat s)) (max (Int.ofNat h) (Int.ofNat s) - 16)
  let sums := softSums walk e qm (Int.ofNat s - u) qs
  let c := (List.range ncb).map fun j => scaleBy (b.getD j 0) (Int.ofNat h - u) + Tab.get 0 sums j
  let k := chooseExp c (-127) 127 0 31
  (c.map fun x => clamp (asr x k) (-127) 127, (min (u + Int.ofNat k) 254).toNat)

/-- K of a codeblock: information positions of the base graph. -/
def infoBits (ws : List Word) : Nat := tf ws 3 15 0 + tf ws 3 31 16

/-- The offset table in force for a context and base graph (R254). -/
def offsetTable (s : State) (ctx : Nat) (bg2 : Bool) : List Byte :=
  match Tab.get [] (ctxOf s ctx).offs (b2n bg2) with
  | [] => Config.defaultOffsets bg2
  | t => t

/-- The combiner's part of a DECODE task (R251, R36): the HARQ buffer is read, found valid or not, and rewritten with valid = 0. -/
def combineTask (s : State) (t : Task) : RunTask × State :=
  let ws := t.words
  let e := tf ws 2 23 0
  let ncb := tf ws 4 15 0
  let sc := tf ws 1 31 24
  let hb := harqOf t
  let got := readSoft s (taddr ws 5 6 7 0) (ceilDiv e 16)
  let qs := got.1
  let p1 := got.2.1
  let s1 := got.2.2
  let got2 := readMemWords s1 hb 2
  let hd := got2.1
  let s2 := got2.2.2
  let valid := decide (tf hd 0 31 31 = 1)
  let flush := decide (tf ws 0 25 25 = 1)
  let keep := valid && !flush
  let got3 := if keep then readHarq s2 (hb + 64) (ceilDiv ncb 8) else ([], false, s2)
  let b := got3.1
  let p2 := got3.2.1
  let s3 := got3.2.2
  let walk := bufferWalk (tf ws 4 31 16) ncb (tf ws 3 15 0) (infoBits ws) (tf ws 1 8 0)
  let zs := if sc = 255 then qs.map fun _ => 0 else qs
  let (vals, h) := combine ncb b (if keep then tf hd 0 23 16 else sc) sc walk e (tf ws 0 19 16) zs
  ({ task := t, vals := vals, h := h, poison := p1 || p2, harqReset := !valid && !flush, ntx := if keep then min 0xFFFF (tf hd 1 15 0 + 1) else 1,
     offs := offsetTable s t.ctx (decide (tf ws 0 26 26 = 1)) },
   writeMem (harqInvalid s3 hb) (hb + 64) (vals.map fun x => BitVec.ofInt 8 x) noFlags)

/-- DECODE_TASK_START (R248): the task of the earliest job deadline starts on the first free combiner and decoder pair; a task behind
one that decodes is combined, and decodes after it (R256). -/
def execDecodeTaskStart (s : State) : Host.Outcome State Fault Refusal :=
  match (if noClock s 1 then none else nextTask s 1), freePair s with
  | some (i, t), some u =>
    let got := combineTask s t
    let r := got.1
    let s1 := got.2
    .next (runTask s1 i u r)
  | _, _ => .next s

/-! ### Boxwork decoding (R252 to R255) -/

/-- The offset of an iteration and a check-row degree (R254). -/
def offsetOf (tab : List Byte) (iter deg : Nat) : Int :=
  let c := if deg ≤ 4 then 0 else if deg ≤ 7 then 1 else if deg ≤ 10 then 2 else 3
  Int.ofNat (fld (leNat ((tab.drop (32 + 2 * iter)).take 2)) (4 * c + 3) (4 * c))

/-- Rows of a base graph. -/
def baseRows (bg2 : Bool) : Nat := if bg2 then 42 else 46

/-- Lifted columns of a base graph: the punctured 2 Zc and N. -/
def liftedCols (bg2 : Bool) (zc : Nat) : Nat := (if bg2 then 52 else 68) * zc

/-- The variables of lifted row z of base row r. -/
def rowVars (bg2 : Bool) (zc r z : Nat) : List Nat := (Config.baseRow bg2 zc r).map fun e => e.1 * zc + (z + e.2) % zc

/-- The input posterior of variable n (R252). -/
def posterior (r : RunTask) (dexp n : Nat) : Int :=
  let ws := r.task.words
  let zc := tf ws 1 8 0
  if n < 2 * zc then 0
  else if tf ws 3 15 0 ≤ n ∧ n < infoBits ws then 63
  else if tf ws 4 15 0 ≤ n - 2 * zc then 0
  else clamp (scaleBy (r.vals.getD (n - 2 * zc) 0) (Int.ofNat r.h - Int.ofNat dexp)) (-63) 63

/-- Posteriors and check-to-variable messages; a message's key is (base row × 384 + lifted row) × 128 + its place in the row. -/
structure DecSt where
  p : Tab Int
  cm : Tab Int

/-- The new message to place i of a row (R253). -/
def checkMsg (qq : List Int) (off : Int) (i : Nat) : Int :=
  let others := qq.eraseIdx i
  let mag := max (others.foldl (fun m q => min m (Int.ofNat q.natAbs)) 7 - off) 0
  if (others.filter fun q => decide (q < 0)).length % 2 = 1 then -mag else mag

/-- One lifted row (R253). -/
def decodeRow (bg2 : Bool) (zc : Nat) (tab : List Byte) (iter r : Nat) (d : DecSt) (z : Nat) : DecSt :=
  let vars := rowVars bg2 zc r z
  let key (i : Nat) : Nat := (r * 384 + z) * 128 + i
  let ixs := (List.range vars.length).zip vars
  let qv := ixs.map fun x => Tab.get 0 d.p x.2 - shl (Tab.get 0 d.cm (key x.1)) 2
  let qq := qv.map fun v => clamp (asr v 2) (-7) 7
  let off := offsetOf tab iter vars.length
  ixs.foldl (fun st x =>
    let c := checkMsg qq off x.1
    { p := Tab.put 0 st.p x.2 (clamp (qv.getD x.1 0 + shl c 2) (-63) 63), cm := Tab.put 0 st.cm (key x.1) c }) d

/-- One iteration: one pass over all rows in ascending order (R253). -/
def decodePass (bg2 : Bool) (zc : Nat) (tab : List Byte) (iter : Nat) (d : DecSt) : DecSt :=
  (List.range (baseRows bg2)).foldl (fun st r => (List.range zc).foldl (decodeRow bg2 zc tab iter r) st) d

/-- The hard bit of variable n (R255). -/
def hardOf (d : DecSt) (n : Nat) : Bool := decide (Tab.get 0 d.p n < 0)

/-- Is every parity check of the lifted graph satisfied (R255)? -/
def satisfied (bg2 : Bool) (zc : Nat) (d : DecSt) : Bool :=
  (List.range (baseRows bg2)).all fun r => (List.range zc).all fun z => (rowVars bg2 zc r z).foldl (fun x n => x != hardOf d n) false == false

/-- Iterate until every check is satisfied, or the fuel of imax iterations ends: the iterations run and the result. -/
def iterateDec (bg2 : Bool) (zc : Nat) (tab : List Byte) : Nat → Nat → DecSt → Nat × DecSt
  | i, 0, d => (i, d)
  | i, fuel + 1, d =>
    let d1 := decodePass bg2 zc tab i d
    if satisfied bg2 zc d1 then (i + 1, d1) else iterateDec bg2 zc tab (i + 1) fuel d1

/-- Decode a combined task: iterations, and the K′ information bits. -/
def decodeTask (r : RunTask) : Nat × List Bool :=
  let ws := r.task.words
  let bg2 := decide (tf ws 0 26 26 = 1)
  let zc := tf ws 1 8 0
  let tab := r.offs
  let p0 := (List.range (liftedCols bg2 zc)).filterMap fun n =>
    let v := posterior r (tab.getD 3 0#8).toNat n
    if v = 0 then none else some (n, v)
  let (i, d) := iterateDec bg2 zc tab 0 (tf ws 0 24 20) { p := p0, cm := [] }
  (i, (List.range (tf ws 3 15 0)).map (hardOf d))

/-! ### Bit streams and transport block records (R247, R255, R257) -/

/-- The first n bits of a stream at a byte address (R247). -/
def readBits (s : State) (a n : Nat) : List Bool × State :=
  let got := readBytes s a (ceilDiv n 8)
  let bs := got.1
  let s1 := got.2.2.2
  ((bytesBits bs).take n, s1)

/-- Write a bit stream from a byte and bit offset; partial bytes at either end are read and rewritten (R247, R255). -/
def writeBits (s : State) (a obit : Nat) (bits : List Bool) : State :=
  if bits.isEmpty then s
  else
    let n := obit + bits.length
    let hd := if obit = 0 then ([], noFlags, false, s) else readBytes s a 1
    let tl := if n % 8 = 0 then ([], noFlags, false, hd.2.2.2) else readBytes hd.2.2.2 (a + n / 8) 1
    writeMem tl.2.2.2 a (bytesOfBits false ((bytesBits hd.1).take obit ++ bits ++ (bytesBits tl.1).drop (n % 8)) (ceilDiv n 8)) noFlags

/-- CRC24A, CRC24B and CRC16 of 3GPP TS 38.212 (R237). -/
def crc24a : List Bool → Nat := crcBits 24 0x864CFB
def crc24b : List Bool → Nat := crcBits 24 0x800063
def crc16 : List Bool → Nat := crcBits 16 0x1021

/-- Does a transport block with its CRC pass (R257)? -/
def tbPasses (sixteen : Bool) (bits : List Bool) : Bool := decide ((if sixteen then crc16 bits else crc24a bits) = 0)

/-- Write one word of a record. -/
def writeWord32 (s : State) (a : Nat) (w : Word) : State := writeMem s a (wordBytes [w]) noFlags

/-- Every codeblock has ended: the transport block CRC is checked and the record's cairn signalled (R257). `w5` is word 5 so far. -/
def finishBlock (s : State) (ctx tbr : Nat) (ws : List Word) (w5 : Nat) : State :=
  let got := readBits s (wordAt ws 2 + 2 ^ 32 * tf ws 3 7 0) (wordAt ws 1)
  let bits := got.1
  let s1 := got.2
  let okay := tbPasses (decide (tf ws 3 16 16 = 1)) bits
  let s2 := writeWord32 s1 (tbr + 20) (w32 (2 ^ 31 + b2n okay * 2 ^ 30 + w5 % 2 ^ 30))
  cairnSignalFor s2 ctx (tf ws 4 31 16) 1

/-- Word 5 of the record after one more task: poison and harq_reset stick, the most and the fewest iterations (R257). -/
def recordWord5 (old ndone iters : Nat) (poison harqReset : Bool) : Nat :=
  b2n (bitAt old 31) * 2 ^ 31 + b2n (bitAt old 30) * 2 ^ 30 + b2n (bitAt old 29 || poison) * 2 ^ 29 + b2n (bitAt old 28 || harqReset) * 2 ^ 28 +
  (if ndone = 0 then iters else max (fld old 15 8) iters) * 2 ^ 8 + (if ndone = 0 then iters else min (fld old 7 0) iters)

/-- Update the transport block record with a task's result (R255, R257). `ws` are the record's eight words as read. -/
def updateRecord (s : State) (r : RunTask) (iters : Nat) (passed : Bool) (tbr : Nat) (ws : List Word) : State :=
  let cbi := tf r.task.words 10 15 0
  let ndone := (tf ws 0 15 0 + 1) % 2 ^ 16
  let w5 := recordWord5 (wordAt ws 5) (tf ws 0 15 0) iters r.poison r.harqReset
  let s1 := writeMem s (tbr + 32 + cbi) [BitVec.ofNat 8 (b2n passed * 128 + b2n r.poison * 64 + b2n r.harqReset * 32 + iters)] noFlags
  let s2 := writeWord32 s1 tbr (mkWord [(tf ws 0 31 16, 16), (ndone, 0)])
  let s3 := writeWord32 s2 (tbr + 16) (mkWord [(tf ws 4 31 16, 16), ((tf ws 4 15 0 + b2n (!passed)) % 2 ^ 16, 0)])
  let s4 := writeWord32 s3 (tbr + 20) (w32 w5)
  if ndone = tf ws 0 31 16 then finishBlock s4 r.task.ctx tbr ws w5 else s4

/-- The completion cairn of a task (R246, R264). -/
def taskCairn (s : State) (t : Task) : State :=
  if tf t.words 0 27 27 = 1 then cairnSignalFor s t.ctx (tf t.words 0 15 0) 1 else s

/-- A DECODE task ends on unit u (R251, R255, R257). -/
def endDecode (s : State) (u : Nat) (r : RunTask) : State :=
  let ws := r.task.words
  let (iters, info) := decodeTask r
  let tbr := taddr ws 9 6 15 8
  let s0 := harqHeader s (harqOf r.task) r.h (tf ws 4 15 0) r.ntx
  let got := readMemWords s0 tbr 8
  let rec8 := got.1
  let s1 := got.2.2
  let many := decide (1 < tf rec8 0 31 16)
  let s2 := writeBits s1 (taddr ws 8 6 23 16) (tf ws 10 18 16) (info.take (info.length - if many then 24 else 0))
  let s3 := updateRecord s2 r iters (!many || decide (crc24b info = 0)) tbr rec8
  let s4 := { s3 with dec := { s3.dec with run := takeOff s3.dec.run u, tasks := s3.dec.tasks + 1, iters := s3.dec.iters + BitVec.ofNat 64 iters } }
  applyFlush (taskCairn s4 r.task) (harqOf r.task)

/-- DECODE_TASK_END. -/
def execDecodeTaskEnd (unit : Fin 16) (s : State) : Host.Outcome State Fault Refusal :=
  match (if noClock s 1 then none else Tab.get none s.dec.run unit.val) with
  | some r => .next (endDecode s unit.val r)
  | none => .next s

/-! ### Encoding (R264; 3GPP TS 38.212) -/

/-- ENCODE_TASK_START. -/
def execEncodeTaskStart (s : State) : Host.Outcome State Fault Refusal :=
  match (if noClock s 1 then none else nextTask s 2), freePlace s 16 4 0 with
  | some (i, t), some u => .next (runTask s i u { task := t })
  | _, _ => .next s

/-- A number as bits, most significant first. -/
def natBits (w n : Nat) : List Bool := ((List.range w).map fun i => bitAt n i).reverse

/-- A transport block with its CRC: CRC24A above 3,824 bits, else CRC16. -/
def attachTbCrc (bits : List Bool) : List Bool :=
  if 3824 < bits.length then bits ++ natBits 24 (crc24a bits) else bits ++ natBits 16 (crc16 bits)

/-- The information columns Kb that choose the lifting size. -/
def kbOf (bg2 : Bool) (b : Nat) : Nat := if bg2 then (if 640 < b then 10 else if 560 < b then 9 else if 192 < b then 8 else 6) else 22

/-- The smallest lifting size with Kb × Zc at least K′. -/
def liftFor (kb kp : Nat) : Nat := ((List.range 385).find? fun z => liftOk z && decide (kp ≤ kb * z)).getD 384

/-- Codeblocks of a transport block of b bits. -/
def blocksOf (bg2 : Bool) (b : Nat) : Nat := let kcb := if bg2 then 3840 else 8448; if b ≤ kcb then 1 else ceilDiv b (kcb - 24)

/-- The bits of codeblock r of c, its CRC24B attached when there are several. -/
def blockBits (bits : List Bool) (c r : Nat) : List Bool :=
  if c = 1 then bits
  else
    let n := (bits.length + 24 * c) / c - 24
    let x := (bits.drop (r * n)).take n
    x ++ natBits 24 (crc24b x)

/-- Start of redundancy version rv in a circular buffer of ncb. -/
def rvStart (bg2 : Bool) (rv ncb zc : Nat) : Nat :=
  let num := if bg2 then [0, 13, 25, 43].getD rv 0 else [0, 17, 33, 56].getD rv 0
  num * ncb / ((if bg2 then 50 else 66) * zc) * zc

/-- Coded bits of codeblock r of c: E_r (rate matching by whole symbols of all layers). -/
def codedBits (g nlay qm c r : Nat) : Nat :=
  let u := g / (nlay * qm)
  (if r + u % c < c then u / c else ceilDiv u c) * (nlay * qm)

/-- The interleaved coded bits of one codeblock. -/
def encodeBlock (bg2 : Bool) (zc qm e k0 ncb : Nat) (bits : List Bool) : List Bool :=
  let k := (if bg2 then 10 else 22) * zc
  let full := bits ++ List.replicate (k - bits.length) false
  let coded (j : Nat) : Bool := let n := j + 2 * zc; if n < k then full.getD n false else Config.ldpcParity bg2 zc full (n - k)
  let walk := bufferWalk k0 ncb bits.length k zc
  (List.range e).map fun t => coded (walk.getD (deinterleave e qm t % walk.length) 0)

/-- The codeword of a transport block (R264): codeblocks in order, G bits. -/
def codeword (ws : List Word) (tb : List Bool) : List Bool :=
  let bg2 := decide (tf ws 0 26 26 = 1)
  let qm := tf ws 0 19 16
  let bits := attachTbCrc tb
  let c := blocksOf bg2 bits.length
  let kp := (blockBits bits c 0).length
  let zc := liftFor (kbOf bg2 bits.length) kp
  let n := (if bg2 then 50 else 66) * zc
  let ncb := if tf ws 3 25 25 = 1 then min n (tf ws 3 15 0) else n
  (List.range c).flatMap fun r =>
    encodeBlock bg2 zc qm (codedBits (wordAt ws 2) (tf ws 3 31 28) qm c r) (rvStart bg2 (tf ws 3 27 26) ncb zc) ncb (blockBits bits c r)

/-- ENCODE_TASK_END: the codeword is written, the completion cairn signalled. -/
def execEncodeTaskEnd (unit : Fin 4) (s : State) : Host.Outcome State Fault Refusal :=
  match (if noClock s 1 then none else Tab.get none s.dec.run (16 + unit.val)) with
  | some r =>
    let ws := r.task.words
    let got := readBits s (taddr ws 4 6 7 0) (wordAt ws 1)
    let tb := got.1
    let s1 := got.2
    let s2 := writeBits s1 (taddr ws 5 6 15 8) 0 (codeword ws tb)
    .next (taskCairn { s2 with dec := { s2.dec with run := Tab.put none s2.dec.run (16 + unit.val) none } } r.task)
  | none => .next s

/-! ### Commands (R270, R307) -/

/-- A chain. -/
def chainOf (s : State) (k : Nat) : RxChain := Tab.get {} s.chains k

/-- Change a chain. -/
def updChain (s : State) (k : Nat) (f : RxChain → RxChain) : State := { s with chains := Tab.upd {} s.chains k f }

/-- The configuration a CHAIN_SET carries. -/
def chainCfgOfWords (ws : List Word) : ChainCfg :=
  { kind := tf ws 1 1 0, maxlay := tf ws 3 4 0, ms := dword (wordAt ws 4) (tf ws 5 7 0), hp := dword (wordAt ws 6) (tf ws 7 7 0),
    nhbuf := tf ws 7 31 16, imax := tf ws 8 4 0 }

/-- Is the chain in use: named by an entry of either survey table, its template in one, or served by a job in flight (R307)? -/
def chainInTables (s : State) (k : Nat) : Bool :=
  tmplInTables s (chainOf s k).tmpl || (bothTables s).any (fun e => e.chv && decide (e.chain = k)) ||
  s.sched.jobs.any fun j => j.e.chv && decide (j.e.chain = k)

/-- Does a CHAIN_SET break a field rule, R265 or R296? -/
def chainFields (s : State) (ctx flow tmpl rring : Nat) (c : ChainCfg) : Bool :=
  let f := flowOf s flow
  decide (c.kind = 3) || decide (c.maxlay = 0) || decide (16 < c.maxlay) || decide (c.imax = 0) || decide (25 < c.imax) || decide (c.nhbuf = 0) ||
  decide (c.hp % 64 ≠ 0) || !inHbm (ctxOf s ctx) c.hp (25600 * c.nhbuf) || !(ctxOf s ctx).isSet ||
  decide (f.state = 0) || decide (f.cfg.kind ≠ if c.kind = 2 then 1 else 0) || (decide (c.kind = 2) && !f.cfg.nq8) ||
  !(tmplOf s tmpl).isSet || decide ((tmplOf s tmpl).ctx ≠ ctx) || !ringFits s rring ctx false

/-- Does a CHAIN_SET break a field rule, R265, R269 or R296? -/
def chainBad (s : State) (ctx flow tmpl rring : Nat) (c : ChainCfg) : Bool := chainFields s ctx flow tmpl rring c || !Config.modelValid s.free

/-- CHAIN_SET (R270): a chain in use stages the new configuration and answers DEFERRED (R307). -/
def execChainSet (pair : Fin 176) (s : State) : Host.Outcome State Fault Refusal :=
  withNci 0x0400 [0x00FF3F03, 0x007FFFFF, 0x3FFF001F, 0xFFFFFFFF, 0xFF, 0xFFFFFFFF, 0xFFFF00FF, 0x1F] pair (draw s) fun ws st =>
    let k := tf ws 1 23 16
    let ctx := tf ws 1 13 8
    let flow := tf ws 2 22 16
    let o := chainOf st k
    let c := chainCfgOfWords ws
    let used := o.isSet && chainInTables st k
    { bad := chainBad st ctx flow (tf ws 2 15 0) (tf ws 3 29 16) c
      denied := decide ((flowOf st flow).cfg.ctx ≠ ctx)
      ctxs := ctx :: (if o.isSet then [o.ctx] else [])
      nores := !o.isSet && decide (256 ≤ (st.chains.filter fun e => e.2.isSet).length)
      code := if used then 6 else 0
      st := if used then updChain st k fun x => { x with staged := some c }
            else updChain st k fun _ => { isSet := true, ctx := ctx, flow := flow, tmpl := tf ws 2 15 0, rring := tf ws 3 29 16, cfg := c } }

/-- CHAIN_CLEAR. -/
def execChainClear (pair : Fin 176) (s : State) : Host.Outcome State Fault Refusal :=
  withNci 0x0401 [0xFF] pair s fun ws st =>
    let k := tf ws 1 7 0
    { bad := !(chainOf st k).isSet, ctxs := [(chainOf st k).ctx], busy := tmplInTables st (chainOf st k).tmpl, st := updChain st k fun _ => {} }

/-- CHAIN_STATUS. -/
def execChainStatus (pair : Fin 176) (s : State) : Host.Outcome State Fault Refusal :=
  withNci 0x0402 [0xFF] pair s fun ws st =>
    let c := chainOf st (tf ws 1 7 0)
    { bad := !c.isSet, ctxs := [c.ctx], words := (List.range 6).map fun i => Tab.get 0 c.counts i, st := st }

/-- Flush one HARQ buffer: at once, or after the running task on it ends. -/
def flushOne (s : State) (a : Nat) : State :=
  if harqBusy s a then { s with dec := { s.dec with flush := if s.dec.flush.contains a then s.dec.flush else s.dec.flush ++ [a] } }
  else harqInvalid s a

/-- HARQ_FLUSH. -/
def execHarqFlush (pair : Fin 176) (s : State) : Host.Outcome State Fault Refusal :=
  withNci 0x0403 [0xFF, 0xFFFFFFFF] pair s fun ws st =>
    let c := chainOf st (tf ws 1 7 0)
    { bad := !c.isSet || decide (c.cfg.nhbuf < tf ws 2 15 0 + tf ws 2 31 16), ctxs := [c.ctx]
      st := (List.range (tf ws 2 31 16)).foldl (fun x i => flushOne x (c.cfg.hp + 25600 * (tf ws 2 15 0 + i))) st }

/-- Does an offset table break R254? -/
def offsetsBad (bg : Nat) (t : List Byte) : Bool :=
  let w := leNat (t.take 4)
  decide (w / 2 ^ 24 = 255) || decide (fld w 16 16 ≠ bg) || decide (fld w 23 17 ≠ 0) || decide (fld w 15 0 ≠ 0) ||
  ((t.drop 4).take 28).any (fun b => decide (b ≠ 0)) || ((t.drop 32).take 50).any (fun b => b.getLsbD 3 || b.getLsbD 7)

/-- LDPC_OFFSETS_SET: the table is copied; tasks that start after the reply take it (R254, R270). -/
def execLdpcOffsetsSet (pair : Fin 176) (s : State) : Host.Outcome State Fault Refusal :=
  withNci 0x0404 [0x1003F, 0xFFFFFFFF, 0xFF] pair s fun ws st =>
    let k := tf ws 1 5 0
    let bg := tf ws 1 16 16
    let a := dword (wordAt ws 2) (tf ws 3 7 0)
    let got := readBytes st a 96
    let t := got.1
    let s1 := got.2.2.2
    { bad := decide (a % 32 ≠ 0) || !(ctxOf st k).isSet || !ctxMay st k none a 96 false || offsetsBad bg t, ctxs := [k]
      st := s1, after := fun _ t1 => { t1 with nci := t1.nci.map fun r => { r with offs := some (k, bg, t) } } }

/-- DEC_STATUS. -/
def execDecStatus (pair : Fin 176) (s : State) : Host.Outcome State Fault Refusal :=
  withNci 0x0405 [] pair s fun _ st =>
    let d := st.dec
    { words := [w32 d.tasks.toNat, w32hi d.tasks.toNat, w32 d.iters.toNat, w32hi d.iters.toNat, d.abandoned, d.refused], st := st }

end Sys2Proof.Machine
end

