-- ==== Sys2Proof/Machine/Sched.lean ====
section
/-!
DEFINITION. Air-slot scheduling (chapter 11): contexts, templates, survey tables, placement, slot and symbol ticks, changes under load, and
the start of a job on a chamber.
-/
namespace Sys2Proof.Machine

/-! ### Contexts and templates (R296, R297, R310) -/

/-- CTX_SET. -/
def execCtxSet (pair : Fin 176) (s : State) : Host.Outcome State Fault Refusal :=
  withNci 0x0200 [0x3F, 0x3FFF] pair s fun ws st =>
    let k := tf ws 1 5 0
    let r := ringOf st (tf ws 2 13 0)
    { bad := !r.isSet || r.hostWrites, denied := decide (r.ctx ≠ k)
      st := updCtx st k fun c => { c with isSet := true, evring := tf ws 2 13 0 } }

/-- Clear a context (R310): its partitions are zeroed, its templates and chains cleared. -/
def clearCtx (s : State) (k : Nat) : State :=
  let s1 := updCtx (zeroChanged s (ctxOf s k) {}) k fun _ => {}
  gateIdle { s1 with tmpls := s1.tmpls.filter (fun t => decide (t.2.ctx ≠ k)), chains := s1.chains.filter fun c => decide (c.2.ctx ≠ k) }

/-- CTX_CLEAR. -/
def execCtxClear (pair : Fin 176) (s : State) : Host.Outcome State Fault Refusal :=
  withNci 0x0201 [0x3F] pair s fun ws st =>
    let k := tf ws 1 5 0
    { bad := !(ctxOf st k).isSet, busy := ctxInTables st k || st.sched.jobs.any fun j => decide (j.e.ctx = k), st := clearCtx st k }

/-- The job cairns of a template header: words 4 to 11 (R297). -/
def jcairnsOf (hd : List Word) : List (Nat × Nat) :=
  ((List.range 8).map fun i => (tf hd (4 + i) 31 16, tf hd (4 + i) 15 0)).filter fun j => decide (j.1 ≠ 0xFFFF)

/-- The template a TMPL_SET registers: its own fields and those of the 64-byte header. -/
def tmplOfWords (ws hd : List Word) : Tmpl :=
  { isSet := true, ctx := tf ws 1 5 0, addr := dword (wordAt ws 2) (tf ws 3 7 0), len := wordAt ws 4,
    dmask := BitVec.ofNat 64 (dword (wordAt ws 5) (wordAt ws 6)), width := tf hd 0 23 16, nlayer := tf hd 0 15 0, entry := wordAt hd 1,
    hbase := wordAt hd 2, clen := tf hd 3 31 16, hlen := tf hd 3 15 0, jcairns := jcairnsOf hd }

/-- Has the template a handler of its own (R113, R297)? -/
def ownHandler (t : Tmpl) : Bool := decide (t.hbase ≠ 0xFFFFFFFF)

/-- Does a template header break R297, or its code lie outside the pocket partition? -/
def headerBad (c : Ctx) (t : Tmpl) (hd : List Word) : Bool :=
  let hlen := if ownHandler t then t.hlen else 0
  let part := 0x4000 * c.pkUnits
  decide (tf hd 0 31 24 ≠ 1) || decide (t.width = 0) || decide (128 < t.width) || decide (t.nlayer = 0) || decide (64 < t.nlayer) ||
  decide (t.entry % 32 ≠ 0) || decide (t.clen = 0) || decide (2048 < t.clen + hlen) || decide (part < t.entry + t.clen * 32) ||
  (ownHandler t && (decide (t.hbase % 4096 ≠ 0) || decide (part < t.hbase + hlen * 32))) ||
  [12, 13, 14, 15].any fun n => decide (wordAt hd n ≠ 0)

/-- TMPL_SET. -/
def execTmplSet (pair : Fin 176) (s : State) : Host.Outcome State Fault Refusal :=
  withNci 0x0202 [0x03FF003F, 0xFFFFFFFF, 0xFF, 0xFFFFFFFF, 0xFFFFFFFF, 0xFFFFFFFF] pair s fun ws st =>
    let n := tf ws 1 25 16
    let k := tf ws 1 5 0
    let a := dword (wordAt ws 2) (tf ws 3 7 0)
    let o := tmplOf st n
    let got := readMemWords st a 16
    let hd := got.1
    let s1 := got.2.2
    let t := tmplOfWords ws hd
    { bad := !(ctxOf st k).isSet || decide (a % 64 ≠ 0) || decide (t.len < 64) || !ctxMay st k none a t.len false || headerBad (ctxOf st k) t hd ||
             t.jcairns.any fun j => decide ((cairnOf st j.1).typ = 0) || decide ((cairnOf st j.1).ctx ≠ k)
      ctxs := k :: (if o.isSet then [o.ctx] else [])
      nores := !o.isSet && decide (1024 ≤ (st.tmpls.filter fun e => e.2.isSet).length)
      busy := tmplInTables st n
      st := { s1 with tmpls := Tab.put {} s1.tmpls n t } }

/-- TMPL_CLEAR. -/
def execTmplClear (pair : Fin 176) (s : State) : Host.Outcome State Fault Refusal :=
  withNci 0x0203 [0x03FF0000] pair s fun ws st =>
    let n := tf ws 1 25 16
    { bad := !(tmplOf st n).isSet, ctxs := [(tmplOf st n).ctx], busy := tmplInTables st n, st := { st with tmpls := Tab.put {} st.tmpls n {} } }

/-! ### Placement (R205, R206, R294, R299) -/

/-- A chamber a search has reached: for which job, and through which chamber. -/
structure Reached where
  chm : Nat
  job : Nat
  from_ : Option Nat

/-- The job an assignment gives a chamber. -/
def ownerIn (asg : List (Nat × Nat)) (c : Nat) : Option Nat := (asg.find? fun a => decide (a.1 = c)).map (·.2)

/-- Search for a chamber that can be freed, moving jobs that have other candidates: the free chamber and all reached. -/
def searchFree (cands : Nat → List Nat) (asg : List (Nat × Nat)) : Nat → List Reached → List Reached → Option (Nat × List Reached)
  | 0, _, _ => none
  | _, [], _ => none
  | n + 1, r :: todo, seen =>
    match ownerIn asg r.chm with
    | none => some (r.chm, seen)
    | some j =>
      let more := ((cands j).filter fun c => !seen.any fun x => decide (x.chm = c)).map fun c => { chm := c, job := j, from_ := some r.chm }
      searchFree cands asg n (todo ++ more) (seen ++ more)

/-- Move the chambers along the path that reached a free one. -/
def flipPath (seen : List Reached) : Nat → Nat → List (Nat × Nat) → List (Nat × Nat)
  | 0, _, asg => asg
  | n + 1, c, asg =>
    match seen.find? fun x => decide (x.chm = c) with
    | none => asg
    | some r =>
      let asg1 := (c, r.job) :: asg.filter fun a => decide (a.1 ≠ c)
      match r.from_ with
      | some p => flipPath seen n p asg1
      | none => asg1

/-- Give job j one more chamber, if the jobs placed so far can make room. -/
def assignOne (cands : Nat → List Nat) (j : Nat) (asg : List (Nat × Nat)) : Option (List (Nat × Nat)) :=
  let start := ((cands j).filter fun c => decide (ownerIn asg c ≠ some j)).map fun c => { chm := c, job := j, from_ := none }
  (searchFree cands asg 129 start start).map fun r => flipPath r.2 129 r.1 asg

/-- Give job j n chambers. -/
def assignMany (cands : Nat → List Nat) (j : Nat) : Nat → List (Nat × Nat) → Option (List (Nat × Nat))
  | 0, asg => some asg
  | n + 1, asg => (assignOne cands j asg).bind fun a => assignMany cands j n a

/-- Place jobs (index, width) in order; one that does not fit leaves the others as they are. -/
def assignAll (cands : Nat → List Nat) : List (Nat × Nat) → List (Nat × Nat) → List (Nat × Nat)
  | [], asg => asg
  | (j, w) :: js, asg => assignAll cands js ((assignMany cands j w asg).getD asg)

/-- May work be placed on a logical chamber at device time t: carried by a chamber in service, in a gallery in service, and, after a
substitution, 20 µs after the fault (R207, R416)? -/
def healthyAt (s : State) (t lc : Nat) : Bool :=
  match carrier s lc with
  | some ph => decide ((unitOf s ph).state ≤ 1) && decide ((unitOf s (0x1000 + ph / 9)).state ≤ 1) && decide ((chmOf s ph).workFrom ≤ t)
  | none => false

/-- Is a logical chamber held by a job in flight (R294)? -/
def held (s : State) (lc : Nat) : Bool :=
  s.sched.jobs.any fun j => j.chms.any fun c => decide (c.1 = lc) || decide (carrier s lc = some c.2)

/-- The placer's order of a list: a choice of Nerzon (R206). -/
def placerOrder (k : Nat) : Nat → List Nat → List Nat
  | 0, _ => []
  | n + 1, l => if l.isEmpty then [] else
    let i := Config.place k n % l.length
    l.getD i 0 :: placerOrder k n (l.eraseIdx i)

/-- The entries of one air slot of a table, in image order. -/
def slotEntries (t : Option Survey) (aslot : Nat) : List Entry := (surveyEntries t).filter fun e => decide (e.aslot = aslot)

/-- Number the members of a list. -/
def numbered {α : Type} (l : List α) : List (Nat × α) := (List.range l.length).zip l

/-! ### Survey tables (R298 to R300) -/

/-- An entry of a survey image. -/
def entryOfWords (ws : List Word) : Entry :=
  { tmpl := tf ws 0 31 16, chain := tf ws 0 15 8, chv := decide (tf ws 0 7 7 = 1), aslot := tf ws 0 6 0, dig := decide (tf ws 1 31 31 = 1),
    dline := tf ws 1 23 0, dring := tf ws 2 29 16, cring := tf ws 2 13 0, ctx := tf ws 3 5 0 }

/-- Has an entry of the image a reserved bit set? -/
def entryReserved (ws : List Word) : Bool := decide (tf ws 1 30 24 ≠ 0) || decide (tf ws 2 31 30 ≠ 0) || decide (tf ws 2 15 14 ≠ 0) || decide (tf ws 3 31 6 ≠ 0)

/-- Does an entry name a template, chain, context or ring that is missing or another context's, or a flow of another spacing? -/
def entryBad (s : State) (scs hp : Nat) (e : Entry) : Bool :=
  let c := chainOf s e.chain
  decide (hp ≤ e.aslot) || decide (e.dline < 1000) || decide (4000000 < e.dline) || !(ctxOf s e.ctx).isSet ||
  !(tmplOf s e.tmpl).isSet || decide ((tmplOf s e.tmpl).ctx ≠ e.ctx) || !ringFits s e.cring e.ctx false || (e.dig && !ringFits s e.dring e.ctx false) ||
  (e.chv && (!c.isSet || decide (c.ctx ≠ e.ctx) || decide ((flowOf s c.flow).cfg.scs ≠ scs)))

/-- Are entries sorted by air slot? -/
def sortedSlots : List Entry → Bool
  | e :: f :: es => decide (e.aslot ≤ f.aslot) && sortedSlots (f :: es)
  | _ => true

/-- The entries of an image, four words each. -/
def entryWords (ws : List Word) : Nat → List (List Word)
  | 0 => []
  | n + 1 => ws.take 4 :: entryWords (ws.drop 4) n

/-- Can an air slot of a table be placed with every healthy chamber available (R299)? -/
def slotPlaceable (s : State) (es : List Entry) : Bool :=
  let js := numbered es
  let cands (i : Nat) : List Nat := (setMembers (ctxOf s ((es.map (·.ctx)).getD i 0)).chset).filter (healthyAt s (now s))
  let ws := js.map fun e => (e.1, (tmplOf s e.2.tmpl).width)
  decide ((assignAll cands ws []).length = ws.foldl (fun n w => n + w.2) 0)

/-- Does a table break R298, R299 or R363? -/
def surveyBad (s : State) (hd : List Word) (es : List (List Word)) (t : Survey) : Bool :=
  decide (t.scs = 3) || decide (tf hd 0 31 26 ≠ 0) || decide (tf hd 0 23 7 ≠ 0) || decide (tf hd 1 31 15 ≠ 0) || (hd.drop 2).any (fun w => decide (w ≠ 0)) ||
  decide (t.hp = 0) || decide (slotsPerFrame t.scs % t.hp ≠ 0) || decide (20480 < tf hd 1 14 0) ||
  es.any entryReserved || t.entries.any (entryBad s t.scs t.hp) || !sortedSlots t.entries ||
  (List.range t.hp).any (fun a => decide (256 < (slotEntries (some t) a).length)) ||
  (match s.time.tick with | some (scs, _) => decide (scs ≠ t.scs) | none => false)

/-- SURVEY_STAGE. -/
def execSurveyStage (pair : Fin 176) (s : State) : Host.Outcome State Fault Refusal :=
  withNci 0x0204 [0xFFFFFFFF, 0xFF] pair s fun ws st =>
    let a := dword (wordAt ws 1) (tf ws 2 7 0)
    let got := readMemWords st a 8
    let hd := got.1
    let s1 := got.2.2
    let n := tf hd 1 14 0
    let got2 := readMemWords s1 (a + 32) (4 * n)
    let body := got2.1
    let s2 := got2.2.2
    let es := entryWords body n
    let t : Survey := { scs := tf hd 0 25 24, hp := tf hd 0 6 0, entries := es.map entryOfWords }
    { bad := decide (a % 32 ≠ 0) || decide (0x0BE0000000 < a + 32 + 16 * n) || surveyBad st hd es t
      denied := !timeConfigured st
      busy := st.sched.armed
      nores := (List.range t.hp).any fun x => !slotPlaceable st (slotEntries (some t) x)
      st := { s2 with sched := { s2.sched with staged := some t } } }

/-- The spacing of the tick grid. -/
def tickScs (s : State) : Nat := match s.time.tick with | some (scs, _) => scs | none => 0

/-- Air slots per hyperperiod: of the committed table, or of a frame (R292). -/
def hyperOf (s : State) : Nat := match s.sched.committed with | some t => t.hp | none => slotsPerFrame (tickScs s)

/-- The air slot number of the next hyperperiod tick, and its device time where it is known (R300). -/
def nextHyper (s : State) : Nat × Option Nat :=
  let g := gridSlot s.time (tickScs s) s.time.slot.toNat
  if s.time.ticking then
    let d := hyperOf s - g % slotsPerFrame (tickScs s) % hyperOf s
    (s.sched.aslot + d, some (slotStart s.time (tickScs s) (g + d)))
  else (if s.sched.started then s.sched.aslot + 1 else 0, if tickReady s then some s.time.nextTick else none)

/-- Is a request a cancel? -/
def isCancel (ws : List Word) : Bool := decide (tf ws 1 0 0 = 1)

/-- SURVEY_COMMIT. -/
def execSurveyCommit (pair : Fin 176) (s : State) : Host.Outcome State Fault Refusal :=
  withNciPick 0x0205 (fun ws => !isCancel ws) [1] pair s fun _ st =>
    { bad := st.sched.staged.isNone, words := [w32 (nextHyper st).1, w32hi (nextHyper st).1], st := { st with sched := { st.sched with armed := true } } }

/-- SURVEY_COMMIT with cancel = 1: up to 20 µs before the tick (R300). -/
def execSurveyCommitCancel (pair : Fin 176) (s : State) : Host.Outcome State Fault Refusal :=
  withNciPick 0x0205 isCancel [1] pair s fun _ st =>
    { bad := !st.sched.armed, busy := (match (nextHyper st).2 with | some t => decide (t < now st + 20000) | none => false)
      words := [w32 (nextHyper st).1, w32hi (nextHyper st).1], st := { st with sched := { st.sched with armed := false } } }

/-- SCHED_STATUS. -/
def execSchedStatus (pair : Fin 176) (s : State) : Host.Outcome State Fault Refusal :=
  withNci 0x0206 [] pair s fun _ st =>
    let d := st.sched
    let w4 := mkWord [(b2n d.armed, 31), (b2n d.dlbFrozen, 30), ((match d.committed with | some t => t.hp | none => 0), 16), ((surveyEntries d.committed).length, 0)]
    { words := [w32 d.aslot, w32hi d.aslot, w4, d.late, d.notPlaced, d.forced], st := st }

/-- CFG_COMMIT: the staged changes of the context's chains become pending (R307). -/
def execCfgCommit (pair : Fin 176) (s : State) : Host.Outcome State Fault Refusal :=
  withNci 0x0207 [0x3F] pair s fun ws st =>
    let k := tf ws 1 5 0
    { bad := !(ctxOf st k).isSet || !st.chains.any (fun c => decide (c.2.ctx = k) && c.2.staged.isSome), ctxs := [k]
      st := { st with chains := Tab.mapListed {} (fun _ c =>
                if c.ctx = k ∧ c.staged.isSome then { c with pending := c.staged, staged := none, reported := false } else c) st.chains } }

/-- DET_SET (R306). -/
def execDetSet (pair : Fin 176) (s : State) : Host.Outcome State Fault Refusal :=
  withNci 0x0208 [1] pair s fun ws st => { st := { st with sched := { st.sched with dlbPend := some (decide (tf ws 1 0 0 = 1)) } } }

/-! ### The slot tick (R25, R292, R359) -/

/-- A host's or the management's change of a unit (R416): a RETIRED unit stays so; an enable puts a DISABLED unit in service. -/
def setUnit (e : UnitSt) (dis : Bool) (b : Nat) : UnitSt :=
  if e.state = 3 then { e with pend := none, rival := false }
  else if dis then { e with state := 2, by_ := b, pend := none, rival := false }
  else if e.state = 2 then { e with state := 0, by_ := b, pend := none, rival := false }
  else { e with pend := none, rival := false }

/-- A pending change of a unit's state takes effect (R422). -/
def tickUnit (e : UnitSt) : UnitSt :=
  match e.pend with
  | some (dis, b) => setUnit e dis b
  | none => e

/-- The pending changes of units at a slot tick (R422, R423): the later of a host command and a management request takes effect, and both are
logged (as MGMT_MISMATCH: log entry 36). -/
def tickUnits (s : State) : State :=
  let both := (s.units.filter fun u => u.2.pend.isSome && u.2.rival).map (·.1)
  let s1 := both.foldl (fun t u => logErr (logErr t 0x11 0 u 0 0 false) 0x11 0 u 0 0 false) s
  { s1 with units := Tab.mapListed {} (fun _ u => tickUnit u) s1.units }

/-- Ask for a change of a unit at the next slot tick, by the host (2) or the management (3): the later in Nerzon's order stands (R423). -/
def askUnit (dis : Bool) (b : Nat) (e : UnitSt) : UnitSt :=
  { e with pend := some (dis, b), rival := e.rival || (match e.pend with | some (_, c) => decide (c ≠ b) | none => false) }

/-- SURVEY_COMMITTED (R300, R310). -/
def committedRecord (t : Survey) (aslot : Nat) : List Word :=
  [mkWord [(0x31, 24), (t.hp, 16), (t.entries.length, 0)], 0, w32 aslot, w32hi aslot, 0, 0, 0, 0]

/-- An armed table commits; every context with entries in either table is told (R300). -/
def commitSurvey (s : State) (aslot : Nat) : State :=
  match s.sched.armed, s.sched.staged with
  | true, some t =>
    let told := (List.range 64).filter fun c => ctxInTables s c
    told.foldl (fun st c => ringNerzon st (ctxOf st c).evring (committedRecord t aslot) false)
      { s with sched := { s.sched with committed := some t, staged := none, armed := false, frozen := [] } }
  | _, _ => s

/-- At a hyperperiod tick a change of load balancing takes effect, and an armed table commits (R300, R306). Placements already frozen stay so,
unless the map has changed. -/
def hyperTick (s : State) (aslot : Nat) : State :=
  let b := s.sched.dlbPend.getD s.sched.dlbFrozen
  let keep := b && s.sched.dlbFrozen && !s.sched.refreeze
  commitSurvey { s with sched := { s.sched with
    dlbFrozen := b, dlbPend := none, refreeze := false, frozen := if keep then s.sched.frozen else [] } } aslot

/-- CFG_REPORT (R308). -/
def cfgRecord (status ctx chain aslot : Nat) : List Word := [mkWord [(0x32, 24), (status, 16), (ctx, 8), (chain, 0)], 0, w32 aslot, w32hi aslot, 0, 0, 0, 0]

/-- The chambers an entry may run on at a tick (R206, R294). -/
def entryCands (s : State) (t : Nat) (e : Entry) : List Nat := (setMembers (ctxOf s e.ctx).chset).filter fun c => healthyAt s t c && !held s c

/-- Can the chain's jobs of the opening slot be placed, all together, under its new configuration (R307)? They need their templates' chambers,
free of jobs in flight, and what the new model set asks for is Jengan's. -/
def changeFits (s : State) (t k : Nat) (es : List Entry) : Bool :=
  let mine := numbered (es.filter fun e => e.chv && decide (e.chain = k))
  let width (e : Entry) : Nat := (tmplOf s e.tmpl).width
  let cands (i : Nat) : List Nat := match mine[i]? with
    | some x => entryCands s t x.2
    | none => []
  mine.isEmpty ||
  (Config.modelFits s.free && decide ((assignAll cands (mine.map fun x => (x.1, width x.2)) []).length = (mine.map fun x => width x.2).sum))

/-- Apply a chain's pending configuration and report it. -/
def applyChange (s : State) (k : Nat) (c : ChainCfg) (status aslot : Nat) : State :=
  let x := chainOf s k
  ringNerzon (updChain s k fun y => { y with cfg := c, pending := none, reported := false }) (ctxOf s x.ctx).evring (cfgRecord status x.ctx k aslot) false

/-- A chain at a slot tick (R307, R308): its pending change is applied, deferred, or forced; the chains forced without fitting are
collected, and their jobs of this slot are not placed. -/
def tickChain (t aslot : Nat) (hyper : Bool) (es : List Entry) (acc : State × List Nat) (k : Nat) : State × List Nat :=
  let s := draw acc.1
  let x := chainOf s k
  match x.pending with
  | none => acc
  | some c =>
    if changeFits s t k es then (applyChange s k c 0 aslot, acc.2)
    else if hyper then
      let s1 := applyChange s k c 2 aslot
      ({ s1 with sched := { s1.sched with forced := s1.sched.forced + 1 } }, k :: acc.2)
    else if x.reported then (s, acc.2)
    else (updChain (ringNerzon s (ctxOf s x.ctx).evring (cfgRecord 1 x.ctx k 0) false) k fun y => { y with reported := true }, acc.2)

/-- The placement of the opening slot: of each entry the number of the placement of its layers, and its chambers by rank, none where it cannot
be placed. Frozen entries repeat both (R205, R306); the rest is the placer's. `barred` are chains whose forced change does not fit. -/
def placement (s : State) (t sl : Nat) (barred : List Nat) (es : List Entry) : List (Nat × Nat × List Nat) :=
  let js := (numbered es).filter fun x => !(x.2.chv && barred.contains x.2.chain)
  let cands (i : Nat) : List Nat := match es[i]? with
    | some e => placerOrder (s.free + i) 128 (entryCands s t e)
    | none => []
  let width (e : Entry) : Nat := (tmplOf s e.tmpl).width
  let kept := if s.sched.dlbFrozen then
      js.filterMap fun x => (s.sched.frozen.find? fun f => decide (f.1 = sl * 256 + x.1) && f.2.2.all (entryCands s t x.2).contains).map fun f => (x.1, f.2)
    else []
  let fixed := kept.flatMap fun x => x.2.2
  let rest := js.filter fun x => !kept.any fun y => decide (y.1 = x.1)
  let open_ (i : Nat) : List Nat := (cands i).filter fun c => !fixed.contains c
  let asg := assignAll open_ (rest.map fun x => (x.1, width x.2)) []
  js.map fun x => match kept.find? fun y => decide (y.1 = x.1) with
    | some y => y
    | none => (x.1, s.sched.aslot, (open_ x.1).filter fun c => decide (ownerIn asg c = some x.1))

/-- Set a job cairn at release (R297, R339). -/
def setJobCairn (lc : Nat) (s : State) (j : Nat × Nat) : State :=
  let s1 := putCairn s j.1 { cairnOf s j.1 with v := w32 j.2, own := true, owner := lc, faulted := false }
  let c := cairnOf s1 j.1
  if c.typ = 1 then semaServe s1 j.1 c.waiters.length else if c.typ = 3 then eventServe s1 j.1 else s1

/-- The chain parameter block of the entry's grant in the opening slot; 0 when none (R295). -/
def cparmOf (s : State) (t : Nat) (e : Entry) : Nat :=
  if e.chv then
    let f := flowOf s (chainOf s e.chain).flow
    match grantOf f (gridSlot s.time f.cfg.scs t) with
    | some g => if g.late then 0 else g.cparm
    | none => 0
  else 0

/-- Release the job of an entry on its chambers (R292, R293, R294). -/
def releaseJob (s : State) (t aslot idx : Nat) (e : Entry) (key : Nat) (lcs : List Nat) : State :=
  let tag := w32 (aslot % 2 ^ 16 * 2 ^ 16 + idx * 2 ^ 8)
  let chms := lcs.filterMap fun lc => (carrier s lc).map fun ph => (lc, ph)
  let j : Job := { tag := tag, aslot := aslot, idx := idx, e := e, chms := chms, tick := t, deadline := t + e.dline, ended := [], finished := false,
                   exc := none, stores := [], cparm := cparmOf s t e }
  let s1 := (tmplOf s e.tmpl).jcairns.foldl (setJobCairn (lcs.headD 0)) s
  let s2 := chms.foldl (fun st c => updChm st c.2 fun h => { h with startTag := some tag }) s1
  { s2 with
    sched := { s2.sched with jobs := s2.sched.jobs ++ [j] }
    tmpls := Tab.upd {} s2.tmpls e.tmpl fun x => { x with lastSlot := some aslot, lastChms := lcs, lastKey := key } }

/-- An entry whose job is not released (R302). -/
def notPlaced (s : State) (aslot idx : Nat) (e : Entry) : State :=
  ringNerzon { s with sched := { s.sched with notPlaced := s.sched.notPlaced + 1 } } e.cring
    (complRecord e (w32 (aslot % 2 ^ 16 * 2 ^ 16 + idx * 2 ^ 8)) aslot 2 none 0 0) true

/-- One entry of the opening slot, in entry order (R25 step 4). -/
def releaseEntry (t aslot sl : Nat) (pl : List (Nat × Nat × List Nat)) (s : State) (x : Nat × Entry) : State :=
  match pl.find? fun p => decide (p.1 = x.1) with
  | some p =>
    if decide (p.2.2.length = (tmplOf s x.2.tmpl).width) && decide (0 < p.2.2.length) then
      let s1 := releaseJob s t aslot x.1 x.2 p.2.1 p.2.2
      if s1.sched.dlbFrozen && !s1.sched.frozen.any (fun f => decide (f.1 = sl * 256 + x.1)) then
        { s1 with sched := { s1.sched with frozen := (sl * 256 + x.1, p.2) :: s1.sched.frozen } }
      else s1
    else notPlaced s aslot x.1 x.2
  | none => notPlaced s aslot x.1 x.2

/-- The time block's part of a slot tick (R359, R363): TIME_SLOT, the counts, the next tick. -/
def countTick (s : State) : State :=
  let t := s.time.nextTick
  let g := gridSlot s.time (tickScs s) t
  let n := if s.sched.started then s.sched.aslot + 1 else 0
  { s with
    time := { s.time with slot := BitVec.ofNat 64 t, ticking := true, nextTick := slotStart s.time (tickScs s) (g + 1), nextSym := 0 }
    sched := { s.sched with aslot := n, started := true }
    sts := { s.sts with aslot := BitVec.ofNat 64 n, tickTime := BitVec.ofNat 64 t } }

/-- A slot tick at its nominal time (R25): fences, then a commit, the placement and its changes, then the releases. -/
def slotTick (s : State) : State :=
  let t := s.time.nextTick
  let idx := gridSlot s.time (tickScs s) t % slotsPerFrame (tickScs s)
  let hyper := decide (idx % hyperOf s = 0)
  let s1 := countTick s
  let aslot := s1.sched.aslot
  let s2 := (dueJobs s1 t).foldl deadlineJob s1
  let s3 := if hyper then hyperTick s2 aslot else s2
  let sl := idx % hyperOf s3
  let es := slotEntries s3.sched.committed sl
  let s4 := tickUnits (tickFlows s3 t)
  let got := (s4.chains.map (·.1)).foldl (tickChain t aslot hyper es) (s4, [])
  let s5 := got.1
  let barred := got.2
  let pl := placement s5 t sl barred es
  (numbered es).foldl (releaseEntry t aslot sl pl) { s5 with free := s5.free + es.length }

/-- SLOT_TICK. -/
def execSlotTick (s : State) : Host.Outcome State Fault Refusal := .next (if tickDue s then slotTick s else s)

/-- SYMBOL_TICK (R362): symbol ticks of the running slot pass; they start no job (R292). -/
def execSymbolTick (s : State) : Host.Outcome State Fault Refusal :=
  .next (if s.time.ticking && decide (s.time.nextSym < 14) && decide (s.time.slot.toNat + s.time.nextSym * tSym (tickScs s) ≤ now s) then
    { s with time := { s.time with nextSym := s.time.nextSym + 1 } } else s)

/-! ### The start of a job on a chamber (R117, R188, R295) -/

/-- The parameter block of a job for its chamber of rank r (R295). -/
def paramBlock (j : Job) (r : Nat) : List Word :=
  [w32 j.aslot, w32hi j.aslot, j.tag, mkWord [(j.e.tmpl, 16), (b2n j.e.chv, 15), (j.e.ctx, 8), (if j.e.chv then j.e.chain else 0, 0)],
   w32 j.cparm, w32hi j.cparm, w32 j.deadline, w32hi j.deadline, mkWord [(j.chms.length, 16), (r, 0)], 0, 0, 0, 0, 0, 0, 0] ++
  leWords ((List.range 128).map fun i => match j.chms[i]? with | some c => BitVec.ofNat 8 c.1 | none => 0xFF#8) 32

/-- The handler base of a job on a logical chamber: the template's, or Nerzon's default handler (R113, R297). -/
def handlerBase (s : State) (t : Tmpl) (lc : Nat) : Nat :=
  if ownHandler t then pocketBase lc + 0x4000 * (ctxOf s t.ctx).pkOff + t.hbase else 4096 * (Config.defaultHandler s.free % 2 ^ 28)

/-- The processor at job start (R117). -/
def startCore (s : State) (c : Core) (j : Job) (t : Tmpl) (lc : Nat) : Core :=
  { c with
    g := Tab.put 0 [] 1 (BitVec.ofNat 64 (pocketBase lc + transientStart s)), ib := [], xb := [], l := [], p := 1, rrb := 0, lc := 0, ec := 0,
    ie := true, ibank := false, xbank := false, ipc := 0, epc := 0, eaddr := 0, cause := 0, epos := 7,
    pc := BitVec.ofNat 40 (pocketBase lc + 0x4000 * (ctxOf s t.ctx).pkOff + t.entry), excBase := BitVec.ofNat 40 (handlerBase s t lc),
    defHandler := !ownHandler t, jobTag := j.tag, ctx := j.e.ctx, active := true, halted := c.haltReq, stepping := false, stall := 0, issue := none,
    waitCairn := none, grant := none, grantBack := 0, entering := none }

/-- JOB_START: the job released on the chamber starts (R117); a chamber that runs a job starts no other. -/
def execJobStart (ch : Fin 144) (s : State) : Host.Outcome State Fault Refusal :=
  let h := chmOf s ch.val
  match (if h.core.active then none else h.startTag) with
  | none => .next s
  | some tag =>
    match jobOf s tag with
    | none => .next s
    | some j =>
      match (numbered j.chms).find? fun c => decide (c.2.2 = ch.val) with
      | none => .next s
      | some (r, lc, _) =>
        let foreign := match h.prevCtx with | some c => decide (c ≠ j.e.ctx) | none => false
        let s1 := if foreign then zeroTransient s ch.val else s
        let s2 := writeMem s1 (pocketBase lc + transientStart s1) (wordBytes (paramBlock j r)) noFlags
        .next (updChm (draw s2) ch.val fun x => { x with startTag := none, core := startCore s2 x.core j (tmplOf s2 j.e.tmpl) lc })

end Sys2Proof.Machine
end

