-- ==== Sys2Proof/Machine/Faults.lean ====
section
/-!
DEFINITION. The fault log and the unit table as commands and management reach them (R413, R416, R422, R423, R427), injected errors (R415), and
headlamps (R426).
-/
namespace Sys2Proof.Machine

/-! ### Units (R414, R416) -/

/-- Is the identifier that of a unit (R414)? -/
def unitKnown (u : Nat) : Bool := decide (u % 0x1000 < [144, 16, 16, 4, 64, 8, 6, 1, 5].getD (u / 0x1000) 0)

/-- Does the unit carry placed work: jobs in flight on the chamber or gallery, a task on the DEC unit? -/
def carriesWork (s : State) (u : Nat) : Bool :=
  let i := u % 0x1000
  match u / 0x1000 with
  | 0 => s.sched.jobs.any fun j => j.chms.any fun c => decide (c.2 = i)
  | 1 => s.sched.jobs.any fun j => j.chms.any fun c => decide (c.2 / 9 = i)
  | 2 => (Tab.get none s.dec.run i).isSome
  | 3 => (Tab.get none s.dec.run (16 + i)).isSome
  | _ => false

/-- FAULT_UNIT_GET. -/
def execFaultUnitGet (pair : Fin 176) (s : State) : Host.Outcome State Fault Refusal :=
  withNci 0x0901 [0xFFFF] pair s fun ws st =>
    let e := unitOf st (tf ws 1 15 0)
    { bad := !unitKnown (tf ws 1 15 0), words := [mkWord [(e.by_, 8), (e.state, 0)], e.code], st := st }

/-- FAULT_UNIT_SET: at once, or at the next slot tick where the unit carries placed work. A later command replaces one that waits (R423). -/
def execFaultUnitSet (pair : Fin 176) (s : State) : Host.Outcome State Fault Refusal :=
  withNci 0x0902 [0x1FFFF] pair s fun ws st =>
    let u := tf ws 1 15 0
    let dis := decide (tf ws 1 16 16 = 1)
    let later := carriesWork st u && decide ((unitOf st u).state ≠ 3)
    { bad := !unitKnown u || decide (u = 0x7000), denied := !dis && retired st u
      code := if later then 6 else 0
      st := if later then updUnit st u (askUnit dis 2) else updUnit st u fun e => setUnit e dis 2 }

/-- The reply of a management request: the unit table's state. -/
def mctpReply (s : State) (u : Nat) : State :=
  let e := unitOf s u
  emit s (.mctp u e.by_ e.state e.code)

/-- A management request that disagrees with the table (R423). -/
def mctpMismatch (s : State) (u : Nat) : State := mctpReply (logErr s 0x11 0 u 0 0 false) u

/-- MCTP_MESSAGE (R422, R423): of vendor 0x1E5D alone, answered while Nerzon runs. Changes act at the next slot tick. -/
def execMctpMessage (vid : BitVec 16) (req : MctpReq) (unit : BitVec 16) (s : State) : Host.Outcome State Fault Refusal :=
  let u := unit.toNat
  .next (if decide (vid ≠ 0x1E5D#16) || decide (s.sts.state ≠ 3) || noClock s 2 || !unitKnown u then s
   else match req with
    | .query => mctpReply s u
    | .disable => if u = 0x7000 then mctpReply s u else mctpReply (updUnit s u (askUnit true 3)) u
    | .enable => if retired s u then mctpMismatch s u else if u = 0x7000 then mctpReply s u else mctpReply (updUnit s u (askUnit false 3)) u
    | .reportFailed => if (unitOf s u).state ≤ 1 then mctpMismatch s u else mctpReply s u)

/-! ### The fault log -/

/-- The words of a fault log entry (R413). -/
def entWords (e : FaultEnt) : List Word :=
  [mkWord [(0x60, 24), (e.sev, 22), (b2n e.inj, 21), (e.cls, 16), (e.unit, 0)], e.detail, w32 e.addr, w32hi e.addr, w32 e.time, w32hi e.time, e.count, w32 e.seq]

/-- Move n hardware entries to the fault log. -/
def moveEntries (s : State) : Nat → State
  | 0 => s
  | n + 1 => moveEntries (moveLogEntry s) n

/-- The entries at or after a sequence number, modulo 2^32. -/
def logFrom (s : State) (from_ : Nat) : List FaultEnt := s.err.log.filter fun e => decide ((w32 e.seq - w32 from_).toNat < 2 ^ 31)

/-- FAULT_LOG_READ. Nerzon first moves what the hardware log holds. A max of 0 stands for 4,096, which its field cannot hold. -/
def execFaultLogRead (pair : Fin 176) (s : State) : Host.Outcome State Fault Refusal :=
  withNci 0x0900 [0xFFFFFFFF, 0xFFFFFFFF, 0xFF, 0xFFF] pair s fun ws st0 =>
    let st := moveEntries st0 st0.err.hw.length
    let m := if tf ws 4 11 0 = 0 then 4096 else tf ws 4 11 0
    let buf := dword (wordAt ws 2) (wordAt ws 3)
    let es := (logFrom st (wordAt ws 1)).take m
    let nxt := match es.getLast? with | some e => w32 (e.seq + 1) | none => w32 (wordAt ws 1)
    { bad := decide (buf % 32 ≠ 0) || decide (0x0C00000000 < buf + 32 * m)
      words := [mkWord [(es.length % 4096, 0)], nxt, st.err.lost], st := writeMem st buf (es.flatMap fun e => wordBytes (entWords e)) noFlags }

/-- Units in a state. -/
def unitsIn (s : State) (k : Nat) : Nat := min 255 (s.units.filter fun e => decide (e.2.state = k)).length

/-- TELEMETRY_GET. -/
def execTelemetryGet (pair : Fin 176) (s : State) : Host.Outcome State Fault Refusal :=
  withNci 0x0903 [] pair s fun _ st =>
    { words := [tempWord st.crp, pwrStatWord st.crp, mkWord [(unitsIn st 3, 8), (unitsIn st 1, 0)], w32 st.err.seq, st.leq.prod], st := st }

/-! ### Injected errors (R415, R427) -/

/-- Does a class name this unit (R414)? -/
def classNames (cls u : Nat) : Bool :=
  let k := u / 0x1000
  unitKnown u &&
  match cls with
  | 0x01 | 0x02 => decide (k ≤ 1) || decide (u = 0x8000)
  | 0x03 | 0x04 => decide (k = 4)
  | 0x05 | 0x06 => decide (k = 0)
  | 0x07 => decide (k ≤ 3)
  | 0x08 => decide (k = 1)
  | 0x09 => decide (k = 2) || decide (k = 3)
  | 0x0A => decide (k = 5)
  | 0x0B | 0x0C => decide (k = 6)
  | 0x0D => decide (u = 0x8001)
  | 0x0E | 0x0F | 0x10 => decide (u = 0x8003)
  | 0x11 => true
  | 0x12 | 0x15 => decide (u = 0x8004)
  | 0x13 => decide (u = 0x8002)
  | 0x14 => decide (u = 0x7000)
  | _ => false

/-- An injected ECC error: logged and counted as a real one is; it names a unit and no word, so no word is marked. -/
def injectEcc (s : State) (cls u : Nat) : State :=
  let ue := decide (cls = 2) || decide (cls = 4)
  let s1 := logErr (draw s) cls (b2n ue) u (Config.syndrome s.free) 0 true
  let s2 := if u < 144 then countPocketEcc s1 (pocketKey u) ue else s1
  if decide (cls = 4) && decide (16 ≤ recentEnts s2 4 u (now s2 - 86400000000000)) && decide ((unitOf s2 u).state = 0) then markUnit s2 u 1 4 else s2

/-- An injected double fault (R112). -/
def injectDouble (s : State) (ph : Nat) : State :=
  let s1 := updCore s ph fun c => { c with dbl := true, issue := none, stall := 0 }
  logErr s1 5 2 ph (causeWord (coreOf s1 ph)) 0 true

/-- An injected fence timeout retires its unit (R301). -/
def injectTimeout (s : State) (u : Nat) : State :=
  if retired s u then s else retireUnit (logErr s 7 2 u (if u < 144 then causeWord (coreOf s u) else 0) 0 true) u 7

/-- An injected fronthaul parity error strikes the next symbol of a flow whose lowest port it is (R411, R416). -/
def injectParity (s : State) (u : Nat) : State :=
  let s1 := degradePort (logErr s 0xA 1 u 0 0 true) u
  match s1.flows.find? fun f => decide (f.2.state = 2) && decide (flowUnit f.2.cfg = u) with
  | some f => parityAt f.2.nextRel s1 f.1
  | none => s1

/-- An injected link error: one lane fails, and the link goes on at half width (R368). -/
def injectLink (s : State) (l : Nat) : State :=
  let x := elinkOf s l
  if x.state = 2 then linkError (updLink s l fun y => { y with state := 3, failed := 1 }) l 3 true
  else if x.state = 3 then linkError (updLink s l fun y => { y with state := 0, failed := 15 }) l 0 true
  else s

/-- Inject one error of a class and unit: the device's response to a real one, its entry marked (R415). An error that the class cannot raise in
the unit does not arise. -/
def injectErr (s : State) (cls u : Nat) : State :=
  let i := u % 0x1000
  if !classNames cls u then s
  else match cls with
    | 0x01 | 0x02 | 0x03 | 0x04 => injectEcc s cls u
    | 0x05 => injectDouble s i
    | 0x06 => chmParityErr s i true
    | 0x07 => injectTimeout s u
    | 0x08 => fabricErr s i true true
    | 0x09 => decParityErr s (if u < 0x3000 then i else 16 + i) true
    | 0x0A => injectParity s u
    | 0x0B => injectLink s i
    | 0x0C | 0x13 => logErr s cls 1 u 0 0 true
    | 0x0D => logErr (emit { s with pcie := { s.pcie with advisory := true } } .errCor) cls 0 u 0 0 true
    | 0x14 => assertReset s (levelHeld s.crp) 1 6
    | 0x15 => if s.crp.stopPll.getLsbD 2 then assertReset s (levelHeld s.crp) 2 8 else assertReset s (levelHeld s.crp) 1 5
    | _ => logErr s cls 0 u 0 0 true

/-- A write to ERR_INJ (R415). -/
def errInj (s : State) (v : Word) : State :=
  let s1 := { s with err := { s.err with injClass := fld v.toNat 20 16, injUnit := fld v.toNat 15 0 } }
  if v.getLsbD 31 then injectErr s1 (fld v.toNat 20 16) (fld v.toNat 15 0) else s1

/-- ERR_INJ. -/
def execErrInj (v : Word) (s : State) : Host.Outcome State Fault Refusal := .next (errInj s v)

/-- FAULT_INJECT: by way of ERR_INJ. A class whose response is a reset takes its reply with it. -/
def execFaultInject (pair : Fin 176) (s : State) : Host.Outcome State Fault Refusal :=
  withNci 0x0904 [0x1FFFFF] pair s fun ws st =>
    let cls := tf ws 1 20 16
    { bad := decide (cls = 0) || decide (0x16 ≤ cls), denied := !st.sec.scope.getLsbD 1, st := st
      after := fun c t => if c = 0 then errInj t (mkWord [(1, 31), (cls, 16), (tf ws 1 15 0, 0)]) else t }

/-! ### Headlamps (R426) -/

/-- FAULT_TRACE: a frozen trace is released, the named headlamp's freezes and is exported. -/
def execFaultTrace (pair : Fin 176) (s : State) : Host.Outcome State Fault Refusal :=
  withNci 0x0905 [0x1F, 0xFFFFFFFF, 0xFF] pair s fun ws st =>
    let g := tf ws 1 4 0
    let buf := dword (wordAt ws 2) (wordAt ws 3)
    let st1 := draw { st with err := { st.err with frozen := (g, st.time.clk) :: st.err.frozen.filter fun f => decide (f.1 ≠ g) } }
    { bad := decide (16 < g) || decide (0x0C00000000 < buf + 0x40000), denied := !st.sec.scope.getLsbD 2
      st := emit (writeMem st1 buf ((List.range 0x40000).map fun i => Config.traceBytes st1.free i) noFlags) (.trace g) }

/-- HEADLAMP_RELEASE: 10 s after the trace froze. -/
def execHeadlampRelease (h : Fin 17) (s : State) : Host.Outcome State Fault Refusal :=
  .next { s with err := { s.err with frozen := s.err.frozen.filter fun f => !(decide (f.1 = h.val) && decide (f.2 + 10000000000 ≤ s.time.clk)) } }

end Sys2Proof.Machine
end

