-- ==== Sys2Proof/Machine/Fl.lean ====
section
/-!
DEFINITION. Flowstone (chapter 06): launch and its checks, tile iterations, the micro-operations, register moves, stores,
faults and the completion of a run.
-/
namespace Sys2Proof.Machine

/-! ### Micro-operation fields (R160, R161) -/

/-- The opcode. -/
def uOp (u : DWord) : Nat := fld u.toNat 63 58
/-- The destination register number. -/
def uDst (u : DWord) : Nat := fld u.toNat 57 55
/-- Operand code a. -/
def uA (u : DWord) : Nat := fld u.toNat 54 50
/-- Operand code b. -/
def uB (u : DWord) : Nat := fld u.toNat 49 45
/-- Operand code c. -/
def uC (u : DWord) : Nat := fld u.toNat 44 40
/-- men. -/
def uMen (u : DWord) : Bool := bitAt u.toNat 39
/-- The mask register number. -/
def uMsk (u : DWord) : Nat := fld u.toNat 38 36
/-- The shift count. -/
def uSh (u : DWord) : Nat := fld u.toNat 35 30
/-- imm16. -/
def uImm (u : DWord) : Nat := fld u.toNat 29 14

/-- Does the opcode use operand b? -/
def usesB (op : Nat) : Bool := [0x01, 0x02, 0x03, 0x04, 0x06, 0x07, 0x08, 0x09, 0x0A, 0x0B, 0x0C, 0x10, 0x11].contains op
/-- Does the opcode use operand c? -/
def usesC (op : Nat) : Bool := decide (op = 0x03)
/-- Is the opcode listed (R161)? -/
def opListed (op : Nat) : Bool := (decide (1 ≤ op) && decide (op ≤ 0x0D)) || (decide (0x10 ≤ op) && decide (op ≤ 0x13)) || (decide (0x18 ≤ op) && decide (op ≤ 0x1D))
/-- Is it a search? -/
def isSearch (op : Nat) : Bool := decide (0x18 ≤ op) && decide (op ≤ 0x1D)

/-- The operand codes an opcode uses. -/
def operandCodes (u : DWord) : List Nat :=
  uA u :: ((if usesB (uOp u) then [uB u] else []) ++ (if usesC (uOp u) then [uC u] else []))

/-- Does a micro-operation fail the UOP check (R171)? -/
def badUop (src1 : Bool) (u : DWord) : Bool :=
  let op := uOp u
  !opListed op || (operandCodes u).any (fun c => decide (0x1E ≤ c)) || decide (fld u.toNat 13 0 ≠ 0) ||
  (decide (op = 0x0C) && decide (6 ≤ uImm u % 8)) ||
  (src1 && (operandCodes u).any fun c => decide (0x18 ≤ c) && decide (c ≤ 0x1A)) ||
  (decide (op = 0x0B) && uMen u) ||
  (isSearch op && (decide (16 ≤ uImm u) || decide (uImm u % 8 = uDst u)))

/-! ### Operands (R154, R160) -/

/-- The head tile; an empty one where the dripline is empty. -/
def headTile (f : Fls) : Tile := f.dl.headD {}

/-- The value of an operand code at element index i = 32r + c. -/
def opVal (f : Fls) (u : DWord) (code i : Nat) : Int :=
  if code < 8 then Tab.get 0 (Tab.get {} f.t code).els i
  else if code < 0x10 then Tab.get 0 (Tab.get {} f.b (code - 8)).els (i % 32)
  else if code < 0x18 then Tab.get 0 (Tab.get {} f.b (code - 0x10)).els (i / 32)
  else if code = 0x18 then Tab.get 0 (headTile f).vals i
  else if code = 0x19 then Int.ofNat (Tab.get 0#8 (headTile f).rs (i / 32)).toNat - 127
  else if code = 0x1A then Int.ofNat ((Tab.get 0#8 (headTile f).rs (i / 32)).toNat % 64)
  else if code = 0x1B then sgn (uImm u) 16
  else if code = 0x1D then Int.ofNat i
  else 0

/-- The flags an operand carries (R168). -/
def opFlags (f : Fls) (code : Nat) : TileFlags :=
  if code < 8 then (Tab.get {} f.t code).flags
  else if code < 0x10 then (Tab.get {} f.b (code - 8)).flags
  else if code < 0x18 then (Tab.get {} f.b (code - 0x10)).flags
  else if code ≤ 0x1A then (headTile f).flags
  else {}

/-- The flags of every register operand a micro-operation reads (R168). -/
def readFlags (f : Fls) (u : DWord) : TileFlags :=
  let x := (operandCodes u).foldl (fun g c => orTile g (opFlags f c)) {}
  let y := if uOp u = 0x0D then orTile x (Tab.get {} f.b (uImm u % 8)).flags else x
  if uMen u || decide (uOp u = 0x0B) then orTile y (Tab.get {} f.m (uMsk u)).flags else y

/-- Bit i of a mask register. -/
def maskBit (f : Fls) (n i : Nat) : Bool := Tab.get false (Tab.get {} f.m n).bits i

/-- Is lane i masked (R165)? -/
def masked (f : Fls) (u : DWord) (i : Nat) : Bool := uMen u && !maskBit f (uMsk u) i

/-! ### The course of a run (R152, R159, R170) -/

/-- A micro-operation of 8 cycles ends; the last one ends its iteration: the head tile leaves the dripline. -/
def endUop (f : Fls) : Fls :=
  match f.run with
  | none => f
  | some r =>
    let f1 := { f with perfBusy := f.perfBusy + 8 }
    if r.k + 1 < r.uops.length then { f1 with run := some { r with k := r.k + 1 } }
    else
      let na := if r.src1 then r.na else Tab.upd 0 r.na (headTile f).arr (· + 1)
      { f1 with dl := if r.src1 then f.dl else f.dl.drop 1, done := r.n + 1, perfTiles := f.perfTiles + 1,
                run := some { r with k := 0, inIter := false, n := r.n + 1, na := na } }

/-- Record a fault and end the run (R172): every later F operation is discarded, the head tile stays. -/
def faultRun (f : Fls) (kind uop elem : Nat) : Fls :=
  { f with run := none, fq := [], faultPend := true, fValid := true, fKind := kind, fUop := uop, fElem := elem }

/-- The micro-operation that runs next, when an iteration is in progress. -/
def curUop (f : Fls) : Option (FRun × DWord) :=
  match f.run with
  | some r => if r.inIter then (r.uops[r.k]?).map fun u => (r, u) else none
  | none => none

/-- Run one micro-operation of opcode `op` by its effect on flowstone and, if it faults, the lowest faulting element. -/
def withUop (op : Nat) (ch : Fin 144) (s : State) (g : FRun → DWord → Fls → Fls × Option Nat) : Host.Outcome State Fault Refusal :=
  match curUop (chmOf s ch.val).fl with
  | some (r, u) =>
    if decide (uOp u = op) && !noClock s 0 then
      .next (updFl s ch.val fun f =>
        match g r u f with
        | (f1, none) => endUop f1
        | (f1, some e) => faultRun { f1 with perfBusy := f1.perfBusy + 8 } 3 r.k e)
    else .next s
  | none => .next s

/-! ### Element operations (R161, R163, R165) -/

/-- The result of one lane: a value and whether a `sat(x, 32)` clamped it; none is a lane fault. -/
abbrev Lane := Option (Int × Bool)

/-- A value with no saturation. -/
def plain (x : Int) : Lane := some (x, false)

/-- sat(x, 32) and whether it clamped. -/
def sat32 (x : Int) : Lane := some (sat x 32, decide (sat x 32 ≠ x))

/-- A bitwise operation on two 32-bit lanes. -/
def bits32 (g : BitVec 32 → BitVec 32 → BitVec 32) (x y : Int) : Int := (g (BitVec.ofInt 32 x) (BitVec.ofInt 32 y)).toInt

/-- A shift by a signed count (SHV): a count of 64 or more shifts everything out (R28, R30). -/
def shiftVar (a b : Int) : Lane := if 0 ≤ b then sat32 (shl a (min b.toNat 64)) else plain (asr a (min (-b).toNat 64))

/-- The lane of an unmasked element. -/
def laneOf (f : Fls) (u : DWord) (g : Nat → Int → Int → Int → Lane) (i : Nat) : Lane :=
  g i (opVal f u (uA u) i) (opVal f u (uB u) i) (opVal f u (uC u) i)

/-- The value of a lane, or the old one of a lane that faults. -/
def laneVal (old : Int) : Lane → Int
  | some (x, _) => x
  | none => old

/-- Did the lane clamp? -/
def laneHit : Lane → Bool
  | some (_, b) => b
  | none => false

/-- A micro-operation that writes a tile register element by element. -/
def elemUop (g : Fls → DWord → Nat → Int → Int → Int → Lane) (_r : FRun) (u : DWord) (f : Fls) : Fls × Option Nat :=
  let old := Tab.get {} f.t (uDst u)
  let lane (i : Nat) : Lane := if masked f u i then plain (Tab.get 0 old.els i) else laneOf f u (g f u) i
  let lanes := (List.range 1024).map lane
  let vals := ((List.range 1024).zip lanes).map fun e => laneVal (Tab.get 0 old.els e.1) e.2
  let hit := lanes.any laneHit
  let fl := readFlags f u
  ({ f with t := Tab.put {} f.t (uDst u) { els := tabInts vals, flags := { fl with accSat := fl.accSat || hit } },
            satBit := f.satBit || hit },
   (List.range 1024).find? fun i => (lane i).isNone)

/-- ADD. -/
def laneAdd (_ : Fls) (_ : DWord) (_ : Nat) (a b _c : Int) : Lane := sat32 (a + b)
/-- SUB. -/
def laneSub (_ : Fls) (_ : DWord) (_ : Nat) (a b _c : Int) : Lane := sat32 (a - b)
/-- MAC. -/
def laneMac (_ : Fls) (u : DWord) (_ : Nat) (a b c : Int) : Lane := sat32 (asr (a * b + c) (uSh u))
/-- SHV. -/
def laneShv (_ : Fls) (_ : DWord) (_ : Nat) (a b _c : Int) : Lane := shiftVar a b
/-- SRA. -/
def laneSra (_ : Fls) (u : DWord) (_ : Nat) (a _b _c : Int) : Lane := plain (asr a (uSh u))
/-- MIN. -/
def laneMin (_ : Fls) (_ : DWord) (_ : Nat) (a b _c : Int) : Lane := plain (if a ≤ b then a else b)
/-- MAX. -/
def laneMax (_ : Fls) (_ : DWord) (_ : Nat) (a b _c : Int) : Lane := plain (if a ≤ b then b else a)
/-- AND. -/
def laneAnd (_ : Fls) (_ : DWord) (_ : Nat) (a b _c : Int) : Lane := plain (bits32 (fun x y => x &&& y) a b)
/-- OR. -/
def laneOr (_ : Fls) (_ : DWord) (_ : Nat) (a b _c : Int) : Lane := plain (bits32 (fun x y => x ||| y) a b)
/-- XOR. -/
def laneXor (_ : Fls) (_ : DWord) (_ : Nat) (a b _c : Int) : Lane := plain (bits32 (fun x y => x ^^^ y) a b)
/-- SEL. -/
def laneSel (f : Fls) (u : DWord) (i : Nat) (a b _c : Int) : Lane := plain (if maskBit f (uMsk u) i then a else b)
/-- LUT: a lane fault outside 0 to 31. -/
def laneLut (f : Fls) (u : DWord) (_ : Nat) (a _b _c : Int) : Lane :=
  if decide (0 ≤ a) && decide (a < 32) then plain (Tab.get 0 (Tab.get {} f.b (uImm u % 8)).els a.toNat) else none
/-- QNT to n bits: m := b[7:0], e := b[12:8]. -/
def laneQnt (n : Nat) (_ : Fls) (_ : DWord) (_ : Nat) (a b _c : Int) : Lane :=
  plain (sat (asr (a * Int.ofNat (low b 8)) (low b 13 / 256)) n)

/-- UOP_ADD. -/
def execUopAdd (ch : Fin 144) (s : State) : Host.Outcome State Fault Refusal := withUop 0x01 ch s (elemUop laneAdd)
/-- UOP_SUB. -/
def execUopSub (ch : Fin 144) (s : State) : Host.Outcome State Fault Refusal := withUop 0x02 ch s (elemUop laneSub)
/-- UOP_MAC. -/
def execUopMac (ch : Fin 144) (s : State) : Host.Outcome State Fault Refusal := withUop 0x03 ch s (elemUop laneMac)
/-- UOP_SHV. -/
def execUopShv (ch : Fin 144) (s : State) : Host.Outcome State Fault Refusal := withUop 0x04 ch s (elemUop laneShv)
/-- UOP_SRA. -/
def execUopSra (ch : Fin 144) (s : State) : Host.Outcome State Fault Refusal := withUop 0x05 ch s (elemUop laneSra)
/-- UOP_MIN. -/
def execUopMin (ch : Fin 144) (s : State) : Host.Outcome State Fault Refusal := withUop 0x06 ch s (elemUop laneMin)
/-- UOP_MAX. -/
def execUopMax (ch : Fin 144) (s : State) : Host.Outcome State Fault Refusal := withUop 0x07 ch s (elemUop laneMax)
/-- UOP_AND. -/
def execUopAnd (ch : Fin 144) (s : State) : Host.Outcome State Fault Refusal := withUop 0x08 ch s (elemUop laneAnd)
/-- UOP_OR. -/
def execUopOr (ch : Fin 144) (s : State) : Host.Outcome State Fault Refusal := withUop 0x09 ch s (elemUop laneOr)
/-- UOP_XOR. -/
def execUopXor (ch : Fin 144) (s : State) : Host.Outcome State Fault Refusal := withUop 0x0A ch s (elemUop laneXor)
/-- UOP_SEL. -/
def execUopSel (ch : Fin 144) (s : State) : Host.Outcome State Fault Refusal := withUop 0x0B ch s (elemUop laneSel)
/-- UOP_LUT. -/
def execUopLut (ch : Fin 144) (s : State) : Host.Outcome State Fault Refusal := withUop 0x0D ch s (elemUop laneLut)
/-- UOP_QNT4. -/
def execUopQnt4 (ch : Fin 144) (s : State) : Host.Outcome State Fault Refusal := withUop 0x10 ch s (elemUop (laneQnt 4))
/-- UOP_QNT8. -/
def execUopQnt8 (ch : Fin 144) (s : State) : Host.Outcome State Fault Refusal := withUop 0x11 ch s (elemUop (laneQnt 8))

/-! ### CMP -/

/-- The signed compare of CMP (R161). -/
def cmpLane (cc : Nat) (a b : Int) : Bool :=
  match cc with
  | 0 => decide (a = b)
  | 1 => decide (a ≠ b)
  | 2 => decide (a < b)
  | 3 => decide (a ≤ b)
  | 4 => decide (b < a)
  | 5 => decide (b ≤ a)
  | _ => false

/-- A table of set bits from a list. -/
def tabBits (bs : List Bool) : Tab Bool := ((List.range bs.length).zip bs).filter fun e => e.2

/-- CMP writes a mask register; masked bits stay. -/
def cmpUop (_r : FRun) (u : DWord) (f : Fls) : Fls × Option Nat :=
  let bit (i : Nat) : Bool :=
    if masked f u i then maskBit f (uDst u) i else cmpLane (uImm u % 8) (opVal f u (uA u) i) (opVal f u (uB u) i)
  ({ f with m := Tab.put {} f.m (uDst u) { bits := tabBits ((List.range 1024).map bit), flags := readFlags f u } }, none)

/-- UOP_CMP. -/
def execUopCmp (ch : Fin 144) (s : State) : Host.Outcome State Fault Refusal := withUop 0x0C ch s cmpUop

/-! ### Searches (R162, R165) -/

/-- The best of candidates (value, index) from a start: strictly better replaces, so the lower index wins a tie. -/
def searchBest (isMax : Bool) : Option (Int × Int) → List (Int × Int) → Option (Int × Int)
  | b, [] => b
  | none, x :: xs => searchBest isMax (some x) xs
  | some b, x :: xs => searchBest isMax (some (if (if isMax then decide (b.1 < x.1) else decide (x.1 < b.1)) then x else b)) xs

/-- The element groups of a search: rows, columns, or the whole tile, each as (destination element, element indices). -/
def searchGroups (op : Nat) : List (Nat × List Nat) :=
  if op = 0x18 ∨ op = 0x19 then (List.range 32).map fun r => (r, (List.range 32).map fun c => 32 * r + c)
  else if op = 0x1A ∨ op = 0x1B then (List.range 32).map fun c => (c, (List.range 32).map fun r => 32 * r + c)
  else [(0, List.range 1024)]

/-- The index a search writes for element i (R162): with accumulate the run ordinal counts. -/
def searchIndex (op : Nat) (acc : Bool) (n i : Nat) : Int :=
  let one (base : Nat) (x : Nat) : Int := Int.ofNat (if acc then n * base + x else x)
  if op = 0x18 ∨ op = 0x19 then one 32 (i % 32) else if op = 0x1A ∨ op = 0x1B then one 32 (i / 32) else one 1024 i

/-- A search over operand a into the value register dst and the index register imm16[2:0]. -/
def searchUop (isMax : Bool) (r : FRun) (u : DWord) (f : Fls) : Fls × Option Nat :=
  let op := uOp u
  let acc := bitAt (uImm u) 3
  let vr := Tab.get {} f.b (uDst u)
  let ir := Tab.get {} f.b (uImm u % 8)
  let res (g : Nat × List Nat) : Int × Int :=
    let cand := (g.2.filter fun i => !masked f u i).map fun i => (opVal f u (uA u) i, searchIndex op acc r.n i)
    let start := if acc then some (Tab.get 0 vr.els g.1, Tab.get 0 ir.els g.1) else none
    (searchBest isMax start cand).getD (if isMax then (-(2 ^ 31), -1) else (2 ^ 31 - 1, -1))
  let outs := (searchGroups op).map fun g => (g.1, res g)
  let fl0 := readFlags f u
  let fl := if acc then orTile fl0 (orTile vr.flags ir.flags) else fl0
  let ve := outs.foldl (fun t o => Tab.put 0 t o.1 o.2.1) vr.els
  let ie := outs.foldl (fun t o => Tab.put 0 t o.1 o.2.2) ir.els
  ({ f with b := Tab.put {} (Tab.put {} f.b (uDst u) { els := ve, flags := fl }) (uImm u % 8) { els := ie, flags := fl } }, none)

/-- UOP_RMAX_R. -/
def execUopRmaxR (ch : Fin 144) (s : State) : Host.Outcome State Fault Refusal := withUop 0x18 ch s (searchUop true)
/-- UOP_RMIN_R. -/
def execUopRminR (ch : Fin 144) (s : State) : Host.Outcome State Fault Refusal := withUop 0x19 ch s (searchUop false)
/-- UOP_RMAX_C. -/
def execUopRmaxC (ch : Fin 144) (s : State) : Host.Outcome State Fault Refusal := withUop 0x1A ch s (searchUop true)
/-- UOP_RMIN_C. -/
def execUopRminC (ch : Fin 144) (s : State) : Host.Outcome State Fault Refusal := withUop 0x1B ch s (searchUop false)
/-- UOP_TMAX. -/
def execUopTmax (ch : Fin 144) (s : State) : Host.Outcome State Fault Refusal := withUop 0x1C ch s (searchUop true)
/-- UOP_TMIN. -/
def execUopTmin (ch : Fin 144) (s : State) : Host.Outcome State Fault Refusal := withUop 0x1D ch s (searchUop false)

/-! ### Stores (R166, R167) -/

/-- The address of output row r (R166). -/
def stoAddr (f : Fls) (r : FRun) (row : Nat) : Nat :=
  let arr := if r.src1 then 0 else (headTile f).arr
  let na := if r.src1 then r.n else Tab.get 0 r.na arr
  r.obase + arr * r.astride + na * r.tstride + row * r.pitch

/-- Is some lane of the row unmasked? -/
def rowLive (f : Fls) (u : DWord) (row : Nat) : Bool := (List.range 32).any fun c => !masked f u (32 * row + c)

/-- The rows a store writes. -/
def stoRows (f : Fls) (r : FRun) (u : DWord) : List Nat :=
  (List.range (if r.src1 then 32 else (headTile f).vrows)).filter (rowLive f u)

/-- Does a row's address fail the STORE check (R171)? -/
def stoBad (s : State) (ph n a : Nat) : Bool := decide (a % (4 * n) ≠ 0) || !inOwnPocket s ph a (4 * n) || !chmMay s ph a (4 * n) true

/-- The bytes of a row of n-bit elements, each with the bits of it that the store writes: a masked element keeps its byte or nibble (R167). -/
def stoBytes (f : Fls) (u : DWord) (n row : Nat) : List (Byte × Byte) :=
  let v (c : Nat) : Nat := low (sat (opVal f u (uA u) (32 * row + c)) n) n
  let live (c : Nat) (m : Nat) : Nat := if masked f u (32 * row + c) then 0 else m
  if n = 8 then (List.range 32).map fun c => (BitVec.ofNat 8 (v c), BitVec.ofNat 8 (live c 0xFF))
  else (List.range 16).map fun b => (BitVec.ofNat 8 (v (2 * b) + 16 * v (2 * b + 1)), BitVec.ofNat 8 (live (2 * b) 0x0F + live (2 * b + 1) 0xF0))

/-- The written bits of a byte over the old one. -/
def overByte (old : Byte) (e : Byte × Byte) : Byte := (old &&& ~~~e.2) ||| (e.1 &&& e.2)

/-- Write the bits given of one 8-byte word of the own pocket: one wholly written takes the writer's flags, one written in part is checked, its kept
bits stay and so do its flags, one of no written bit is not touched (R167, R183, R443). -/
def stoWord (s : State) (a : Nat) (bs : List (Byte × Byte)) (fl : WFlags) : State :=
  if bs.all (fun e => decide (e.2 = 0xFF#8)) then writeMem s a (bs.map (·.1)) fl
  else if bs.all (fun e => decide (e.2 = 0#8)) then s
  else match storeKey s a with
    | none => s
    | some k =>
      let s1 := partialCheck s a k a 0
      { s1 with mem := Memory.setBytes s1.mem k (((Memory.bytes s1.mem k 8).zip bs).map fun x => overByte x.1 x.2) }

/-- Write a row word by word. -/
def stoRowAt (s : State) (a : Nat) (bs : List (Byte × Byte)) (fl : WFlags) : State :=
  (List.range (bs.length / 8)).foldl (fun st k => stoWord st (a + 8 * k) ((bs.drop (8 * k)).take 8) fl) s

/-- One row of a store. -/
def stoRow (f : Fls) (r : FRun) (u : DWord) (n : Nat) (s : State) (row : Nat) : State :=
  let a := stoAddr f r row
  watchWrite (stoRowAt s a (stoBytes f u n row) (wordOfTile (readFlags f u))) a (4 * n)

/-- A job keeps the rows its runs stored, by the pocket offset each lies at and the rank of the chamber, for its layers' digests (R304). -/
def noteStores (s : State) (ph : Nat) (rows : List (Nat × List Byte × TileFlags)) : State :=
  updJob s (coreOf s ph).jobTag fun j =>
    let rank := j.chms.findIdx fun c => decide (c.2 = ph)
    if j.e.dig then { j with stores := j.stores ++ rows.map fun x => (rank * 2 ^ 20 + x.1 % 2 ^ 20, x.2) } else j

/-- STO4 and STO8: every written row is checked before any byte is written (R166, R171). -/
def storeUop (op n : Nat) (ch : Fin 144) (s : State) : Host.Outcome State Fault Refusal :=
  let f := (chmOf s ch.val).fl
  match curUop f with
  | some (r, u) =>
    if decide (uOp u = op) && !noClock s 0 then
      let rows := stoRows f r u
      match rows.find? fun row => stoBad s ch.val n (stoAddr f r row) with
      | some row =>
        .next (updFl s ch.val fun x => { faultRun { x with perfBusy := x.perfBusy + 8 } 4 r.k (32 * row) with faultAddr := stoAddr f r row % 2 ^ 40 })
      | none =>
        let s1 := rows.foldl (stoRow f r u n) s
        let done := rows.map fun row => (stoAddr f r row, (stoBytes f u n row).map (fun e => e.1 &&& e.2), readFlags f u)
        .next (updFl (noteStores s1 ch.val done) ch.val endUop)
    else .next s
  | none => .next s

/-- UOP_STO4. -/
def execUopSto4 (ch : Fin 144) (s : State) : Host.Outcome State Fault Refusal := storeUop 0x12 4 ch s
/-- UOP_STO8. -/
def execUopSto8 (ch : Fin 144) (s : State) : Host.Outcome State Fault Refusal := storeUop 0x13 8 ch s

/-! ### Launch, iterations, completion (R157 to R159) -/

/-- A header field outside the RECORD check (R171): count 0, nuop 0 or above 32, a reserved bit set. -/
def badRecord (h : List Word) : Bool :=
  decide (tf h 0 31 16 = 0) || decide (tf h 0 5 0 = 0) || decide (32 < tf h 0 5 0) || decide (tf h 0 15 9 ≠ 0) || decide (tf h 0 7 6 ≠ 0) ||
  decide (tf h 1 31 17 ≠ 0) || decide (tf h 3 15 8 ≠ 0) || decide (wordAt h 6 ≠ 0) || decide (wordAt h 7 ≠ 0)

/-- The micro-operations of a record from its words. -/
def uopsOf (ws : List Word) (n : Nat) : List DWord :=
  (List.range n).map fun k => BitVec.ofNat 64 (dword (wordAt ws (2 * k)) (wordAt ws (2 * k + 1)))

/-- The run a record describes. -/
def runOf (a : Nat) (h : List Word) (us : List DWord) : FRun :=
  { recAddr := a, count := tf h 0 31 16, src1 := decide (tf h 0 8 8 = 1), cen := decide (tf h 1 16 16 = 1), cairn := tf h 1 15 0,
    obase := wordAt h 2 + 2 ^ 32 * tf h 3 7 0, pitch := tf h 3 31 16, astride := wordAt h 4, tstride := wordAt h 5, uops := us }

/-- FLOWSTONE_LAUNCH: the FL.RUN at the head of the queue has its record read and checked (R157, R158, R171). A run that has launched leaves the
queue: it is not one of the 4 operations FLS_STAT.fq counts (log entry 46). -/
def execFlowstoneLaunch (ch : Fin 144) (s : State) : Host.Outcome State Fault Refusal :=
  let f := (chmOf s ch.val).fl
  if f.run.isSome || f.faultPend || noClock s 0 then .next s
  else match f.fq with
    | .run a :: q =>
      let bad (st : State) (kind k : Nat) : Host.Outcome State Fault Refusal := .next (updFl st ch.val fun x => faultRun x kind k 0)
      if decide (a % 32 ≠ 0) || !ownPlane s ch.val a 32 then bad s 1 0
      else
        let got := readMemWords s a 8
        let h := got.1
        let s1 := got.2.2
        if badRecord h || !ownPlane s ch.val a (32 + 8 * tf h 0 5 0) then bad s1 1 0
        else
          let got2 := readMemWords s1 (a + 32) (2 * tf h 0 5 0)
          let ws := got2.1
          let s2 := got2.2.2
          let r := runOf a h (uopsOf ws (tf h 0 5 0))
          match (List.range r.uops.length).find? fun k => badUop r.src1 (r.uops.getD k 0) with
          | some k => bad s2 2 k
          | none => .next (updFl s2 ch.val fun x => { x with fq := q, run := some r, done := 0, count := r.count })
    | _ => .next s

/-- TILE_ITERATION: the next iteration starts; with src = 0 it needs a tile (R159). -/
def execTileIteration (ch : Fin 144) (s : State) : Host.Outcome State Fault Refusal :=
  let f := (chmOf s ch.val).fl
  match f.run with
  | some r =>
    if !r.inIter && decide (r.n < r.count) && (r.src1 || !f.dl.isEmpty) && !noClock s 0 then
      .next (updFl s ch.val fun x => { x with run := some { r with inIter := true, k := 0 } })
    else .next s
  | none => .next s

/-- RUN_COMPLETION: after the last iteration the completion cairn is signalled (R159), over a network that has its clock. -/
def execRunCompletion (ch : Fin 144) (s : State) : Host.Outcome State Fault Refusal :=
  let h := chmOf s ch.val
  match h.fl.run with
  | some r =>
    if !r.inIter && decide (r.count ≤ r.n) && !noClock s 0 && !(r.cen && noClock s 1) then
      let s1 := updFl s ch.val fun x => { x with run := none }
      .next (if r.cen then cairnSignalFor s1 h.core.ctx r.cairn 1 else s1)
    else .next s
  | none => .next s

/-! ### Register moves (R155, R156) -/

/-- The signed 32-bit elements of bytes. -/
def elemsOf (bs : List Byte) (n : Nat) : Tab Int := tabInts ((leWords bs n).map (·.toInt))

/-- The bytes of n signed 32-bit elements. -/
def elemBytes (t : Tab Int) (n : Nat) : List Byte := wordBytes ((List.range n).map fun i => BitVec.ofInt 32 (Tab.get 0 t i))

/-- The bits of bytes, bit 0 of each first. -/
def maskOf (bs : List Byte) : Tab Bool := tabBits (bs.flatMap fun b => (List.range 8).map b.getLsbD)

/-- The 128 bytes of a mask register. -/
def maskBytes (t : Tab Bool) : List Byte :=
  (List.range 128).map fun k => BitVec.ofNat 8 ((List.range 8).foldl (fun a j => a + b2n (Tab.get false t (8 * k + j)) * 2 ^ j) 0)

/-- Bytes of a register image (R155). -/
def moveBytes : FMove → Nat
  | .ldt | .stt => 4096
  | .ldb | .stb | .ldm | .stm => 128

/-- One register move. -/
def doMove (s : State) (ph : Nat) (m : FMove) (n a : Nat) : State :=
  let f := (chmOf s ph).fl
  match m with
  | .ldt => let got := readBytes s a 4096
            updFl got.2.2.2 ph fun x => { x with t := Tab.put {} x.t n { els := elemsOf got.1 1024, flags := tileOfWord got.2.1 } }
  | .ldb => let got := readBytes s a 128
            updFl got.2.2.2 ph fun x => { x with b := Tab.put {} x.b n { els := elemsOf got.1 32, flags := tileOfWord got.2.1 } }
  | .ldm => let got := readBytes s a 128
            updFl got.2.2.2 ph fun x => { x with m := Tab.put {} x.m n { bits := maskOf got.1, flags := tileOfWord got.2.1 } }
  | .stt => watchWrite (writeMem s a (elemBytes (Tab.get {} f.t n).els 1024) (wordOfTile (Tab.get {} f.t n).flags)) a 4096
  | .stb => watchWrite (writeMem s a (elemBytes (Tab.get {} f.b n).els 32) (wordOfTile (Tab.get {} f.b n).flags)) a 128
  | .stm => watchWrite (writeMem s a (maskBytes (Tab.get {} f.m n).bits) (wordOfTile (Tab.get {} f.m n).flags)) a 128

/-- REGISTER_MOVE: the move at the head of the queue performs its access (R156), over a fabric that has its clock. -/
def execRegisterMove (ch : Fin 144) (s : State) : Host.Outcome State Fault Refusal :=
  let f := (chmOf s ch.val).fl
  if f.run.isSome || f.faultPend || noClock s 0 then .next s
  else match f.fq with
    | .move m n a :: q =>
      if noClock s 1 && !inOwnPocket s ch.val a (moveBytes m) then .next s else .next (doMove (updFl s ch.val fun x => { x with fq := q }) ch.val m n a)
    | _ => .next s

end Sys2Proof.Machine
end

