-- ==== Sys2Proof/Machine/Pin.lean ====
section
/-!
DEFINITION. PIN (chapter 18): pad functions and their switch (R434 to R436), GPIO (R438), and the pin commands (R439).
-/
namespace Sys2Proof.Machine

/-- A pad. -/
def padOf (s : State) (n : Nat) : Pad := Tab.get {} s.pin.pads n

/-- Change a pad. -/
def updPad (s : State) (n : Nat) (f : Pad → Pad) : State := { s with pin := { s.pin with pads := Tab.upd {} s.pin.pads n f } }

/-- Has the pad an alternate function (R434)? -/
def hasAlt (n : Nat) : Bool := decide (n ≤ 8) || (decide (12 ≤ n) && decide (n ≤ 17))

/-- The level on a pad whose function is GPIO: what the device drives, else what the board does (R438). -/
def liveLevel (s : State) (n : Nat) : Bool := if s.pin.oe.getLsbD n then s.pin.out.getLsbD n else (padOf s n).level

/-- The level a pad's GPIO input reads: frozen while the pad is not GPIO's (R435, R438). -/
def gpioLevel (s : State) (n : Nat) : Bool := (padOf s n).frozen.getD (liveLevel s n)

/-- PIN_GPIO_IN. -/
def gpioIn (s : State) : Word := (List.range 32).foldl (fun v n => setBit v n (gpioLevel s n)) 0

/-- What the alternate function of a pad drives (R434): the trace port, 0 unless debug scope bit 2 is granted; copies of a pulse output, of
SYNCE_RCLK and of CLKOUT. -/
def altLevel (s : State) (n : Nat) : Bool :=
  if n ≤ 8 then s.sec.scope.getLsbD 2 && Config.traceLevel s.free n
  else if n ≤ 15 then (pulseOf s (n - 12)).high != (pulseOf s (n - 12)).cfg.pol
  else Config.clockLevel s.free n

/-- What the device drives on a pad; nothing during a switch, when the keeper holds it, and while PORST_N is low (R435, R437). -/
def padOut (s : State) (n : Nat) : Option Bool :=
  let p := padOf s n
  if p.busy || s.crp.porstLow then none
  else if p.func then some (altLevel s n)
  else if s.pin.oe.getLsbD n then some (s.pin.out.getLsbD n) else none

/-- The function part of a write to PIN_MUXn on a pad at rest (R434, R435): a change begins a switch, and the old function's input
freezes; `live` is the level on the pad. -/
def startSwitch (n : Nat) (live : Bool) (p : Pad) (v : Word) : Pad :=
  let f := v.getLsbD 0
  if decide (f = p.func) || (f && !hasAlt n) then p
  else { p with func := f, busy := true, frozen := if f then some live else p.frozen }

/-- A write to PIN_MUXn (R436, R438): pull and drive act at once; during a switch the function part is held, the latest alone. -/
def muxWrite (n : Nat) (live : Bool) (v : Word) (p : Pad) : Pad :=
  let q := { p with pull := fld v.toNat 5 4, drive := fld v.toNat 9 8 }
  if q.busy then { q with held := some v } else startSwitch n live q v

/-- A write to PIN_MUXn. -/
def padWrite (s : State) (n : Nat) (v : Word) : State := updPad s n (muxWrite n (liveLevel s n) v)

/-- PIN_MUXn. -/
def execPinMuxn (n : Fin 32) (v : Word) (s : State) : Host.Outcome State Fault Refusal := .next (padWrite s n.val v)

/-- The end of a pad's switch (R435, R436): the new function's input sees the pad; a held write is applied. -/
def endSwitch (n : Nat) (live : Bool) (p : Pad) : Pad :=
  if !p.busy then p
  else
    let q := { p with busy := false, held := none, frozen := if p.func then p.frozen else none }
    match p.held with
    | some v => startSwitch n live q v
    | none => q

/-- PIN_SWITCH_END. -/
def execPinSwitchEnd (n : Fin 32) (s : State) : Host.Outcome State Fault Refusal := .next (updPad s n.val (endSwitch n.val (liveLevel s n.val)))

/-- GPIO_INPUT_CHANGE. -/
def execGpioInputChange (n : Fin 32) (level : Bool) (s : State) : Host.Outcome State Fault Refusal :=
  .next (updPad s n.val fun p => { p with level := level })

/-- The PIN_MUXn word a PIN_SET asks for (R439). -/
def pinSetWord (ws : List Word) : Word := mkWord [(tf ws 1 17 16, 8), (tf ws 1 13 12, 4), (tf ws 1 8 8, 0)]

/-- PIN_SET: the reply waits for the end of the switch. -/
def execPinSet (pair : Fin 176) (s : State) : Host.Outcome State Fault Refusal :=
  withNci 0x0808 [0x3311F] pair s fun ws st =>
    let n := tf ws 1 4 0
    { bad := decide (tf ws 1 13 12 = 3), st := padWrite st n (pinSetWord ws)
      after := fun c t => if c = 0 then { t with nci := t.nci.map fun r => { r with waits := 2 + n } } else t }

/-- GPIO_SET: bits outside mask keep their values. -/
def execGpioSet (pair : Fin 176) (s : State) : Host.Outcome State Fault Refusal :=
  withNci 0x0809 [0xFFFFFFFF, 0xFFFFFFFF, 0xFFFFFFFF] pair s fun ws st =>
    let m := ws.getD 1 0
    { words := [gpioIn st]
      st := { st with pin := { st.pin with oe := (st.pin.oe &&& ~~~m) ||| (ws.getD 2 0 &&& m), out := (st.pin.out &&& ~~~m) ||| (ws.getD 3 0 &&& m) } } }

end Sys2Proof.Machine
end

