-- ==== Sys2Proof/Machine/RegWrite.lean ====
section
/-!
DEFINITION. Register accesses without a row of their own (R7, R8, R19 to R23): by a chamber, by the Lantern, by the host through BAR0 (R314) and
through the configuration space (R311, R312), and the reads that the Lantern and the host make there (log entry 12).
-/
namespace Sys2Proof.Machine

/-! ### The Lantern -/

/-- The schedule that stands for a pulse output, a waiting one first. -/
def pulseCfgOf (s : State) (p : Nat) : PulseCfg := (pulseOf s p).pend.getD (pulseOf s p).cfg

/-- Put a schedule in force, after the pulse in progress (R361). -/
def putPulseCfg (s : State) (p : Nat) (c : PulseCfg) : State :=
  let x := pulseOf s p
  setPulse s p (if x.high then { x with pend := some c } else { cfg := c, next := firstPulse c (now s) })

/-- The CRP registers (R409). -/
def crpReg (c : Crp) (o : Nat) : Option Word :=
  if 0x20 ≤ o ∧ o < 0x30 then (if o % 4 = 0 then let k := Tab.get {} c.clksel ((o - 0x20) / 4); some (mkWord [(b2n k.busy, 31), (b2n k.sel, 0)]) else none)
  else match o with
  | 0x00 => some (resetCauseWord c)
  | 0x04 => some 0
  | 0x08 => some (mkWord [(b2n c.blkBusy, 30), (b2n c.blkGal, 12), (c.blkG, 8), (c.blkP, 0)])
  | 0x10 => some (clkmonWord c)
  | 0x14 => some (pllStatWord c)
  | 0x40 => some (mkWord [(b2n c.coEn, 31), (c.coSrc, 16), (c.coDiv, 0)])
  | 0x50 => some (mkWord [(c.vmax, 16), (c.vmin, 0)])
  | 0x54 => some (pwrCapWord c)
  | 0x58 => some (pwrStatWord c)
  | 0x5C => some (tempWord c)
  | 0x60 => some (mkWord [(b2n c.wdtEn, 31), (c.wdtPeriod, 0)])
  | _ => none

/-- The PIN registers (R438). -/
def pinReg (s : State) (o : Nat) : Option Word :=
  if o < 0x80 ∧ o % 4 = 0 then let p := padOf s (o / 4); some (mkWord [(b2n p.busy, 31), (p.drive, 8), (p.pull, 4), (b2n p.func, 0)])
  else if o = 0x100 then some s.pin.out
  else if o = 0x104 then some s.pin.oe
  else if o = 0x108 then some (gpioIn s)
  else none

/-- The ERR registers (R415). An entry that holds nothing reads 0. -/
def errReg (e : Err) (o : Nat) : Option Word :=
  if o % 4 ≠ 0 then none
  else if o = 0 then some (mkWord [(b2n e.ovf, 31), (e.maxsev, 24), (e.hw.length, 0)])
  else if o = 4 then some e.prod
  else if o = 8 then some e.cons
  else if o = 12 then some (mkWord [(e.injClass, 16), (e.injUnit, 0)])
  else if 0x100 ≤ o ∧ o < 0x180 then some (Tab.get 0 e.cnt ((o - 0x100) / 4))
  else if 0x1000 ≤ o ∧ o < 0x3000 then
    let i := (o - 0x1000) / 32
    some (match (e.hw.zipIdx).find? fun x => decide ((e.cons.toNat + x.2) % 256 = i) with
      | some x => wordAt (entWords x.1) ((o - 0x1000) / 4 % 8)
      | none => 0)
  else none

/-- The 64-bit registers of TIME and VIC that the Lantern alone reaches (R349, R364). -/
def lanternReg64 (s : State) (a : Nat) : Option DWord :=
  if a = 0x1801000010 then some (BitVec.ofNat 64 s.lvic.vbase)
  else if 0x1802002000 ≤ a ∧ a < 0x1802002080 ∧ a % 0x20 = 0 then some (BitVec.ofNat 64 (pulseCfgOf s ((a - 0x1802002000) / 0x20)).start)
  else match a with
  | 0x1802000000 => some (BitVec.ofNat 64 (now s))
  | 0x1802000008 => some (BitVec.ofNat 64 (s.time.da.cnt / 2 ^ 32))
  | 0x1802000010 => some (BitVec.ofNat 64 (s.time.db.cnt / 2 ^ 32))
  | 0x1802000020 => some s.time.slot
  | 0x1802000028 => some s.time.ppsIn
  | _ => reg64 s a

/-- The 32-bit registers that the Lantern reaches (R19). -/
def lanternReg32 (s : State) (a : Nat) : Option Word :=
  if 0x1801000000 ≤ a ∧ a < 0x1802000000 then vicRead s.lvic 8 (a - 0x1801000000)
  else if a = 0x1802000018 then some (timeStatWord s.time)
  else if a = 0x180200001C then some (w32 (low (s.time.offset / 2 ^ 32) 32))
  else if 0x1802002000 ≤ a ∧ a < 0x1802002080 then
    let c := pulseCfgOf s ((a - 0x1802002000) / 0x20)
    match a % 0x20 with
    | 0x08 => some (w32 c.period)
    | 0x0C => some (w32 c.width)
    | 0x10 => some (mkWord [(b2n c.pol, 1), (b2n c.en, 0)])
    | _ => none
  else if 0x1803000000 ≤ a ∧ a < 0x1804000000 then crpReg s.crp (a - 0x1803000000)
  else if 0x180B000000 ≤ a ∧ a < 0x180C000000 then pinReg s (a - 0x180B000000)
  else if 0x180C000000 ≤ a ∧ a < 0x180D000000 then errReg s.err (a - 0x180C000000)
  else reg32 s 144 a

/-- Does the address lie in a block, or a part of one, whose registers the spec does not list: SEC, FH, ECHO, EMX, LNT but its pairs, the
gallery-wide window? What they do stands in the commands alone (log entry 45). -/
def unlisted (a : Nat) : Bool :=
  (decide (0x1800000000 ≤ a) && decide (a < 0x1801000000) && (mbxOf a).isNone) ||
  (decide (0x1804000000 ≤ a) && decide (a < 0x1806000000)) || (decide (0x1807000000 ≤ a) && decide (a < 0x1809000000)) ||
  (decide (0x1810000000 ≤ a) && decide (a < 0x1811000000) && decide (0xF0000 ≤ (a - 0x1810000000) % 0x100000))

/-- A 64-bit register takes both words (R21). -/
def lanternWrite64 (s : State) (a : Nat) (v : DWord) : State :=
  if a = 0x1801000010 then { s with lvic := { s.lvic with vbase := v.toNat % 2 ^ 40 / 8192 * 8192 } }
  else if 0x1802002000 ≤ a ∧ a < 0x1802002080 then
    let p := (a - 0x1802002000) / 0x20
    putPulseCfg s p { pulseCfgOf s p with start := v.toNat }
  else wroteBy .lantern a (regWrite64 s .lantern a v)

/-- A pulse register (R364). -/
def pulseWrite (s : State) (o : Nat) (v : Word) : State :=
  let p := o / 0x20
  let c := pulseCfgOf s p
  match o % 0x20 with
  | 0x08 => putPulseCfg s p { c with period := v.toNat }
  | 0x0C => putPulseCfg s p { c with width := v.toNat }
  | 0x10 => putPulseCfg s p { c with pol := v.getLsbD 1, en := v.getLsbD 0 }
  | _ => s

/-- The Lantern's interrupt controller (R349). -/
def lvicWrite (s : State) (o : Nat) (v : Word) : State :=
  if o = 8 then { s with lvic := vicEnd s.lvic }
  else match vicWrite s.lvic 8 o v with
    | some x => { s with lvic := x }
    | none => s

/-- A CRP register but CRP_BLK_RST (R409). A monitor bit stays while its source is stopped (R384); a value outside a loop's envelope is clamped
(R399). -/
def crpWrite (s : State) (o : Nat) (v : Word) : State :=
  let c := s.crp
  let b8 : BitVec 8 := BitVec.ofNat 8 v.toNat
  if o = 0x00 then { s with crp := { c with causeSeen := c.causeSeen &&& ~~~b8 } }
  else if o = 0x04 then crpResetCtl s v
  else if o = 0x10 then { s with crp := { c with monRef := c.monRef && (!v.getLsbD 8 || c.stopRef), monPll := c.monPll &&& (~~~b8 ||| c.stopPll) } }
  else if o = 0x14 then { s with crp := { c with pllLost := c.pllLost &&& ~~~(BitVec.ofNat 8 (v.toNat / 256)) } }
  else if 0x20 ≤ o ∧ o < 0x30 ∧ o % 4 = 0 then crpClksel s ((o - 0x20) / 4) v
  else if o = 0x40 then crpClkout s v
  else if o = 0x50 then { s with crp := { c with vmax := envelope (fld v.toNat 25 16) 650 850, vmin := envelope (fld v.toNat 9 0) 650 (envelope (fld v.toNat 25 16) 650 850) } }
  else if o = 0x54 then
    let d := { c with twarn := envelope (fld v.toNat 23 16) 70 105, cap := envelope (fld v.toNat 8 0) 150 320 }
    { s with crp := d, sts := { s.sts with thermal := aboveTwarn d } }
  else if o = 0x60 then crpWdt s v
  else s

/-- A PIN register (R436, R438). -/
def pinWrite (s : State) (o : Nat) (v : Word) : State :=
  if o < 0x80 ∧ o % 4 = 0 then padWrite s (o / 4) v
  else if o = 0x100 then { s with pin := { s.pin with out := v } }
  else if o = 0x104 then { s with pin := { s.pin with oe := v } }
  else s

/-- An ERR register (R415). A write to ERR_CONS that passes ERR_PROD or moves backwards is ignored; an entry is freed once it stands in the
fault log (R413). -/
def errWrite (s : State) (o : Nat) (v : Word) : State :=
  if o = 0 then (if v.getLsbD 31 then { s with err := { s.err with ovf := false } } else s)
  else if o = 8 then (if (v - s.err.cons).toNat ≤ (s.err.prod - s.err.cons).toNat then moveEntries s (v - s.err.cons).toNat else s)
  else if o = 12 then errInj s v
  else s

/-- A 32-bit register write by the Lantern (R19). -/
def lanternWrite32 (s : State) (a : Nat) (v : Word) : State :=
  if 0x1801000000 ≤ a ∧ a < 0x1802000000 then lvicWrite s (a - 0x1801000000) v
  else if 0x1802002000 ≤ a ∧ a < 0x1802002080 then pulseWrite s (a - 0x1802002000) v
  else if 0x1803000000 ≤ a ∧ a < 0x1804000000 then crpWrite s (a - 0x1803000000) v
  else if 0x180B000000 ≤ a ∧ a < 0x180C000000 then pinWrite s (a - 0x180B000000) v
  else if 0x180C000000 ≤ a ∧ a < 0x180D000000 then errWrite s (a - 0x180C000000) v
  else if unlisted a then s
  else wroteBy .lantern a (regWrite32 s .lantern a v)

/-- Put a 32-bit write of the Lantern in force; a register that is not listed is an address error (R17). -/
def lanternPut (s : State) (a : Nat) (v : Word) : State :=
  if (lanternReg32 s a).isNone && !unlisted a then lanternExc s 5 a else lanternWrite32 s a v

/-- A write by the Lantern: 32 bits, with the staging of wider registers (R20, R21). -/
def lanternWrite (s : State) (a : Nat) (v : Word) : Host.Outcome State Fault Refusal :=
  if a = 0x1803000008 then crpBlkRst s v
  else match lanternReg64 s a with
    | some _ => .next { s with stage := Tab.put none s.stage (latchKey 144 a) (some v) }
    | none => match (if a < 4 then none else lanternReg64 s (a - 4)) with
      | some cur =>
        let k := latchKey 144 (a - 4)
        let lo := stagedLow s k cur
        .next (lanternWrite64 { s with stage := Tab.put none s.stage k none } (a - 4) (BitVec.ofNat 64 (dword lo.toNat v.toNat)))
      | none => .next (lanternPut s a v)

/-- What a read by the Lantern clears or latches (R7, R20, R415). -/
def lanternClears (s : State) (a : Nat) : State :=
  if a = 0x180C000000 then { s with err := { s.err with maxsev := 0 } } else readClears s a

/-- A 32-bit read by the Lantern, with the latch of wider registers (R20). -/
def lanternRead (s : State) (a : Nat) : State :=
  match lanternReg64 s a with
  | some v => emit { s with latch := Tab.put none s.latch (latchKey 144 a) (some (w32hi v.toNat)) } (.regData (w32 v.toNat))
  | none => match (if a < 4 then none else lanternReg64 s (a - 4)) with
    | some v =>
      let k := latchKey 144 (a - 4)
      emit { s with latch := Tab.put none s.latch k none } (.regData ((Tab.get none s.latch k).getD (w32hi v.toNat)))
    | none => match lanternReg32 s a with
      | some v => emit (lanternClears s a) (.regData v)
      | none => if unlisted a then s else lanternExc s 5 a

/-- A register access of the Lantern: 32 bits wide and aligned, at a mapped address, else an address error (R17, R18, R20). -/
def lanternAccess (s : State) (a size : Nat) (op : RegOp) : Host.Outcome State Fault Refusal :=
  if isMemory a then .next s
  else if decide (spaceOf a ≠ .csr) || decide (size ≠ 4) || decide (a % 4 ≠ 0) then .next (lanternExc s 5 a)
  else match op with
    | .write v => lanternWrite s a (w32 v.toNat)
    | .read => .next (lanternRead s a)

/-! ### A chamber -/

/-- A register write of a chamber program: 32 bits wide and aligned, at a mapped address, in a block granted to it (R17, R20, R23). -/
def chamberWrite (s : State) (ch : Fin 144) (addr size : Nat) (v : Word) : State :=
  let a := unalias ch.val addr
  if isMemory a then s
  else if decide (spaceOf a ≠ .csr) || decide (size ≠ 4) || decide (a % 4 ≠ 0) || csrHole s ch.val a then chmRefused s ch 5 addr
  else if csrGranted s ch.val a then wroteBy (.chamber ch) addr (csrWrite s (.chamber ch) a v)
  else chmRefused s ch 6 addr

/-! ### The host -/

/-- A write to LEQ_CONS (R332). -/
def leqCons (s : State) (v : Word) : State :=
  if (v - s.leq.cons).toNat ≤ (s.leq.prod - s.leq.cons).toNat then { s with leq := { s.leq with cons := v } } else s

/-- A 4-byte write through BAR0 (R314, R328, R332). A write to the read-only LEQ_PROD has no effect (R7). -/
def hostWrite32 (s : State) (off : Nat) (v : Word) : State :=
  if off < 0x20000 then
    match mbxWrite s .host (off / 0x1000) (off % 0x1000) v with
    | .ok t => t
    | .bus t => t
    | .addr _ => barDropped s 0 off v
  else if 0x100000 ≤ off ∧ off < 0x120000 then (if off % 8 = 0 then doorbellWrite s ((off - 0x100000) / 8) v false else s)
  else if off = 0x300000 then s
  else if off = 0x300004 then leqCons s v
  else if off = 0x300008 then (if v.getLsbD 0 then { s with leq := { s.leq with ovf := false } } else s)
  else barDropped s 0 off v

/-- The 64-bit registers of BAR0: STS_ASLOT and STS_TICK_TIME (R316). -/
def hostReg64 (s : State) (off : Nat) : Option DWord :=
  match off with
  | 0x200018 => some s.sts.aslot
  | 0x200020 => some s.sts.tickTime
  | _ => none

/-- A write through BAR0: 4 or 8 bytes, aligned; an 8-byte write acts as two, low word first, but for a doorbell and for a 64-bit register,
on which it is one access (R314). -/
def hostRegWrite (off size : Nat) (v : DWord) (s : State) : State :=
  let lo := w32 v.toNat
  let hi := w32hi v.toNat
  if size = 4 ∧ off % 4 = 0 then hostWrite32 s off lo
  else if size = 8 ∧ off % 8 = 0 then
    (if 0x100000 ≤ off ∧ off < 0x120000 then doorbellWrite s ((off - 0x100000) / 8) lo (hi.getLsbD 0)
     else if (hostReg64 s off).isSome then barDropped s 0 off lo
     else hostWrite32 (hostWrite32 s off lo) (off + 4) hi)
  else barDropped s 0 off lo

/-- STS_SESSIONS: bit k is a session open on host pair k (R316). -/
def stsSessions (s : State) : Word := (List.range 32).foldl (fun v k => setBit v k (pairOf s k).isOpen) 0

/-- A 32-bit register of the status page (R316). -/
def stsReg (s : State) (o : Nat) : Option Word :=
  match o with
  | 0x00 => some (stsIdWord s)
  | 0x04 => some (stsState s)
  | 0x08 => some s.sts.nerzon
  | 0x0C => some s.sts.epoch
  | 0x10 => some s.sts.heartbeat
  | 0x14 => some (stsSessions s)
  | 0x28 => some (resetCauseWord s.crp)
  | 0x2C => some (stsAlarm s)
  | _ => none

/-- What a doorbell reads: the device's index (R328). A ring that is not set has none: a free value. -/
def doorbellRead (s : State) (n : Nat) : Word :=
  let r := ringOf s n
  if !r.isSet then Config.unsetBell s.free else if r.hostWrites then r.c else r.p

/-- A word of the late-error queue window (R332). A record never written reads 0. -/
def leqReg (q : Leq) (o : Nat) : Option Word :=
  if o = 0 then some q.prod
  else if o = 4 then some q.cons
  else if o = 8 then some (mkWord [(q.lost, 16), (b2n q.ovf, 0)])
  else if 0x1000 ≤ o ∧ o < 0x11000 then some (wordAt (Tab.get [] q.recs ((o - 0x1000) / 32)) ((o - 0x1000) / 4 % 8))
  else none

/-- A 4-byte read through BAR0; none is a BAR0 access error (R314). A 64-bit register has a latch (R20); the high word of a doorbell reads 0
(R7). -/
def hostRead32 (s : State) (off : Nat) : Option (Word × State) :=
  if off < 0x20000 then (mbxRead s (off / 0x1000) (off % 0x1000)).map fun w => (w, s)
  else if 0x100000 ≤ off ∧ off < 0x120000 then some (if off % 8 = 0 then (doorbellRead s ((off - 0x100000) / 8), draw s) else (0, s))
  else match hostReg64 s off with
    | some v => some (w32 v.toNat, { s with latch := Tab.put none s.latch (latchKey 145 off) (some (w32hi v.toNat)) })
    | none => match hostReg64 s (off - 4) with
      | some v =>
        let k := latchKey 145 (off - 4)
        some ((Tab.get none s.latch k).getD (w32hi v.toNat), { s with latch := Tab.put none s.latch k none })
      | none =>
        if 0x200000 ≤ off ∧ off < 0x201000 then (stsReg s (off - 0x200000)).map fun w => (w, s)
        else if 0x300000 ≤ off ∧ off < 0x311000 then (leqReg s.leq (off - 0x300000)).map fun w => (w, s)
        else none

/-- A read through BAR0: a read of which a half is an access error completes as Unsupported Request as a whole (R314). -/
def hostRegRead (off size : Nat) (s : State) : State :=
  if size = 4 ∧ off % 4 = 0 then
    match hostRead32 s off with
    | some (v, t) => emit t (.barData (BitVec.ofNat 64 v.toNat))
    | none => emit s .unsupported
  else if size = 8 ∧ off % 8 = 0 then
    match hostRead32 s off with
    | some (lo, t) => match hostRead32 t (off + 4) with
      | some (hi, u) => emit u (.barData (BitVec.ofNat 64 (dword lo.toNat hi.toNat)))
      | none => emit s .unsupported
    | none => emit s .unsupported
  else emit s .unsupported

/-! ### The configuration space (R311, R312) -/

/-- Every ring's write-back that fell due while Bus Master Enable was 0 is written (R312, R326). -/
def writeBacksDue (s : State) : State :=
  s.rings.foldl (fun t r => if r.2.wbDue && !ringHeld t r.2 then ringWriteBack t r.1 else t) s

/-- Is the BAR2 of the function implemented (R311)? -/
def hasBar2 (s : State) : Bool := s.sec.bootcfg.getLsbD 2

/-- A write to a field of the configuration space, numbered as log entry 12 says. -/
def configWrite (s : State) (n : Nat) (v : DWord) : State :=
  match n with
  | 0 =>
    let s1 := { s with pcie := { s.pcie with bme := v.getLsbD 0 } }
    if v.getLsbD 0 then writeBacksDue (releaseHeld s1) else s1
  | 1 => { s with pcie := { s.pcie with msiEn := v.getLsbD 0 } }
  | 2 => { s with pcie := { s.pcie with msiMask := w32 v.toNat } }
  | 3 => { s with pcie := { s.pcie with d3 := decide (v.toNat % 4 = 3) } }
  | 6 => { s with pcie := { s.pcie with bar0 := BitVec.ofNat 64 (v.toNat / 2 ^ 24 * 2 ^ 24) } }
  | 8 => if hasBar2 s then { s with pcie := { s.pcie with bar2 := BitVec.ofNat 64 (v.toNat / 2 ^ 30 * 2 ^ 30) } } else s
  | 11 => { s with pcie := { s.pcie with msiAddr := BitVec.ofNat 64 (v.toNat / 4 * 4) } }
  | 13 => { s with pcie := { s.pcie with msiData := BitVec.ofNat 16 v.toNat } }
  | 14 => { s with pcie := { s.pcie with mps := min 2 (v.toNat % 8) } }
  | 15 => { s with pcie := { s.pcie with mrrs := min 5 (v.toNat % 8) } }
  | 16 => { s with pcie := { s.pcie with advisory := s.pcie.advisory && !v.getLsbD 0 } }
  | _ => s

/-- What a field of the configuration space reads (R311). A BAR reads its address with its type bits: 64-bit, and for BAR2 prefetchable. -/
def configRead (s : State) (n : Nat) : DWord :=
  let p := s.pcie
  match n with
  | 0 => BitVec.ofNat 64 (b2n p.bme)
  | 1 => BitVec.ofNat 64 (b2n p.msiEn)
  | 2 => BitVec.ofNat 64 p.msiMask.toNat
  | 3 => if p.d3 then 3 else 0
  | 4 => 0x64801E5D
  | 5 => 0x12000002
  | 6 => BitVec.ofNat 64 (p.bar0.toNat + 4)
  | 8 => if hasBar2 s then BitVec.ofNat 64 (p.bar2.toNat + 12) else 0
  | 11 => p.msiAddr
  | 13 => BitVec.ofNat 64 p.msiData.toNat
  | 14 => BitVec.ofNat 64 p.mps
  | 15 => BitVec.ofNat 64 p.mrrs
  | 16 => BitVec.ofNat 64 (b2n p.advisory)
  | 17 => BitVec.ofNat 64 p.msiHeld.toNat
  | _ => 0

/-- REGISTER_WRITE: the write of a chamber program or of the Lantern, and the host's through BAR0 and through the configuration space, with
the reads of the same registers (log entry 12). A chamber program reads with LD. -/
def execRegisterWrite (who : Agent) (addr size : Nat) (op : RegOp) (s : State) : Host.Outcome State Fault Refusal :=
  match who with
  | .chamber ch => match op with
    | .write v => .next (chamberWrite s ch addr size (w32 v.toNat))
    | .read => .next s
  | .lantern => lanternAccess s addr size op
  | .host => .next (hostDoor s (match op with | .write v => hostRegWrite addr size v | .read => hostRegRead addr size))
  | .pciConfig => .next (match op with | .write v => configWrite s addr v | .read => emit s (.cfgData (configRead s addr)))

end Sys2Proof.Machine
end

