-- ==== Sys2Proof/Machine/Sec.lean ====
section
/-!
DEFINITION. SEC (chapter 16): debug unlock by signed challenge (R407), the security version and key revocation (R406), the status (R410).
-/
namespace Sys2Proof.Machine

/-- The identifier a debug challenge returns: the first 16 bytes of the unique identifier (R410). -/
def uidBytes (x : Sec) : List Byte := (x.uid ++ List.replicate 16 0#8).take 16

/-- DEBUG_CHALLENGE: a new single-use nonce. -/
def execDebugChallenge (pair : Fin 176) (s : State) : Host.Outcome State Fault Refusal :=
  withNci 0x0804 [] pair s fun _ st =>
    let st1 := draw st
    let n := Config.nonce st.free % 2 ^ 256
    { denied := st.sec.bootcfg.getLsbD 5 || decide (8 ≤ st.sec.failures)
      words := leWords (leBytes n 32) 8 ++ leWords (uidBytes st.sec) 4
      st := { st1 with sec := { st1.sec with nonce := some n } } }

/-- Does a response, a public key and a signature, unlock the scope for a nonce (R407)? -/
def unlockOk (x : Sec) (nonce scope : Nat) (resp : List Byte) : Bool :=
  let key := resp.take 97
  decide (Config.sha384 key = x.dbgHash) &&
  Config.ecdsaP384 key (Config.sha384 (leBytes nonce 32 ++ uidBytes x ++ leBytes scope 4)) (resp.drop 97)

/-- DEBUG_UNLOCK: the nonce is used up; a response that does not verify counts as a failed unlock. -/
def execDebugUnlock (pair : Fin 176) (s : State) : Host.Outcome State Fault Refusal :=
  withNci 0x0805 [0xF, 0xFFFFFFFF, 0xFF] pair s fun ws st =>
    let a := dword (wordAt ws 2) (wordAt ws 3)
    let scope := tf ws 1 3 0
    let got := readBytes st a 193
    let resp := got.1
    let st1 := got.2.2.2
    let okay := match st.sec.nonce with | some n => unlockOk st.sec n scope resp && !st.sec.bootcfg.getLsbD 5 | none => false
    { bad := decide (0x0C00000000 < a + 193), denied := !okay
      st := { st1 with sec := { st1.sec with nonce := none, scope := BitVec.ofNat 4 scope } }
      after := fun c t =>
        if decide (c = 4) && (sessionCtx st pair.val).isNone && st.sec.nonce.isSome then
          let got2 := readBytes t a 193
          let t1 := got2.2.2.2
          { t1 with sec := { t1.sec with nonce := none, failures := t1.sec.failures + 1 } }
        else t }

/-- SEC_STATUS. -/
def execSecStatus (pair : Fin 176) (s : State) : Host.Outcome State Fault Refusal :=
  withNci 0x0806 [] pair s fun _ st =>
    let x := st.sec
    { words := [mkWord [(x.secver, 24), (x.revoked.toNat, 16), (x.kslot, 8), (x.scope.toNat, 0)], x.bootcfg], st := st }

/-- Does a commit leave bits to program (R406)? -/
def otpNeeds (x : Sec) : Bool := decide (x.secver < x.imgSecver) || decide (x.imgRevoke &&& ~~~x.revoked ≠ 0)

/-- SEC_COMMIT_VERSION: program pulses begin; the reply waits for the last one. -/
def execSecCommitVersion (pair : Fin 176) (s : State) : Host.Outcome State Fault Refusal :=
  withNci 0x0807 [] pair s fun _ st =>
    { denied := st.sec.imgRevoke.getLsbD st.sec.kslot
      st := { st with sec := { st.sec with pulse := otpNeeds st.sec } }
      after := fun c t => if c = 0 then { t with nci := t.nci.map fun r => { r with waits := 1 } } else t }

end Sys2Proof.Machine
end

