-- ==== Sys2Proof/Machine/Dispatch.lean ====
section
/-!
DEFINITION. The meaning of every command: one arm per constructor of Instr, each one direct call of its meaning.
-/
namespace Sys2Proof.Machine

def exec (i : Instr) (s : State) : Host.Outcome State Fault Refusal :=
  match i with
  | .nop ch pos b => Sys2Proof.Machine.execNop ch pos b s
  | .add ch pos b => Sys2Proof.Machine.execAdd ch pos b s
  | .sub ch pos b => Sys2Proof.Machine.execSub ch pos b s
  | .and_ ch pos b => Sys2Proof.Machine.execAnd ch pos b s
  | .or_ ch pos b => Sys2Proof.Machine.execOr ch pos b s
  | .xor_ ch pos b => Sys2Proof.Machine.execXor ch pos b s
  | .shl ch pos b => Sys2Proof.Machine.execShl ch pos b s
  | .shr ch pos b => Sys2Proof.Machine.execShr ch pos b s
  | .sra ch pos b => Sys2Proof.Machine.execSra ch pos b s
  | .constL ch pos b => Sys2Proof.Machine.execConstL ch pos b s
  | .constH ch pos b => Sys2Proof.Machine.execConstH ch pos b s
  | .cmpEq ch pos b => Sys2Proof.Machine.execCmpEq ch pos b s
  | .cmpNe ch pos b => Sys2Proof.Machine.execCmpNe ch pos b s
  | .cmpLt ch pos b => Sys2Proof.Machine.execCmpLt ch pos b s
  | .cmpLe ch pos b => Sys2Proof.Machine.execCmpLe ch pos b s
  | .cmpGt ch pos b => Sys2Proof.Machine.execCmpGt ch pos b s
  | .cmpGe ch pos b => Sys2Proof.Machine.execCmpGe ch pos b s
  | .cmpLtu ch pos b => Sys2Proof.Machine.execCmpLtu ch pos b s
  | .cmpGeu ch pos b => Sys2Proof.Machine.execCmpGeu ch pos b s
  | .mul ch pos b => Sys2Proof.Machine.execMul ch pos b s
  | .gets ch b => Sys2Proof.Machine.execGets ch b s
  | .sets ch b => Sys2Proof.Machine.execSets ch b s
  | .ld ch b => Sys2Proof.Machine.execLd ch b s
  | .st ch b => Sys2Proof.Machine.execSt ch b s
  | .siphRun ch b => Sys2Proof.Machine.execSiphRun ch b s
  | .siphPoll ch b => Sys2Proof.Machine.execSiphPoll ch b s
  | .fence ch b => Sys2Proof.Machine.execFence ch b s
  | .aldw ch b => Sys2Proof.Machine.execAldw ch b s
  | .aswp ch b => Sys2Proof.Machine.execAswp ch b s
  | .acfg ch b => Sys2Proof.Machine.execAcfg ch b s
  | .stream ch b => Sys2Proof.Machine.execStream ch b s
  | .flRun ch b => Sys2Proof.Machine.execFlRun ch b s
  | .flLdt ch b => Sys2Proof.Machine.execFlLdt ch b s
  | .flStt ch b => Sys2Proof.Machine.execFlStt ch b s
  | .flLdb ch b => Sys2Proof.Machine.execFlLdb ch b s
  | .flStb ch b => Sys2Proof.Machine.execFlStb ch b s
  | .flLdm ch b => Sys2Proof.Machine.execFlLdm ch b s
  | .flStm ch b => Sys2Proof.Machine.execFlStm ch b s
  | .br ch b => Sys2Proof.Machine.execBr ch b s
  | .call ch b => Sys2Proof.Machine.execCall ch b s
  | .jmp ch b => Sys2Proof.Machine.execJmp ch b s
  | .callr ch b => Sys2Proof.Machine.execCallr ch b s
  | .loopBr ch b => Sys2Proof.Machine.execLoopBr ch b s
  | .loopBrN ch b => Sys2Proof.Machine.execLoopBrN ch b s
  | .cnSig ch b => Sys2Proof.Machine.execCnSig ch b s
  | .cnAdd ch b => Sys2Proof.Machine.execCnAdd ch b s
  | .cnWait ch b => Sys2Proof.Machine.execCnWait ch b s
  | .cnTry ch b => Sys2Proof.Machine.execCnTry ch b s
  | .cnSigr ch b => Sys2Proof.Machine.execCnSigr ch b s
  | .cnAddr ch b => Sys2Proof.Machine.execCnAddr ch b s
  | .cnWaitr ch b => Sys2Proof.Machine.execCnWaitr ch b s
  | .cnTryr ch b => Sys2Proof.Machine.execCnTryr ch b s
  | .iret ch b => Sys2Proof.Machine.execIret ch b s
  | .exret ch b => Sys2Proof.Machine.execExret ch b s
  | .jobEnd ch b => Sys2Proof.Machine.execJobEnd ch b s
  | .break_ ch b => Sys2Proof.Machine.execBreak ch b s
  | .loadCompletion ch => Sys2Proof.Machine.execLoadCompletion ch s
  | .aldwComplete ch => Sys2Proof.Machine.execAldwComplete ch s
  | .aswpTakesEffect ch => Sys2Proof.Machine.execAswpTakesEffect ch s
  | .acfgTakesEffect ch => Sys2Proof.Machine.execAcfgTakesEffect ch s
  | .streamBlockStart ch a => Sys2Proof.Machine.execStreamBlockStart ch a s
  | .sumpAddition ch a => Sys2Proof.Machine.execSumpAddition ch a s
  | .driplineTake ch => Sys2Proof.Machine.execDriplineTake ch s
  | .interruptDelivery vic => Sys2Proof.Machine.execInterruptDelivery vic s
  | .streamHold ch => Sys2Proof.Machine.execStreamHold ch s
  | .interruptEntry ch => Sys2Proof.Machine.execInterruptEntry ch s
  | .flowstoneLaunch ch => Sys2Proof.Machine.execFlowstoneLaunch ch s
  | .tileIteration ch => Sys2Proof.Machine.execTileIteration ch s
  | .registerMove ch => Sys2Proof.Machine.execRegisterMove ch s
  | .uopAdd ch => Sys2Proof.Machine.execUopAdd ch s
  | .uopSub ch => Sys2Proof.Machine.execUopSub ch s
  | .uopMac ch => Sys2Proof.Machine.execUopMac ch s
  | .uopShv ch => Sys2Proof.Machine.execUopShv ch s
  | .uopSra ch => Sys2Proof.Machine.execUopSra ch s
  | .uopMin ch => Sys2Proof.Machine.execUopMin ch s
  | .uopMax ch => Sys2Proof.Machine.execUopMax ch s
  | .uopAnd ch => Sys2Proof.Machine.execUopAnd ch s
  | .uopOr ch => Sys2Proof.Machine.execUopOr ch s
  | .uopXor ch => Sys2Proof.Machine.execUopXor ch s
  | .uopSel ch => Sys2Proof.Machine.execUopSel ch s
  | .uopCmp ch => Sys2Proof.Machine.execUopCmp ch s
  | .uopLut ch => Sys2Proof.Machine.execUopLut ch s
  | .uopQnt4 ch => Sys2Proof.Machine.execUopQnt4 ch s
  | .uopQnt8 ch => Sys2Proof.Machine.execUopQnt8 ch s
  | .uopSto4 ch => Sys2Proof.Machine.execUopSto4 ch s
  | .uopSto8 ch => Sys2Proof.Machine.execUopSto8 ch s
  | .uopRmaxR ch => Sys2Proof.Machine.execUopRmaxR ch s
  | .uopRminR ch => Sys2Proof.Machine.execUopRminR ch s
  | .uopRmaxC ch => Sys2Proof.Machine.execUopRmaxC ch s
  | .uopRminC ch => Sys2Proof.Machine.execUopRminC ch s
  | .uopTmax ch => Sys2Proof.Machine.execUopTmax ch s
  | .uopTmin ch => Sys2Proof.Machine.execUopTmin ch s
  | .runCompletion ch => Sys2Proof.Machine.execRunCompletion ch s
  | .flowstoneFault ch => Sys2Proof.Machine.execFlowstoneFault ch s
  | .chainStart q => Sys2Proof.Machine.execChainStart q s
  | .descriptorFetch q => Sys2Proof.Machine.execDescriptorFetch q s
  | .gather q => Sys2Proof.Machine.execGather q s
  | .block q => Sys2Proof.Machine.execBlock q s
  | .fill q => Sys2Proof.Machine.execFill q s
  | .link q => Sys2Proof.Machine.execLink q s
  | .descriptorComplete q => Sys2Proof.Machine.execDescriptorComplete q s
  | .patrolScrub => Sys2Proof.Machine.execPatrolScrub s
  | .slotTick => Sys2Proof.Machine.execSlotTick s
  | .symbolTick => Sys2Proof.Machine.execSymbolTick s
  | .jobStart ch => Sys2Proof.Machine.execJobStart ch s
  | .deadlineFence tag => Sys2Proof.Machine.execDeadlineFence tag s
  | .fenceTimeout unit tag => Sys2Proof.Machine.execFenceTimeout unit tag s
  | .chmParity ch => Sys2Proof.Machine.execChmParity ch s
  | .faultFence ch => Sys2Proof.Machine.execFaultFence ch s
  | .decParity unit => Sys2Proof.Machine.execDecParity unit s
  | .fabric gal retryOk => Sys2Proof.Machine.execFabric gal retryOk s
  | .fhParity flow sym => Sys2Proof.Machine.execFhParity flow sym s
  | .compareFire k => Sys2Proof.Machine.execCompareFire k s
  | .pulseEdge p => Sys2Proof.Machine.execPulseEdge p s
  | .ppsInEdge => Sys2Proof.Machine.execPpsInEdge s
  | .sourceLost dom => Sys2Proof.Machine.execSourceLost dom s
  | .domainLocked dom => Sys2Proof.Machine.execDomainLocked dom s
  | .frameReceive lport fcsOk f => Sys2Proof.Machine.execFrameReceive lport fcsOk f s
  | .windowOpen flow sym => Sys2Proof.Machine.execWindowOpen flow sym s
  | .windowClose flow sym => Sys2Proof.Machine.execWindowClose flow sym s
  | .squeezeConversion => Sys2Proof.Machine.execSqueezeConversion s
  | .grantRead flow => Sys2Proof.Machine.execGrantRead flow s
  | .cplaneSend flow => Sys2Proof.Machine.execCplaneSend flow s
  | .uplaneSend flow => Sys2Proof.Machine.execUplaneSend flow s
  | .linkDown lport => Sys2Proof.Machine.execLinkDown lport s
  | .linkUp lport => Sys2Proof.Machine.execLinkUp lport s
  | .preambleDetection ech m pos => Sys2Proof.Machine.execPreambleDetection ech m pos s
  | .syncMiss ech => Sys2Proof.Machine.execSyncMiss ech s
  | .syncWordFound ech m => Sys2Proof.Machine.execSyncWordFound ech m s
  | .lengthField ech syms => Sys2Proof.Machine.execLengthField ech syms s
  | .capture ech m pos => Sys2Proof.Machine.execCapture ech m pos s
  | .packetEnd ech syms ferr => Sys2Proof.Machine.execPacketEnd ech syms ferr s
  | .flitReceive link f => Sys2Proof.Machine.execFlitReceive link f s
  | .linkRetrain link => Sys2Proof.Machine.execLinkRetrain link s
  | .retrainEnd link failed => Sys2Proof.Machine.execRetrainEnd link failed s
  | .reroute link => Sys2Proof.Machine.execReroute link s
  | .noResponse tag => Sys2Proof.Machine.execNoResponse tag s
  | .linkRetry link partner => Sys2Proof.Machine.execLinkRetry link partner s
  | .decSubmit ch hi => Sys2Proof.Machine.execDecSubmit ch hi s
  | .decodeTaskStart => Sys2Proof.Machine.execDecodeTaskStart s
  | .decodeTaskEnd unit => Sys2Proof.Machine.execDecodeTaskEnd unit s
  | .encodeTaskStart => Sys2Proof.Machine.execEncodeTaskStart s
  | .encodeTaskEnd unit => Sys2Proof.Machine.execEncodeTaskEnd unit s
  | .timedBarrierOpen cairn => Sys2Proof.Machine.execTimedBarrierOpen cairn s
  | .cnAddn who cairn n => Sys2Proof.Machine.execCnAddn who cairn n s
  | .vicEoi => Sys2Proof.Machine.execVicEoi s
  | .vicBindk who ch k v => Sys2Proof.Machine.execVicBindk who ch k v s
  | .mbxReqPost who pair => Sys2Proof.Machine.execMbxReqPost who pair s
  | .mbxRspPost who pair => Sys2Proof.Machine.execMbxRspPost who pair s
  | .mbxReqAck who pair code => Sys2Proof.Machine.execMbxReqAck who pair code s
  | .mbxRspAck who pair code => Sys2Proof.Machine.execMbxRspAck who pair code s
  | .replyPost => Sys2Proof.Machine.execReplyPost s
  | .doorbell ring idx arm => Sys2Proof.Machine.execDoorbell ring idx arm s
  | .ringPushGo ch ring => Sys2Proof.Machine.execRingPushGo ch ring s
  | .waitingRecordWritten ring => Sys2Proof.Machine.execWaitingRecordWritten ring s
  | .bar2Access off acc => Sys2Proof.Machine.execBar2Access off acc s
  | .pcieConventionalReset => Sys2Proof.Machine.execPcieConventionalReset s
  | .heldMsiSend vec => Sys2Proof.Machine.execHeldMsiSend vec s
  | .registerWrite who addr size op => Sys2Proof.Machine.execRegisterWrite who addr size op s
  | .chmCtlHaltReq ch halt => Sys2Proof.Machine.execChmCtlHaltReq ch halt s
  | .chmCtlStep ch => Sys2Proof.Machine.execChmCtlStep ch s
  | .sessionOpen pair => Sys2Proof.Machine.execSessionOpen pair s
  | .sessionClose pair => Sys2Proof.Machine.execSessionClose pair s
  | .nciInfo pair => Sys2Proof.Machine.execNciInfo pair s
  | .ringSet pair => Sys2Proof.Machine.execRingSet pair s
  | .ringClear pair => Sys2Proof.Machine.execRingClear pair s
  | .ringStatus pair => Sys2Proof.Machine.execRingStatus pair s
  | .cairnSet pair => Sys2Proof.Machine.execCairnSet pair s
  | .cairnGet pair => Sys2Proof.Machine.execCairnGet pair s
  | .memPartSet pair => Sys2Proof.Machine.execMemPartSet pair s
  | .memPartGet pair => Sys2Proof.Machine.execMemPartGet pair s
  | .memImageBind pair => Sys2Proof.Machine.execMemImageBind pair s
  | .placeSetChambers pair => Sys2Proof.Machine.execPlaceSetChambers pair s
  | .placeMapGet pair => Sys2Proof.Machine.execPlaceMapGet pair s
  | .placeReport pair => Sys2Proof.Machine.execPlaceReport pair s
  | .memBar2Set pair => Sys2Proof.Machine.execMemBar2Set pair s
  | .ctxSet pair => Sys2Proof.Machine.execCtxSet pair s
  | .ctxClear pair => Sys2Proof.Machine.execCtxClear pair s
  | .tmplSet pair => Sys2Proof.Machine.execTmplSet pair s
  | .tmplClear pair => Sys2Proof.Machine.execTmplClear pair s
  | .surveyStage pair => Sys2Proof.Machine.execSurveyStage pair s
  | .surveyCommit pair => Sys2Proof.Machine.execSurveyCommit pair s
  | .surveyCommitCancel pair => Sys2Proof.Machine.execSurveyCommitCancel pair s
  | .schedStatus pair => Sys2Proof.Machine.execSchedStatus pair s
  | .cfgCommit pair => Sys2Proof.Machine.execCfgCommit pair s
  | .detSet pair => Sys2Proof.Machine.execDetSet pair s
  | .fhPortSet pair => Sys2Proof.Machine.execFhPortSet pair s
  | .fhPortStatus pair => Sys2Proof.Machine.execFhPortStatus pair s
  | .fhFlowSet pair => Sys2Proof.Machine.execFhFlowSet pair s
  | .fhFlowArm pair => Sys2Proof.Machine.execFhFlowArm pair s
  | .fhFlowStop pair => Sys2Proof.Machine.execFhFlowStop pair s
  | .fhFlowStatus pair => Sys2Proof.Machine.execFhFlowStatus pair s
  | .chainSet pair => Sys2Proof.Machine.execChainSet pair s
  | .chainClear pair => Sys2Proof.Machine.execChainClear pair s
  | .chainStatus pair => Sys2Proof.Machine.execChainStatus pair s
  | .harqFlush pair => Sys2Proof.Machine.execHarqFlush pair s
  | .ldpcOffsetsSet pair => Sys2Proof.Machine.execLdpcOffsetsSet pair s
  | .decStatus pair => Sys2Proof.Machine.execDecStatus pair s
  | .echoStreamSet pair => Sys2Proof.Machine.execEchoStreamSet pair s
  | .echoChSet pair => Sys2Proof.Machine.execEchoChSet pair s
  | .echoChDisable pair => Sys2Proof.Machine.execEchoChDisable pair s
  | .echoChStatus pair => Sys2Proof.Machine.execEchoChStatus pair s
  | .echoStreamStatus pair => Sys2Proof.Machine.execEchoStreamStatus pair s
  | .timeDomainSet pair => Sys2Proof.Machine.execTimeDomainSet pair s
  | .timeDomainAdj pair => Sys2Proof.Machine.execTimeDomainAdj pair s
  | .timeSwitch pair => Sys2Proof.Machine.execTimeSwitch pair s
  | .timeTickSet pair => Sys2Proof.Machine.execTimeTickSet pair s
  | .timePulseSet pair => Sys2Proof.Machine.execTimePulseSet pair s
  | .timeCmpGrant pair => Sys2Proof.Machine.execTimeCmpGrant pair s
  | .timeStatus pair => Sys2Proof.Machine.execTimeStatus pair s
  | .synceSet pair => Sys2Proof.Machine.execSynceSet pair s
  | .emxJoin pair answered => Sys2Proof.Machine.execEmxJoin pair answered s
  | .emxLinkStatus pair => Sys2Proof.Machine.execEmxLinkStatus pair s
  | .emxTunnelSet pair => Sys2Proof.Machine.execEmxTunnelSet pair s
  | .emxDoorbell pair => Sys2Proof.Machine.execEmxDoorbell pair s
  | .emxStatus pair far => Sys2Proof.Machine.execEmxStatus pair far s
  | .crpStatus pair => Sys2Proof.Machine.execCrpStatus pair s
  | .clkoutSet pair => Sys2Proof.Machine.execClkoutSet pair s
  | .reset pair => Sys2Proof.Machine.execReset pair s
  | .resetTakesEffect => Sys2Proof.Machine.execResetTakesEffect s
  | .powerSet pair => Sys2Proof.Machine.execPowerSet pair s
  | .debugChallenge pair => Sys2Proof.Machine.execDebugChallenge pair s
  | .debugUnlock pair => Sys2Proof.Machine.execDebugUnlock pair s
  | .secStatus pair => Sys2Proof.Machine.execSecStatus pair s
  | .secCommitVersion pair => Sys2Proof.Machine.execSecCommitVersion pair s
  | .pinSet pair => Sys2Proof.Machine.execPinSet pair s
  | .gpioSet pair => Sys2Proof.Machine.execGpioSet pair s
  | .faultLogRead pair => Sys2Proof.Machine.execFaultLogRead pair s
  | .faultUnitGet pair => Sys2Proof.Machine.execFaultUnitGet pair s
  | .faultUnitSet pair => Sys2Proof.Machine.execFaultUnitSet pair s
  | .telemetryGet pair => Sys2Proof.Machine.execTelemetryGet pair s
  | .faultInject pair => Sys2Proof.Machine.execFaultInject pair s
  | .faultTrace pair => Sys2Proof.Machine.execFaultTrace pair s
  | .mctpMessage vid req unit => Sys2Proof.Machine.execMctpMessage vid req unit s
  | .headlampRelease h => Sys2Proof.Machine.execHeadlampRelease h s
  | .stsHeartbeat => Sys2Proof.Machine.execStsHeartbeat s
  | .crpBlkRst v => Sys2Proof.Machine.execCrpBlkRst v s
  | .blockResetDone => Sys2Proof.Machine.execBlockResetDone s
  | .crpResetCtl v => Sys2Proof.Machine.execCrpResetCtl v s
  | .crpClkseld d v => Sys2Proof.Machine.execCrpClkseld d v s
  | .clockSwitchDone d => Sys2Proof.Machine.execClockSwitchDone d s
  | .crpWdt v => Sys2Proof.Machine.execCrpWdt v s
  | .watchdogExpiry => Sys2Proof.Machine.execWatchdogExpiry s
  | .errInj v => Sys2Proof.Machine.execErrInj v s
  | .pinMuxn n v => Sys2Proof.Machine.execPinMuxn n v s
  | .pinSwitchEnd n => Sys2Proof.Machine.execPinSwitchEnd n s
  | .porstN level => Sys2Proof.Machine.execPorstN level s
  | .oscillatorCountEnd => Sys2Proof.Machine.execOscillatorCountEnd s
  | .sysRstN level => Sys2Proof.Machine.execSysRstN level s
  | .clockStop src => Sys2Proof.Machine.execClockStop src s
  | .referenceReturn => Sys2Proof.Machine.execReferenceReturn s
  | .pllLockLoss k => Sys2Proof.Machine.execPllLockLoss k s
  | .lockstepMismatch => Sys2Proof.Machine.execLockstepMismatch s
  | .overtemp tj => Sys2Proof.Machine.execOvertemp tj s
  | .overtempRecovery => Sys2Proof.Machine.execOvertempRecovery s
  | .tjAboveTwarn tj => Sys2Proof.Machine.execTjAboveTwarn tj s
  | .limiterAct power tj => Sys2Proof.Machine.execLimiterAct power tj s
  | .bootImageCheck secondary img => Sys2Proof.Machine.execBootImageCheck secondary img s
  | .nerzonReady selfTest => Sys2Proof.Machine.execNerzonReady selfTest s
  | .storeCompletion ch => Sys2Proof.Machine.execStoreCompletion ch s
  | .limiterRelease => Sys2Proof.Machine.execLimiterRelease s
  | .adaptiveVoltageLoop need => Sys2Proof.Machine.execAdaptiveVoltageLoop need s
  | .otpProgramPulseEnd => Sys2Proof.Machine.execOtpProgramPulseEnd s
  | .linkNoPartner link => Sys2Proof.Machine.execLinkNoPartner link s
  | .gpioInputChange n level => Sys2Proof.Machine.execGpioInputChange n level s
  | .ptpMessageSend => Sys2Proof.Machine.execPtpMessageSend s
  | .esmcSend => Sys2Proof.Machine.execEsmcSend s

end Sys2Proof.Machine
end

