-- ==== Sys2Proof/Safety.lean ====
section
/-!
DEFINITION. What the statements mean by a safe run, and the conditions they name: memory in its canonical form, a bundle that can issue, a
command Nerzon takes and accepts.
-/
namespace Sys2Proof.Machine

/-- Device memory and the host memory the rings write hold their canonical form. -/
def memoryOk (s : State) : Prop := Memory.wf s.mem = true ∧ Memory.wf s.hostMem = true

/-- A run is safe for as long as every step answers a next state and memory stays canonical. -/
def safeStep (s : State) : Prop := memoryOk s ∧ ∃ t, step s = .next t

/-- The fetch is good, the bundle is legal, and no recorded flowstone fault waits (R99, R147, R172). -/
def bundleClean (s : State) (ch : Fin 144) (b : Bundle) : Bool :=
  (fetchExcs s ch.val).isEmpty && (illegalPos b).isNone && !(chmOf s ch.val).fl.faultPend

/-- The chamber can issue the legal bundle its pc fetches (R92). -/
def atIssue (s : State) (ch : Fin 144) (b : Bundle) : Bool := canIssue (chmOf s ch.val) && !noClock s 0 && bundleClean s ch b

/-- Every present position of the bundle has been named once `p` is. -/
def lastNamed (s : State) (ch : Fin 144) (b : Bundle) (p : Pos) : Bool :=
  match namedWith (coreOf s ch.val) b p with
  | some d => (allPos.filter (present b)).all d.contains
  | none => false

/-- The bundle holds operation `op` at position `p` and nothing else, and its predicate reads 1 (R95). -/
def holdsAlone (op : BOp) (s : State) (ch : Fin 144) (p : Pos) (b : Bundle) : Bool :=
  decide (allPos.filter (present b) = [p]) && decide (opOf b p = some op) && readPred (coreOf s ch.val) (fld (posField b p) 3 0)

/-- A bundle that holds one operation alone can issue, and its position is named. -/
def issuesAlone (op : BOp) (s : State) (ch : Fin 144) (p : Pos) (b : Bundle) : Bool := atIssue s ch b && lastNamed s ch b p && holdsAlone op s ch p b

/-- A bundle that holds one LD or ST alone waits for its access outside the own pocket, and the chamber and the fabric have their clocks
(R150, R385). -/
def accessOut (op : BOp) (store : Bool) (s : State) (ch : Fin 144) (b : Bundle) : Bool :=
  holdsAlone op s ch .m b && !noClock s 0 && !noClock s 1 &&
  match (coreOf s ch.val).issue with
  | some i => decide (i.word = b) && decide (i.effs = []) && (match i.acc with | some a => decide (a.store = store) | none => false)
  | none => false

/-- The exceptions an LD or ST of the position field can raise from its address alone (R17, R105, R129, R150). -/
def accessExc (s : State) (ch : Fin 144) (f : Nat) (fin : Bool) : List (Nat × Nat × Nat) :=
  accExc (inOwnPocket s ch.val (accAddr (coreOf s ch.val) f) 1) fin (posCode .m) (accAddr (coreOf s ch.val) f) (accSize f)

/-- The command that names operation `op` at position `p` of bundle `b`; the operations of one position alone name no position. -/
def opCmd (op : BOp) (ch : Fin 144) (p : Pos) (b : Bundle) : Instr :=
  match op with
  | .nop => .nop ch p b
  | .add => .add ch p b
  | .sub => .sub ch p b
  | .and_ => .and_ ch p b
  | .or_ => .or_ ch p b
  | .xor_ => .xor_ ch p b
  | .shl => .shl ch p b
  | .shr => .shr ch p b
  | .sra => .sra ch p b
  | .constL => .constL ch p b
  | .constH => .constH ch p b
  | .cmpEq => .cmpEq ch p b
  | .cmpNe => .cmpNe ch p b
  | .cmpLt => .cmpLt ch p b
  | .cmpLe => .cmpLe ch p b
  | .cmpGt => .cmpGt ch p b
  | .cmpGe => .cmpGe ch p b
  | .cmpLtu => .cmpLtu ch p b
  | .cmpGeu => .cmpGeu ch p b
  | .mul => .mul ch p b
  | .gets => .gets ch b
  | .sets => .sets ch b
  | .ld => .ld ch b
  | .st => .st ch b
  | .siphRun => .siphRun ch b
  | .siphPoll => .siphPoll ch b
  | .fence => .fence ch b
  | .aldw => .aldw ch b
  | .aswp => .aswp ch b
  | .acfg => .acfg ch b
  | .stream => .stream ch b
  | .flRun => .flRun ch b
  | .flLdt => .flLdt ch b
  | .flStt => .flStt ch b
  | .flLdb => .flLdb ch b
  | .flStb => .flStb ch b
  | .flLdm => .flLdm ch b
  | .flStm => .flStm ch b
  | .br => .br ch b
  | .call => .call ch b
  | .jmp => .jmp ch b
  | .callr => .callr ch b
  | .loopBr => .loopBr ch b
  | .loopBrN => .loopBrN ch b
  | .cnSig => .cnSig ch b
  | .cnAdd => .cnAdd ch b
  | .cnWait => .cnWait ch b
  | .cnTry => .cnTry ch b
  | .cnSigr => .cnSigr ch b
  | .cnAddr => .cnAddr ch b
  | .cnWaitr => .cnWaitr ch b
  | .cnTryr => .cnTryr ch b
  | .iret => .iret ch b
  | .exret => .exret ch b
  | .jobEnd => .jobEnd ch b
  | .break_ => .break_ ch b

/-- A memory byte as the address map names it: none where a pocket is offline. -/
def byteAt (s : State) (a : Nat) : Option Byte := (storeKey s a).map (Memory.byte s.mem)

/-- Does the code unit that holds a byte carry a latent uncorrectable error (R181)? -/
def latentUe (s : State) (a : Nat) : Bool := (storeKey s a).any fun k => decide (Tab.get EccErr.none_ s.memErr (eccKey k) = .ue)

/-- The tables of chambers, cairns and rings hold their canonical form. -/
def tablesOk (s : State) : Prop := Tab.wf {} s.chms = true ∧ Tab.wf {} s.cairns = true ∧ Tab.wf {} s.rings = true

/-- The operations of the X positions (R130). -/
def isXOp (op : BOp) : Bool :=
  [.nop, .add, .sub, .and_, .or_, .xor_, .shl, .shr, .sra, .constL, .constH, .cmpEq, .cmpNe, .cmpLt, .cmpLe, .cmpGt, .cmpGe, .cmpLtu, .cmpGeu,
   .mul, .gets, .sets].contains op

/-- A code that names a register (R128). -/
def regCode (n : Nat) : Prop := n < 0x20 ∨ (0x40 ≤ n ∧ n < 0x80)

/-- Nerzon takes a system session's request of command `op`, whose epoch is good and which sets no reserved bit, and comes upon no
inconsistency of its own (R321 to R324). -/
def asks (op : Nat) (masks : List Nat) (pair : Fin 176) (s : State) : Bool :=
  takesRequest s pair.val && decide (tf (reqWords s pair.val) 0 31 16 = op) && knownOp op &&
  !staleEpoch s pair.val op (tf (reqWords s pair.val) 0 15 8) && !reservedBits masks (reqWords s pair.val) && (sessionCtx s pair.val).isNone && !s.sts.internal

/-- State `t` with the reply to the request in `s` held: a return code, and words from word 2 on. -/
def replied (s : State) (pair : Fin 176) (code : Nat) (more : List Word) (t : State) : State :=
  { t with nci := some { pair := pair.val, code := code, words := replyWords (reqWords s pair.val) code more } }

end Sys2Proof.Machine
end

