-- ==== Sys2Proof/Certificates/Slice0/Obligations.lean ====
section
/-!
DEFINITION. The statements about the model, one proposition each, for the provers. A statement that cites a log entry says in its docstring what
is the model's choice.
-/

open Sys2Proof Sys2Proof.Machine

/-! ### Running commands and the state after reset -/

/-- A step runs the command at the front of the queue, on the state with the queue's rest. The queue is the model's own (log entry 1). -/
def Obligations.StepRunsFront : Prop :=
  ∀ (c : Instr) (r : List Instr) (s : State), step { s with pending := c :: r } = exec c { s with pending := r }

/-- On an empty queue a step is one cycle of the time clock (log entry 1, the model’s choice): with no domain active and the time clock running,
device time moves on by 4 ns, and the bytes of memory, the cairns, rings, mailboxes, flows and the queue stay as they are. -/
def Obligations.IdleIsOneCycle : Prop :=
  ∀ s : State, s.pending = [] → noClock s 3 = false → s.time.active = none →
    ∃ t, step s = .next t ∧ t.time.free = s.time.free + 4 * 2 ^ 32 ∧ t.mem = s.mem ∧ t.hostMem = s.hostMem ∧ t.cairns = s.cairns ∧ t.rings = s.rings ∧
      t.pairs = s.pairs ∧ t.flows = s.flows ∧ t.pending = []

/-- What a power-on reset leaves (R390, R409, R437, R438): the cause is por, the power window and cap are the Reset column's, all multiplexers select
the reference, no pad drives, no mailbox is full, no cairn, ring or context is set. p holding 1 before any job, the state 0 of STS and the pads' pull
and drive are as the rules and log entry 3 (the model's choice) name them. -/
def Obligations.ResetState : Prop :=
  State.reset.pending = [] ∧ State.reset.crp.causeLast = 0x01 ∧ State.reset.crp.causeSeen = 0x01 ∧ State.reset.crp.vmax = 0x352 ∧
  State.reset.crp.vmin = 0x28A ∧ State.reset.crp.twarn = 0x5F ∧ State.reset.crp.cap = 0x140 ∧ State.reset.crp.wdtPeriod = 0x3E8 ∧
  (∀ d, (Tab.get {} State.reset.crp.clksel d).sel = false) ∧ State.reset.pin.oe = 0 ∧ State.reset.pin.out = 0 ∧
  (∀ n, (padOf State.reset n).func = false ∧ (padOf State.reset n).pull = 1 ∧ (padOf State.reset n).drive = 1) ∧
  (∀ k, (pairOf State.reset k).req.full = false ∧ (pairOf State.reset k).rsp.full = false ∧ (pairOf State.reset k).isOpen = false) ∧
  (∀ n, (cairnOf State.reset n).typ = 0) ∧ (∀ n, (ringOf State.reset n).isSet = false) ∧ (∀ c, (ctxOf State.reset c).isSet = false) ∧
  (∀ g, (chmOf State.reset g).core.p = 1 ∧ (chmOf State.reset g).core.active = false) ∧ State.reset.sts.state = 0

/-! ### Operations of a bundle (chapter 05) -/

/-- The two-operand X operations (R130): alone in a bundle that can issue, with predicate 1, each writes its result to rd and the bundle issues in
full. NOP, CONST.L and CONST.H (R126, R130, R131): CONST.L zero-extends imm20; CONST.H puts imm20 into rd[39:20], keeps rd[19:0], and fills rd[63:40]
with zeros, or with copies of bit 39. The compares (R130): each writes its condition to pt and the complement to pf. -/
def Obligations.XOperations : Prop :=
  (∀ (ch : Fin 144) (p : Pos) (b : Bundle) (s : State),
     let f := posField b p
     let c := coreOf s ch.val
     let d := fld f 17 11
     let x := readReg c (fld f 24 18)
     let y := srcR c f
     let done (v : DWord) : Host.Outcome State Fault Refusal := .next (commit s ch.val [.reg d v])
     (issuesAlone .add s ch p b = true → exec (.add ch p b) s = done (x + y)) ∧
     (issuesAlone .sub s ch p b = true → exec (.sub ch p b) s = done (x - y)) ∧
     (issuesAlone .and_ s ch p b = true → exec (.and_ ch p b) s = done (x &&& y)) ∧
     (issuesAlone .or_ s ch p b = true → exec (.or_ ch p b) s = done (x ||| y)) ∧
     (issuesAlone .xor_ s ch p b = true → exec (.xor_ ch p b) s = done (x ^^^ y)) ∧
     (issuesAlone .shl s ch p b = true → exec (.shl ch p b) s = done (x <<< (y.toNat % 64))) ∧
     (issuesAlone .shr s ch p b = true → exec (.shr ch p b) s = done (x >>> (y.toNat % 64))) ∧
     (issuesAlone .sra s ch p b = true → exec (.sra ch p b) s = done (x.sshiftRight (y.toNat % 64))) ∧
     (issuesAlone .mul s ch p b = true → exec (.mul ch p b) s = done (x * y))) ∧
  (∀ (ch : Fin 144) (p : Pos) (b : Bundle) (s : State),
     let f := posField b p
     let c := coreOf s ch.val
     let d := fld f 17 11
     let v40 := (readReg c d).toNat % 2 ^ 20 + fld f 37 18 * 2 ^ 20
     (issuesAlone .nop s ch p b = true → exec (.nop ch p b) s = .next (commit s ch.val [])) ∧
     (issuesAlone .constL s ch p b = true → exec (.constL ch p b) s = .next (commit s ch.val [.reg d (BitVec.ofNat 64 (fld f 37 18))])) ∧
     (issuesAlone .constH s ch p b = true → bitAt f 10 = false → exec (.constH ch p b) s = .next (commit s ch.val [.reg d (BitVec.ofNat 64 v40)])) ∧
     (issuesAlone .constH s ch p b = true → bitAt f 10 = true →
       exec (.constH ch p b) s = .next (commit s ch.val [.reg d ((BitVec.ofNat 40 v40).signExtend 64)]))) ∧
  (∀ (ch : Fin 144) (p : Pos) (b : Bundle) (s : State),
     let f := posField b p
     let c := coreOf s ch.val
     let x := readReg c (fld f 25 19)
     let y := srcP c f
     let done (v : Bool) : Host.Outcome State Fault Refusal := .next (commit s ch.val [.pred (fld f 14 11) v, .pred (fld f 18 15) (!v)])
     (issuesAlone .cmpEq s ch p b = true → exec (.cmpEq ch p b) s = done (decide (x = y))) ∧
     (issuesAlone .cmpNe s ch p b = true → exec (.cmpNe ch p b) s = done (decide (x ≠ y))) ∧
     (issuesAlone .cmpLt s ch p b = true → exec (.cmpLt ch p b) s = done (decide (x.toInt < y.toInt))) ∧
     (issuesAlone .cmpLe s ch p b = true → exec (.cmpLe ch p b) s = done (decide (x.toInt ≤ y.toInt))) ∧
     (issuesAlone .cmpGt s ch p b = true → exec (.cmpGt ch p b) s = done (decide (y.toInt < x.toInt))) ∧
     (issuesAlone .cmpGe s ch p b = true → exec (.cmpGe ch p b) s = done (decide (y.toInt ≤ x.toInt))) ∧
     (issuesAlone .cmpLtu s ch p b = true → exec (.cmpLtu ch p b) s = done (decide (x.toNat < y.toNat))) ∧
     (issuesAlone .cmpGeu s ch p b = true → exec (.cmpGeu ch p b) s = done (decide (y.toNat ≤ x.toNat))))

/-- GETS and SETS (R103, R132): s0 to s12 are read, s1 to s7 are written; any other special register raises ILLEGAL_OPERAND, code 2. -/
def Obligations.SpecialRegisters : Prop :=
  ∀ (ch : Fin 144) (b : Bundle) (s : State),
    let f := posField b .x1
    let g := fld f 21 18
    let w := fld f 14 11
    (issuesAlone .gets s ch .x1 b = true → g ≤ 12 → exec (.gets ch b) s = .next (commit s ch.val [.reg (fld f 17 11) (readSpecial s ch.val g)])) ∧
    (issuesAlone .gets s ch .x1 b = true → 12 < g → exec (.gets ch b) s = .next (raiseAt s ch (2, 1, 0))) ∧
    (issuesAlone .sets s ch .x1 b = true → 1 ≤ w ∧ w ≤ 7 →
      exec (.sets ch b) s = .next (commit s ch.val [.special w (readReg (coreOf s ch.val) (fld f 24 18))])) ∧
    (issuesAlone .sets s ch .x1 b = true → ¬(1 ≤ w ∧ w ≤ 7) → exec (.sets ch b) s = .next (raiseAt s ch (2, 1, 0)))

/-- LD (R133, R134, R135, R184, R189): a load of the own pocket, of bytes the job may reach and that carry no POISON, writes the zero- or
sign-extended value and the post-increment; POISON raises MEMORY_ERROR; a load elsewhere waits, and LOAD_COMPLETION then writes the value. ST (R133,
R134, R135, R189): a store to the own pocket that the job may reach stores the low sz bytes of rd; a store elsewhere waits, and STORE_COMPLETION then
stores them; bytes outside the job's reach raise BUS_ERROR. -/
def Obligations.LoadsAndStores : Prop :=
  (∀ (ch : Fin 144) (b : Bundle) (s : State),
     let f := posField b .m
     let c := coreOf s ch.val
     let a := accAddr c f
     let r := readBytes s a (accSize f)
     let result : List Eff := .reg (fld f 20 14) (extend r.1 (bitAt f 12)) :: postInc c f
     (issuesAlone .ld s ch .m b = true → accessExc s ch f false = [] → isCsr a = false → inOwnPocket s ch.val a (accSize f) = true →
       chmMay s ch.val a (accSize f) false = true →
       (r.2.1.poison = false → exec (.ld ch b) s = .next (commit r.2.2.2 ch.val result)) ∧
       (r.2.1.poison = true → exec (.ld ch b) s = .next (raiseAt r.2.2.2 ch (7, 2, a)))) ∧
     (issuesAlone .ld s ch .m b = true → accessExc s ch f false = [] → isCsr a = false → inOwnPocket s ch.val a (accSize f) = false →
       ∃ d, exec (.ld ch b) s = .next (holdIssue s ch.val b d (some { store := false, addr := a, size := accSize f }) [] 1)) ∧
     (accessOut .ld false s ch b = true → accessExc s ch f true = [] → isCsr a = false → chmMay s ch.val a (accSize f) false = true →
       r.2.1.poison = false → exec (.loadCompletion ch) s = .next (commit r.2.2.2 ch.val result))) ∧
  (∀ (ch : Fin 144) (b : Bundle) (s : State),
     let f := posField b .m
     let c := coreOf s ch.val
     let a := accAddr c f
     let result : List Eff := .store a (leBytes (readReg c (fld f 20 14)).toNat (accSize f)) :: postInc c f
     (issuesAlone .st s ch .m b = true → accessExc s ch f false = [] → isCsr a = false → inOwnPocket s ch.val a (accSize f) = true →
       (chmMay s ch.val a (accSize f) true = true → exec (.st ch b) s = .next (commit s ch.val result)) ∧
       (chmMay s ch.val a (accSize f) true = false → exec (.st ch b) s = .next (raiseAt s ch (6, 2, a)))) ∧
     (issuesAlone .st s ch .m b = true → accessExc s ch f false = [] → isCsr a = false → inOwnPocket s ch.val a (accSize f) = false →
       ∃ d, exec (.st ch b) s = .next (holdIssue s ch.val b d (some { store := true, addr := a, size := accSize f }) [] 1)) ∧
     (accessOut .st true s ch b = true → accessExc s ch f true = [] → isCsr a = false → chmMay s ch.val a (accSize f) true = true →
       exec (.storeCompletion ch) s = .next (commit s ch.val result)))

/-- SIPH.RUN, SIPH.POLL and FENCE (R97, R107, R136, R191): a chain joins a siphon's queue that has room; the status word is read; a FENCE whose named
classes are idle issues. -/
def Obligations.SiphonOperations : Prop :=
  ∀ (ch : Fin 144) (b : Bundle) (s : State),
    let f := posField b .m
    let q := ch.val * 2 + fld f 10 10
    let a := (readReg (coreOf s ch.val) (fld f 27 21)).toNat
    let h := chmOf s ch.val
    (issuesAlone .siphRun s ch .m b = true → a < 2 ^ 40 → siphQueued (siphOf s q) < 4 →
      exec (.siphRun ch b) s = .next (commit s ch.val [.siph q a])) ∧
    (issuesAlone .siphPoll s ch .m b = true →
      exec (.siphPoll ch b) s = .next (commit s ch.val [.reg (fld f 20 14) (siphStatWord (siphOf s q))])) ∧
    (issuesAlone .fence s ch .m b = true → (bitAt f 10 = true → siphBusy s ch.val = false) → (bitAt f 11 = true → flsBusy h.fl = false) →
      (bitAt f 12 = true → arrReads h.ar = false) → exec (.fence ch b) s = .next (commit s ch.val []))

/-- The array operations (R63, R68, R69, R72, R97): with no STREAM held and room in the array queue each enters it; ACFG with a mode from 0 to 7 that
allows its asign, ALDW with a record that passes its checks, STREAM with operands that pass R72, whatever its rows. -/
def Obligations.ArrayOperations : Prop :=
  ∀ (ch : Fin 144) (b : Bundle) (s : State),
    let f := posField b .a
    let ar := (chmOf s ch.val).ar
    let free : Prop := anyHeld ar = false ∧ ar.aq.length < 4
    let a := addr64 (readReg (coreOf s ch.val) (fld f 14 8)) (simm f 34 15 * 32)
    let r := readMemWords s a 8
    let o := streamOperands s ch.val f
    let t := (ahead ar).act
    (issuesAlone .aswp s ch .a b = true → free → exec (.aswp ch b) s = .next (commit s ch.val [.aop .aswp])) ∧
    (issuesAlone .acfg s ch .a b = true → free → fld f 11 8 ≤ 7 → (bitAt f 12 = true → asignOk (fld f 11 8) = true) →
      exec (.acfg ch b) s = .next (commit s ch.val [.aop (.acfg (fld f 11 8) (bitAt f 12))])) ∧
    (issuesAlone .aldw s ch .a b = true → free → a < 2 ^ 40 → a % 32 = 0 → ownPlane s ch.val a 32 = true → badHead r.1 = false →
      ownPlane s ch.val a (recordBytes (headOfWords r.1)) = true → exec (.aldw ch b) s = .next (commit r.2.2 ch.val [.aop (.aldw a r.1)])) ∧
    (issuesAlone .stream s ch .a b = true → free → o.amask ≠ 0 → o.rows ≠ 0 → o.rskind ≠ 3 → t.wfmt = modeWfmt o.mode →
      (∀ p ∈ streamPlanes o t, ownPlane s ch.val p.1 p.2 = true) →
      exec (.stream ch b) s = .next (commit s ch.val [.aop (.stream o)]))

/-- The flowstone operations (R97, R140, R141): with a mapped address the context may reach, and room in the flowstone queue, each enters it. -/
def Obligations.FlowstoneOperations : Prop :=
  ∀ (ch : Fin 144) (b : Bundle) (s : State),
    let f := posField b .f
    let h := chmOf s ch.val
    let a := fAddr h.core f
    let n := fld f 11 9
    let free (len : Nat) : Prop := a < 2 ^ 40 ∧ mappedRange a len = true ∧ h.fl.fq.length < 4
    let done (o : FOp) : Host.Outcome State Fault Refusal := .next (commit s ch.val [.fop o])
    (issuesAlone .flRun s ch .f b = true → free 32 → exec (.flRun ch b) s = done (.run a)) ∧
    (issuesAlone .flLdt s ch .f b = true → free 4096 → chmMay s ch.val a 4096 false = true → exec (.flLdt ch b) s = done (.move .ldt n a)) ∧
    (issuesAlone .flStt s ch .f b = true → free 4096 → chmMay s ch.val a 4096 true = true → exec (.flStt ch b) s = done (.move .stt n a)) ∧
    (issuesAlone .flLdb s ch .f b = true → free 128 → chmMay s ch.val a 128 false = true → exec (.flLdb ch b) s = done (.move .ldb n a)) ∧
    (issuesAlone .flStb s ch .f b = true → free 128 → chmMay s ch.val a 128 true = true → exec (.flStb ch b) s = done (.move .stb n a)) ∧
    (issuesAlone .flLdm s ch .f b = true → free 128 → chmMay s ch.val a 128 false = true → exec (.flLdm ch b) s = done (.move .ldm n a)) ∧
    (issuesAlone .flStm s ch .f b = true → free 128 → chmMay s ch.val a 128 true = true → exec (.flStm ch b) s = done (.move .stm n a))

/-- Branches, calls and loops (R104, R142, R143): the pc goes to pc + 32 × offset, or to ra; a call writes pc + 32 to rl; LOOP.BR counts lc down,
rotates and sets p8 to (ec ≤ lc), and at lc = 0 falls through; an indirect target that is not a multiple of 32, or has a bit above 39 set, raises
ADDRESS_ERROR. IRET, EXRET, JOB.END and BREAK (R109, R116, R118, R146): the returns act in their own bank and raise ILLEGAL_OPERAND outside it,
JOB.END ends the part once the job's work has finished, BREAK raises BREAK, code 8. A relative target wraps in 40 bits (log entry 13, the model’s
choice). -/
def Obligations.ControlFlow : Prop :=
  (∀ (ch : Fin 144) (b : Bundle) (s : State),
     let f := posField b .c
     let c := coreOf s ch.val
     let ret : DWord := BitVec.ofNat 64 (c.pc.toNat + 32)
     let rel (hi lo : Nat) : Eff := .jump (c.pc + BitVec.ofInt 40 (32 * sgn (fld f hi lo) (hi - lo + 1)))
     let x := readReg c (fld f 15 9)
     let y := readReg c (fld f 22 16)
     let good (v : DWord) : Prop := v.toNat < 2 ^ 40 ∧ v.toNat % 32 = 0
     let done (l : List Eff) : Host.Outcome State Fault Refusal := .next (commit s ch.val l)
     (issuesAlone .br s ch .c b = true → exec (.br ch b) s = done [rel 28 9]) ∧
     (issuesAlone .call s ch .c b = true → exec (.call ch b) s = done [.reg (fld f 15 9) ret, rel 31 16]) ∧
     (issuesAlone .jmp s ch .c b = true → good x → exec (.jmp ch b) s = done [.jump (BitVec.ofNat 40 x.toNat)]) ∧
     (issuesAlone .jmp s ch .c b = true → ¬good x → exec (.jmp ch b) s = .next (raiseAt s ch (5, 5, x.toNat % 2 ^ 40))) ∧
     (issuesAlone .callr s ch .c b = true → good y →
       exec (.callr ch b) s = done [.reg (fld f 15 9) ret, .jump (BitVec.ofNat 40 y.toNat)]) ∧
     (issuesAlone .callr s ch .c b = true → ¬good y → exec (.callr ch b) s = .next (raiseAt s ch (5, 5, y.toNat % 2 ^ 40))) ∧
     (issuesAlone .loopBr s ch .c b = true → c.lc ≠ 0 →
       exec (.loopBr ch b) s = done [.special 2 (c.lc - 1), .rotate (decide (c.ec.toNat ≤ (c.lc - 1).toNat)), rel 28 9]) ∧
     (issuesAlone .loopBrN s ch .c b = true → c.lc ≠ 0 → exec (.loopBrN ch b) s = done [.special 2 (c.lc - 1), rel 28 9]) ∧
     (issuesAlone .loopBr s ch .c b = true → c.lc = 0 → exec (.loopBr ch b) s = done []) ∧
     (issuesAlone .loopBrN s ch .c b = true → c.lc = 0 → exec (.loopBrN ch b) s = done [])) ∧
  (∀ (ch : Fin 144) (b : Bundle) (s : State),
     let h := chmOf s ch.val
     (issuesAlone .iret s ch .c b = true → h.core.ibank = true → exec (.iret ch b) s = .next (commit s ch.val [.iret h.core.ipc])) ∧
     (issuesAlone .iret s ch .c b = true → h.core.ibank = false → exec (.iret ch b) s = .next (raiseAt s ch (2, 5, 0))) ∧
     (issuesAlone .exret s ch .c b = true → h.core.xbank = true → exec (.exret ch b) s = .next (commit s ch.val [.exret h.core.epc])) ∧
     (issuesAlone .exret s ch .c b = true → h.core.xbank = false → exec (.exret ch b) s = .next (raiseAt s ch (2, 5, 0))) ∧
     (issuesAlone .jobEnd s ch .c b = true → arrWork h.ar = false → flsBusy h.fl = false → siphBusy s ch.val = false →
       exec (.jobEnd ch b) s = .next (commit s ch.val [.jobEnd])) ∧
     (issuesAlone .break_ s ch .c b = true → exec (.break_ ch b) s = .next (raiseAt s ch (8, 5, 0))))

/-- The cairn operations (R142, R145, R334, R335), while the cairn network has its clock: on a cairn the job's context owns, a signal adds 1, an add
adds ra[31:0] or rb[31:0] and a try writes pd, and the bundle issues in full; a wait that the cairn grants at once (a SEMAPHORE or EVENT that is not
0 among them) issues, one that it does not grant holds the bundle with stall code 5. On another cairn each of the eight raises BUS_ERROR. -/
def Obligations.CairnOperations : Prop :=
  ∀ (ch : Fin 144) (b : Bundle) (s : State), noClock s 1 = false →
    let f := posField b .c
    let c := coreOf s ch.val
    let n := fld f 24 9
    let m := (readReg c (fld f 15 9)).toNat % 65536
    let owns (k : Nat) : Prop := (cairnOf s k).typ ≠ 0 ∧ (cairnOf s k).ctx = c.ctx
    let word (code : Nat) : Word := BitVec.ofNat 32 (readReg c code).toNat
    let done (l : List Eff) : Host.Outcome State Fault Refusal := .next (commit s ch.val l)
    let denied : Host.Outcome State Fault Refusal := .next (raiseAt s ch (6, 5, 0))
    let fresh : Prop := c.waitCairn = none ∧ c.grant = none
    let waits (i : Instr) (k rt : Nat) : Prop :=
      let s1 := cairnWait s k ch.val c.ctx
      (tablesOk s → (cairnOf s k).typ = 1 ∨ (cairnOf s k).typ = 3 → (cairnOf s k).faulted = false → (cairnOf s k).v ≠ 0 →
        exec i s = .next (commit s1 ch.val [.cnDone rt])) ∧
      (((coreOf s1 ch.val).grant.isSome = true → exec i s = .next (commit s1 ch.val [.cnDone rt])) ∧
       ((coreOf s1 ch.val).grant.isSome = false → ∃ d, exec i s = .next (holdIssue s1 ch.val b d none [] 5)))
    (issuesAlone .cnSig s ch .c b = true → (owns n → exec (.cnSig ch b) s = done [.cnAdd n 1]) ∧ (¬owns n → exec (.cnSig ch b) s = denied)) ∧
    (issuesAlone .cnAdd s ch .c b = true →
      (owns n → exec (.cnAdd ch b) s = done [.cnAdd n (word (fld f 31 25))]) ∧ (¬owns n → exec (.cnAdd ch b) s = denied)) ∧
    (issuesAlone .cnTry s ch .c b = true →
      (owns n → exec (.cnTry ch b) s = done [.cnTry n (fld f 28 25)]) ∧ (¬owns n → exec (.cnTry ch b) s = denied)) ∧
    (issuesAlone .cnWait s ch .c b = true → fresh →
      (owns n → waits (.cnWait ch b) n (fld f 31 25)) ∧ (¬owns n → exec (.cnWait ch b) s = denied)) ∧
    (issuesAlone .cnSigr s ch .c b = true → (owns m → exec (.cnSigr ch b) s = done [.cnAdd m 1]) ∧ (¬owns m → exec (.cnSigr ch b) s = denied)) ∧
    (issuesAlone .cnAddr s ch .c b = true →
      (owns m → exec (.cnAddr ch b) s = done [.cnAdd m (word (fld f 22 16))]) ∧ (¬owns m → exec (.cnAddr ch b) s = denied)) ∧
    (issuesAlone .cnTryr s ch .c b = true →
      (owns m → exec (.cnTryr ch b) s = done [.cnTry m (fld f 19 16)]) ∧ (¬owns m → exec (.cnTryr ch b) s = denied)) ∧
    (issuesAlone .cnWaitr s ch .c b = true → fresh →
      (owns m → waits (.cnWaitr ch b) m (fld f 22 16)) ∧ (¬owns m → exec (.cnWaitr ch b) s = denied))

/-! ### Arrays and sumps at work (chapter 03) -/

/-- Arrays (R68 to R70): the fill of a record completes in the shadow slot of all four arrays; a swap exchanges the slots and a mode change acts once
the arrays are idle; the next queued ALDW then begins to fill. A STREAM at work (R70, R74, R75, R79, R87, R114): a block of up to 8 rows enters an
array whose sump rows are free, the oldest row in flight is added to its sump row, an interrupt entry holds every STREAM; a pass with an undefined
result (two valid entries that name one channel, more than 512 rows without final) goes on and reaches its context (R49, R72, R428). At which
commands the reach is acted is the model’s choice (log entry 21). -/
def Obligations.ArrayWork : Prop :=
  (∀ (ch : Fin 144) (s : State),
     let ar := (chmOf s ch.val).ar
     (∀ a hd, noClock s 0 = false → ar.filling = some (a, hd) →
       let r := readBytes s a (recordBytes (headOfWords hd))
       exec (.aldwComplete ch) s =
         .next (updAr r.2.2.2 ch.val fun x => pumpAldw { x with filling := none, shadow := tileOfRecord hd r.1 r.2.1 })) ∧
     (∀ q, noClock s 0 = false → ar.aq = .aswp :: q → ar.filling = none → arraysIdle ar = true →
       exec (.aswpTakesEffect ch) s = .next (updAr s ch.val fun x => pumpAldw { x with aq := q, act := x.shadow, shadow := x.act })) ∧
     (∀ m g q, noClock s 0 = false → ar.aq = .acfg m g :: q → arraysIdle ar = true →
       exec (.acfgTakesEffect ch) s = .next (updAr s ch.val fun x => pumpAldw { x with aq := q, mode := m, asign := g })) ∧
     (∀ o q, ar.aq = o :: q → arraysIdle ar = false →
       exec (.aswpTakesEffect ch) s = .next s ∧ exec (.acfgTakesEffect ch) s = .next s)) ∧
  (∀ (ch : Fin 144) (a : Fin 4) (s : State),
     let h := chmOf s ch.val
     let x := Tab.get {} h.ar.arr a.val
     (∀ r, noClock s 0 = false → h.core.entering = none → h.isolated = false → x.run = some r → r.held = false →
       let n := min 8 (r.op.rows - r.row)
       (∀ j, j < n → rowTaken x r.op (r.row + j) = false) →
       let rs := readRows s h.ar.act r.op a.val r.row n
       let t := updAr rs.2 ch.val fun y =>
         let z := Tab.get {} y.arr a.val
         putArr y a.val { z with run := if r.op.rows ≤ r.row + n then none else some { r with row := r.row + n }, fly := z.fly ++ rs.1 }
       (undefinedPass h.ar.act r.op = false → exec (.streamBlockStart ch a) s = .next t) ∧
       (undefinedPass h.ar.act r.op = true → exec (.streamBlockStart ch a) s = .next (strayContext h.core.ctx t))) ∧
     (∀ f rest, noClock s 0 = false → x.fly = f :: rest →
       ∃ g : Arrays → Arrays,
         (undefinedPass h.ar.act f.op = false → exec (.sumpAddition ch a) s = .next (updAr s ch.val g)) ∧
         (undefinedPass h.ar.act f.op = true → exec (.sumpAddition ch a) s = .next (strayContext h.core.ctx (draw (updAr s ch.val g)))) ∧
         (∀ y, (g y).arr = Tab.put {} y.arr a.val (addToSump s.free y.act x f rest)) ∧
         (∀ y, (g y).sat = y.sat ∨ (g y).sat = setBit y.sat a.val true) ∧
         (∀ y, (g y).act = y.act ∧ (g y).shadow = y.shadow ∧ (g y).mode = y.mode ∧ (g y).asign = y.asign ∧ (g y).aq = y.aq)) ∧
     (h.core.entering ≠ none → exec (.streamHold ch) s = .next (updAr s ch.val holdStreams) ∧ exec (.streamBlockStart ch a) s = .next s))

/-- One column of a sump addition (R79): on the first pass both accumulators count as zero; the partial sum is added to the group accumulator with
saturation at 24 bits; when the group closes its contribution is added to the wide accumulator with saturation at 32 bits and the group accumulator
becomes zero. The dripline (R76, R77, R151): with fewer than 8 tiles it takes the finished tile of the first array after the one it served last, in
turn; the tile's rows and its slot's group counter are clear after that. -/
def Obligations.SumpAndDripline : Prop :=
  (∀ (t : WeightTile) (first close : Bool) (c : Nat) (ga wa p : Int),
     let g := sat ((if first then 0 else ga) + p) 24
     let w := if first then 0 else wa
     let r := addColumn t first close c ga wa p
     (close = false → r.ga = g ∧ r.wa = w ∧ r.poison = false) ∧
     (close = true → r.ga = 0 ∧ r.wa = sat (w + (contrib t c g).1) 32 ∧ r.poison = (contrib t c g).2) ∧
     (-(2 ^ 23) ≤ r.ga ∧ r.ga < 2 ^ 23) ∧ (close = true → -(2 ^ 31) ≤ r.wa ∧ r.wa < 2 ^ 31)) ∧
  (∀ (ch : Fin 144) (s : State) (a : Nat) (t : FinTile) (rest : List FinTile),
     let h := chmOf s ch.val
     let x := Tab.get {} h.ar.arr a
     noClock s 0 = false → h.fl.dl.length < 8 → (takeOrder h.ar.lastArr).find? (fun k => !(Tab.get {} h.ar.arr k).fin.isEmpty) = some a → x.fin = t :: rest →
     exec (.driplineTake ch) s = .next (updChm s ch.val fun c =>
       { c with ar := { putArr c.ar a (clearTaken x t rest) with
                          lastArr := a, poison := if (tileOf x a t).flags.poison then setBit c.ar.poison a true else c.ar.poison },
                fl := { c.fl with dl := c.fl.dl ++ [tileOf x a t] } }) ∧
     (tileOf x a t).flags.late = false ∧ (tileOf x a t).vrows = t.nrows ∧ (clearTaken x t rest).fin = rest)

/-! ### Flowstone (chapter 06) -/

/-- The course of a run (R156 to R159, R171, R172): a launch reads and checks its record, an iteration starts, a completed run signals its cairn, a
move performs its access, a recorded fault is raised on the bundle at issue. CMP, the searches and the stores (R161, R162, R165 to R167, R171): CMP
writes its mask register, a search its value and index registers, a store whose rows pass the STORE check writes every row, and one whose row fails
it writes none and ends the run. -/
def Obligations.FlowstoneRuns : Prop :=
  (∀ (ch : Fin 144) (s : State), noClock s 0 = false → noClock s 1 = false →
     let h := chmOf s ch.val
     let f := h.fl
     (∀ a q, f.run = none → f.faultPend = false → f.fq = .run a :: q → a % 32 = 0 → ownPlane s ch.val a 32 = true →
       let r := readMemWords s a 8
       let n := tf r.1 0 5 0
       let w := readMemWords r.2.2 (a + 32) (2 * n)
       let run := runOf a r.1 (uopsOf w.1 n)
       badRecord r.1 = false → ownPlane s ch.val a (32 + 8 * n) = true → (∀ k, k < run.uops.length → badUop run.src1 (run.uops.getD k 0) = false) →
       exec (.flowstoneLaunch ch) s = .next (updFl w.2.2 ch.val fun x => { x with fq := q, run := some run, done := 0, count := run.count })) ∧
     (∀ a q, f.run = none → f.faultPend = false → f.fq = .run a :: q → a % 32 ≠ 0 →
       exec (.flowstoneLaunch ch) s = .next (updFl s ch.val fun x => faultRun x 1 0 0)) ∧
     (∀ r, f.run = some r → r.inIter = false → r.n < r.count → (r.src1 = true ∨ f.dl ≠ []) →
       exec (.tileIteration ch) s = .next (updFl s ch.val fun x => { x with run := some { r with inIter := true, k := 0 } })) ∧
     (∀ r, f.run = some r → r.inIter = false → r.count ≤ r.n →
       let s1 := updFl s ch.val fun x => { x with run := none }
       exec (.runCompletion ch) s = .next (if r.cen then cairnSignalFor s1 h.core.ctx r.cairn 1 else s1)) ∧
     (∀ m n a q, f.run = none → f.faultPend = false → f.fq = .move m n a :: q →
       exec (.registerMove ch) s = .next (doMove (updFl s ch.val fun x => { x with fq := q }) ch.val m n a)) ∧
     (f.faultPend = true → canIssue h = true → h.core.issue = none → fetchExcs s ch.val = [] →
       exec (.flowstoneFault ch) s = .next (raiseAt s ch (9, 7, 0)))) ∧
  (∀ (ch : Fin 144) (s : State) (r : FRun) (u : DWord), noClock s 0 = false →
     let f := (chmOf s ch.val).fl
     curUop f = some (r, u) →
     let bit (i : Nat) : Bool :=
       if masked f u i then maskBit f (uDst u) i else cmpLane (uImm u % 8) (opVal f u (uA u) i) (opVal f u (uB u) i)
     let search (isMax : Bool) (i : Instr) : Prop := exec i s = .next (updFl s ch.val fun x => endUop (searchUop isMax r u x).1)
     let rows := stoRows f r u
     let stored (n : Nat) : State :=
       updFl (noteStores (rows.foldl (stoRow f r u n) s) ch.val
         (rows.map fun row => (stoAddr f r row, (stoBytes f u n row).map (fun e => e.1 &&& e.2), readFlags f u))) ch.val endUop
     (uOp u = 0x0C → exec (.uopCmp ch) s = .next (updFl s ch.val fun _ =>
       endUop { f with m := Tab.put {} f.m (uDst u) { bits := tabBits ((List.range 1024).map bit), flags := readFlags f u } })) ∧
     (uOp u = 0x18 → search true (.uopRmaxR ch)) ∧ (uOp u = 0x19 → search false (.uopRminR ch)) ∧
     (uOp u = 0x1A → search true (.uopRmaxC ch)) ∧ (uOp u = 0x1B → search false (.uopRminC ch)) ∧
     (uOp u = 0x1C → search true (.uopTmax ch)) ∧ (uOp u = 0x1D → search false (.uopTmin ch)) ∧
     (uOp u = 0x12 → (∀ row ∈ rows, stoBad s ch.val 4 (stoAddr f r row) = false) → exec (.uopSto4 ch) s = .next (stored 4)) ∧
     (uOp u = 0x13 → (∀ row ∈ rows, stoBad s ch.val 8 (stoAddr f r row) = false) → exec (.uopSto8 ch) s = .next (stored 8)) ∧
     (∀ row n i, (uOp u = 0x12 ∧ n = 4 ∧ i = .uopSto4 ch) ∨ (uOp u = 0x13 ∧ n = 8 ∧ i = .uopSto8 ch) →
       rows.find? (fun k => stoBad s ch.val n (stoAddr f r k)) = some row →
       exec i s = .next (updFl s ch.val fun x =>
         { faultRun { x with perfBusy := x.perfBusy + 8 } 4 r.k (32 * row) with faultAddr := stoAddr f r row % 2 ^ 40 })))

/-- The element operations (R161, R163, R165, R168): each unmasked element of the destination tile register takes the operation's value, saturated to
32 bits where the table says so, each masked element stays; ACC_SAT and the sticky bit record a clamp. A LUT index outside 0 to 31 is a lane fault. -/
def Obligations.FlowstoneElements : Prop :=
  ∀ (ch : Fin 144) (s : State) (r : FRun) (u : DWord), noClock s 0 = false →
    let f := (chmOf s ch.val).fl
    curUop f = some (r, u) →
    let a (i : Nat) : Int := opVal f u (uA u) i
    let b (i : Nat) : Int := opVal f u (uB u) i
    let c (i : Nat) : Int := opVal f u (uC u) i
    let tile (val : Nat → Int) (clamp : Nat → Bool) : Fls :=
      let x (i : Nat) : Int := if clamp i then sat (val i) 32 else val i
      let hit := (List.range 1024).any fun i => !masked f u i && decide (x i ≠ val i)
      let old := Tab.get {} f.t (uDst u)
      { f with
        t := Tab.put {} f.t (uDst u)
          { els := tabInts ((List.range 1024).map fun i => if masked f u i then Tab.get 0 old.els i else x i),
            flags := { readFlags f u with accSat := (readFlags f u).accSat || hit } },
        satBit := f.satBit || hit }
    let done (val : Nat → Int) (clamp : Nat → Bool) : Host.Outcome State Fault Refusal := .next (updFl s ch.val fun _ => endUop (tile val clamp))
    let all (_ : Nat) : Bool := true
    let no (_ : Nat) : Bool := false
    let e (i : Nat) : Nat := low (b i) 13 / 256
    (uOp u = 0x01 → exec (.uopAdd ch) s = done (fun i => a i + b i) all) ∧
    (uOp u = 0x02 → exec (.uopSub ch) s = done (fun i => a i - b i) all) ∧
    (uOp u = 0x03 → exec (.uopMac ch) s = done (fun i => asr (a i * b i + c i) (uSh u)) all) ∧
    (uOp u = 0x04 → exec (.uopShv ch) s =
      done (fun i => if 0 ≤ b i then shl (a i) (min (b i).toNat 64) else asr (a i) (min (-(b i)).toNat 64)) fun i => decide (0 ≤ b i)) ∧
    (uOp u = 0x05 → exec (.uopSra ch) s = done (fun i => asr (a i) (uSh u)) no) ∧
    (uOp u = 0x06 → exec (.uopMin ch) s = done (fun i => min (a i) (b i)) no) ∧
    (uOp u = 0x07 → exec (.uopMax ch) s = done (fun i => max (a i) (b i)) no) ∧
    (uOp u = 0x08 → exec (.uopAnd ch) s = done (fun i => (BitVec.ofInt 32 (a i) &&& BitVec.ofInt 32 (b i)).toInt) no) ∧
    (uOp u = 0x09 → exec (.uopOr ch) s = done (fun i => (BitVec.ofInt 32 (a i) ||| BitVec.ofInt 32 (b i)).toInt) no) ∧
    (uOp u = 0x0A → exec (.uopXor ch) s = done (fun i => (BitVec.ofInt 32 (a i) ^^^ BitVec.ofInt 32 (b i)).toInt) no) ∧
    (uOp u = 0x0B → exec (.uopSel ch) s = done (fun i => if maskBit f (uMsk u) i then a i else b i) no) ∧
    (uOp u = 0x0D → (∀ i, i < 1024 → masked f u i = false → 0 ≤ a i ∧ a i < 32) →
      exec (.uopLut ch) s = done (fun i => Tab.get 0 (Tab.get {} f.b (uImm u % 8)).els (a i).toNat) no) ∧
    (∀ k, uOp u = 0x0D → (List.range 1024).find? (fun i => !masked f u i && !(decide (0 ≤ a i) && decide (a i < 32))) = some k →
      ∃ g : Fls, exec (.uopLut ch) s = .next (updFl s ch.val fun _ => faultRun g 3 r.k k) ∧ g.dl = f.dl ∧ g.b = f.b ∧ g.m = f.m) ∧
    (uOp u = 0x10 → exec (.uopQnt4 ch) s = done (fun i => sat (asr (a i * Int.ofNat (low (b i) 8)) (e i)) 4) no) ∧
    (uOp u = 0x11 → exec (.uopQnt8 ch) s = done (fun i => sat (asr (a i * Int.ofNat (low (b i) 8)) (e i)) 8) no)

/-! ### A bundle as a whole, exceptions, registers (chapters 04, 05) -/

/-- R95: an operation whose predicate reads 0 asks for nothing (no register, no post-increment, no access, no exception) and its position still
counts as occupied: alone in a bundle it is named, and the bundle issues with no effect. -/
def Obligations.PredicateOff : Prop :=
  ∀ (op : BOp) (ch : Fin 144) (p : Pos) (b : Bundle) (s : State),
    present b p = true → opOf b p = some op → readPred (coreOf s ch.val) (fld (posField b p) 3 0) = false →
    (∀ fin, evalPos s ch b p fin = ({}, s)) ∧
    (atIssue s ch b = true → lastNamed s ch b p = true → allPos.filter (present b) = [p] →
      exec (opCmd op ch p b) s = .next (commit s ch.val [])) ∧
    (atIssue s ch b = true → (coreOf s ch.val).issue = none → (∃ q, q ≠ p ∧ present b q = true) →
      exec (opCmd op ch p b) s = .next (holdIssue s ch.val b [p] none [] (coreOf s ch.val).stall.toNat))

/-- R92, R94, R147: a legal bundle whose operations ask for effects alone takes them all together once its last position is named, every operation
having read the state before the bundle; a bundle with a position still unnamed stays at issue; an illegal one raises ILLEGAL_BUNDLE. That a command
names one position at a time is the model’s form of issue (log entry 17). -/
def Obligations.BundleTogether : Prop :=
  ∀ (op : BOp) (ch : Fin 144) (p : Pos) (b : Bundle) (s : State),
    present b p = true → opOf b p = some op →
    (∀ l : Pos → List Eff, atIssue s ch b = true → lastNamed s ch b p = true → (∀ q, evalPos s ch b q false = (effs (l q), s)) →
      exec (opCmd op ch p b) s = .next (commit s ch.val (allPos.flatMap l))) ∧
    (∀ d, atIssue s ch b = true → namedWith (coreOf s ch.val) b p = some d → lastNamed s ch b p = false →
      exec (opCmd op ch p b) s = .next (holdIssue s ch.val b d none [] (coreOf s ch.val).stall.toNat)) ∧
    (∀ q, canIssue (chmOf s ch.val) = true → noClock s 0 = false → (coreOf s ch.val).issue = none → fetchExcs s ch.val = [] →
      illegalPos b = some q → exec (opCmd op ch p b) s = .next (raiseAt s ch (1, q, 0)))

/-- R109, R111: a bundle that raises takes the exception of the lowest code and none of its effects. On entry epc, ecause and eaddr are written,
xbank is set, and issue goes on at CHM_EXC_BASE + 256 × cause; EXRET clears xbank and goes on at epc. With xbank set it is a double fault (R112): dbl
is set, the Lantern is told, and the chamber issues no more. That a double fault leaves epc, and that a pc off a 32-byte boundary drops its low bits,
is the model’s choice (log entry 44). -/
def Obligations.Exceptions : Prop :=
  (∀ (op : BOp) (ch : Fin 144) (p : Pos) (b : Bundle) (s : State) (e : Nat × Nat × Nat),
    present b p = true → opOf b p = some op → atIssue s ch b = true → lastNamed s ch b p = true →
    pickExc (evalBundle s ch b allPos).1.excs = some e →
      exec (opCmd op ch p b) s = .next (raiseAt (evalBundle s ch b allPos).2 ch e)) ∧
  (∀ (l : List (Nat × Nat × Nat)) (e : Nat × Nat × Nat), pickExc l = some e → e ∈ l ∧ ∀ x ∈ l, e.1 ≤ x.1) ∧
  (∀ (s : State) (ph cause pos ea : Nat), tablesOk s → cause < 256 → pos < 8 →
    let c := coreOf s ph
    let c' := coreOf (takeExc s ph cause pos ea) ph
    (c.xbank = false →
      c'.epc = c.pc ∧ c'.cause.toNat = cause ∧ c'.epos.toNat = pos ∧ c'.eaddr = BitVec.ofNat 40 ea ∧ c'.xbank = true ∧
      c'.pc = c.excBase + BitVec.ofNat 40 (256 * cause) ∧ c'.dbl = c.dbl ∧ c'.ie = c.ie ∧ c'.ibank = c.ibank ∧ c'.g = c.g ∧ c'.l = c.l ∧ c'.p = c.p ∧
      c'.rrb = c.rrb ∧ c'.lc = c.lc ∧ (takeExc s ph cause pos ea).mem = s.mem) ∧
    (c.xbank = true →
      c'.dbl = true ∧ c'.epc = c.epc ∧ c'.pc = c.pc ∧ canIssue (chmOf (takeExc s ph cause pos ea) ph) = false ∧
      (s.err.hw.length < 256 → (takeExc s ph cause pos ea).lvic.pend.getLsbD 197 = true))) ∧
  (∀ c : Core,
    let d := exitExc c c.epc
    d.xbank = false ∧ (c.epc.toNat % 32 = 0 → d.pc = c.epc) ∧ d.pc.toNat = c.epc.toNat / 32 * 32 ∧ d.ibank = c.ibank ∧ d.ie = c.ie)

/-- R100 to R102, R113: g0 reads 0 and discards writes; a register written is read back and no other name changes, under either bank and any rotating
base; p0 reads 1. A rotation moves every loop register one name up, l63 to l0, and every stage predicate one up, p15 to p8. -/
def Obligations.RegisterNames : Prop :=
  ∀ (c : Core) (v : DWord), Tab.wf 0 c.g = true → Tab.wf 0 c.ib = true → Tab.wf 0 c.xb = true → Tab.wf 0 c.l = true →
    let w (n : Nat) : Core := writeReg c c.rrb.toNat n v
    readReg c 0 = 0 ∧ w 0 = c ∧
    (∀ n, regCode n → n ≠ 0 → readReg (w n) n = v) ∧
    (∀ n m, regCode n → regCode m → m ≠ n → readReg (w n) m = readReg c m) ∧
    (∀ n, Tab.wf 0 (w n).g = true ∧ Tab.wf 0 (w n).ib = true ∧ Tab.wf 0 (w n).xb = true ∧ Tab.wf 0 (w n).l = true) ∧
    (∀ x, readPred c 0 = true ∧ writePred c c.rrb.toNat 0 x = c) ∧
    (∀ n, 0 < n → n < 8 → readPred c n = c.p.getLsbD n) ∧
    (∀ n, 8 ≤ n → n < 16 → readPred c n = c.p.getLsbD (8 + (n + 56 - c.rrb.toNat) % 8)) ∧
    (∀ n m x, 0 < n → n < 16 → m < 16 → readPred (writePred c c.rrb.toNat n x) m = if m = n then x else readPred c m) ∧
    (let r : Core := { c with rrb := c.rrb + 1 }
     (∀ n, n < 64 → readReg r (0x40 + (n + 1) % 64) = readReg c (0x40 + n)) ∧
     (∀ n, 8 ≤ n → n < 16 → readPred r (8 + (n - 7) % 8) = readPred c n) ∧
     (∀ n, n < 8 → readPred r n = readPred c n) ∧ (∀ n, n < 0x20 → readReg r n = readReg c n))

/-- R104: while lc is not 0, LOOP.BR counts lc down, rotates, sets p8 to (lc ≥ ec), unsigned, after the decrement and the rotation, and goes to its
target; LOOP.BR.N counts and goes to its target; with lc = 0 both fall through with no other change. -/
def Obligations.LoopBranches : Prop :=
  ∀ (ch : Fin 144) (b : Bundle) (s : State), tablesOk s →
    let c := coreOf s ch.val
    let target := c.pc + BitVec.ofInt 40 (32 * sgn (fld (posField b .c) 28 9) 20)
    (issuesAlone .loopBr s ch .c b = true → c.lc ≠ 0 →
      ∃ t, exec (.loopBr ch b) s = .next t ∧
        let d := coreOf t ch.val
        d.lc = c.lc - 1 ∧ d.rrb = c.rrb + 1 ∧ d.pc = target ∧ readPred d 8 = decide (c.ec.toNat ≤ d.lc.toNat) ∧ d.ec = c.ec ∧ d.l = c.l ∧ d.g = c.g ∧
        (∀ n, 9 ≤ n → n < 16 → readPred d n = readPred c (n - 1)) ∧ (∀ n, n < 8 → readPred d n = readPred c n)) ∧
    (issuesAlone .loopBrN s ch .c b = true → c.lc ≠ 0 →
      ∃ t, exec (.loopBrN ch b) s = .next t ∧
        let d := coreOf t ch.val
        d.lc = c.lc - 1 ∧ d.rrb = c.rrb ∧ d.pc = target ∧ d.ec = c.ec ∧ d.p = c.p ∧ d.l = c.l ∧ d.g = c.g) ∧
    (∀ i, (issuesAlone .loopBr s ch .c b = true ∧ i = .loopBr ch b ∨ issuesAlone .loopBrN s ch .c b = true ∧ i = .loopBrN ch b) → c.lc = 0 →
      ∃ t, exec i s = .next t ∧
        let d := coreOf t ch.val
        d.lc = 0 ∧ d.rrb = c.rrb ∧ d.pc = c.pc + 32 ∧ d.ec = c.ec ∧ d.p = c.p ∧ d.l = c.l ∧ d.g = c.g)

/-- The frame of an X operation that raises nothing (R93 to R96, R148): nothing outside its chamber's processor changes but the count of free values;
in it, every register, predicate and special register the operation does not write reads as before, and the exception, interrupt and job registers
stay. -/
def Obligations.FrameX : Prop :=
  ∀ (op : BOp) (ch : Fin 144) (p : Pos) (b : Bundle) (s t : State), tablesOk s → isXOp op = true → issuesAlone op s ch p b = true →
    (evalOp op s ch (posCode p) (posField b p) false).1.excs = [] → exec (opCmd op ch p b) s = .next t →
    let c := coreOf s ch.val
    let d := coreOf t ch.val
    let w := writesOf op (posField b p)
    (∃ h, t = { setChm s ch.val h with free := s.free + 1 } ∧ h = { chmOf s ch.val with core := h.core }) ∧
    d.pc = c.pc + 32 ∧
    (∀ n, regCode n → .reg n ∉ w → .sreg 1 ∉ w → readReg d n = readReg c n) ∧
    (∀ n, n < 16 → .pred n ∉ w → .sreg 1 ∉ w → readPred d n = readPred c n) ∧
    (.sreg 1 ∉ w → d.rrb = c.rrb) ∧ (.sreg 2 ∉ w → d.lc = c.lc) ∧ (.sreg 3 ∉ w → d.ec = c.ec) ∧ (.sreg 5 ∉ w → d.ie = c.ie) ∧
    (.sreg 6 ∉ w → d.ipc = c.ipc) ∧ (.sreg 7 ∉ w → d.epc = c.epc) ∧
    d.ibank = c.ibank ∧ d.xbank = c.xbank ∧ d.cause = c.cause ∧ d.epos = c.epos ∧ d.eaddr = c.eaddr ∧ d.dbl = c.dbl ∧ d.excBase = c.excBase ∧
    d.jobTag = c.jobTag ∧ d.ctx = c.ctx ∧ d.active = c.active

/-- The frame of a store and what it stores (R105, R133, R183): ST to the own pocket, or STORE_COMPLETION elsewhere in memory, changes no byte
outside the bytes at the address accAddr gives (where no latent uncorrectable error lies, R443), no register but the one post-incremented and the pc;
where the pocket or memory is not offline the low bytes of rd are there after it. (Bytes that an operation is reading are left out: a store to them has
an undefined result, R70, R158, R197.) A load changes no byte of memory where no latent uncorrectable
error lies (R105, R184, R185), and no register but rd and the one post-incremented. -/
def Obligations.FrameAccess : Prop :=
  (∀ (ch : Fin 144) (b : Bundle) (s t : State), memoryOk s → tablesOk s →
     let f := posField b .m
     let c := coreOf s ch.val
     let a := accAddr c f
     let n := accSize f
     ((issuesAlone .st s ch .m b = true ∧ accessExc s ch f false = [] ∧ inOwnPocket s ch.val a n = true ∧ exec (.st ch b) s = .next t) ∨
      (accessOut .st true s ch b = true ∧ accessExc s ch f true = [] ∧ exec (.storeCompletion ch) s = .next t)) →
     isCsr a = false → chmMay s ch.val a n true = true → hitCtxs (writeMem (advancePc s ch.val) a (stData c f) noFlags) a n = [] →
     (∀ x, isMemory x = true → latentUe s x = false → (x < a ∨ a + n ≤ x) → byteAt t x = byteAt s x) ∧
     (∀ i, i < n → storeKey s a ≠ none → byteAt t (a + i) = some (BitVec.ofNat 8 ((readReg c (fld f 20 14)).toNat / 256 ^ i))) ∧
     (let d := coreOf t ch.val
      (∀ r, regCode r → (bitAt f 13 = true → r ≠ fld f 27 21) → readReg d r = readReg c r) ∧
      d.p = c.p ∧ d.rrb = c.rrb ∧ d.lc = c.lc ∧ d.ec = c.ec ∧ d.ie = c.ie ∧ d.ibank = c.ibank ∧ d.xbank = c.xbank ∧ d.epc = c.epc ∧ d.ipc = c.ipc ∧
      d.cause = c.cause ∧ d.eaddr = c.eaddr ∧ d.pc = c.pc + 32) ∧
     t.cairns = s.cairns ∧ t.rings = s.rings ∧ t.pairs = s.pairs ∧ t.siph = s.siph ∧ t.flows = s.flows ∧ t.hostMem = s.hostMem) ∧
  (∀ (ch : Fin 144) (b : Bundle) (s t : State), tablesOk s →
     let f := posField b .m
     let c := coreOf s ch.val
     let a := accAddr c f
     let n := accSize f
     let r := readBytes s a n
     ((issuesAlone .ld s ch .m b = true ∧ accessExc s ch f false = [] ∧ inOwnPocket s ch.val a n = true ∧ exec (.ld ch b) s = .next t) ∨
      (accessOut .ld false s ch b = true ∧ accessExc s ch f true = [] ∧ exec (.loadCompletion ch) s = .next t)) →
     isCsr a = false → chmMay s ch.val a n false = true → r.2.1.poison = false →
     (latentUe s (a / 8 * 8) = false → t.mem = s.mem ∧ t.hostMem = s.hostMem) ∧
     (let d := coreOf t ch.val
      (∀ x, regCode x → x ≠ fld f 20 14 → (bitAt f 13 = true → x ≠ fld f 27 21) → readReg d x = readReg c x) ∧
      d.p = c.p ∧ d.rrb = c.rrb ∧ d.lc = c.lc ∧ d.ec = c.ec ∧ d.ie = c.ie ∧ d.ibank = c.ibank ∧ d.xbank = c.xbank ∧ d.epc = c.epc ∧ d.ipc = c.ipc ∧
      d.pc = c.pc + 32) ∧
     t.cairns = s.cairns ∧ t.rings = s.rings ∧ t.pairs = s.pairs ∧ t.siph = s.siph ∧ t.flows = s.flows)

/-! ### Siphons, interrupts, cairns (chapters 07, 13) -/

/-- The course of a chain (R191, R195, R197, R199, R203), while the siphon has its clocks: a queued chain starts, a burst is fetched, a LINK goes on
at its next address, the oldest descriptor whose writes are all answered completes and signals its cairn. GATHER, BLOCK and FILL (R193 to R195, R198,
R202, R203): a descriptor that passes its checks moves every row of its plan and then waits for its writes; a row that fails moves the rows before it
and stops the chain; a descriptor of a wrong form takes KIND, one that names another device where none may be DEVICE; a move whose source overlaps its
own destination, whose bytes another siphon is writing or whose destination an operation is reading reaches the contexts concerned (R200, R428), any
other leaves its rows’ bytes as moved. How far a GATHER reads ahead is free (log entry 47), and that a reach is acted at that command is the model’s
choice (log entry 21). -/
def Obligations.SiphonCourse : Prop :=
  (∀ (q : Fin 352) (s : State), siphStopped s q.val = false →
     let x := siphOf s q.val
     (∀ a tag ctx r, x.chain = none → x.queue = (a, tag, ctx) :: r →
       let c : Chain := { tag := tag, ctx := ctx, next := a, burst := [], pend := [], ended := false }
       let s1 := updSiph (draw s) q.val fun y => { y with queue := y.queue.drop 1, chain := some c, desc := 0, chainDesc := a }
       (a % 32 = 0 → exec (.chainStart q) s = .next s1) ∧ (a % 32 ≠ 0 → exec (.chainStart q) s = .next (siphFault s1 q.val (2, 0, a)))) ∧
     (∀ c, x.chain = some c → c.ended = false → c.burst = [] →
       (addrFault s (checkerOf s q.val c) c.next 32 false = none →
         let b := readBurst s (checkerOf s q.val c) c.next 8
         exec (.descriptorFetch q) s = .next (updSiph b.2 q.val fun y => { y with chain := some { c with burst := keepBurst b.1 } })) ∧
       (∀ e, addrFault s (checkerOf s q.val c) c.next 32 false = some e →
         exec (.descriptorFetch q) s = .next (siphFault (updSiph s q.val fun y => { y with chainDesc := c.next }) q.val (e, 0, c.next)))) ∧
     (∀ c a d, headDesc x = some (c, a, d) → tf d 0 31 28 = 4 → kindFault d = false → exec (.link q) s = .next (runLink s q.val c a d)) ∧
     (∀ c p r, x.chain = some c → c.pend = p :: r → p.outstanding = 0 →
       let s1 := updSiph s q.val fun y => settleChain { y with desc := y.desc + 1, chain := some { c with pend := r } }
       (∀ n, p.cairn = some n → exec (.descriptorComplete q) s = .next (cairnSignalOpt s1 c.ctx n)) ∧
       (p.cairn = none → exec (.descriptorComplete q) s = .next s1)) ∧
     (∀ c p r, x.chain = some c → c.pend = p :: r → p.outstanding ≠ 0 → exec (.descriptorComplete q) s = .next s)) ∧
  (∀ (q : Fin 352) (s : State) (c : Chain) (a : Nat) (d : List Word), siphStopped s q.val = false → headDesc (siphOf s q.val) = some (c, a, d) →
     let k := checkerOf s q.val c
     let n := tf d 5 31 16
     let id := s.emx.descs
     let s0 : State := { s with emx := { s.emx with descs := id + 1 } }
     let runs (i : Instr) (rows : List Row) (fault : Option (Nat × Nat × Nat)) (moved : State) : Prop :=
       let t := afterMove q.val c.ctx rows moved
       (fault = none → exec i s = .next (pushDesc t q.val id a d rows)) ∧
       (∀ f, fault = some f → exec i s = .next (siphFault (updSiph t q.val fun x => { x with chainDesc := a }) q.val f)) ∧
       (selfOverlap rows = false → clashing moved q.val rows = [] → (∀ r ∈ localDests moved rows, hitCtxs moved r.1 r.2 = []) → t = moved)
     let of (kind : Nat) : Prop := tf d 0 31 28 = kind ∧ kindFault d = false ∧ devFault s d = false
     let stops (kind : Nat) (i : Instr) : Prop :=
       tf d 0 31 28 = kind →
         (kindFault d = true → exec i s = .next (siphFault (updSiph s q.val fun x => { x with chainDesc := a }) q.val (1, 0, a))) ∧
         (kindFault d = false → devFault s d = true →
           exec i s = .next (siphFault (updSiph s q.val fun x => { x with chainDesc := a }) q.val (5, 0, a)))
     let g := gatherTiles k d q.val id n ((n + 31) / 32) 0 [] (draw s0)
     let b := planBlock k d s0 0 n
     (of 1 → runs (.gather q) g.rows g.fault g.st) ∧
     (of 2 → runs (.block q) b.rows b.fault (moveRows b.st q.val id c.ctx b.rows)) ∧
     (of 3 → runs (.fill q) b.rows b.fault (moveRows b.st q.val id c.ctx b.rows)) ∧
     stops 1 (.gather q) ∧ stops 2 (.block q) ∧ stops 3 (.fill q))

/-- The rows of a BLOCK or FILL (R194, R195): row i reads `len` bytes at its source base + i × its source pitch (a FILL: copies of its pattern) and
writes them at its destination base + i × its destination pitch; a plan without a fault has every row, one with a fault the rows before it. -/
def Obligations.BlockRows : Prop :=
  ∀ (k : Checker) (d : List Word) (s : State) (n m : Nat),
    let p := planBlock k d s n m
    p.st = s ∧ p.rows.length ≤ m ∧ (p.fault = none ↔ p.rows.length = m) ∧
    (∀ e r a, p.fault = some (e, r, a) → r = n + p.rows.length ∧ (e = 2 ∨ e = 3 ∨ e = 4)) ∧
    ∀ (i : Nat) (h : i < p.rows.length),
      (p.rows[i]).dst = 2 ^ 40 * dstDev s d + (dstBase d + (n + i) * tf d 7 31 16) ∧ (p.rows[i]).len = wordAt d 4 ∧
      (tf d 0 31 28 = 2 → (p.rows[i]).src = some (2 ^ 40 * srcDev s d + (srcBase d + (n + i) * wordAt d 6))) ∧
      (tf d 0 31 28 = 3 → (p.rows[i]).src = none ∧ (p.rows[i]).fill = (List.replicate (wordAt d 4 / 4) (leBytes (wordAt d 1) 4)).flatten)

/-- Arbitration (R343, R344): the source chosen is enabled and pending, no eligible source has a lower priority value or the same value and a lower
number, its group is strictly lower than that of every active source; none is chosen where no source is eligible. -/
def Obligations.Arbitration : Prop :=
  ∀ (v : Vic) (nw : Nat),
    (∀ n g, arbitrate v nw = some (n, g) →
      n < nw ∧ eligible v n = true ∧ g = vicPrio v n / 2 ^ v.bp ∧ (∀ e ∈ v.stack, g < e.2) ∧
      ∀ m, m < nw → eligible v m = true → vicPrio v n < vicPrio v m ∨ (vicPrio v n = vicPrio v m ∧ n ≤ m)) ∧
    ((∀ m, m < nw → eligible v m = false) → arbitrate v nw = none) ∧
    (v.stack = [] → (∃ m, m < nw ∧ eligible v m = true) → arbitrate v nw ≠ none)

/-- Delivery and the end of an interrupt (R114, R115, R344 to R346, R348): an arbitration chooses; the chosen source is then presented, its pending
bit cleared and its active entry made, at VBASE + 128 × source in a chamber; a chamber that takes no interrupt then leaves it pending; the entry
begins the handler; VIC_EOI ends the Lantern's most recent active source; a binding is written, by the Lantern or by its own chamber, and a chamber’s
write that is denied raises BUS_ERROR, one to VIC_BIND0 to 15, which are not listed, ADDRESS_ERROR. R114, R116: interrupt entry writes ipc with the pc,
clears ie, sets ibank and goes on at the vector; IRET goes on at ipc, sets ie and clears ibank; neither touches the exception registers. An
arbitration and a presentation are two deliveries in this model (log entry 9). -/
def Obligations.InterruptCourse : Prop :=
  (∀ (ch : Fin 144) (s : State),
     let h := chmOf s ch.val
     (∀ c, s.lvic.chosen = some c → exec (.interruptDelivery .lantern) s =
       .next { s with lvic := { s.lvic with chosen := none, pend := setBit s.lvic.pend c.1 false, stack := c :: s.lvic.stack, vec := s.lvic.vbase + 16 * c.1 } }) ∧
     (s.lvic.chosen = none → exec (.interruptDelivery .lantern) s = .next { s with lvic := { s.lvic with chosen := arbitrate s.lvic 256 } }) ∧
     (∀ c, h.vic.chosen = some c → acceptsIrq h.core = true →
       exec (.interruptDelivery (.chamber ch)) s = .next (updChm s ch.val fun x =>
         { x with vic := { x.vic with chosen := none, pend := setBit x.vic.pend c.1 false, stack := c :: x.vic.stack, vec := x.vic.vbase + 128 * c.1 },
                  core := { x.core with entering := some (BitVec.ofNat 40 (x.vic.vbase + 128 * c.1)), keepHeld := anyHeld x.ar } })) ∧
     (∀ c, h.vic.chosen = some c → acceptsIrq h.core = false →
       exec (.interruptDelivery (.chamber ch)) s = .next (updChm s ch.val fun x =>
         { x with vic := { x.vic with chosen := none, pend := setBit x.vic.pend c.1 true } })) ∧
     (h.vic.chosen = none → acceptsIrq h.core = true →
       exec (.interruptDelivery (.chamber ch)) s = .next (updChm s ch.val fun x => { x with vic := { x.vic with chosen := arbitrate x.vic 64 } })) ∧
     (∀ v, h.core.entering = some v → allHeld h.ar = true → accOut h.core = false →
       exec (.interruptEntry ch) s = .next (updCore (withdrawIssue s ch) ch.val fun c => enterIrq c v)) ∧
     exec .vicEoi s = .next { s with lvic := { s.lvic with stack := s.lvic.stack.drop 1 } } ∧
     (∀ (k : Fin 64) (v : Word), 16 ≤ k.val →
       let n := fld v.toNat 15 0
       let put (ctx : Nat) : Host.Outcome State Fault Refusal :=
         .next (updChm s ch.val fun x => { x with vic := { x.vic with bind := Tab.put {} x.vic.bind k.val { valid := v.getLsbD 31, ctx := ctx, cairn := n } } })
       let foreign : Prop := (cairnOf s n).typ = 0 ∨ (cairnOf s n).ctx ≠ h.core.ctx
       exec (.vicBindk .lantern ch k v) s = put (cairnOf s n).ctx ∧
       (v.getLsbD 31 = true → foreign → exec (.vicBindk (.chamber ch) ch k v) s = .next (chmRefused s ch 6 (bindAddr ch.val k.val))) ∧
       (v.getLsbD 31 = false ∨ ¬foreign → exec (.vicBindk (.chamber ch) ch k v) s = put h.core.ctx)) ∧
     (∀ (c : Fin 144) (k : Fin 64) (v : Word), 16 ≤ k.val → c ≠ ch →
       exec (.vicBindk (.chamber c) ch k v) s = .next (chmRefused s c 6 (bindAddr ch.val k.val))) ∧
     (∀ (c : Fin 144) (k : Fin 64) (v : Word), k.val < 16 →
       exec (.vicBindk (.chamber c) ch k v) s = .next (chmRefused s c 5 (bindAddr ch.val k.val)))) ∧
  (∀ (c : Core) (v : BitVec 40),
     (enterIrq c v).ipc = c.pc ∧ (enterIrq c v).ie = false ∧ (enterIrq c v).ibank = true ∧ (enterIrq c v).pc = v ∧
     (enterIrq c v).xbank = c.xbank ∧ (enterIrq c v).epc = c.epc ∧ (enterIrq c v).g = c.g ∧ (enterIrq c v).issue = none ∧
     (let d := exitIrq c c.ipc
      (c.ipc.toNat % 32 = 0 → d.pc = c.ipc) ∧ d.ie = true ∧ d.ibank = false ∧ d.xbank = c.xbank ∧ d.epc = c.epc ∧ d.g = c.g) ∧
     (∀ n, n < 24 → readG (enterIrq c v) n = readG c n) ∧
     (c.ibank = false → c.xbank = false → ∀ n, readG (exitIrq (enterIrq c v) c.pc) n = readG c n))

/-- Halting and stepping (R123, R407): while debug is unlocked for chambers a write of halt_req takes effect, at once where no access is outstanding,
and a write of step lets a halted chamber issue one bundle; while it is locked neither changes anything. -/
def Obligations.Halting : Prop :=
  ∀ (ch : Fin 144) (s : State),
    let c := coreOf s ch.val
    (s.sec.scope.getLsbD 0 = true → ∀ halt,
      exec (.chmCtlHaltReq ch halt) s = .next (updCore s ch.val fun x => { x with haltReq := halt, halted := halt && !accOut x })) ∧
    (s.sec.scope.getLsbD 0 = true → c.haltReq = true → accOut c = false →
      exec (.chmCtlStep ch) s = .next (updCore s ch.val fun x => { x with halted := true, stepping := true })) ∧
    (s.sec.scope.getLsbD 0 = false → (∀ halt, exec (.chmCtlHaltReq ch halt) s = .next (updCore s ch.val fun x => x)) ∧
      exec (.chmCtlStep ch) s = .next (updCore s ch.val fun x => x))

/-- What a signal or add does (R334, R339): on a SEMAPHORE with no waiter v := min(v + n, 0xFFFFFFFF), ovf set when clamped; on a BARRIER below its
target v := v + n, and at its target it opens, v 0 and gen one on; on an EVENT with no waiter v := v OR n; an add to a faulted or FREE cairn does
nothing, and one of 0 only lets a timed barrier open that is due. A timed BARRIER (R340) stays closed before its release time whatever its count,
and one whose count reaches target after that time opens late. What a wait and a try do to a SEMAPHORE (R334, R335): one that is not 0 is counted
down and grants at once, with status OK; one that is 0 queues the chamber last, and a try of it answers NOT_READY, code 4; a try writes its status
code into the cairn; a try of another context's cairn answers CLEARED, code 3. -/
def Obligations.CairnEffects : Prop :=
  (∀ (s : State) (n : Nat) (amt : Word), tablesOk s →
     let c := cairnOf s n
     let d := cairnOf (cairnAdd s n amt) n
     (c.faulted = true ∨ c.typ = 0 → cairnAdd s n amt = s) ∧
     (amt = 0 → cairnAdd s n amt = settleTimed s n) ∧
     (amt ≠ 0 → c.faulted = false →
       (c.typ = 1 → c.waiters = [] →
         d.v.toNat = min (c.v.toNat + amt.toNat) 0xFFFFFFFF ∧ d.ovf = (c.ovf || decide (0xFFFFFFFF < c.v.toNat + amt.toNat)) ∧ d.waiters = []) ∧
       (c.typ = 2 → c.v.toNat + amt.toNat < c.target ∨ (c.timed = true ∧ now s < c.t.toNat) → c.v.toNat + amt.toNat < 2 ^ 32 →
         d.v.toNat = c.v.toNat + amt.toNat ∧ d.gen = c.gen ∧ d.waiters = c.waiters) ∧
       (c.typ = 2 → c.target ≤ c.v.toNat + amt.toNat → c.timed = false → d.v = 0 ∧ d.gen = c.gen + 1 ∧ d.waiters = []) ∧
       (c.typ = 2 → c.v.toNat < c.target → c.target ≤ c.v.toNat + amt.toNat → c.timed = true → c.t.toNat < now s → d.v = 0 ∧ d.gen = c.gen + 1 ∧
         d.timed = false ∧ ∀ w ∈ c.waiters, (coreOf (cairnAdd s n amt) w).grant = some (statusWord 2 (w32 (c.gen + 1).toNat))) ∧
       (c.typ = 3 → c.waiters = [] → d.v = c.v ||| amt)) ∧
     (∀ m, m ≠ n → cairnOf (cairnAdd s n amt) m = cairnOf s m)) ∧
  (∀ (s : State) (n ph : Nat), tablesOk s →
     let c := cairnOf s n
     let ctx := c.ctx
     c.typ = 1 → c.faulted = false →
     (c.v ≠ 0 →
       (cairnOf (cairnWait s n ph ctx) n).v = c.v - 1 ∧ (coreOf (cairnWait s n ph ctx) ph).grant = some (statusWord 0 (c.v - 1)) ∧
       (cairnTry s n ctx).1 = 0 ∧ (cairnOf (cairnTry s n ctx).2 n).v = c.v - 1 ∧ (cairnOf (cairnTry s n ctx).2 n).last = 0) ∧
     (c.v = 0 →
       (cairnOf (cairnWait s n ph ctx) n).waiters = c.waiters ++ [ph] ∧ (cairnOf (cairnWait s n ph ctx) n).v = 0 ∧
       (coreOf (cairnWait s n ph ctx) ph).waitCairn = some n ∧
       (cairnTry s n ctx).1 = 4 ∧ (cairnOf (cairnTry s n ctx).2 n).v = 0 ∧ (cairnOf (cairnTry s n ctx).2 n).last = 4) ∧
     (cairnTry s n (ctx + 1)).1 = 3)

/-- Commands that reach cairns (R340, R341): a timed barrier opens at its release time once its count has reached its target, and not before; a write
to CN_ADDn adds, by the Lantern or by a chamber whose job's context owns the cairn; another chamber's is denied and takes BUS_ERROR (R23); the host
has no way to it. -/
def Obligations.CairnCommands : Prop :=
  ∀ (k : Fin 65536) (n : Word) (ch : Fin 144) (s : State), noClock s 1 = false →
    let c := cairnOf s k.val
    (c.typ = 2 → c.timed = true → c.faulted = false → c.t.toNat ≤ now s → c.target ≤ c.v.toNat →
      exec (.timedBarrierOpen k) s = .next (barrierOpen s k.val false)) ∧
    (now s < c.t.toNat ∨ c.v.toNat < c.target → exec (.timedBarrierOpen k) s = .next s) ∧
    exec (.cnAddn .lantern k n) s = .next (cairnAdd s k.val n) ∧
    (c.typ ≠ 0 → c.ctx = (coreOf s ch.val).ctx → exec (.cnAddn (.chamber ch) k n) s = .next (cairnAdd s k.val n)) ∧
    (c.typ = 0 ∨ c.ctx ≠ (coreOf s ch.val).ctx →
      exec (.cnAddn (.chamber ch) k n) s = .next (chmRefused s ch 6 (0x1809000008 + 16 * k.val))) ∧
    exec (.cnAddn .host k n) s = .next s

/-- R18, R185, R201: a read of a word with a latent uncorrectable error gives eight zero bytes marked POISON and a data error, and the failing word
(the 32-byte block in HBM) then holds zero bytes marked POISON with no latent error; a read of an offline pocket gives zero bytes marked POISON, for
a siphon a data error too, and changes nothing; a clean word gives its bytes and flags and changes nothing. -/
def Obligations.WordReads : Prop :=
  ∀ (s : State) (a : Nat), memoryOk s → tablesOk s → Tab.wf noFlags s.wflags = true → Tab.wf .none_ s.memErr = true → isMemory a = true → a % 8 = 0 →
    let r := readWord s a
    (storeKey s a = none → r = ({ data := List.replicate 8 0#8, flags := { poison := true, missing := false }, bad := true }, s)) ∧
    (∀ k, storeKey s a = some k → Tab.get .none_ s.memErr (eccKey k) = .none_ →
      r = ({ data := Memory.bytes s.mem k 8, flags := flagsAt s k, bad := false }, s)) ∧
    (∀ k, storeKey s a = some k → Tab.get .none_ s.memErr (eccKey k) = .ue →
      r.1 = { data := List.replicate 8 0#8, flags := { poison := true, missing := false }, bad := true } ∧
      Tab.get .none_ r.2.memErr (eccKey k) = .none_ ∧
      (∀ i, i < 8 → byteAt r.2 (a + i) = some 0#8) ∧ flagsAt r.2 k = { poison := true, missing := false } ∧
      (∀ x, isMemory x = true → latentUe s x = false → byteAt r.2 x = byteAt s x))

/-! ### The address map, elements, jobs, schedule (chapters 01, 02, 04, 11) -/

/-- R16: the ranges of the device physical address map; an address outside every range, every address of more than 40 bits among them, is unmapped. -/
def Obligations.AddressMap : Prop :=
  ∀ a : Nat,
    (spaceOf a = .hbm ↔ a ≤ 0x0BFFFFFFFF) ∧
    (∀ g, g < 16 → (spaceOf a = .cistern g ↔ 0x1000000000 + g * 0x400000 ≤ a ∧ a < 0x1000000000 + (g + 1) * 0x400000)) ∧
    (∀ c, c < 128 → (spaceOf a = .pocket c ↔ 0x1100000000 + c * 0x100000 ≤ a ∧ a < 0x1100000000 + (c + 1) * 0x100000)) ∧
    (spaceOf a = .basin ↔ 0x1200000000 ≤ a ∧ a ≤ 0x12017FFFFF) ∧
    (spaceOf a = .csr ↔ 0x1800000000 ≤ a ∧ a ≤ 0x1810FFFFFF) ∧
    (spaceOf a = .ownCsr ↔ 0x18FF000000 ≤ a ∧ a ≤ 0x18FF00FFFF) ∧
    (spaceOf a = .unmapped ↔
      ¬(a ≤ 0x0BFFFFFFFF) ∧ ¬(0x1000000000 ≤ a ∧ a ≤ 0x1003FFFFFF) ∧ ¬(0x1100000000 ≤ a ∧ a ≤ 0x1107FFFFFF) ∧
      ¬(0x1200000000 ≤ a ∧ a ≤ 0x12017FFFFF) ∧ ¬(0x1800000000 ≤ a ∧ a ≤ 0x1810FFFFFF) ∧ ¬(0x18FF000000 ≤ a ∧ a ≤ 0x18FF00FFFF)) ∧
    (2 ^ 40 ≤ a → spaceOf a = .unmapped) ∧
    (∀ g, spaceOf a = .cistern g → g < 16) ∧ (∀ c, spaceOf a = .pocket c → c < 128)

/-- Datapath arithmetic (R28, R30): a right shift rounds toward minus infinity and, by 64 or more, leaves 0 or −1 of a 64-bit value; a left shift
loses nothing; sat clamps to the signed range and keeps what lies in it. Packed elements (R34): writing elements of 4 or 8 bits and reading element i
gives element i back; a row of 32 takes 16 or 32 bytes. -/
def Obligations.DatapathFormats : Prop :=
  ((∀ (x : Int) (s : Nat), asr x s * 2 ^ s ≤ x ∧ x < (asr x s + 1) * 2 ^ s) ∧
   (∀ (x : Int) (s : Nat), 64 ≤ s → -(2 ^ 63) ≤ x → x < 2 ^ 63 → asr x s = if 0 ≤ x then 0 else -1) ∧
   (∀ (x : Int) (s : Nat), asr (shl x s) s = x) ∧
   (∀ (x : Int) (n : Nat), 0 < n → -(2 ^ (n - 1)) ≤ sat x n ∧ sat x n ≤ 2 ^ (n - 1) - 1 ∧
     (-(2 ^ (n - 1)) ≤ x → x ≤ 2 ^ (n - 1) - 1 → sat x n = x) ∧ (x < -(2 ^ (n - 1)) → sat x n = -(2 ^ (n - 1))) ∧
     (2 ^ (n - 1) - 1 < x → sat x n = 2 ^ (n - 1) - 1))) ∧
  (∀ (b : Nat) (xs : List Nat), b = 4 ∨ b = 8 → (∀ x ∈ xs, x < 2 ^ b) →
     (∀ (i : Nat) (h : i < xs.length), packedElem (packElems b xs) b i = xs[i]) ∧ (xs.length = 32 → (packElems b xs).length = 4 * b))

/-- R117: a chamber runs one job at a time: one that runs a job starts no other. At job start g1 holds the address of the parameter block, every
other general, loop and banked register is 0, pr holds 1, rrb, lc and ec are 0, ist holds ie alone, the exception and interrupt registers are clear
with pos 7, dbl stays, jtag and jinfo name the job, and issue begins at the template's entry; the arrays keep their weight slots, mode and status. -/
def Obligations.JobStart : Prop :=
  ∀ (ch : Fin 144) (s : State) (tag : Word) (j : Job) (r lc : Nat), tablesOk s →
    (chmOf s ch.val).startTag = some tag → jobOf s tag = some j →
    (numbered j.chms).find? (fun c => decide (c.2.2 = ch.val)) = some (r, lc, ch.val) →
    ((coreOf s ch.val).active = true → exec (.jobStart ch) s = .next s) ∧
    ((coreOf s ch.val).active = false → ∃ t, exec (.jobStart ch) s = .next t ∧
      let d := coreOf t ch.val
      let c := coreOf s ch.val
      let p := tmplOf s j.e.tmpl
      readReg d 1 = BitVec.ofNat 64 (pocketBase lc + transientStart s) ∧
      (∀ n, regCode n → n ≠ 1 → readReg d n = 0) ∧ (∀ n, Tab.get 0 d.ib n = 0 ∧ Tab.get 0 d.xb n = 0) ∧
      d.p = 1 ∧ d.rrb = 0 ∧ d.lc = 0 ∧ d.ec = 0 ∧ d.ie = true ∧ d.ibank = false ∧ d.xbank = false ∧
      d.ipc = 0 ∧ d.epc = 0 ∧ d.eaddr = 0 ∧ d.cause = 0 ∧ d.epos = 7 ∧ d.dbl = c.dbl ∧ d.jobTag = j.tag ∧ d.ctx = j.e.ctx ∧ d.active = true ∧
      d.pc = BitVec.ofNat 40 (pocketBase lc + 0x4000 * (ctxOf s p.ctx).pkOff + p.entry) ∧
      readSpecial t ch.val 11 = BitVec.ofNat 64 j.tag.toNat ∧
      ((chmOf s ch.val).logical = some lc → readSpecial t ch.val 12 = BitVec.ofNat 64 (j.e.ctx * 2 ^ 8 + lc)) ∧
      (chmOf t ch.val).ar = (chmOf s ch.val).ar ∧ (chmOf t ch.val).startTag = none)

/-- R292, R362, R363: SLOT_TICK acts once a tick is due and only then; a tick counts the air slot and takes its nominal time; SYMBOL_TICK passes the
next symbol tick of the running slot once its time is reached, and a fifteenth never. -/
def Obligations.Ticks : Prop :=
  ∀ s : State,
    (tickDue s = true → exec .slotTick s = .next (slotTick s)) ∧
    (now s < s.time.nextTick → exec .slotTick s = .next s) ∧
    (s.time.ticking = false → s.time.tick = none → exec .slotTick s = .next s) ∧
    (let c := countTick s
     c.sched.aslot = (if s.sched.started then s.sched.aslot + 1 else 0) ∧ c.time.slot = BitVec.ofNat 64 s.time.nextTick ∧ c.time.ticking = true ∧
     c.time.nextSym = 0 ∧ c.sts.aslot = BitVec.ofNat 64 c.sched.aslot ∧ c.sts.tickTime = BitVec.ofNat 64 s.time.nextTick) ∧
    (s.time.ticking = true → s.time.nextSym < 14 → s.time.slot.toNat + s.time.nextSym * tSym (tickScs s) ≤ now s →
      exec .symbolTick s = .next { s with time := { s.time with nextSym := s.time.nextSym + 1 } }) ∧
    (14 ≤ s.time.nextSym → exec .symbolTick s = .next s)

/-- R219, R362: T_sym is 71,428, 35,714 and 8,928 ns; symbols 0 to 12 end where the next one starts, symbol 13 with the next slot tick, 8, 4 and 8 ns
after its own T_sym, wherever the slot's start is a device time; a slot's first symbol starts with its slot tick. -/
def Obligations.AirTimes : Prop :=
  tSym 0 = 71428 ∧ tSym 1 = 35714 ∧ tSym 2 = 8928 ∧
  ∀ (t : Time) (scs n : Nat), scs < 3 →
    airEnd t scs n = airStart t scs (n + 1) ∧ airStart t scs (14 * n) = slotStart t scs n ∧
    (0 ≤ (Int.ofNat (n / 14) - Int.ofNat (gridBias scs)) * Int.ofNat (slotLen scs) + toffOf t →
      (n % 14 ≠ 13 → airEnd t scs n = airStart t scs n + tSym scs) ∧
      (n % 14 = 13 → airEnd t scs n = airStart t scs n + tSym scs + (if scs = 1 then 4 else 8)))

/-- Faults of units (R301, R411, R417, R418): the response to a logged error of severity UNIT in a chamber ends its job and retires it; a part that
has not ended its cleaning 1 µs after its fence is logged and retired; parity errors of chambers, DEC units and the data fabric are logged, and a
unit that cannot go on is retired, once; the patrol scrub leaves HBM without a latent error, what was uncorrectable zero and marked POISON, the rest
as it was, and touches no other memory (R181, R185). Deadlines (R25, R301, R302): from its deadline on, and after a slot tick that is due first, a
job in flight is ended and no longer in flight, after those whose fences come before its own, by deadline, air slot and entry; of these an
unfinished one is fenced as LATE, a finished one gives up its chambers; before its deadline nothing happens; with no such job nothing happens. What
a fence does in a chamber (R119, R120, R175): issue stops, both banks clear, the banked and exception registers keep their values, the count goes
on, queued array work is gone while weight slots, mode and an ALDW already filling stay, and flowstone is cleared. Fences act at one instant here
and a late part is named by FENCE_TIMEOUT (log entry 27, the model’s choice). -/
def Obligations.FaultResponse : Prop :=
  (∀ s : State,
     (∀ (ch : Fin 144) (cls t0 : Nat), unitFault s ch.val = some (cls, t0) →
       exec (.faultFence ch) s = .next (retireChamber (faultFenceOn s ch.val (faultCode cls ch.val)) ch.val cls t0)) ∧
     (∀ ch : Fin 144, unitFault s ch.val = none → exec (.faultFence ch) s = .next s) ∧
     (∀ (u : BitVec 16) (tag : Word) (c : Cleaning), s.sched.cleaning.find? (fun c => decide (c.tag = tag)) = some c → c.at_ + 1000 ≤ now s →
       partOf c u.toNat = true → retired s u.toNat = false →
       exec (.fenceTimeout u tag) s =
         .next (retireUnit (logErr s 7 2 u.toNat (if u.toNat < 144 then causeWord (coreOf s u.toNat) else 0) 0 false) u.toNat 7)) ∧
     (∀ ch : Fin 144, exec (.chmParity ch) s = .next (logErr s 6 2 ch.val (causeWord (coreOf s ch.val)) 0 false)) ∧
     (∀ u : Fin 20, retired s (decUnit u.val) = false →
       exec (.decParity u) s = .next (retireDec (logErr s 9 2 (decUnit u.val) 0 0 false) u.val 9)) ∧
     (∀ u : Fin 20, retired s (decUnit u.val) = true → exec (.decParity u) s = .next s) ∧
     (∀ g : Fin 16, exec (.fabric g true) s = .next (logErr s 8 0 (0x1000 + g.val) 0 0 false)) ∧
     (∀ g : Fin 16, retired s (0x1000 + g.val) = false →
       exec (.fabric g false) s = .next (retireGallery (logErr s 8 2 (0x1000 + g.val) 0 0 false) g.val 8 true)) ∧
     (∀ g : Fin 16, retired s (0x1000 + g.val) = true → exec (.fabric g false) s = .next s) ∧
     ∃ t, exec .patrolScrub s = .next t ∧
       (memoryOk s → Tab.wf .none_ s.memErr = true → Tab.wf noFlags s.wflags = true →
         (∀ k, k < 0x0C00000000 → Tab.get .none_ t.memErr (eccKey k) = .none_ ∧
           (Tab.get .none_ s.memErr (eccKey k) = .ue → Memory.byte t.mem k = 0 ∧ flagsAt t k = { poison := true, missing := false })) ∧
         (∀ n, 0x0C00000000 ≤ n * 8 → Tab.get .none_ t.memErr n = Tab.get .none_ s.memErr n) ∧
         ((∀ e ∈ s.memErr, e.2 ≠ .ue) → t.mem = s.mem ∧ t.wflags = s.wflags))) ∧
  (∀ (tag : Word) (s : State),
     (∀ j, jobOf s tag = some j → j.deadline ≤ now s → tickFirst s j.deadline = false →
       ∃ t, exec (.deadlineFence tag) s = .next t ∧ t = (dueUpTo s j).foldl deadlineJob s ∧ jobOf t tag = none ∧
         ((∀ x ∈ s.sched.jobs, x ≠ j → dueBefore x j = false ∧ x.tag ≠ tag) → s.sched.jobs.Nodup → t = deadlineJob s j)) ∧
     (∀ j x y, List.Pairwise (fun p q => dueBefore q p = false) (dueUpTo s j) ∧ (x ∈ dueUpTo s j → x ∈ s.sched.jobs ∧ x.deadline ≤ j.deadline) ∧
       (y ∈ s.sched.jobs → dueBefore y j = true → y ∈ dueUpTo s j)) ∧
     (∀ j, jobOf s tag = some j → now s < j.deadline → exec (.deadlineFence tag) s = .next s) ∧
     (jobOf s tag = none → exec (.deadlineFence tag) s = .next s) ∧
     (∀ j, j.finished = true → deadlineJob s j = dropJob (fenceDec s j.tag) j.tag) ∧
     (∀ j, j.finished = false → deadlineJob s j = fenceJob s j 1 none 0)) ∧
  ((∀ c : Core,
     let d := fenceCore c
     d.active = false ∧ d.issue = none ∧ d.entering = none ∧ d.waitCairn = none ∧ d.grant = none ∧ d.ibank = false ∧ d.xbank = false ∧
     d.lastFenced = true ∧ d.fenced = c.fenced + 1 ∧ d.ipc = c.ipc ∧ d.epc = c.epc ∧ d.eaddr = c.eaddr ∧ d.cause = c.cause ∧ d.epos = c.epos) ∧
   (∀ a : Arrays,
     let b := fenceArrays a
     b.aq = [] ∧ b.filling = a.filling ∧ b.act = a.act ∧ b.shadow = a.shadow ∧ b.mode = a.mode ∧ b.asign = a.asign ∧ b.sat = a.sat ∧ b.poison = a.poison ∧
     ∀ n, (Tab.get {} b.arr n).run = none ∧ (Tab.get {} b.arr n).fly = []) ∧
   (∀ f : Fls,
     let g := fenceFl f
     g.run = none ∧ g.fq = [] ∧ g.faultPend = false ∧ g.t = [] ∧ g.b = [] ∧ g.m = [] ∧ g.satBit = f.satBit ∧ g.fValid = f.fValid ∧ g.fKind = f.fKind) ∧
   (∀ (v : Vic) (e : Bool), (fenceVic v e).stack = [] ∧ (fenceVic v e).chosen = none ∧ (fenceVic v e).en = v.en ∧ (fenceVic v e).bind = v.bind))

/-! ### Time (chapter 14) -/

/-- R356 and the domains (R352 to R354, R444): PPS_IN is captured whether or not a domain uses it; a domain whose phases have stayed within ±100 ns
for 16 s, on a HOST domain with an adjustment in each second, locks and becomes active where none is; a silent source takes a LOCKED domain to
HOLDOVER, and with auto = 1 a LOCKED other domain takes over; Nerzon sends PTP and ESMC messages. R354: after a switch device time is the old device
time within 2 ns, the other domain is active, and what the old domain still slewed is stepped into it. That the first domain to lock becomes active
is the model’s choice (log entry 15). -/
def Obligations.TimeDomains : Prop :=
  (∀ s : State,
     (∃ t, exec .ppsInEdge s = .next t ∧ t.time.ppsIn = BitVec.ofNat 64 (now s)) ∧
     (∀ (d : Dom) (g : Nat), (domOf s.time d).good = some g → (domOf s.time d).source ≠ 0 → (domOf s.time d).state = 1 →
       ((domOf s.time d).source = 2 → 15 ≤ ((domOf s.time d).last - g) / 1000000000) → ((domOf s.time d).source ≠ 2 → g + 16000000000 ≤ (domOf s.time d).last) →
       ∃ t, exec (.domainLocked d) s = .next t ∧ (domOf t.time d).state = 2 ∧ t.time.active = (if s.time.active.isSome then s.time.active else some d)) ∧
     (∀ d : Dom, silent s (domOf s.time d) = true → (domOf s.time d).state = 2 →
       ∃ t, exec (.sourceLost d) s = .next t ∧ (domOf t.time d).state = 3 ∧
         t.time.active = (if s.time.active = some d ∧ s.time.auto = true ∧ (domOf s.time (otherDom d)).state = 2 then some (otherDom d) else s.time.active)) ∧
     (s.sts.state = 3 → exec .ptpMessageSend s = .next (ptpSends (ptpSends s .a) .b) ∧
       exec .esmcSend s = .next (s.lports.foldl (fun st p => if p.2.link then emit st (.esmc p.1 (Config.esmcLevel (recovered s.time) s.time.ql p.1)) else st) s))) ∧
  (∀ (s : State) (d : Dom), s.time.active = some (otherDom d) →
     let t := switchTo s d
     t.time.active = some d ∧ timeFine t.time ≤ timeFine s.time + 2 * 2 ^ 32 ∧ timeFine s.time ≤ timeFine t.time + 2 * 2 ^ 32 ∧
     (domOf t.time d).cnt = (domOf s.time d).cnt ∧ (domOf t.time (otherDom d)).slew = 0)

/-- Compares and pulses (R357, R358, R360, R361): an enabled compare fires once the signed 48-bit difference is at least 0, and
with it every compare due in that cycle, after a slot tick due then (R359); it clears en and sets fired;
a pulse rises and falls at its edges' device times; a setting that waits takes effect with the falling edge. -/
def Obligations.ComparesAndPulses : Prop :=
  ∀ s : State,
    (∀ k : Fin 16, (cmpOf s k.val).en = true → 0 ≤ cmpDiff s (cmpOf s k.val) → tickFirst s (now s) = false →
      exec (.compareFire k) s = .next (((List.range 16).filter (cmpDue s)).foldl (fun st i => cmpFire st i false) s) ∧
      ((∀ i, i < 16 → i ≠ k.val → cmpDue s i = false) → exec (.compareFire k) s = .next (cmpFire s k.val false))) ∧
    (∀ k : Fin 16, (cmpOf s k.val).en = false → exec (.compareFire k) s = .next s) ∧
    (∀ k : Fin 16, Tab.wf {} s.time.cmps = true → (cmpOf s k.val).irq = false → (cmpOf s k.val).csig = false → (cmpOf s k.val).retPend = false →
      let c := cmpOf (cmpFire s k.val false) k.val
      c.en = false ∧ c.fired = true ∧ c.late = (cmpOf s k.val).late ∧ c.tgt = (cmpOf s k.val).tgt) ∧
    (∀ (p : Fin 4) (r : Nat), (pulseOf s p.val).high = false → riseOf (pulseOf s p.val).cfg (pulseOf s p.val).next = some r → r ≤ now s →
      exec (.pulseEdge p) s =
        .next (emit (setPulse s p.val { pulseOf s p.val with high := true }) (.pulse p.val (!(pulseOf s p.val).cfg.pol) r))) ∧
    (∀ p : Fin 4,
      let x := pulseOf s p.val
      let fall := x.cfg.start + x.next * x.cfg.period + x.cfg.width
      x.high = true → fall ≤ now s →
      (x.pend = none → exec (.pulseEdge p) s =
        .next (emit (setPulse s p.val { x with high := false, next := x.next + 1 }) (.pulse p.val x.cfg.pol fall))) ∧
      (∀ c, x.pend = some c → exec (.pulseEdge p) s =
        .next (emit (setPulse s p.val { cfg := c, next := firstPulse c fall }) (.pulse p.val x.cfg.pol fall))))

/-! ### Fronthaul, echo bank, DEC, Emaux (chapters 08, 09, 10, 15) -/

/-- Ingest (R210 to R213, R217, R218, R220 to R227): a frame at a logical port whose mode or link gives it no PHY is not taken; one with a bad FCS
is counted and discarded; PTP and ESMC frames reach the time block; C-plane messages, other eCPRI messages and other frames are counted. A malformed
packet halts an ARMED flow; a HALTED one and one out of service discard what they are sent. A well-formed packet of a flow in service is counted as
early or late, or stages its PRBs and counts as accepted; at air end + L a window opens, W later the symbol is released; the squeeze unit converts
the symbol released first, writes its record last and signals the flow's cairn. The order in which rings and shares are taken is as log entry 30
says (the model’s choice). -/
def Obligations.FronthaulIngest : Prop :=
  (∀ (s : State) (l : Fin 32) (fcs : Bool) (f : Frame), Tab.wf {} s.lports = true →
    let ts := stamp s
    (hears s l.val = false → exec (.frameReceive l fcs f) s = .next s) ∧
    (hears s l.val = true → noClock s 1 = false →
      (fcs = false → ∃ t, exec (.frameReceive l fcs f) s = .next t ∧ (lportOf t l.val).fcs = (lportOf s l.val).fcs + 1 ∧ t.flows = s.flows) ∧
      (fcs = true →
        (∀ m, f.body = .ptp m → exec (.frameReceive l fcs f) s = .next (ptpFrame (draw s) l.val ts m)) ∧
        (∀ ql, f.body = .esmc ql → exec (.frameReceive l fcs f) s = .next (esmcFrame s l.val ql)) ∧
        (f.body = .pause ∨ f.body = .other →
          ∃ t, exec (.frameReceive l fcs f) s = .next t ∧ (lportOf t l.val).other = (lportOf s l.val).other + 1 ∧ t.flows = s.flows) ∧
        (∀ m, f.body = .ecpri m →
          let e := ecpriOf m
          (e.mtype = 2 → ∃ t, exec (.frameReceive l fcs f) s = .next t ∧ (lportOf t l.val).cplane = (lportOf s l.val).cplane + 1 ∧ t.flows = s.flows) ∧
          (e.mtype ≠ 0 → e.mtype ≠ 2 →
            ∃ t, exec (.frameReceive l fcs f) s = .next t ∧ (lportOf t l.val).other = (lportOf s l.val).other + 1 ∧ t.flows = s.flows) ∧
          (e.mtype = 0 → findFlow s l.val f.vlan e = none → ∃ t, exec (.frameReceive l fcs f) s = .next t ∧ t.flows = s.flows ∧
            (if s.flows.any (fun g => takesInput g.2 && g.2.cfg.ports.getLsbD l.val) then (lportOf t l.val).unmatched = (lportOf s l.val).unmatched + 1
             else (lportOf t l.val).noflow = (lportOf s l.val).noflow + 1)) ∧
          (e.mtype = 0 → ∀ k stream, findFlow s l.val f.vlan e = some (k, stream) →
            let g := flowOf s k
            let sym := symbolNamed s.time g.cfg.scs e ts
            let noted := updFlow (draw s) k fun x => noteSeq x stream e.seqId
            (takesInput g = false ∨ g.state = 3 → exec (.frameReceive l fcs f) s = .next (noFlow (draw s) l.val)) ∧
            (takesInput g = true → g.state ≠ 3 →
            (∀ c, haltCause g.cfg f.vlan.isSome m = some c →
              exec (.frameReceive l fcs f) s = .next (if g.state = 2 then haltFlow (draw s) k c ts e.first16 else noFlow (draw s) l.val)) ∧
            (haltCause g.cfg f.vlan.isSome m = none → g.cfg.kind = 0 → Tab.wf {} s.flows = true →
              (g.deadSym ≤ sym → exec (.frameReceive l fcs f) s = .next (stagePacket noted k stream sym (sections g.cfg m).1 ts)) ∧
              (sym < g.deadSym → exec (.frameReceive l fcs f) s = .next (noFlow (draw s) l.val))))))))) ∧
  (∀ (s : State) (k stream sym ts : Nat) (xs : List USection), Tab.wf {} s.flows = true →
    let f := flowOf s k
    let t := stagePacket s k stream sym xs ts
    let count (i : Nat) : Word := Tab.get 0 (flowOf t k).cnt i
    Tab.wf 0 f.cnt = true → Tab.wf {} f.syms = true →
    (ts + tSym f.cfg.scs < airEnd s.time f.cfg.scs sym → count 2 = Tab.get 0 f.cnt 2 + 1 ∧ (flowOf t k).syms = f.syms) ∧
    (airEnd s.time f.cfg.scs sym ≤ ts + tSym f.cfg.scs →
      (sym < f.nextRel ∨ serves f sym = false ∨ openTime s.time f sym + f.cfg.win ≤ ts → count 1 = Tab.get 0 f.cnt 1 + 1 ∧ (flowOf t k).syms = f.syms) ∧
      (f.nextRel ≤ sym → serves f sym = true → ts < openTime s.time f sym + f.cfg.win → basinFull s k sym = false →
        count 0 = Tab.get 0 f.cnt 0 + 1 ∧
        (f.nextRel < sym → (∀ r c, releaseTime s.time f f.nextRel = some (r, c) → ts < r) →
          (Tab.get {} (flowOf t k).syms sym).prbs = ((xs.flatMap (sectionPrbs stream)).foldl stagePrbs ((Tab.get {} f.syms sym).prbs, 0)).1)))) ∧
  (∀ (s : State) (k : Fin 128) (j sym : Nat), Tab.wf {} s.flows = true → noClock s 1 = false → j ∈ keysOf s k.val →
    let f := flowOf s j
    let e := airEnd s.time f.cfg.scs sym + f.cfg.lmax
    f.cfg.kind = 0 → serves f sym = true → f.nextRel ≤ sym → e ≤ now s → (Tab.get {} f.syms sym).opened = none → Tab.wf {} f.syms = true →
    ∃ t, exec (.windowOpen k sym) s = .next t ∧ (Tab.get {} (flowOf t j).syms sym).opened = some e ∧ (flowOf t j).nextRel = f.nextRel) ∧
  (∀ (s : State) (k : Fin 128) (sym : Nat), noClock s 1 = false →
    exec (.windowClose k sym) s = .next ((keysOf s k.val).foldl (closeWindow sym) s) ∧
    (∀ j,
      let f := flowOf s j
      let close := openTime s.time f sym + f.cfg.win
      let t := releaseOne s j (max close f.lastRel) true
      f.cfg.kind = 0 → sym = f.nextRel → serves f sym = true → (Tab.get {} f.syms sym).opened ≠ none → (Tab.get {} f.syms sym).done = none →
      (close ≤ now s → closeWindow sym s j = pumpRelease t j (now s) f.syms.length ∧
        ∃ r, t.released = s.released ++ [r] ∧ r.flow = j ∧ r.sym = sym ∧ r.closed = true ∧ r.tRel = max close f.lastRel) ∧
      (now s < close → closeWindow sym s j = s))) ∧
  (∀ s : State, noClock s 1 = false →
    (s.released = [] → exec .squeezeConversion s = .next s) ∧
    (∀ r, firstReleased s.released = some r →
      (r ∈ s.released ∧ ∀ x ∈ s.released, r.tRel ≤ x.tRel) ∧
      (let c := (flowOf s r.flow).cfg
       let base := 0x1200000000 + (flowOf s r.flow).basin + r.bufIx * flowBuf c
       let g := (List.range (nStreams c / c.n)).foldl (writeGroup c r.prbs base) ({ s with released := s.released.erase r }, 0)
       let record := [symbolWord c.scs (r.sym / 14) (b2n r.closed) (r.sym % 14), mkWord [(r.seq % 65536, 16), (g.2, 0)], w32 r.tOpen, w32hi r.tOpen,
                      w32 r.tRel, w32hi r.tRel] ++ List.replicate 10 0
       let t := writeMem g.1 base (wordBytes record) noFlags
       exec .squeezeConversion s = .next (cairnSignalFor (if g.2 = 0 then t else updFlow t r.flow fun f => bump f 6 1) c.ctx c.cairn 1))))

/-- Egress, links and parity (R210, R229, R230, R233 to R235, R275, R355, R411): GRANT_READ reads the next slot's grant within 20 µs of its C-plane
send time; CPLANE_SEND sends at that time and moves on by a slot, a DL flow whose grant is late sending nothing; UPLANE_SEND tries the flow's cairn at
the send time, a symbol whose data is not ready going out late and being counted, a slot whose grant is late sending nothing; a link that fails or
returns changes its port, one that a port's mode powers down cannot return; a datapath parity error is logged as FH_PARITY. Which grant is read first,
and that an earlier configuration of a flow goes on under the same number, are the model’s choice (log entry 30). -/
def Obligations.FronthaulEgress : Prop :=
  ∀ (k : Fin 128) (s : State),
    let f := flowOf s k.val
    (s.sts.state = 3 → noClock s 2 = false →
      (∀ j, dueKey s k.val (grantDue s) = some j → exec (.grantRead k) s = .next (readGrant s j (grantSlot (flowOf s j)))) ∧
      (dueKey s k.val (grantDue s) = none → exec (.grantRead k) s = .next s) ∧
      (let g := grantSlot f
       keysOf s k.val = [k.val] → f.cfg.kind ≤ 1 → runsSlot f g = true →
        (cplaneTime s.time f g ≤ now s + 20000 → exec (.grantRead k) s = .next (readGrant s k.val g)) ∧
        (now s + 20000 < cplaneTime s.time f g → exec (.grantRead k) s = .next s))) ∧
    (noClock s 1 = false →
      (∀ j, dueKey s k.val (cplaneDue s) = some j → exec (.cplaneSend k) s = .next (sendSlot s j)) ∧
      (dueKey s k.val (cplaneDue s) = none → exec (.cplaneSend k) s = .next s) ∧
      (∀ gr, keysOf s k.val = [k.val] → f.cfg.kind ≤ 1 → grantOf f f.nextC = some gr → runsSlot f f.nextC = true →
        let step (t : State) : State := updFlow t k.val fun x => { x with nextC := f.nextC + 1 }
        (now s < cplaneTime s.time f f.nextC → exec (.cplaneSend k) s = .next s) ∧
        (cplaneTime s.time f f.nextC ≤ now s →
          (f.cfg.kind = 0 ∨ gr.late = false →
            exec (.cplaneSend k) s = .next (step ((List.range (nStreams f.cfg)).foldl (sendCplane k.val f.nextC gr) s))) ∧
          (f.cfg.kind = 1 → gr.late = true → exec (.cplaneSend k) s = .next (step s))))) ∧
    (noClock s 1 = false →
      (∀ j, dueKey s k.val (uplaneDue s) = some j → exec (.uplaneSend k) s = .next (sendNext s j)) ∧
      (dueKey s k.val (uplaneDue s) = none → exec (.uplaneSend k) s = .next s) ∧
      (let sym := f.nextSend
       keysOf s k.val = [k.val] → f.cfg.kind = 1 → serves f sym = true →
        (now s + f.cfg.tadv < airStart s.time f.cfg.scs sym → exec (.uplaneSend k) s = .next s) ∧
        (airStart s.time f.cfg.scs sym ≤ now s + f.cfg.tadv →
          ((∀ gr, grantOf f (sym / 14) = some gr → gr.late = true) → exec (.uplaneSend k) s = .next (stepSend s k.val)) ∧
          (∀ gr, grantOf f (sym / 14) = some gr → gr.late = false →
            let late (t : State) : State := updFlow (sendSymbol t k.val sym gr true) k.val fun x => bump x 7 1
            let r := cairnTry s f.cfg.cairn f.cfg.ctx
            ((Tab.get {} f.syms sym).bad = false → r.1 = 0 → exec (.uplaneSend k) s = .next (stepSend (sendSymbol r.2 k.val sym gr false) k.val)) ∧
            ((Tab.get {} f.syms sym).bad = false → r.1 ≠ 0 → exec (.uplaneSend k) s = .next (stepSend (late r.2) k.val)) ∧
            ((Tab.get {} f.syms sym).bad = true → exec (.uplaneSend k) s = .next (stepSend (late s) k.val)))))) ∧
    (∀ l : Fin 32,
      ((lportOf s l.val).link = true → exec (.linkDown l) s = .next (linkDown s l.val)) ∧
      ((lportOf s l.val).link = false → exec (.linkDown l) s = .next s) ∧
      (subPort (portOf s (l.val / 4)).mode (l.val % 4) = false ∨ (lportOf s l.val).link = true → exec (.linkUp l) s = .next s) ∧
      (Tab.wf {} s.lports = true → flowsOn s l.val = [] →
        ((lportOf s l.val).link = true → ∃ t, exec (.linkDown l) s = .next t ∧ (lportOf t l.val).link = false ∧
          t.time.synceHold = (s.time.synceHold || (s.time.synceExt && decide (s.time.syncePort = l.val)))) ∧
        (subPort (portOf s (l.val / 4)).mode (l.val % 4) = true → (lportOf s l.val).link = false →
          ∃ t, exec (.linkUp l) s = .next t ∧ (lportOf t l.val).link = true ∧
            t.time.synceHold = (s.time.synceHold && !decide (s.time.syncePort = l.val))))) ∧
    (∀ sym, f.state ≠ 0 → s.err.hw.length < 256 → Tab.wf 0 s.err.cnt = true →
      ∃ t, exec (.fhParity k sym) s = .next t ∧ Tab.get 0 t.err.cnt 0xA = Tab.get 0 s.err.cnt 0xA + 1 ∧ t.lvic.pend.getLsbD 202 = true)

/-- The course of an echo packet (R280, R281, R284 to R289): in search a preamble that meets quality and threshold starts the look and freezes N, and
a stronger one restarts the look; once plen + 8 symbols have passed without a sync word the look is counted as missed and the channel returns to
search; a sync word within swerr and in the look latches RSSI and sync time and starts the packet; once the length field is there a length in range
sets what is still needed, one outside ends the packet BAD_LENGTH; once the payload is complete it ends OK; before that a stronger preamble with
capture on cuts it short, status 1, and looks again, unless a disable waits. That the measurements come with the commands is log entry 28. -/
def Obligations.EchoPackets : Prop :=
  ∀ (k : Fin 4096) (s : State), Tab.wf {} s.echs = true → noClock s 1 = false →
    let h := echOf s k.val
    let e := estreamOf s h.cfg.stream
    (∀ (m : PreambleMeas) (pos : Nat),
      (h.state = 1 ∨ (h.state = 2 ∧ m.code < h.code ∧ h.at_ < pos) → detects s h (noiseNow s h) m pos = true →
        ∃ t, exec (.preambleDetection k m pos) s = .next t ∧
          echOf t k.val = { h with state := 2, noise := noiseNow s h, at_ := pos, code := m.code }) ∧
      (matching h.cfg m.bits < h.cfg.qmin ∨ threshold h (noiseNow s h) < Int.ofNat m.code → exec (.preambleDetection k m pos) s = .next s) ∧
      (h.state = 2 → h.code ≤ m.code → exec (.preambleDetection k m pos) s = .next s)) ∧
    (h.state = 2 → passed s h (h.at_ + 1) (h.cfg.plen + 8) e.pos = true → h.disPend = false → h.pend = none → Tab.wf 0 h.cnt = true →
      ∃ t, exec (.syncMiss k) s = .next t ∧ (echOf t k.val).state = 1 ∧ Tab.get 0 (echOf t k.val).cnt 2 = Tab.get 0 h.cnt 2 + 1 ∧ t.rings = s.rings) ∧
    (passed s h (h.at_ + 1) (h.cfg.plen + 8) e.pos = false → exec (.syncMiss k) s = .next s) ∧
    (∀ (m : SyncMeas) (g : NbSeg), segAt e m.pos = some g → h.state = 2 →
      (syncDiff h.cfg m.word ≤ h.cfg.swerr → inLook s h m.pos = true →
        ∃ t, exec (.syncWordFound k m) s = .next t ∧
          let x := echOf t k.val
          x.state = 3 ∧ x.rssi = rssiCode e.sfmt m.power m.count ∧ x.rssi ≤ 254 ∧ x.swdiff = syncDiff h.cfg m.word ∧
          x.tsync = syncTime e g.ts (m.pos - g.start) ∧ x.at_ = m.pos ∧ x.need = if h.cfg.lmode = 0 then h.cfg.len else 0) ∧
      (h.cfg.swerr < syncDiff h.cfg m.word ∨ inLook s h m.pos = false → exec (.syncWordFound k m) s = .next s)) ∧
    (∀ syms, h.state = 3 → h.need = 0 → dueBy s h e.pos = true →
      let soft := syms.flatMap (softBits h.cfg.lev)
      let bs := bytesOfBits h.cfg.bitord (bodyBits h.cfg soft false) h.cfg.lmode
      let n := Int.ofNat (beNat bs) + h.cfg.lofs
      lengthSoft h.cfg ≤ soft.length →
      (1 ≤ n → n ≤ Int.ofNat h.cfg.len → ∃ t, exec (.lengthField k syms) s = .next t ∧ echOf t k.val = { h with need := n.toNat, got := bs.take n.toNat }) ∧
      (n < 1 ∨ Int.ofNat h.cfg.len < n →
        exec (.lengthField k syms) s = .next (updEch (endPacket (draw s) k.val 2 bs (Config.echoOffset s.free)) k.val settleEch))) ∧
    (∀ syms ferr, h.state = 3 → h.need ≠ 0 →
      let soft := syms.flatMap (softBits h.cfg.lev)
      soft.length = bodySoft h →
      (dueBy s h e.pos = true →
        exec (.packetEnd k syms ferr) s =
          .next (updEch (endPacket s k.val 0 (h.got ++ (bytesOfBits h.cfg.bitord (bodyBits h.cfg soft true) h.need).drop h.got.length) ferr) k.val settleEch)) ∧
      (dueBy s h e.pos = false → exec (.packetEnd k syms ferr) s = .next s)) ∧
    (∀ (m : PreambleMeas) (pos : Nat), h.state = 3 → detects s h h.noise m pos = true → h.at_ < pos →
      (h.cfg.capm ≠ 0 → h.cfg.capm + m.code ≤ h.rssi → dueBy s h (pos + 1) = false →
        (h.pend = none → h.disPend = false →
          exec (.capture k m pos) s = .next (updEch (cutPacket s k.val 1 (pos + 1)) k.val fun x => { x with state := 2, noise := h.noise, at_ := pos, code := m.code })) ∧
        (h.disPend = true → exec (.capture k m pos) s = .next (cutPacket s k.val 1 (pos + 1)))) ∧
      (h.cfg.capm = 0 ∨ h.rssi < h.cfg.capm + m.code ∨ dueBy s h (pos + 1) = true → exec (.capture k m pos) s = .next s))

/-- DEC tasks (R248, R251, R255 to R257, R264, R271): a chamber's write of the high word submits, and of a window its context does not have is
denied; the eligible task of the earliest deadline starts on the first free unit, or with none behind a decoder's task, its HARQ buffer combined at
the start; DECODE_TASK_END writes the header, the bits and the transport block record, counts the task and frees the unit, for the task behind it if
there is one; an encode writes its codeword and signals. R248 to R251: the task chosen is queued, of the kind asked for and may start, and no task
of that kind that may start has an earlier deadline; the unit chosen is the first that is free and in service; the HARQ values combined lie in −127
to 127 and the scale is at most 254. Combining at the start of a decode is the model’s choice (log entry 32). -/
def Obligations.DecodeTasks : Prop :=
  (∀ s : State,
     noClock s 1 = false →
     (∀ (ch : Fin 144) (hi : Word),
       let a := 0x1806000000 + 0x1000 * (coreOf s ch.val).ctx + 4
       (csrGranted s ch.val a = true → exec (.decSubmit ch hi) s = .next (chmWrote ch a (csrWrite s (.chamber ch) a hi))) ∧
       (csrGranted s ch.val a = false → exec (.decSubmit ch hi) s = .next (chmRefused s ch 6 a))) ∧
     (∀ i t u, nextTask s 1 = some (i, t) → freePair s = some u →
       exec .decodeTaskStart s = .next (runTask (combineTask s t).2 i u (combineTask s t).1)) ∧
     (nextTask s 1 = none ∨ freePair s = none → exec .decodeTaskStart s = .next s) ∧
     (nextTask s 2 = none ∨ freePlace s 16 4 0 = none → exec .encodeTaskStart s = .next s) ∧
     (∀ u : Fin 4, Tab.get none s.dec.run (16 + u.val) = none → exec (.encodeTaskEnd u) s = .next s) ∧
     (∀ i t u, nextTask s 2 = some (i, t) → freePlace s 16 4 0 = some u → exec .encodeTaskStart s = .next (runTask s i u { task := t })) ∧
     (∀ (u : Fin 16) r, Tab.get none s.dec.run u.val = some r → exec (.decodeTaskEnd u) s = .next (endDecode s u.val r)) ∧
     (∀ u : Fin 16, Tab.get none s.dec.run u.val = none → exec (.decodeTaskEnd u) s = .next s) ∧
     (∀ (u : Fin 4) r, Tab.get none s.dec.run (16 + u.val) = some r →
       let ws := r.task.words
       let b := readBits s (taddr ws 4 6 7 0) (wordAt ws 1)
       let t := writeBits b.2 (taddr ws 5 6 15 8) 0 (codeword ws b.1)
       exec (.encodeTaskEnd u) s = .next (taskCairn { t with dec := { t.dec with run := Tab.put none t.dec.run (16 + u.val) none } } r.task))) ∧
  ((∀ (s : State) (op i : Nat) (t : Task), nextTask s op = some (i, t) →
     s.dec.queue[i]? = some t ∧ tf t.words 0 31 28 = op ∧ canStart s i t = true ∧
     ∀ j u, s.dec.queue[j]? = some u → tf u.words 0 31 28 = op → canStart s j u = true → t.deadline ≤ u.deadline ∧ (u.deadline = t.deadline → i ≤ j)) ∧
   (∀ (s : State) (lo n at_ p : Nat),
     let free (u : Nat) : Prop := Tab.get none s.dec.run (u + at_) = none ∧ (unitOf s (decUnit u)).state ≤ 1
     (freePlace s lo n at_ = some p → ∃ u, p = u + at_ ∧ lo ≤ u ∧ u < lo + n ∧ free u ∧ ∀ v, lo ≤ v → v < u → ¬free v) ∧
     (freePlace s lo n at_ = none → ∀ v, lo ≤ v → v < lo + n → ¬free v)) ∧
   (∀ (s : State), freePair s = match freePlace s 0 16 0 with | some u => some u | none => freePlace s 0 16 32) ∧
   (∀ (run : Tab (Option RunTask)) (u : Nat), Tab.wf none run = true →
     Tab.get none (takeOff run u) u = Tab.get none run (u + 32) ∧ (∀ v, v ≠ u → v ≠ u + 32 → Tab.get none (takeOff run u) v = Tab.get none run v) ∧
     Tab.get none (takeOff run u) (u + 32) = none) ∧
   (∀ (ncb : Nat) (b : List Int) (h sc : Nat) (walk : List Nat) (e qm : Nat) (qs : List Int),
     let r := combine ncb b h sc walk e qm qs
     r.1.length = ncb ∧ (∀ x ∈ r.1, -127 ≤ x ∧ x ≤ 127) ∧ r.2 ≤ 254))

/-- Emaux links (R366 to R369, R371, R373 to R375): the bytes of a flit give the flit back; one with a bad CRC, or out of sequence, is answered with a
nak and delivers nothing; a good one acknowledges, is delivered in order and answered; 16 naks in a row, or 10 µs without a due acknowledgement, start
a training, which ends at full width, half width or down, an error unless the unit table already shows it; a failed link's traffic takes the other
way, and a device told of another's failed link keeps it in its routes; a remote access unanswered for 1 ms fails; a link without a partner 1 s after
Nerzon's start powers down, is tried every 10 s and trains again when one answers. Packets, sequence numbers and credits lie in a flit as log entry 34
says (the model’s choice). -/
def Obligations.EmauxLinks : Prop :=
  (∀ f : Flit, f.slots.length = 244 → f.cred.length = 6 → (∀ c ∈ f.cred, c < 16) → flitOf (flitBytes f) = some f) ∧
  (∀ (l : Fin 6) (s : State), Tab.wf {} s.emx.links = true →
    let x := elinkOf s l.val
    (∀ bytes, x.state < 2 → exec (.flitReceive l bytes) s = .next s) ∧
    (∀ bytes, 2 ≤ x.state → flitOf bytes = none → exec (.flitReceive l bytes) s = .next (answerFlit s l.val true)) ∧
    (∀ bytes (f : Flit), 2 ≤ x.state → flitOf bytes = some f →
      let t := takeAck s l.val f
      let y := elinkOf t l.val
      (f.seq = y.rxSeq + 1 →
        exec (.flitReceive l bytes) s = .next (answerTaken ((takeFlit f y).2.foldl (deliver l.val) (updLink t l.val fun _ => (takeFlit f y).1)) l.val)) ∧
      (f.seq ≠ y.rxSeq + 1 → f.seq ≠ y.rxSeq ∨ emptyFlit f = false → exec (.flitReceive l bytes) s = .next (answerFlit t l.val true)) ∧
      (f.seq = y.rxSeq → emptyFlit f = true → exec (.flitReceive l bytes) s = .next (drainLink l.val y.wait [] t))) ∧
    (s.sts.state = 3 → 2 ≤ x.state → 16 ≤ x.nakRun ∨ (x.retry ≠ [] ∧ x.ackAt + 10000 ≤ s.time.clk) →
      ∃ t, exec (.linkRetrain l) s = .next t ∧ elinkOf t l.val = { x with state := 1, retrains := x.retrains + 1, nakRun := 0 }) ∧
    (x.nakRun < 16 → x.retry = [] ∨ s.time.clk < x.ackAt + 10000 → exec (.linkRetrain l) s = .next s) ∧
    (∀ failed : BitVec 4, x.state = 1 → s.sts.state = 3 →
      let st := trainedState failed
      let t := updLink s l.val fun y => { y with state := st, failed := failed, found := true, ackAt := s.time.clk }
      let known : Prop := failed = 0 ∨ (failed = x.failed ∧ (unitOf s (0x6000 + l.val)).state ≠ 0)
      (known → (st = 0 → exec (.retrainEnd l failed) s = .next t) ∧
        (st ≠ 0 → exec (.retrainEnd l failed) s = .next (drainLink l.val (elinkOf t l.val).wait [] (resend t l.val)))) ∧
      (¬known →
        let u := linkError t l.val st false
        (st = 0 → exec (.retrainEnd l failed) s = .next u) ∧
        (st ≠ 0 → exec (.retrainEnd l failed) s = .next (drainLink l.val (elinkOf u l.val).wait [] (resend u l.val))))) ∧
    (trainedState 0 = 2 ∧ trainedState 0b1100 = 3 ∧ trainedState 0b0001 = 3 ∧ trainedState 0b0101 = 0) ∧
    (∀ dev : Fin 64, s.emx.joined = true → s.sts.state = 3 →
      (dev.val = s.emx.devid → x.state = 0 →
        exec (.reroute ⟨dev, l⟩) s = .next (rerouteOwn s l.val) ∧
        (x.retry = [] → rerouteOwn s l.val = x.wait.foldl (fun t w => sendPacket t w.2.1 w.2.2)
          (updLink s l.val fun y => { y with retry := [], wait := [], used := [], owed := [], rxBuf := [] }))) ∧
      (dev.val = s.emx.devid → x.state ≠ 0 → exec (.reroute ⟨dev, l⟩) s = .next s) ∧
      (dev.val ≠ s.emx.devid → ∃ t, exec (.reroute ⟨dev, l⟩) s = .next t ∧ (dev.val, l.val) ∈ t.emx.down ∧ t.emx.links = s.emx.links)) ∧
    (∀ dev : Fin 64, s.emx.joined = false → exec (.reroute ⟨dev, l⟩) s = .next s) ∧
    (∀ tag r, remoteOf s tag = some r →
      (r.sent + 1000000 ≤ s.time.clk → exec (.noResponse tag) s = .next (remoteFails s r 4)) ∧
      (s.time.clk < r.sent + 1000000 → exec (.noResponse tag) s = .next s)) ∧
    (x.state = 1 → s.sts.state = 3 → x.found = false →
      (s.sts.readyAt + 1000000000 ≤ s.time.clk →
        ∃ t, exec (.linkNoPartner l) s = .next t ∧ (elinkOf t l.val).state = 0 ∧ (elinkOf t l.val).off = true ∧ (elinkOf t l.val).offAt = s.time.clk) ∧
      (s.time.clk < s.sts.readyAt + 1000000000 → exec (.linkNoPartner l) s = .next s)) ∧
    (x.off = true → s.sts.state = 3 →
      (x.offAt + 10000000000 ≤ s.time.clk →
        (∀ d : Fin 64, ∃ t, exec (.linkRetry l (some d)) s = .next t ∧ (elinkOf t l.val).state = 1 ∧ (elinkOf t l.val).off = false ∧
          (elinkOf t l.val).peer = d.val) ∧
        (∃ t, exec (.linkRetry l none) s = .next t ∧ (elinkOf t l.val).off = true ∧ (elinkOf t l.val).offAt = s.time.clk)) ∧
      (∀ p, s.time.clk < x.offAt + 10000000000 → exec (.linkRetry l p) s = .next s)))

/-- Mailboxes, rings, BAR2 and the PCIe function (R312, R313, R315, R317 to R320, R322, R326 to R329): a post and an acknowledgement reach a pair
from the agent that owns it alone, and a chamber's access to another pair, or push to a ring it may not push to, takes BUS_ERROR (R23); a post by the
sender fills an empty mailbox, one to a full mailbox sets overrun and is refused; a held reply is posted once its mailbox is empty; a doorbell moves
its index, or is ignored and recorded; a waiting record is written once there is room; BAR2 reaches the open window and no other address; a
conventional reset closes the host's sessions; a held MSI goes out once enabled. -/
def Obligations.HostInterface : Prop :=
  ∀ s : State,
    (∀ (w : Agent) (p : Fin 176) (code : BitVec 16),
      let put (off : Nat) (f : State → WrRes) : Host.Outcome State Fault Refusal := .next (byDoor w s fun t => wroteBy w (pairAddr p.val off) (f t))
      (reachesPair w p.val = true →
        exec (.mbxReqPost w p) s = put 0x040 (fun t => mbxWritePost t w p.val true 0) ∧ exec (.mbxRspPost w p) s = put 0x0C0 (fun t => mbxWritePost t w p.val false 0) ∧
        exec (.mbxReqAck w p code) s = put 0x048 (fun t => mbxWriteAck t w p.val true (w32 code.toNat)) ∧
        exec (.mbxRspAck w p code) s = put 0x0C8 (fun t => mbxWriteAck t w p.val false (w32 code.toNat))) ∧
      (reachesPair w p.val = false → ∀ c : Fin 144, w = .chamber c →
        exec (.mbxReqPost w p) s = .next (chmRefused s c 6 (pairAddr p.val 0x040)) ∧ exec (.mbxRspPost w p) s = .next (chmRefused s c 6 (pairAddr p.val 0x0C0)) ∧
        exec (.mbxReqAck w p code) s = .next (chmRefused s c 6 (pairAddr p.val 0x048)) ∧
        exec (.mbxRspAck w p code) s = .next (chmRefused s c 6 (pairAddr p.val 0x0C8))) ∧
      (reachesPair w p.val = false → w = .host ∧ s.pcie.d3 = false ∨ w = .pciConfig →
        exec (.mbxReqPost w p) s = .next s ∧ exec (.mbxRspPost w p) s = .next s ∧ exec (.mbxReqAck w p code) s = .next s ∧
        exec (.mbxRspAck w p code) s = .next s) ∧
      (isSender w p.val true = true → (mboxOf s p.val true).full = false → mbxWritePost s w p.val true 0 = .ok (mbxPost s p.val true)) ∧
      ((mboxOf s p.val true).full = true → w ≠ .host → mbxWritePost s w p.val true 0 = .bus (updMbox s p.val true fun m => { m with overrun := true }))) ∧
    (∀ r, s.nci = some r → noClock s 2 = false → replyWaits s r = false → s.emx.tunIn.contains r.pair = false → (mboxOf s r.pair false).full = false →
      exec .replyPost s = .next (afterReply (postReply { s with nci := none } r) r)) ∧
    (∀ r, s.nci = some r → s.emx.tunIn.contains r.pair = false → (mboxOf s r.pair false).full = true → exec .replyPost s = .next s) ∧
    (∀ (n : Fin 16384) (idx : Word) (arm : Bool), exec (.doorbell n idx arm) s =
      .next (hostDoor s fun t => if doorbellOk (ringOf t n.val) idx then ringBell t n.val idx arm else leqPut t 3 n.val 0 (0x100000 + 8 * n.val) idx)) ∧
    (∀ (ch : Fin 144) (n : Fin 16384),
      (mayPush s ch.val n.val = true → exec (.ringPushGo ch n) s = .next (ringPush s ch.val n.val).st) ∧
      (mayPush s ch.val n.val = false → exec (.ringPushGo ch n) s = .next (chmRefused s ch 6 (0x180A000020 + 0x40 * n.val)))) ∧
    (∀ (n : Fin 16384) ws compl rest, (ringOf s n.val).waiting = (ws, compl) :: rest → 1 ≤ ringFree (ringOf s n.val) → ringHeld s (ringOf s n.val) = false →
      exec (.waitingRecordWritten n) s = .next (ringPlace (setRing s n.val { ringOf s n.val with waiting := rest }) n.val ws compl)) ∧
    (∀ n : Fin 16384, (ringOf s n.val).waiting = [] ∨ ringFree (ringOf s n.val) = 0 → exec (.waitingRecordWritten n) s = .next s) ∧
    (∀ off acc, exec (.bar2Access off acc) s = .next (hostDoor s (bar2Access off acc))) ∧
    (∀ off data, bar2Ok s (s.pcie.bar2Base + off) data.length = true →
      let t := writeMem s (s.pcie.bar2Base + off) data noFlags
      hitCtxs t (s.pcie.bar2Base + off) data.length = [] → bar2Access off (.write data) s = t) ∧
    (∀ off len, bar2Ok s (s.pcie.bar2Base + off) len = false → bar2Access off (.read len) s = emit s .unsupported) ∧
    (∃ t, exec .pcieConventionalReset s = .next t ∧ t.pcie.bme = false ∧ t.pcie.msiEn = false ∧ t.pcie.msiMask = 0 ∧ (∀ k ∈ t.nciQ, 32 ≤ k) ∧
      (∀ r, t.nci = some r → 32 ≤ r.pair) ∧ t.mem = s.mem ∧ t.rings = s.rings) ∧
    (∀ v : Fin 32, s.pcie.msiHeld.getLsbD v.val = true → s.pcie.bme = true → s.pcie.msiEn = true → s.pcie.msiMask.getLsbD v.val = false →
      exec (.heldMsiSend v) s = .next (emit { s with pcie := { s.pcie with msiHeld := setBit s.pcie.msiHeld v.val false } } (msiWrite s v.val))) ∧
    (∀ v : Fin 32, s.pcie.bme = false → exec (.heldMsiSend v) s = .next s)

/-! ### The Nerzon Command Interface (chapter 12) -/

/-- R321, R323, R324: an accepted request with a stale epoch is answered STALE_EPOCH, one with an unknown opcode BAD_ARG; of the checks of a command
the first that fails gives the code, in the order BAD_ARG (a reserved bit or a field rule), NOT_PERMITTED (a context session's system command or
foreign context, or the command's own), BUSY, NO_RESOURCES; only OK, DEFERRED and CLAMPED say that it took effect; where Nerzon comes upon an
inconsistency of its own the answer is INTERNAL, logged as NERZON_INTERNAL, and nothing else happens. That an unknown opcode is answered BAD_ARG is the
model’s choice (log entry 11); when Nerzon is inconsistent is a free value (log entry 43). -/
def Obligations.NciChecks : Prop :=
  (∀ (op : Nat) (masks : List Nat) (p : Fin 176) (s : State) (body : List Word → State → NciRes), takesRequest s p.val = true →
    let ws := reqWords s p.val
    let o := tf ws 0 31 16
    let stale := staleEpoch s p.val o (tf ws 0 15 8)
    let r := body ws s
    let c := nciCode op (sessionCtx s p.val) masks ws r
    (stale = true → withNci op masks p s body = .next (replied s p 5 [] s)) ∧
    (stale = false → knownOp o = false → withNci op masks p s body = .next (replied s p 2 [] s)) ∧
    (stale = false → o = op → knownOp op = true →
      (codeActs c = true → s.sts.internal = false → withNci op masks p s body = .next (r.after c (replied s p c r.words r.st))) ∧
      (codeActs c = true → s.sts.internal = true →
        ∃ t, withNci op masks p s body = .next t ∧ t.nci = some { pair := p.val, code := 0xFF, words := replyWords ws 0xFF [] } ∧
          Tab.get 0 t.err.cnt 0x12 = Tab.get 0 (Tab.upd 0 s.err.cnt 0x12 (· + 1)) 0x12 ∧ t.mem = s.mem ∧ t.chms = s.chms ∧ t.sched = s.sched) ∧
      (codeActs c = false → withNci op masks p s body = .next (r.after c (replied s p c [] s))))) ∧
  (∀ (op : Nat) (ses : Option Nat) (masks : List Nat) (ws : List Word) (r : NciRes),
    let c := nciCode op ses masks ws r
    let arg : Prop := reservedBits masks ws = true ∨ r.bad = true
    let perm : Prop := (∃ k, ses = some k ∧ (systemOnly op = true ∨ ∃ x ∈ r.ctxs, x ≠ k)) ∨ r.denied = true
    (arg → c = 2) ∧ (¬arg → perm → c = 4) ∧ (¬arg → ¬perm → r.busy = true → c = 1) ∧ (¬arg → ¬perm → r.busy = false → r.nores = true → c = 3) ∧
    (¬arg → ¬perm → r.busy = false → r.nores = false → c = r.code)) ∧
  (∀ c, codeActs c = true ↔ c = 0 ∨ c = 6 ∨ c = 7)

/-- Sessions, rings, cairns and memory of a system session (R187, R207, R208, R324, R325, R333, R341, R315): each accepted command has its effect and
its reply words; the write-back of a ring in host memory waits while Bus Master Enable is 0 (R312); a MEM_IMAGE_BIND over bytes that a committed
template's jobs use binds and reaches its context (R309, R428). That the reach is acted at
that command is the model’s choice (log entry 21); placement reports and image loads follow log entry 26. -/
def Obligations.NciTables : Prop :=
  ∀ (p : Fin 176) (s : State),
    let ws := reqWords s p.val
    let f (n hi lo : Nat) : Nat := tf ws n hi lo
    let ok (i : Instr) (more : List Word) (t : State) : Prop := exec i s = .next (replied s p 0 more t)
    (asks 0x0000 [0x80003F1F] p s = true → p.val ≤ 3 → f 1 31 31 = 0 → f 1 13 8 = 0 →
      ok (.sessionOpen p) [w32 ((pairOf s p.val).epoch + 1).toNat]
        (updPair s p.val fun x => { x with isOpen := true, ctxRole := false, ctx := 0, vector := f 1 4 0, epoch := x.epoch + 1 })) ∧
    (asks 0x0000 [0x80003F1F] p s = true → p.val < 32 → f 1 31 31 = 1 →
      ok (.sessionOpen p) [w32 ((pairOf s p.val).epoch + 1).toNat]
        (updPair s p.val fun x => { x with isOpen := true, ctxRole := true, ctx := f 1 13 8, vector := f 1 4 0, epoch := x.epoch + 1 })) ∧
    (asks 0x0001 [] p s = true → ok (.sessionClose p) [] (updPair s p.val fun x => { x with isOpen := false })) ∧
    (asks 0x0002 [] p s = true → ok (.nciInfo p) [s.sts.nerzon, stsIdWord s, s.sts.epoch] s) ∧
    (let n := f 1 29 16
     let t := setRing s n (ringOfWords ws)
     asks 0x0003 [0x3FFF3F03, 0xFFFFFFFF, 0xFFFFFFFF, 0x1F, 0xFFFFFFFF, 0xFFFFFFFF, 0x11F] p s = true → badRing s (ringOfWords ws) = false → ringNamed s n = false →
      (ringHeld t (ringOf t n) = false → ok (.ringSet p) [] (ringWriteBack t n)) ∧
      (ringHeld t (ringOf t n) = true → ok (.ringSet p) [] (setRing t n { ringOf t n with wbDue := true }))) ∧
    (let n := f 1 29 16
     let r := ringOf s n
     (asks 0x0004 [0x3FFF0000] p s = true → r.isSet = true → ringNamed s n = false → ok (.ringClear p) [] (setRing s n {})) ∧
     (asks 0x0005 [0x3FFF0000] p s = true → r.isSet = true →
      ok (.ringStatus p) [r.p, r.c, w32 r.count.toNat, w32hi r.count.toNat, r.dropped] s)) ∧
    (let n := f 1 31 16
     let o := cairnOf s n
     let c := cairnOfWords o ws
     (asks 0x0006 [0xFFFF3F33, 0xFFFFFFFF, 0x00FF3FFF, 0xFFFFFFFF, 0xFFFFFFFF] p s = true → (ctxOf s c.ctx).isSet = true →
      (c.typ = 2 → c.target ≠ 0) → (c.timed = true → c.typ = 2 ∧ now s ≤ c.t.toNat ∧ timedPending s n < 16) →
      (cairnNamed s n = true → c.typ = o.typ ∧ c.ctx = o.ctx) → ok (.cairnSet p) [] (cairnSet s n c)) ∧
     (asks 0x0007 [0xFFFF0000] p s = true → o.typ ≠ 0 → ok (.cairnGet p) [o.v, cairnCfgWord o, cairnStatWord o] s)) ∧
    (let k := f 1 5 0
     let o := ctxOf s k
     let c : Ctx := { o with pkUnits := f 2 31 16, pkOff := f 2 15 0, csUnits := f 3 31 16, csOff := f 3 15 0, hbm := hbmOfWords ws }
     (asks 0x0100 ([0x3F, 0xFFFFFFFF, 0xFFFFFFFF, 0xF] ++ List.replicate 8 0x7FFF7FFF) p s = true → partBad c (f 4 3 0) = false →
      ctxInTables s k = false → partShort s k c = false → ok (.memPartSet p) [] (updCtx (zeroChanged s o c) k fun _ => c)) ∧
     (asks 0x0101 [0x3F] p s = true → ok (.memPartGet p) (partWords o) s)) ∧
    (let k := f 1 5 0
     let c := ctxOf s k
     let i := imageOfWords ws
     asks 0x0102 [0x3F, 0xFFFFFFFF, 0xFF, 0xFFFFFFFF, 0xFFFFFFFF] p s = true → imageBad c i = false →
      let t := updCtx (loadImages s c [i] (setMembers c.chset)) k fun x => { x with images := x.images.filter (fun y => decide (y.off ≠ i.off)) ++ [i] }
      (codeInUse s k i.off i.len = false → ok (.memImageBind p) [] t) ∧
      (codeInUse s k i.off i.len = true → ok (.memImageBind p) [] (strayContext k t))) ∧
    (let k := f 1 5 0
     let c := ctxOf s k
     let v := chsetOfWords ws
     asks 0x0103 [0x3F, 0xFFFFFFFF, 0xFFFFFFFF, 0xFFFFFFFF, 0xFFFFFFFF] p s = true → v ≠ 0 → c.isSet = true → ctxInTables s k = false →
      ok (.placeSetChambers p) []
        (gateIdle (loadImages (updCtx s k fun x => { x with chset := v }) c c.images (setMembers (v &&& ~~~c.chset))))) ∧
    (asks 0x0104 [0xF] p s = true → ok (.placeMapGet p) (mapWords s (f 1 3 0)) s) ∧
    (let n := f 1 31 16
     let t := tmplOf s n
     let buf := dword (wordAt ws 2) (wordAt ws 3)
     let bs := reportBytes t n
     asks 0x0105 [0xFFFF003F, 0xFFFFFFFF, 0xFF, 0xFFFFFFFF] p s = true → t.isSet = true → t.ctx = f 1 5 0 → (ctxOf s t.ctx).isSet = true →
      buf % 8 = 0 → buf + wordAt ws 4 ≤ 0x0C00000000 → bs.length ≤ wordAt ws 4 →
      ok (.placeReport p) [w32 ((bs.length - 8) / 4)] (writeMem s buf bs noFlags)) ∧
    (let base := wordAt ws 1 + 2 ^ 32 * f 2 7 0
     asks 0x0106 [0xFFFFFFFF, 0x800000FF] p s = true → base % 0x40000000 = 0 → base + 0x40000000 ≤ 0x0C00000000 →
      ok (.memBar2Set p) [] { s with pcie := { s.pcie with bar2Base := base, bar2Open := decide (f 2 31 31 = 1) } })

/-- Contexts, templates, the survey, chains and DEC of a system session (R204, R205, R253 to R262, R295 to R303). Each accepted command has its
effect and its reply words, an offset table its effect with the reply (R270); the validity of a model and the order of the checks of tables are as
log entries 32 and 33 say. -/
def Obligations.NciJobs : Prop :=
  ∀ (p : Fin 176) (s : State),
    let ws := reqWords s p.val
    let f (n hi lo : Nat) : Nat := tf ws n hi lo
    let ok (i : Instr) (more : List Word) (t : State) : Prop := exec i s = .next (replied s p 0 more t)
    (let k := f 1 5 0
     let r := ringOf s (f 2 13 0)
     (asks 0x0200 [0x3F, 0x3FFF] p s = true → r.isSet = true → r.hostWrites = false → r.ctx = k →
      ok (.ctxSet p) [] (updCtx s k fun c => { c with isSet := true, evring := f 2 13 0 })) ∧
     (asks 0x0201 [0x3F] p s = true → (ctxOf s k).isSet = true → ctxInTables s k = false → (∀ j ∈ s.sched.jobs, j.e.ctx ≠ k) →
      ok (.ctxClear p) [] (clearCtx s k))) ∧
    (let n := f 1 25 16
     let k := f 1 5 0
     let a := dword (wordAt ws 2) (f 3 7 0)
     let r := readMemWords s a 16
     let t := tmplOfWords ws r.1
     (asks 0x0202 [0x03FF003F, 0xFFFFFFFF, 0xFF, 0xFFFFFFFF, 0xFFFFFFFF, 0xFFFFFFFF] p s = true → (ctxOf s k).isSet = true → a % 64 = 0 → 64 ≤ t.len →
      ctxMay s k none a t.len false = true → headerBad (ctxOf s k) t r.1 = false →
      (∀ j ∈ t.jcairns, (cairnOf s j.1).typ ≠ 0 ∧ (cairnOf s j.1).ctx = k) → tmplInTables s n = false →
      ((tmplOf s n).isSet = true ∨ (s.tmpls.filter fun e => e.2.isSet).length < 1024) →
      ok (.tmplSet p) [] { r.2.2 with tmpls := Tab.put {} r.2.2.tmpls n t }) ∧
     (asks 0x0203 [0x03FF0000] p s = true → (tmplOf s n).isSet = true → tmplInTables s n = false →
      ok (.tmplClear p) [] { s with tmpls := Tab.put {} s.tmpls n {} })) ∧
    (let a := dword (wordAt ws 1) (f 2 7 0)
     let r := readMemWords s a 8
     let n := tf r.1 1 14 0
     let b := readMemWords r.2.2 (a + 32) (4 * n)
     let es := entryWords b.1 n
     let t : Survey := { scs := tf r.1 0 25 24, hp := tf r.1 0 6 0, entries := es.map entryOfWords }
     asks 0x0204 [0xFFFFFFFF, 0xFF] p s = true → a % 32 = 0 → a + 32 + 16 * n ≤ 0x0BE0000000 → surveyBad s r.1 es t = false → timeConfigured s = true →
      s.sched.armed = false → (∀ x, x < t.hp → slotPlaceable s (slotEntries (some t) x) = true) →
      ok (.surveyStage p) [] { b.2.2 with sched := { b.2.2.sched with staged := some t } }) ∧
    (let h := nextHyper s
     (asks 0x0205 [1] p s = true → f 1 0 0 = 0 → s.sched.staged ≠ none →
      ok (.surveyCommit p) [w32 h.1, w32hi h.1] { s with sched := { s.sched with armed := true } }) ∧
     (asks 0x0205 [1] p s = true → f 1 0 0 = 1 → s.sched.armed = true → (∀ t, h.2 = some t → now s + 20000 ≤ t) →
      ok (.surveyCommitCancel p) [w32 h.1, w32hi h.1] { s with sched := { s.sched with armed := false } })) ∧
    (asks 0x0206 [] p s = true → ok (.schedStatus p)
      [w32 s.sched.aslot, w32hi s.sched.aslot,
       mkWord [(b2n s.sched.armed, 31), (b2n s.sched.dlbFrozen, 30), ((match s.sched.committed with | some t => t.hp | none => 0), 16),
               ((surveyEntries s.sched.committed).length, 0)],
       s.sched.late, s.sched.notPlaced, s.sched.forced] s) ∧
    (let k := f 1 5 0
     asks 0x0207 [0x3F] p s = true → (ctxOf s k).isSet = true → (∃ c ∈ s.chains, c.2.ctx = k ∧ c.2.staged ≠ none) →
      ok (.cfgCommit p) [] { s with chains := Tab.mapListed {} (fun _ c =>
        if c.ctx = k ∧ c.staged.isSome then { c with pending := c.staged, staged := none, reported := false } else c) s.chains }) ∧
    (asks 0x0208 [1] p s = true → ok (.detSet p) [] { s with sched := { s.sched with dlbPend := some (decide (f 1 0 0 = 1)) } }) ∧
    (let k := f 1 23 16
     let ctx := f 1 13 8
     let flow := f 2 22 16
     let o := chainOf s k
     let c := chainCfgOfWords ws
     asks 0x0400 [0x00FF3F03, 0x007FFFFF, 0x3FFF001F, 0xFFFFFFFF, 0xFF, 0xFFFFFFFF, 0xFFFF00FF, 0x1F] p s = true →
      chainFields s ctx flow (f 2 15 0) (f 3 29 16) c = false → (flowOf s flow).cfg.ctx = ctx →
      (o.isSet = true ∨ (s.chains.filter fun e => e.2.isSet).length < 256) →
      (Config.modelValid (s.free + 1) = false → exec (.chainSet p) s = .next (replied s p 2 [] (draw s))) ∧
      (Config.modelValid (s.free + 1) = true → o.isSet = false ∨ chainInTables s k = false → ok (.chainSet p) [] (updChain (draw s) k fun _ =>
        { isSet := true, ctx := ctx, flow := flow, tmpl := f 2 15 0, rring := f 3 29 16, cfg := c })) ∧
      (Config.modelValid (s.free + 1) = true → o.isSet = true → chainInTables s k = true →
        exec (.chainSet p) s = .next (replied s p 6 [] (updChain (draw s) k fun x => { x with staged := some c })))) ∧
    (let k := f 1 7 0
     let c := chainOf s k
     (asks 0x0401 [0xFF] p s = true → c.isSet = true → tmplInTables s c.tmpl = false → ok (.chainClear p) [] (updChain s k fun _ => {})) ∧
     (asks 0x0402 [0xFF] p s = true → c.isSet = true → ok (.chainStatus p) ((List.range 6).map fun i => Tab.get 0 c.counts i) s) ∧
     (asks 0x0403 [0xFF, 0xFFFFFFFF] p s = true → c.isSet = true → f 2 15 0 + f 2 31 16 ≤ c.cfg.nhbuf →
      ok (.harqFlush p) [] ((List.range (f 2 31 16)).foldl (fun x i => flushOne x (c.cfg.hp + (f 2 15 0 + i) * 25600)) s))) ∧
    (let k := f 1 5 0
     let a := dword (wordAt ws 2) (f 3 7 0)
     let r := readBytes s a 96
     asks 0x0404 [0x1003F, 0xFFFFFFFF, 0xFF] p s = true → a % 32 = 0 → (ctxOf s k).isSet = true → ctxMay s k none a 96 false = true →
      offsetsBad (f 1 16 16) r.1 = false →
      let q : NciReply := { pair := p.val, code := 0, words := replyWords ws 0 [], offs := some (k, f 1 16 16, r.1) }
      exec (.ldpcOffsetsSet p) s = .next { r.2.2.2 with nci := some q } ∧
      ∀ t, afterReply t q = updCtx t k fun c => { c with offs := Tab.put [] c.offs (f 1 16 16) r.1 }) ∧
    (asks 0x0405 [] p s = true →
      ok (.decStatus p) [w32 s.dec.tasks.toNat, w32hi s.dec.tasks.toNat, w32 s.dec.iters.toNat, w32hi s.dec.iters.toNat, s.dec.abandoned, s.dec.refused] s)

/-- Ports, flows and the echo bank of a system session (R210, R216 to R218, R236, R278 to R280, R287, R288). Each accepted command has its effect and
its reply words: a new port mode takes the port's links down; a flow set or freed keeps serving what it had; a channel disabled keeps its counters,
its packet cut short with status 4 where it had not completed. The place of a flow in the basin is free (log entry 30). -/
def Obligations.NciFronthaul : Prop :=
  ∀ (p : Fin 176) (s : State),
    let ws := reqWords s p.val
    let f (n hi lo : Nat) : Nat := tf ws n hi lo
    let ok (i : Instr) (more : List Word) (t : State) : Prop := exec i s = .next (replied s p 0 more t)
    (asks 0x0300 [0x337, 0xFFFF, 0xFFFFFFFF, 0xFFFF, 0xFFFFFFFF, 0xFFFF, 0xFFFFFFFF, 0xFFFF, 0xFFFFFFFF, 0xFFFF] p s = true → f 1 9 8 ≠ 3 →
      1500 ≤ f 2 15 0 → f 2 15 0 ≤ 9000 → portInUse s (f 1 2 0) = false →
      ∃ t, ok (.fhPortSet p) [] t ∧ (Tab.wf {} s.ports = true →
        let x := portOf t (f 1 2 0)
        x.mode = f 1 5 4 ∧ x.fec = f 1 9 8 ∧ x.plim = f 2 15 0 ∧ Tab.get 0 x.macs 0 = BitVec.ofNat 64 (dword (wordAt ws 3) (wordAt ws 4)) ∧
        Tab.get 0 x.macs 3 = BitVec.ofNat 64 (dword (wordAt ws 9) (wordAt ws 10))) ∧
       (f 1 5 4 = (portOf s (f 1 2 0)).mode → t.lports = s.lports) ∧
       (f 1 5 4 ≠ (portOf s (f 1 2 0)).mode → Tab.wf {} s.lports = true → ∀ q, q < 4 → (lportOf t (4 * f 1 2 0 + q)).link = false)) ∧
    (let l := f 1 4 0
     let x := Tab.get {} s.lports l
     asks 0x0301 [0x1F] p s = true → ok (.fhPortStatus p)
      [mkWord [(b2n x.link, 31), (if x.link then speedCode (portOf s (l / 4)).mode else 0, 0)], x.noflow, x.fcs, x.other, x.cplane, x.unmatched] s) ∧
    (let k := f 1 22 16
     let a := taddr ws 5 6 7 0
     let n := f 4 10 0
     let r := readEaxc s a n
     let c : FlowCfg := { flowOfWords ws with mac := r.1, eaxc := r.2.1 }
     let size := basinShare c
     asks 0x0302 [0x007F3F03, 0xFFFFFFFF, 0x07FFF9FF, 0x7FF, 0xFFFFFFFF, 0xFF, 0x3FFFF, 0x3FFFF, 0xFFFF00FF, 0xFFFFFFFF, 0xFF, 0x3FFFF, 0x3FFFF, 0x3FFF3FFF, 0xFF] p s =
       true → mappedRange a (8 + 4 * n) = true → flowBad s k c (f 3 17 16) n = false → (flowOf s k).state ≠ 2 → (flowOf s k).state ≠ 3 →
      (size ≠ 0 → basinFits s k size ≠ []) → streamsOver s k c = false →
      ∃ base, ok (.fhFlowSet p)
        (if c.kind = 0 then [w32 (0x1200000000 + base), w32hi (0x1200000000 + base), w32 (flowBuf c)] else [0, 0, if c.kind = 1 then w32 (flowBuf c) else 0])
        (updFlow (draw (setAside r.2.2 k)) k fun _ => { state := 1, cfg := c, basin := base, share := size }) ∧
        (size ≠ 0 → base ∈ basinFits s k size)) ∧
    (let k := f 1 6 0
     let x := flowOf s k
     (asks 0x0303 [0x7F] p s = true → x.state ≠ 0 → x.state ≠ 2 → timeConfigured s = true →
      ok (.fhFlowArm p) [] (updFlow s k fun y => { y with pendState := some 2 })) ∧
     (asks 0x0304 [0x17F] p s = true → f 1 8 8 = 0 → x.state = 2 ∨ x.state = 3 →
      ok (.fhFlowStop p) [] (updFlow s k fun y => { y with pendState := some 1 })) ∧
     (asks 0x0304 [0x17F] p s = true → f 1 8 8 = 1 → x.state = 1 → ok (.fhFlowStop p) [] (updFlow (setAside s k) k fun _ => {})) ∧
     (asks 0x0304 [0x17F] p s = true → f 1 8 8 = 0 → x.state = 1 → ok (.fhFlowStop p) [] (updFlow s k fun y => if y.state = 1 then { y with pendState := none } else { y with pendState := some 1 })) ∧
     (asks 0x0305 [0x7F] p s = true →
      ok (.fhFlowStatus p) (mkWord [(x.cause, 24), (x.state, 0)] :: (List.range 10).map fun i => Tab.get 0 x.cnt i) s)) ∧
    (let k := f 1 3 0
     let x := flowOf s (f 1 22 16)
     asks 0x0500 [0x007F1FCF, 0x003FFFFF, 0x00FFFFFF] p s = true → 2 ≤ f 1 12 8 → f 1 12 8 ≤ 9 → f 1 7 6 ≤ 1 → 100000 ≤ f 2 21 0 → f 2 21 0 ≤ 2560000 →
      x.state ≠ 0 → x.cfg.kind = 2 → (∀ e ∈ s.echs, e.2.state = 0 ∨ e.2.cfg.stream ≠ k) →
      ok (.echoStreamSet p) [] (updStream s k fun _ =>
        { isSet := true, flow := f 1 22 16, mlog := f 1 12 8, sfmt := f 1 7 6, fs := f 2 21 0, tlat := f 3 23 0 })) ∧
    (let ch := f 1 27 16
     let h := echOf s ch
     let c := echOfWords ws
     asks 0x0501 [0x0FFF3F00, 0x00FFFFFF, 0xF1FFFEFF, 0xFFFFFFFF, 0xFFFFFFFF, 0xC3FFFFFF, 0x3FFF0000, 0xFFFFFFFF, 0x001F00FF] p s = true →
      echBad s ch c = false → (ringOf s c.rring).ctx = c.ctx →
      (6 ≤ f 4 7 0 → h.state < 2 → ok (.echoChSet p) [0] (updEch s ch fun _ => { state := 1, cfg := c })) ∧
      (6 ≤ f 4 7 0 → 2 ≤ h.state → exec (.echoChSet p) s =
        .next (replied s p 6 [0] (updEch s ch fun x => { x with pend := some c, disPend := false }))) ∧
      (f 4 7 0 < 6 → h.state < 2 → exec (.echoChSet p) s = .next (replied s p 7 [0] (updEch s ch fun _ => { state := 1, cfg := c }))) ∧
      (f 4 7 0 < 6 → 2 ≤ h.state → exec (.echoChSet p) s =
        .next (replied s p 7 [1] (updEch s ch fun x => { x with pend := some c, disPend := false })))) ∧
    (let ch := f 1 11 0
     let h := echOf s ch
     (let pos := (estreamOf s h.cfg.stream).pos
      asks 0x0502 [0x00010FFF] p s = true →
      (f 1 16 16 = 1 → h.state = 3 → completeBy s h pos = false →
        ok (.echoChDisable p) [] (updEch (cutPacket s ch 4 pos) ch fun x => { cnt := x.cnt })) ∧
      (h.state = 1 ∨ (f 1 16 16 = 1 ∧ h.state = 2) → ok (.echoChDisable p) [] (updEch s ch fun x => { cnt := x.cnt })) ∧
      ((f 1 16 16 = 0 ∧ 2 ≤ h.state) ∨ (h.state = 3 ∧ completeBy s h pos = true) →
        ok (.echoChDisable p) [] (updEch s ch fun x => { x with disPend := true, pend := none }))) ∧
     (let n := noiseNow s h
      asks 0x0503 [0xFFF] p s = true →
      ok (.echoChStatus p) (mkWord [((threshold h n).toNat, 24), (n, 16), (h.state, 0)] :: (List.range 5).map fun i => Tab.get 0 h.cnt i) (draw s))) ∧
    (let e := estreamOf s (f 1 3 0)
     asks 0x0504 [0xF] p s = true → ok (.echoStreamStatus p) [w32 e.samples.toNat, w32hi e.samples.toNat, e.gaps, e.restarts, e.discards] s)

/-- Time, SyncE and the Emaux links of a system session (R353, R355, R357, R360, R361, R364, R376 to R378). Each accepted command has its effect and
its reply words. -/
def Obligations.NciTime : Prop :=
  ∀ (p : Fin 176) (s : State),
    let ws := reqWords s p.val
    let f (n hi lo : Nat) : Nat := tf ws n hi lo
    let ok (i : Instr) (more : List Word) (t : State) : Prop := exec i s = .next (replied s p 0 more t)
    (let d := domBit (f 1 0 0)
     (asks 0x0600 [0xFF1F0331, 0xFFFFFFFF, 0x3FFF, 0xFFFFFFFF, 0xFFFFFFFF] p s = true → f 1 9 8 ≤ 1 → f 3 13 0 ≤ 10000 →
      (isActive s d = true → f 1 5 4 = (domOf s.time d).source) → ok (.timeDomainSet p) [] (setDom s d fun _ => domainSet s d ws)) ∧
     (let r := sgn (wordAt ws 4) 32
      let r1 := clampRate (isActive s d) (domOf s.time d).rate r
      asks 0x0601 [1, 0xFFFFFFFF, 0xFFFFFFFF, 0xFFFFFFFF] p s = true → (domOf s.time d).source = 2 → exec (.timeDomainAdj p) s =
        .next (replied s p (if r1 = r then 0 else 7) []
          (setDom (correct s d (sgn (dword (wordAt ws 2) (wordAt ws 3)) 64)) d fun x => { x with rate := r1 })))) ∧
    (let t : State := { s with time := { s.time with auto := decide (f 1 0 0 = 1) } }
     (asks 0x0602 [3] p s = true → f 1 1 1 = 0 → ok (.timeSwitch p) [] t) ∧
     (∀ d, asks 0x0602 [3] p s = true → f 1 1 1 = 1 → s.time.active = some d → canSwitch s (otherDom d) = true →
      ok (.timeSwitch p) [] (switchTo t (otherDom d)))) ∧
    (asks 0x0603 [3, 0xFFFFFFFF, 0xFFFFFFFF] p s = true → f 1 1 0 ≠ 3 → s.sched.committed = none → s.sched.staged = none →
      ok (.timeTickSet p) [] (retick { s with time :=
        { s.time with tick := some (f 1 1 0, sgn (dword (wordAt ws 2) (wordAt ws 3)) 64), ticking := false, nextSym := 14 } })) ∧
    (let k := f 1 1 0
     let c := pulseOfWords ws
     let x := pulseOf s k
     asks 0x0604 [0x303, 0xFFFFFFFF, 0xFFFFFFFF, 0xFFFFFFFF, 0xFFFFFFFF] p s = true → pulseBad c = false →
      (x.high = false → ok (.timePulseSet p) [] (setPulse s k { cfg := c, next := firstPulse c (now s) })) ∧
      (x.high = true → ok (.timePulseSet p) [] (setPulse s k { x with pend := some c }))) ∧
    (let k := f 1 19 16
     let c := cmpOf s k
     (asks 0x0605 [0x000F013F] p s = true → f 1 8 8 = 1 → (ctxOf s (f 1 5 0)).isSet = true → c.en = false →
      ok (.timeCmpGrant p) [] (setCmp s k { c with grant := true, ctx := f 1 5 0, retPend := false })) ∧
     (asks 0x0605 [0x000F013F] p s = true → f 1 8 8 = 0 →
      exec (.timeCmpGrant p) s = .next (replied s p (if c.en then 6 else 0) [] (setCmp s k (cmpReturn { c with retPend := true }))))) ∧
    (asks 0x0606 [] p s = true →
      ok (.timeStatus p) [timeStatWord s.time, w32 (low s.time.da.err 32), w32 (low s.time.db.err 32), w32 s.time.ql.toNat] s) ∧
    (let l := f 1 4 0
     let e := decide (f 1 8 8 = 1)
     asks 0x0607 [0x11F] p s = true →
      ok (.synceSet p) [] (synceTo s fun t => { t with synceExt := e, syncePort := l, synceHold := e && !(Tab.get {} s.lports l).link })) ∧
    (let d := (dimSize (f 1 1 0), dimSize (f 1 9 8), dimSize (f 1 17 16))
     let root := f 2 5 0
     ∀ ans, asks 0x0700 [0x30303, 0x3F] p s = true → f 1 1 0 ≤ 1 → f 1 9 8 ≤ 1 → f 1 17 16 ≤ 1 → shapeOk d = true → inShape d root = true →
      s.emx.joined = false ∨ s.emx.isRoot = true →
      let here := (ans.map (·.val)).filter (inShape d)
      let t := joinSystem s d root here
      let missing := (List.range 64).filter fun n => inShape d n && decide (n ≠ root) && !here.contains n
      ok (.emxJoin p ans) [w32 t.emx.members.length, w32 (devBits missing), w32hi (devBits missing)] t) ∧
    (let x := elinkOf s (f 1 2 0)
     asks 0x0701 [7] p s = true → f 1 2 0 ≤ 5 →
      ok (.emxLinkStatus p) [mkWord [(x.state, 30), (x.failed.toNat, 24), (x.peer, 0)], x.naks, x.retrains] s) ∧
    (let k := f 1 20 16
     let d := f 1 5 0
     let en := decide (f 1 31 31 = 1)
     asks 0x0702 [0x801F1F3F] p s = true → 4 ≤ k → (en = true → s.emx.joined = true ∧ s.emx.members.contains d = true ∧ d ≠ s.emx.devid) →
      (pairOf s k).isOpen = false →
      ok (.emxTunnelSet p) [] { s with emx := { s.emx with tunnels := Tab.put none s.emx.tunnels k (if en then some { pair := f 1 12 8, dev := d } else none) } }) ∧
    (asks 0x0703 [0x3FFF0001, 0xFFFFFFFF] p s = true → doorbellOk (ringOf s (f 1 29 16)) (w32 (wordAt ws 2)) = true →
      ok (.emxDoorbell p) [] (ringBell s (f 1 29 16) (w32 (wordAt ws 2)) (decide (f 1 0 0 = 1)))) ∧
    (∀ far, asks 0x0704 [0x3F] p s = true → s.emx.joined = true → s.emx.members.contains (f 1 5 0) = true →
      (f 1 5 0 = s.emx.devid → ok (.emxStatus p far) [stsIdWord s, stsState s, s.sts.epoch, stsAlarm s, w32 (now s), w32hi (now s)] s) ∧
      (f 1 5 0 ≠ s.emx.devid → ok (.emxStatus p far) (far.take 6) s))

/-- Resets, power, security, pads and faults of a system session (R388, R393, R397, R398, R404 to R407, R413 to R416, R419, R422, R426, R427, R439,
R440). Each accepted command has its effect and its reply words; the 1 ms of a RESET begins with its reply. -/
def Obligations.NciControl : Prop :=
  ∀ (p : Fin 176) (s : State),
    let ws := reqWords s p.val
    let f (n hi lo : Nat) : Nat := tf ws n hi lo
    let ok (i : Instr) (more : List Word) (t : State) : Prop := exec i s = .next (replied s p 0 more t)
    (asks 0x0800 [] p s = true → ok (.crpStatus p)
      [resetCauseWord s.crp, clkmonWord s.crp, pllStatWord s.crp, pwrCapWord s.crp, pwrStatWord s.crp, tempWord s.crp] s) ∧
    (asks 0x0801 [0x800F03FF] p s = true → f 1 19 16 ≤ 9 → clkoutKHz (f 1 19 16) ≤ 200000 * (f 1 9 0 + 1) →
      ok (.clkoutSet p) [] (crpClkout s (ws.getD 1 0))) ∧
    (asks 0x0802 [3] p s = true → f 1 1 0 = 1 ∨ f 1 1 0 = 2 →
      let q : NciReply := { pair := p.val, code := 0, words := replyWords ws 0 [], reset := some (f 1 1 0) }
      exec (.reset p) s = .next { s with nci := some q } ∧
      ∀ t, afterReply t q = { t with crp := { t.crp with resetPend := some (f 1 1 0, t.time.clk) } }) ∧
    (let tw := f 1 23 16
     let cap := f 1 8 0
     let vmax := f 2 25 16
     let vmin := f 2 9 0
     asks 0x0803 [0x00FF01FF, 0x03FF03FF] p s = true → 70 ≤ tw ∧ tw ≤ 105 → 150 ≤ cap ∧ cap ≤ 320 → 650 ≤ vmin ∧ vmin ≤ vmax ∧ vmax ≤ 850 →
      let c : Crp := { s.crp with twarn := tw, cap := cap, vmax := vmax, vmin := vmin }
      ok (.powerSet p) [mkWord [(tw, 16), (cap, 0)], mkWord [(vmax, 16), (vmin, 0)]]
        { s with crp := c, sts := { s.sts with thermal := aboveTwarn c } }) ∧
    (asks 0x0804 [] p s = true → s.sec.bootcfg.getLsbD 5 = false → s.sec.failures < 8 →
      ∃ n, n < 2 ^ 256 ∧ ok (.debugChallenge p) (leWords (leBytes n 32) 8 ++ leWords (uidBytes s.sec) 4)
        { draw s with sec := { s.sec with nonce := some n } }) ∧
    (let a := dword (wordAt ws 2) (wordAt ws 3)
     let r := readBytes s a 193
     ∀ n, asks 0x0805 [0xF, 0xFFFFFFFF, 0xFF] p s = true → a + 193 ≤ 0x0C00000000 → s.sec.nonce = some n → s.sec.bootcfg.getLsbD 5 = false →
      (unlockOk s.sec n (f 1 3 0) r.1 = true →
        ok (.debugUnlock p) [] { r.2.2.2 with sec := { r.2.2.2.sec with nonce := none, scope := BitVec.ofNat 4 (f 1 3 0) } }) ∧
      (unlockOk s.sec n (f 1 3 0) r.1 = false →
        ∃ t, exec (.debugUnlock p) s = .next t ∧ t.nci.map (·.code) = some 4 ∧ t.sec.nonce = none ∧ t.sec.scope = s.sec.scope ∧
          t.sec.failures = s.sec.failures + 1)) ∧
    (asks 0x0806 [] p s = true →
      ok (.secStatus p) [mkWord [(s.sec.secver, 24), (s.sec.revoked.toNat, 16), (s.sec.kslot, 8), (s.sec.scope.toNat, 0)], s.sec.bootcfg] s) ∧
    (asks 0x0807 [] p s = true → s.sec.imgRevoke.getLsbD s.sec.kslot = false →
      ∃ t, exec (.secCommitVersion p) s = .next t ∧ t.sec = { s.sec with pulse := otpNeeds s.sec } ∧
        t.nci = some { pair := p.val, code := 0, words := replyWords ws 0 [], waits := 1 }) ∧
    (asks 0x0808 [0x3311F] p s = true → f 1 13 12 ≠ 3 →
      ∃ t, exec (.pinSet p) s = .next t ∧ t.pin = (padWrite s (f 1 4 0) (pinSetWord ws)).pin ∧
        t.nci = some { pair := p.val, code := 0, words := replyWords ws 0 [], waits := 2 + f 1 4 0 }) ∧
    (let m := ws.getD 1 0
     asks 0x0809 [0xFFFFFFFF, 0xFFFFFFFF, 0xFFFFFFFF] p s = true → ok (.gpioSet p) [gpioIn s]
      { s with pin := { s.pin with oe := (s.pin.oe &&& ~~~m) ||| (ws.getD 2 0 &&& m), out := (s.pin.out &&& ~~~m) ||| (ws.getD 3 0 &&& m) } }) ∧
    (let t := moveEntries s s.err.hw.length
     let m := if f 4 11 0 = 0 then 4096 else f 4 11 0
     let buf := dword (wordAt ws 2) (wordAt ws 3)
     let es := (logFrom t (wordAt ws 1)).take m
     asks 0x0900 [0xFFFFFFFF, 0xFFFFFFFF, 0xFF, 0xFFF] p s = true → buf % 32 = 0 → buf + 32 * m ≤ 0x0C00000000 →
      ok (.faultLogRead p) [mkWord [(es.length % 4096, 0)], (match es.getLast? with | some e => w32 (e.seq + 1) | none => w32 (wordAt ws 1)), t.err.lost] (writeMem t buf (es.flatMap fun e => wordBytes (entWords e)) noFlags)) ∧
    (let u := f 1 15 0
     let e := unitOf s u
     let dis := decide (f 1 16 16 = 1)
     (asks 0x0901 [0xFFFF] p s = true → unitKnown u = true → ok (.faultUnitGet p) [mkWord [(e.by_, 8), (e.state, 0)], e.code] s) ∧
     (asks 0x0902 [0x1FFFF] p s = true → unitKnown u = true → u ≠ 0x7000 → (dis = false → e.state ≠ 3) →
      (carriesWork s u = false ∨ e.state = 3 → ok (.faultUnitSet p) [] (updUnit s u fun x => setUnit x dis 2)) ∧
      (carriesWork s u = true → e.state ≠ 3 →
        exec (.faultUnitSet p) s = .next (replied s p 6 [] (updUnit s u (askUnit dis 2)))))) ∧
    (asks 0x0903 [] p s = true → ok (.telemetryGet p)
      [tempWord s.crp, pwrStatWord s.crp, mkWord [(unitsIn s 3, 8), (unitsIn s 1, 0)], w32 s.err.seq, s.leq.prod] s) ∧
    (let cls := f 1 20 16
     asks 0x0904 [0x1FFFFF] p s = true → 1 ≤ cls → cls ≤ 0x15 → s.sec.scope.getLsbD 1 = true →
      exec (.faultInject p) s = .next (errInj (replied s p 0 [] s) (mkWord [(1, 31), (cls, 16), (f 1 15 0, 0)]))) ∧
    (let g := f 1 4 0
     let buf := dword (wordAt ws 2) (wordAt ws 3)
     asks 0x0905 [0x1F, 0xFFFFFFFF, 0xFF] p s = true → g ≤ 16 → buf + 0x40000 ≤ 0x0C00000000 → s.sec.scope.getLsbD 2 = true →
      ∃ (t : State) (bytes : Nat → Byte), ok (.faultTrace p) [] (emit (writeMem t buf ((List.range 0x40000).map bytes) noFlags) (.trace g)) ∧
        t.mem = s.mem ∧ (g, s.time.clk) ∈ t.err.frozen)

/-! ### Clocks, resets, power, boot, pads, management (chapters 16 to 18) -/

/-- The reset pins and events (R381, R384, R387, R388, R390, R392 to R394, R400, R409, R410): each asserts the reset of its level with its cause
while no OTP pulse runs and no higher level is in progress; a release starts the boot ROM; a block reset resets an idle block and of a busy one has
an undefined result (R428). The stop at a busy block is the model’s choice (log entry 21). -/
def Obligations.ResetEvents : Prop :=
  ∀ s : State,
    let h := levelHeld s.crp
    let hit (i : Instr) (t : State) (level cause : Nat) : Prop := s.sec.pulse = false → h ≤ level → exec i s = .next (resetNow t level cause)
    (s.sec.pulse = false → exec (.porstN false) s = .next (powerReset { s with crp := { s.crp with porstLow := true } })) ∧
    (s.crp.porstLow = true →
      ∃ t, exec (.porstN true) s = .next t ∧ t.crp = { s.crp with porstLow := false } ∧ t.pin.bootSel = Config.bootSelPin (s.free + 1)) ∧
    (s.crp.porstLow = false → s.crp.oscDone = false → s.crp.stopRef = false →
      exec .oscillatorCountEnd s = .next (release { s with crp := { s.crp with oscDone := true } })) ∧
    hit (.sysRstN false) { s with crp := { s.crp with sysLow := true } } 2 2 ∧
    (s.crp.sysLow = true → exec (.sysRstN true) s = .next (release { s with crp := { s.crp with sysLow := false } })) ∧
    hit (.clockStop 8) (deviceEvent { s with crp := { s.crp with stopRef := true, monRef := true, refHold := true } }) 2 8 ∧
    (∀ k : Fin 9, k.val < 8 → k.val ≠ 2 → s.sts.state = 3 → pllInUse s k.val = true →
      hit (.clockStop k) (deviceEvent { s with crp := { s.crp with stopPll := setBit s.crp.stopPll k.val true, monPll := setBit s.crp.monPll k.val true,
                                                                   pllLock := setBit s.crp.pllLock k.val false } }) 2 8) ∧
    (∀ k : Fin 9, k.val < 8 → s.sts.state ≠ 3 ∨ k.val = 2 ∨ pllInUse s k.val = false →
      ∃ t, exec (.clockStop k) s = .next t ∧ t.crp.stopPll = setBit s.crp.stopPll k.val true ∧ t.crp.monPll = setBit s.crp.monPll k.val true ∧
        t.crp.pllLock = setBit s.crp.pllLock k.val false) ∧
    (s.crp.stopRef = true → s.crp.refHold = true →
      exec .referenceReturn s = .next (release { s with crp := { s.crp with stopRef := false, refHold := false } })) ∧
    (∀ k : Fin 8, s.crp.pllLock.getLsbD k.val = true → exec (.pllLockLoss k) s =
      .next (logErr { s with crp := { s.crp with pllLost := setBit s.crp.pllLost k.val true, pllLock := setBit s.crp.pllLock k.val false } } 0x0E 0 0x8003 0 0 false)) ∧
    hit .lockstepMismatch s 1 6 ∧
    (∀ tj : BitVec 8, 115 ≤ tj.toInt → hit (.overtemp tj) { s with crp := { s.crp with tj := tj, tempHold := true } } 2 7) ∧
    (∀ tj : BitVec 8, tj.toInt < 115 → exec (.overtemp tj) s = .next s) ∧
    (s.crp.tempHold = true → exec .overtempRecovery s = .next (release { s with crp := { s.crp with tempHold := false, tj := 95 } })) ∧
    hit (.crpResetCtl 1) s 1 4 ∧ hit (.crpResetCtl 2) s 2 3 ∧ exec (.crpResetCtl 3) s = .next s ∧
    (∀ l t, s.crp.resetPend = some (l, t) → t + 1000000 ≤ s.time.clk →
      hit .resetTakesEffect { s with crp := { s.crp with resetPend := none } } l (if l = 1 then 4 else 3)) ∧
    (∀ l t, s.crp.resetPend = some (l, t) → s.time.clk < t + 1000000 → exec .resetTakesEffect s = .next s) ∧
    (s.crp.wdtEn = true → s.crp.wdtAt + s.crp.wdtPeriod * 1000000 ≤ s.time.clk →
      (s.crp.stopPll.getLsbD 2 = false → hit .watchdogExpiry s 1 5) ∧ (s.crp.stopPll.getLsbD 2 = true → hit .watchdogExpiry s 2 8)) ∧
    (s.time.clk < s.crp.wdtAt + s.crp.wdtPeriod * 1000000 → exec .watchdogExpiry s = .next s) ∧
    (s.crp.wdtEn = false → exec .watchdogExpiry s = .next s) ∧
    (∀ v : Word, v.getLsbD 31 = true → v.getLsbD 12 = false →
      let n := fld v.toNat 11 8 * 9 + fld v.toNat 3 0
      let t : State := { s with crp := { s.crp with blkGal := false, blkG := fld v.toNat 11 8, blkP := fld v.toNat 3 0, blkBusy := true } }
      (fld v.toNat 3 0 < 9 → chmIdle s n = true → exec (.crpBlkRst v) s = .next (resetChamber t n)) ∧
      (fld v.toNat 3 0 < 9 → chmIdle s n = false → exec (.crpBlkRst v) s = .fault .blockResetBusy) ∧
      (9 ≤ fld v.toNat 3 0 → exec (.crpBlkRst v) s =
        .next { s with crp := { s.crp with blkGal := false, blkG := fld v.toNat 11 8, blkP := fld v.toNat 3 0 } })) ∧
    (∀ v : Word, v.getLsbD 31 = true → v.getLsbD 12 = true →
      let g := fld v.toNat 11 8
      let t : State := { s with crp := { s.crp with blkGal := true, blkG := g, blkP := fld v.toNat 3 0, blkBusy := true } }
      let quiet : Prop := (∀ n ∈ galleryChms g, chmIdle s n = true) ∧ ∀ k, k < 4 → (siphOf s (288 + 4 * g + k)).queue = [] ∧ (siphOf s (288 + 4 * g + k)).chain = none
      (quiet → exec (.crpBlkRst v) s = .next (resetGallery t g)) ∧ (¬quiet → exec (.crpBlkRst v) s = .fault .blockResetBusy)) ∧
    (∀ v : Word, v.getLsbD 31 = false → exec (.crpBlkRst v) s =
      .next { s with crp := { s.crp with blkGal := v.getLsbD 12, blkG := fld v.toNat 11 8, blkP := fld v.toNat 3 0 } }) ∧
    exec .blockResetDone s = .next { s with crp := { s.crp with blkBusy := false } }

/-- R390 to R392, R437: a power-on reset leaves nothing but OTP, the board's levels and the pins that hold it; a system reset keeps the debug unlock
state and the reset causes and records its own; a core reset keeps CRP's settings, the pads, the PCIe function's configuration, device time and
links, and of ERR the counts; each empties the mailboxes, ends every job, chain and context and clears the error logs; a reset during an OTP pulse
waits for its end, and a lower level during a higher one is absorbed. Where the rules name no register the model keeps or clears it as log entry 35
says. -/
def Obligations.ResetLevels : Prop :=
  (∀ s : State,
    let t := powerReset s
    t.pending = s.pending ∧ t.sts = State.reset.sts ∧ t.chms = [] ∧ t.crp.causeSeen = 1 ∧ t.sec.uid = s.sec.uid ∧ t.sec.bootcfg = s.sec.bootcfg ∧
    t.sec.scope = 0 ∧ t.time = State.reset.time ∧ t.pcie = State.reset.pcie) ∧
  (∀ (s : State) (cause : Nat), 1 ≤ cause → cause ≤ 8 →
    let t := systemReset s cause
    t.pending = s.pending ∧ t.sec.scope = s.sec.scope ∧ t.sec.nonce = none ∧ t.crp.causeLast.toNat = cause ∧ t.crp.causeSeen.getLsbD (cause - 1) = true ∧
    (∀ i, s.crp.causeSeen.getLsbD i = true → t.crp.causeSeen.getLsbD i = true) ∧ t.crp.cap = 0x140 ∧ t.crp.vmax = 0x352 ∧ t.time = State.reset.time ∧
    t.chms = [] ∧ t.siph = [] ∧ t.cairns = [] ∧ t.rings = [] ∧ t.ctxs = [] ∧ t.flows = [] ∧ t.chains = [] ∧ t.sched = {} ∧ t.err = {} ∧ t.leq = {} ∧
    t.sts.epoch = s.sts.epoch ∧ t.pcie = State.reset.pcie ∧ t.crp.monRef = s.crp.stopRef ∧ t.crp.monPll = 0) ∧
  (∀ (s : State) (cause : Nat), 1 ≤ cause → cause ≤ 8 → s.emx.tunIn = [] →
    let t := coreReset s cause
    t.pending = s.pending ∧ t.pin = s.pin ∧ t.ports = s.ports ∧ t.crp.cap = s.crp.cap ∧ t.crp.vmax = s.crp.vmax ∧ t.crp.clksel = s.crp.clksel ∧
    t.crp.causeLast.toNat = cause ∧ t.pcie.bme = s.pcie.bme ∧ t.pcie.msiEn = s.pcie.msiEn ∧ t.pcie.bar2Open = false ∧ timeFine t.time = timeFine s.time ∧
    t.sec.scope = s.sec.scope ∧ t.sched.aslot = s.sched.aslot ∧ t.sched.jobs = [] ∧
    t.chms = [] ∧ t.siph = [] ∧ t.cairns = [] ∧ t.rings = [] ∧ t.ctxs = [] ∧ t.flows = [] ∧ t.chains = [] ∧
    t.err = { cnt := s.err.cnt, injClass := s.err.injClass, injUnit := s.err.injUnit } ∧ t.leq = {} ∧ t.sts.epoch = s.sts.epoch) ∧
  (∀ (s : State) (h level cause : Nat),
    (s.sec.pulse = false → h ≤ level → assertReset s h level cause = resetNow s level cause) ∧
    (s.sec.pulse = false → level < h → assertReset s h level cause = s) ∧
    (s.sec.pulse = true → ∃ l c, (assertReset s h level cause).crp.otpReset = some (l, c) ∧ level ≤ l ∧ (assertReset s h level cause).chms = s.chms))

/-- Clock switches, power and OTP (R15, R385, R394, R397, R398, R406): a write that changes sel starts a switch, which ends only while both clocks run;
the loop sets the lowest sufficient voltage within the window, with vlimit where the window is too low; the limiter takes a sixteenth per step while
power is over 320 W or a lower cap, or Tj at 105 °C, and gives it back once that has passed; Tj above twarn sets the alarm while Nerzon runs; a write
of CRP_WDT enables, kicks and sets the period in its range; a program pulse programs the next bit, of the security version first. The step of the
limiter is one sixteenth per event (log entry 36, the model’s choice). -/
def Obligations.ClocksAndPower : Prop :=
  ∀ s : State, Tab.wf {} s.crp.clksel = true →
    (∀ (d : Fin 4) (v : Word), (Tab.get {} s.crp.clksel d.val).busy = false → v.getLsbD 0 ≠ (Tab.get {} s.crp.clksel d.val).sel →
      ∃ t, exec (.crpClkseld d v) s = .next t ∧ Tab.get {} t.crp.clksel d.val = { sel := v.getLsbD 0, busy := true }) ∧
    (∀ (d : Fin 4) (v : Word), (Tab.get {} s.crp.clksel d.val).busy = true ∨ v.getLsbD 0 = (Tab.get {} s.crp.clksel d.val).sel → exec (.crpClkseld d v) s = .next s) ∧
    (∀ d : Fin 4, (Tab.get {} s.crp.clksel d.val).busy = true → s.crp.stopRef = false → s.crp.stopPll.getLsbD d.val = false →
      ∃ t, exec (.clockSwitchDone d) s = .next t ∧ Tab.get {} t.crp.clksel d.val = { sel := (Tab.get {} s.crp.clksel d.val).sel, busy := false }) ∧
    (∀ d : Fin 4, s.crp.stopPll.getLsbD d.val = true ∨ s.crp.stopRef = true → exec (.clockSwitchDone d) s = .next s) ∧
    (∀ need : BitVec 10, s.crp.vmin ≤ s.crp.vmax → s.crp.vmax < 1024 →
      ∃ t, exec (.adaptiveVoltageLoop need) s = .next t ∧ s.crp.vmin ≤ t.crp.vcore.toNat ∧ t.crp.vcore.toNat ≤ s.crp.vmax ∧
        (need.toNat ≤ s.crp.vmax → t.crp.vcore.toNat = max s.crp.vmin need.toNat ∧ t.crp.vlimit = false) ∧
        (s.crp.vmax < need.toNat → t.crp.vcore.toNat = s.crp.vmax ∧ t.crp.vlimit = true)) ∧
    (∀ (pw : BitVec 9) (tj : BitVec 8),
      let cause : Prop := min s.crp.cap 320 < pw.toNat ∨ 105 ≤ tj.toInt
      (cause → ∃ t, exec (.limiterAct pw tj) s = .next t ∧ t.crp.limiting = true ∧ t.crp.limSteps = min 16 (s.crp.limSteps + 1) ∧ t.crp.power = pw) ∧
      (¬cause → ∃ t, exec (.limiterAct pw tj) s = .next t ∧ t.crp.limiting = s.crp.limiting ∧ t.crp.limSteps = s.crp.limSteps ∧ t.crp.power = pw ∧
        t.crp.tj = tj)) ∧
    (let cause : Prop := min s.crp.cap 320 < s.crp.power.toNat ∨ 105 ≤ s.crp.tj.toInt
     (s.crp.limiting = true → ¬cause →
        ∃ t, exec .limiterRelease s = .next t ∧ t.crp.limSteps = s.crp.limSteps - 1 ∧ t.crp.limiting = decide (s.crp.limSteps - 1 ≠ 0)) ∧
     (s.crp.limiting = false ∨ cause → exec .limiterRelease s = .next s)) ∧
    (∀ tj : BitVec 8, ∃ t, exec (.tjAboveTwarn tj) s = .next t ∧ t.crp.tj = tj ∧
      t.sts.thermal = (decide (Int.ofNat s.crp.twarn < tj.toInt) && decide (s.sts.state = 3))) ∧
    (∀ v : Word, ∃ t, exec (.crpWdt v) s = .next t ∧ t.crp.wdtEn = v.getLsbD 31 ∧
      (10 ≤ fld v.toNat 15 0 → fld v.toNat 15 0 ≤ 1000 → t.crp.wdtPeriod = fld v.toNat 15 0) ∧ (fld v.toNat 15 0 < 10 ∨ 1000 < fld v.toNat 15 0 → t.crp.wdtPeriod = s.crp.wdtPeriod) ∧
      t.crp.wdtAt = if v.getLsbD 30 = true ∨ (v.getLsbD 31 = true ∧ s.crp.wdtEn = false) then s.time.clk else s.crp.wdtAt) ∧
    (s.sec.pulse = true → s.crp.otpReset = none → s.sec.secver < s.sec.imgSecver →
      ∃ t, exec .otpProgramPulseEnd s = .next t ∧ t.sec.secver = s.sec.secver + 1 ∧ t.sec.revoked = s.sec.revoked) ∧
    (∀ k, s.sec.pulse = true → s.crp.otpReset = none → s.sec.imgSecver ≤ s.sec.secver →
      (List.range 4).find? (fun i => (s.sec.imgRevoke &&& ~~~s.sec.revoked).getLsbD i) = some k →
      ∃ t, exec .otpProgramPulseEnd s = .next t ∧ t.sec.secver = s.sec.secver ∧ t.sec.revoked = setBit s.sec.revoked k true) ∧
    (s.sec.pulse = false → exec .otpProgramPulseEnd s = .next s)

/-- Boot, pads, faults and management (R3, R401, R403, R404, R415, R416, R422, R423, R426, R434 to R436, R438): an image is checked and starts Nerzon or
fails with its code; Nerzon's start zeroes memory, puts its map in force and opens a new epoch; a pad's switch takes the new function, holds the latest
write and applies it at its end, its GPIO input frozen meanwhile; ERR_INJ injects; a management request is answered from the unit table, and a change
waits for the slot tick; a frozen headlamp is released after 10 s. Which position carries which logical chamber is the model’s choice (log entry 45).
-/
def Obligations.BootAndBoard : Prop :=
  ∀ s : State, Tab.wf {} s.pin.pads = true →
    (∀ img, s.sts.state = 1 → pcieBoot s = false → s.sts.code = 0x11 →
      exec (.bootImageCheck false img) s = .next (match imageCheck s.sec img with
        | 0 => imageAccepted s img
        | c => { s with sts := { s.sts with code := c } })) ∧
    (∀ img, s.sts.state = 1 → pcieBoot s = false → 1 ≤ s.sts.code → s.sts.code ≤ 6 →
      exec (.bootImageCheck true img) s = .next (match imageCheck s.sec img with
        | 0 => imageAccepted s img
        | c => bootFailed s (c + 128))) ∧
    (∀ b img, s.sts.state ≠ 1 → exec (.bootImageCheck b img) s = .next s) ∧
    (∀ b img, s.sts.state = 1 → pcieBoot s = true →
      exec (.bootImageCheck b img) s = .next (hostCheck s) ∧ ((pairOf s 0).req.full = false → hostCheck s = s)) ∧
    (s.sts.state = 2 →
      (∃ t, exec (.nerzonReady true) s = .next t ∧ t.sts.state = 3 ∧ t.sts.code = 0 ∧ t.mem = [] ∧ t.wflags = [] ∧ t.memErr = [] ∧
        t.sts.epoch = s.sts.epoch + 1 ∧ t.crp.wdtEn = true ∧
        (Tab.wf {} s.chms = true → ∀ ph, ph < 144 → (chmOf t ph).logical = mapAtStart s.sec.repair ph) ∧
        (∀ ph, ph < 144 → ph ∈ s.sec.repair → (unitOf t ph).state = 3)) ∧
      (∃ t, exec (.nerzonReady false) s = .next t ∧ t.sts.state = 4 ∧ t.sts.code = 9)) ∧
    (s.sts.state = 3 → noClock s 2 = false →
      exec .stsHeartbeat s = .next { s with sts := { s.sts with heartbeat := s.sts.heartbeat + 1 } }) ∧
    (∀ (n : Fin 32) (v : Word), (padOf s n.val).busy = false → v.getLsbD 0 = true → (padOf s n.val).func = false → hasAlt n.val = true →
      ∃ t, exec (.pinMuxn n v) s = .next t ∧
        padOf t n.val = { padOf s n.val with func := true, busy := true, frozen := some (liveLevel s n.val), pull := fld v.toNat 5 4, drive := fld v.toNat 9 8 }) ∧
    (∀ (n : Fin 32) (v : Word), (padOf s n.val).busy = true →
      ∃ t, exec (.pinMuxn n v) s = .next t ∧
        padOf t n.val = { padOf s n.val with held := some v, pull := fld v.toNat 5 4, drive := fld v.toNat 9 8 }) ∧
    (∀ (n : Fin 32) (v : Word), (padOf s n.val).busy = false → v.getLsbD 0 = (padOf s n.val).func ∨ hasAlt n.val = false ∧ v.getLsbD 0 = true →
      ∃ t, exec (.pinMuxn n v) s = .next t ∧ padOf t n.val = { padOf s n.val with pull := fld v.toNat 5 4, drive := fld v.toNat 9 8 }) ∧
    (∀ (n : Fin 32) (v : Word), (padOf s n.val).busy = true → (padOf s n.val).held = some v →
      ∃ t, exec (.pinSwitchEnd n) s = .next t ∧ (padOf t n.val).held = none ∧
        (v.getLsbD 0 = (padOf s n.val).func → (padOf t n.val).busy = false ∧ (padOf t n.val).func = (padOf s n.val).func) ∧
        (v.getLsbD 0 ≠ (padOf s n.val).func → v.getLsbD 0 = false ∨ hasAlt n.val = true →
          (padOf t n.val).busy = true ∧ (padOf t n.val).func = v.getLsbD 0)) ∧
    (∀ n : Fin 32, (padOf s n.val).busy = true → (padOf s n.val).held = none →
      ∃ t, exec (.pinSwitchEnd n) s = .next t ∧ (padOf t n.val).busy = false ∧ (padOf t n.val).func = (padOf s n.val).func ∧
        ((padOf s n.val).func = false → gpioLevel t n.val = liveLevel s n.val)) ∧
    (∀ n : Fin 32, (padOf s n.val).busy = false → ∃ t, exec (.pinSwitchEnd n) s = .next t ∧ padOf t n.val = padOf s n.val) ∧
    (∀ (n : Fin 32) (l : Bool), ∃ t, exec (.gpioInputChange n l) s = .next t ∧ padOf t n.val = { padOf s n.val with level := l } ∧
      ((padOf s n.val).frozen = none → s.pin.oe.getLsbD n.val = false → gpioLevel t n.val = l) ∧
      (∀ b, (padOf s n.val).frozen = some b → gpioLevel t n.val = b)) ∧
    (∀ v : Word,
      ∃ t, exec (.errInj v) s = .next t ∧ (v.getLsbD 31 = false → t.err.injClass = fld v.toNat 20 16 ∧ t.err.injUnit = fld v.toNat 15 0 ∧ t.err.hw = s.err.hw) ∧
        (v.getLsbD 31 = true → t = injectErr { s with err := { s.err with injClass := fld v.toNat 20 16, injUnit := fld v.toNat 15 0 } } (fld v.toNat 20 16) (fld v.toNat 15 0))) ∧
    (∀ u : BitVec 16, s.sts.state = 3 → noClock s 2 = false → unitKnown u.toNat = true →
      let e := unitOf s u.toNat
      exec (.mctpMessage 0x1E5D#16 .query u) s = .next (emit s (.mctp u.toNat e.by_ e.state e.code)) ∧
      (u.toNat ≠ 0x7000 → exec (.mctpMessage 0x1E5D#16 .disable u) s = .next (mctpReply (updUnit s u.toNat (askUnit true 3)) u.toNat)) ∧
      (retired s u.toNat = false → u.toNat ≠ 0x7000 → exec (.mctpMessage 0x1E5D#16 .enable u) s = .next (mctpReply (updUnit s u.toNat (askUnit false 3)) u.toNat)) ∧
      (2 ≤ e.state → exec (.mctpMessage 0x1E5D#16 .reportFailed u) s = .next (mctpReply s u.toNat)) ∧
      (retired s u.toNat = true → exec (.mctpMessage 0x1E5D#16 .enable u) s = .next (mctpMismatch s u.toNat)) ∧
      (e.state ≤ 1 → exec (.mctpMessage 0x1E5D#16 .reportFailed u) s = .next (mctpMismatch s u.toNat))) ∧
    (∀ (vid : BitVec 16) req u, vid ≠ 0x1E5D#16 → exec (.mctpMessage vid req u) s = .next s) ∧
    (∀ k : Fin 17, ∃ t, exec (.headlampRelease k) s = .next t ∧
      (∀ f ∈ t.err.frozen, f.1 ≠ k.val ∨ s.time.clk < f.2 + 10000000000) ∧ (∀ f ∈ s.err.frozen, f.1 ≠ k.val → f ∈ t.err.frozen))

/-- Registers (R7, R17 to R23, R105, R150, R311, R312, R314, R316): LD and ST reach a register their chamber is granted in the same two steps as a far
access, and the register's read or write is the bundle's effect; an unmapped or unlisted address raises ADDRESS_ERROR, a register not granted
BUS_ERROR; a chamber's register write in a command of its own has the register's effect or the same exceptions; the Lantern's, of 32 aligned bits,
reads or writes the register, another one is an address error; the host reaches registers through BAR0, and the configuration space. That an address
error of the Lantern is kept in the error record alone is the model’s choice (log entry 45), as is the numbering of configuration space (log entry
12). -/
def Obligations.RegisterAccess : Prop :=
  ∀ (ch : Fin 144) (b : Bundle) (s : State),
    let f := posField b .m
    let c := coreOf s ch.val
    let a := accAddr c f
    let r := unalias ch.val a
    let v := w32 (readReg c (fld f 20 14)).toNat
    (issuesAlone .ld s ch .m b = true → accessExc s ch f false = [] → isCsr a = true →
      (csrHole s ch.val r = true → exec (.ld ch b) s = .next (raiseAt s ch (5, 2, a))) ∧
      (csrHole s ch.val r = false → csrGranted s ch.val r = false → exec (.ld ch b) s = .next (raiseAt s ch (6, 2, a))) ∧
      (csrHole s ch.val r = false → csrGranted s ch.val r = true → csrRead s ch.val r = none → exec (.ld ch b) s = .next (raiseAt s ch (5, 2, a))) ∧
      (csrHole s ch.val r = false → csrGranted s ch.val r = true → csrRead s ch.val r ≠ none →
        ∃ d, exec (.ld ch b) s = .next (holdIssue s ch.val b d (some { store := false, addr := a, size := accSize f }) [] 1))) ∧
    (accessOut .ld false s ch b = true → accessExc s ch f true = [] → isCsr a = true →
      exec (.loadCompletion ch) s = .next (commit s ch.val (.csrLoad (fld f 20 14) (bitAt f 12) r :: postInc c f))) ∧
    (issuesAlone .st s ch .m b = true → accessExc s ch f false = [] → isCsr a = true →
      (csrHole s ch.val r = true → exec (.st ch b) s = .next (raiseAt s ch (5, 2, a))) ∧
      (csrHole s ch.val r = false → csrGranted s ch.val r = false → exec (.st ch b) s = .next (raiseAt s ch (6, 2, a))) ∧
      (∀ t, csrHole s ch.val r = false → csrGranted s ch.val r = true → csrWrite s (.chamber ch) r v = .ok t →
        ∃ d, exec (.st ch b) s = .next (holdIssue s ch.val b d (some { store := true, addr := a, size := accSize f }) [] 1))) ∧
    (∀ t, accessOut .st true s ch b = true → accessExc s ch f true = [] → isCsr a = true → csrHole s ch.val r = false →
      csrWrite s (.chamber ch) r v = .ok t → exec (.storeCompletion ch) s = .next (commit s ch.val (.csrStore r v :: postInc c f))) ∧
    (∀ (x n : Nat) (w : DWord),
      let y := unalias ch.val x
      let put : Host.Outcome State Fault Refusal := exec (.registerWrite (.chamber ch) x n (.write w)) s
      isMemory y = false →
      (spaceOf y = .csr → n = 4 → y % 4 = 0 → csrHole s ch.val y = false →
        (csrGranted s ch.val y = true → put = .next (chmWrote ch x (csrWrite s (.chamber ch) y (w32 w.toNat)))) ∧
        (csrGranted s ch.val y = false → put = .next (chmRefused s ch 6 x))) ∧
      (spaceOf y ≠ .csr ∨ n ≠ 4 ∨ y % 4 ≠ 0 ∨ csrHole s ch.val y = true → put = .next (chmRefused s ch 5 x))) ∧
    (∀ x n op, isMemory x = true → exec (.registerWrite .lantern x n op) s = .next s) ∧
    (∀ x n op, isMemory x = false → spaceOf x ≠ .csr ∨ n ≠ 4 ∨ x % 4 ≠ 0 → exec (.registerWrite .lantern x n op) s = .next (lanternExc s 5 x)) ∧
    (∀ x w, spaceOf x = .csr → x % 4 = 0 →
      exec (.registerWrite .lantern x 4 (.write w)) s = lanternWrite s x (w32 w.toNat) ∧ exec (.registerWrite .lantern x 4 .read) s = .next (lanternRead s x)) ∧
    (∀ w : Word, lanternWrite s 0x180B000100 w = .next { s with pin := { s.pin with out := w } }) ∧
    lanternRead s 0x180B000100 = emit s (.regData s.pin.out) ∧
    (∀ x n w, s.pcie.d3 = false → exec (.registerWrite .host x n (.write w)) s = .next (hostRegWrite x n w s) ∧
      exec (.registerWrite .host x n .read) s = .next (hostRegRead x n s)) ∧
    (∀ x n op, s.pcie.d3 = true → exec (.registerWrite .host x n op) s = .next (emit s .unsupported)) ∧
    hostRegRead 0x200010 4 s = emit s (.barData (s.sts.heartbeat.zeroExtend 64)) ∧ hostRegRead 0x200003 4 s = emit s .unsupported ∧
    (∀ n (w : DWord), exec (.registerWrite .pciConfig 1 n (.write w)) s = .next { s with pcie := { s.pcie with msiEn := w.getLsbD 0 } } ∧
      exec (.registerWrite .pciConfig 4 n .read) s = .next (emit s (.cfgData 0x64801E5D)))

/-! ### The whole machine -/

/-- A use with an undefined result whose reach is a context (R428) alters bytes of the context's partitions and of the transient regions of its jobs'
chambers, tile flags of those chambers, and marks its jobs, whose outcomes, reports and digests are then free; it alters nothing else: no other byte,
no cairn, ring or context, no register of a processor, no other chamber. Sums are free in such a pass alone. The moment at which it acts, and that it
marks the jobs in flight, are the model’s choice (log entry 21). -/
def Obligations.UndefinedReach : Prop :=
  (∀ (k : Nat) (s : State), tablesOk s →
    let t := strayContext k s
    let jobs := s.sched.jobs.map fun j => if j.e.ctx = k then { j with strayed := true } else j
    (∃ m w c, t = { s with mem := m, wflags := w, chms := c, free := s.free + 1, sched := { s.sched with jobs := jobs } }) ∧
    (∀ a, a < 2 ^ 40 → inReach s k a = false → byteAt t a = byteAt s a) ∧
    (∀ ph, (ctxChms s k).contains ph = false → chmOf t ph = chmOf s ph) ∧
    (∀ ph, coreOf t ph = coreOf s ph ∧ (chmOf t ph).vic = (chmOf s ph).vic ∧ (chmOf t ph).logical = (chmOf s ph).logical)) ∧
  (∀ (n : Nat) (t : WeightTile) (f : FlyRow) (close : Bool) (o : SumpRow) (c : Nat), undefinedPass t f.op = false →
    columnOf n t f close o c = addColumn t f.op.first close c (Tab.get 0 o.ga c) (Tab.get 0 o.wa c) (partialSum t f c)) ∧
  (∀ (s : State) (j : Job) (w : Nat) (x : Option Nat) (d : Word) (e : Nat), j.strayed = false →
    complOf s j w x d e = complRecord j.e j.tag j.aslot w x d e)

/-- No command is refused, and no step; the one fault comes from a write to CRP_BLK_RST, on a block reset of a busy block, whose undefined result may
affect the whole device (log entry 21, the model’s choice of a stop for it). -/
def Obligations.NothingRefused : Prop :=
  (∀ (c : Instr) (s : State) (r : Refusal), exec c s ≠ .refused r) ∧ (∀ (s : State) (r : Refusal), step s ≠ .refused r) ∧
  (∀ (c : Instr) (s : State) (f : Fault), exec c s = .fault f →
    (∃ v, c = .crpBlkRst v) ∨ (∃ w, c = .registerWrite .lantern 0x1803000008 4 (.write w)))

/-- After a power-on reset memory, the chambers, cairns and rings hold their canonical form. The form is the model’s own (log entry 4). -/
def Obligations.ResetKeepsForm : Prop :=
  memoryOk State.reset ∧ tablesOk State.reset

/-- Every step keeps the canonical form of device memory, of host memory and of the tables of chambers, cairns and rings, so that equal memories are
equal data. The form is the model’s own (log entry 4). -/
def Obligations.FormKept : Prop :=
  ∀ s t : State, memoryOk s → tablesOk s → step s = .next t → memoryOk t ∧ tablesOk t

/-- A step that answers a next state takes exactly the front command off the queue; an idle step leaves the queue empty. No command adds or drops a
waiting one. The queue is the model’s own (log entry 1). -/
def Obligations.QueueKept : Prop :=
  ∀ s t : State, step s = .next t → t.pending = s.pending.tail
end

