-- ==== Sys2Proof/Laws/Issue.lean ====
section
/-!
SUPPORT. What the issue of a bundle can do: the shared lemmas about `issueOp` and `attempt`.
-/
namespace Sys2Proof.Machine

/-- Asking for nothing adds nothing. -/
@[simp] theorem joinRes_empty_left (x : OpRes) : joinRes {} x = x := by cases x; simp [joinRes]

/-- Asking for nothing adds nothing. -/
@[simp] theorem joinRes_empty_right (x : OpRes) : joinRes x {} = x := by cases x; simp [joinRes]

/-- An absent position asks for nothing. -/
theorem evalPos_absent {s : State} {ph : Fin 144} {b : Bundle} {p : Pos} {fin : Bool} (h : present b p = false) :
    evalPos s ph b p fin = ({}, s) := by simp [evalPos, h]

/-- A position whose predicate reads 0 asks for nothing (R95). -/
theorem evalPos_off {s : State} {ph : Fin 144} {b : Bundle} {p : Pos} {fin : Bool}
    (h : readPred (coreOf s ph.val) (fld (posField b p) 3 0) = false) : evalPos s ph b p fin = ({}, s) := by simp [evalPos, h]

/-- A present position whose predicate reads 1 asks for what its operation does. -/
theorem evalPos_on {s : State} {ph : Fin 144} {b : Bundle} {p : Pos} {fin : Bool} {op : BOp} (h : present b p = true) (ho : opOf b p = some op)
    (hq : readPred (coreOf s ph.val) (fld (posField b p) 3 0) = true) :
    evalPos s ph b p fin = evalOp op s ph (posCode p) (posField b p) fin := by simp [evalPos, h, ho, hq]

/-- The one present position of a bundle is present. -/
theorem present_alone {b : Bundle} {p : Pos} (h : allPos.filter (present b) = [p]) : present b p = true := by
  have : p ∈ allPos.filter (present b) := by rw [h]; simp
  exact (List.mem_filter.1 this).2

/-- A bundle with one present position asks for what that position does. -/
theorem evalBundle_alone {s : State} {ph : Fin 144} {b : Bundle} {p : Pos} (h : allPos.filter (present b) = [p]) :
    evalBundle s ph b allPos = evalPos s ph b p false := by
  have hp : ∀ q, q ≠ p → present b q = false := by
    intro q hq
    have hm : q ∈ allPos := by cases q <;> decide
    cases hb : present b q with
    | false => rfl
    | true =>
      have : q ∈ allPos.filter (present b) := List.mem_filter.2 ⟨hm, hb⟩
      rw [h] at this
      exact absurd (List.mem_singleton.1 this) hq
  have ha : ∀ q s', q ≠ p → evalPos s' ph b q false = ({}, s') := fun q s' hq => evalPos_absent (hp q hq)
  cases p <;> simp [allPos, evalBundle, ha]

/-- What is asked for with no exception added. -/
theorem asks_append_nil (r : OpRes × State) : (({ r.1 with excs := r.1.excs ++ [] } : OpRes), r.2) = r := by cases r; simp

/-- What a bundle asks for when its fetch is good, it is legal and no flowstone fault waits. -/
theorem bundleAsks_clean {s : State} {ph : Fin 144} {b : Bundle} (h : bundleClean s ph b = true) :
    bundleAsks s ph b = evalBundle s ph b allPos := by
  simp only [bundleClean, Bool.and_eq_true, Bool.not_eq_true', Option.isNone_iff_eq_none, List.isEmpty_iff] at h
  have hf : faultExcs s ph.val = [] := by simp [faultExcs, h.2]
  rw [bundleAsks, h.1.1, h.1.2]
  dsimp only
  rw [hf, asks_append_nil]

/-- What a clean bundle with one operation asks for. -/
theorem bundleAsks_alone {op : BOp} {s : State} {ch : Fin 144} {p : Pos} {b : Bundle} (h : bundleClean s ch b = true)
    (ha : holdsAlone op s ch p b = true) : bundleAsks s ch b = evalOp op s ch (posCode p) (posField b p) false := by
  simp only [holdsAlone, Bool.and_eq_true, decide_eq_true_eq] at ha
  rw [bundleAsks_clean h, evalBundle_alone ha.1.1, evalPos_on (present_alone ha.1.1) ha.1.2 ha.2]

/-- A command that names the last position of a legal bundle brings it to issue. -/
theorem issueOp_last {op : BOp} {s : State} {ch : Fin 144} {p : Pos} {b : Bundle} (h : atIssue s ch b = true) (hl : lastNamed s ch b p = true)
    (hn : namesOp op b p = true) : ∃ d, issueOp op ch p b s = attempt s ch b d := by
  simp only [lastNamed] at hl
  split at hl
  · next d hd =>
    refine ⟨d, ?_⟩
    simp only [atIssue, bundleClean, Bool.and_eq_true, Bool.not_eq_true', Option.isNone_iff_eq_none, List.isEmpty_iff] at h
    have hd' : namedWith (chmOf s ch.val).core b p = some d := hd
    have : (allPos.filter (present b)).all d.contains = true := hl
    simp [issueOp, h.1.1, h.1.2, hd', h.2.1.1, h.2.1.2, h.2.2, hn, this]
  · cases hl

/-- An operation alone in its bundle comes to issue with what it asks for. -/
theorem issueOp_asks {op : BOp} {s : State} {ch : Fin 144} {p : Pos} {b : Bundle} (h : issuesAlone op s ch p b = true) :
    bundleClean s ch b = true ∧ holdsAlone op s ch p b = true ∧ ∃ d, issueOp op ch p b s = attempt s ch b d := by
  simp only [issuesAlone, Bool.and_eq_true] at h
  obtain ⟨⟨ha, hl⟩, hh⟩ := h
  have hh' := hh
  simp only [holdsAlone, Bool.and_eq_true, decide_eq_true_eq] at hh'
  have hp := present_alone hh'.1.1
  have hn : namesOp op b p = true := by
    have hany : allPos.any (present b) = true := List.any_eq_true.2 ⟨p, by cases p <;> decide, hp⟩
    simp [namesOp, hany, hp, hh'.1.2]
  have hc : bundleClean s ch b = true := by
    simp only [atIssue, Bool.and_eq_true] at ha
    exact ha.2
  exact ⟨hc, hh, issueOp_last ha hl hn⟩

/-- A bundle that asks for effects alone takes them. -/
theorem attempt_effs {s s1 : State} {ch : Fin 144} {b : Bundle} {d : List Pos} {l : List Eff}
    (h : bundleAsks s ch b = (effs l, s1)) : attempt s ch b d = .next (commit s1 ch.val l) := by
  simp [attempt, h, effs, pickExc, cairnPhase]

/-- An operation alone in its bundle that asks for effects alone takes them: the bundle issues in full. -/
theorem issueOp_alone {op : BOp} {s s1 : State} {ch : Fin 144} {p : Pos} {b : Bundle} {l : List Eff} (h : issuesAlone op s ch p b = true)
    (he : evalOp op s ch (posCode p) (posField b p) false = (effs l, s1)) :
    issueOp op ch p b s = .next (commit s1 ch.val l) := by
  obtain ⟨hc, hh, d, hd⟩ := issueOp_asks h
  rw [hd, attempt_effs ((bundleAsks_alone hc hh).trans he)]

/-- An operation alone in its bundle that raises one exception: the bundle takes it. -/
theorem issueOp_raises {op : BOp} {s s1 : State} {ch : Fin 144} {p : Pos} {b : Bundle} {e : Nat × Nat × Nat} (h : issuesAlone op s ch p b = true)
    (he : evalOp op s ch (posCode p) (posField b p) false = ({ excs := [e] }, s1)) : issueOp op ch p b s = .next (raiseAt s1 ch e) := by
  obtain ⟨hc, hh, d, hd⟩ := issueOp_asks h
  rw [hd]
  simp [attempt, (bundleAsks_alone hc hh).trans he, pickExc]

/-- The parts of an access that is out. -/
theorem accessOut_parts {op : BOp} {store : Bool} {s : State} {ch : Fin 144} {b : Bundle} (h : accessOut op store s ch b = true) :
    ∃ i a, (coreOf s ch.val).issue = some i ∧ i.acc = some a ∧ a.store = store ∧ i.effs = [] ∧ noClock s 0 = false ∧ noClock s 1 = false ∧
      evalPos s ch i.word .m true = evalOp op s ch (posCode .m) (posField b .m) true := by
  simp only [accessOut, Bool.and_eq_true, Bool.not_eq_true'] at h
  obtain ⟨⟨⟨hh, h0⟩, h1⟩, hi⟩ := h
  simp only [holdsAlone, Bool.and_eq_true, decide_eq_true_eq] at hh
  split at hi
  · next i hi' =>
    simp only [Bool.and_eq_true, decide_eq_true_eq] at hi
    obtain ⟨⟨hw, he⟩, ha⟩ := hi
    split at ha
    · next a haa =>
      exact ⟨i, a, hi', haa, by simpa using ha, he, h0, h1, by rw [hw]; exact evalPos_on (present_alone hh.1.1) hh.1.2 hh.2⟩
    · cases ha
  · cases hi

/-- An access alone in its bundle completes: the bundle takes its effects. -/
theorem completeAcc_alone {op : BOp} {store : Bool} {s s1 : State} {ch : Fin 144} {b : Bundle} {l : List Eff} (h : accessOut op store s ch b = true)
    (he : evalOp op s ch (posCode .m) (posField b .m) true = (effs l, s1)) :
    completeAcc store ch s = .next (commit s1 ch.val l) := by
  obtain ⟨i, a, hi, ha, hs, hn, h0, h1, hv⟩ := accessOut_parts h
  simp [completeAcc, finishAcc, hi, ha, hs, hn, h0, h1, hv, he, effs, pickExc]

/-- An access alone in its bundle completes with one exception: the bundle takes it. -/
theorem completeAcc_raises {op : BOp} {store : Bool} {s s1 : State} {ch : Fin 144} {b : Bundle} {e : Nat × Nat × Nat}
    (h : accessOut op store s ch b = true) (he : evalOp op s ch (posCode .m) (posField b .m) true = ({ excs := [e] }, s1)) :
    completeAcc store ch s = .next (raiseExc s1 ch e) := by
  obtain ⟨i, a, hi, ha, hs, hn, h0, h1, hv⟩ := accessOut_parts h
  simp [completeAcc, finishAcc, hi, ha, hs, h0, h1, hv, he, pickExc]

/-- A bundle that raises one exception takes it. -/
theorem attempt_raises {s s1 : State} {ch : Fin 144} {b : Bundle} {d : List Pos} {e}
    (h : bundleAsks s ch b = ({ excs := [e] }, s1)) : attempt s ch b d = .next (raiseAt s1 ch e) := by
  simp [attempt, h, pickExc]

/-- An operation alone in its bundle whose access leaves the own pocket: the bundle waits for it. -/
theorem issueOp_out {op : BOp} {s s1 : State} {ch : Fin 144} {p : Pos} {b : Bundle} {o} (h : issuesAlone op s ch p b = true)
    (he : evalOp op s ch (posCode p) (posField b p) false = ({ out := some o }, s1)) : ∃ d, issueOp op ch p b s = .next (holdIssue s1 ch.val b d (some o) [] 1) := by
  obtain ⟨hc, hh, d, hd⟩ := issueOp_asks h
  refine ⟨d, ?_⟩
  rw [hd]
  simp [attempt, (bundleAsks_alone hc hh).trans he, pickExc, cairnPhase]

/-- A wait alone in its bundle: the bundle issues where the cairn grants at once, and waits with stall code 5 where it does not. -/
theorem issueOp_wait {op : BOp} {s : State} {ch : Fin 144} {b : Bundle} {k rt : Nat} (h : issuesAlone op s ch .c b = true)
    (he : evalOp op s ch (posCode .c) (posField b .c) false = ({ cairn := some k, effs := [.cnDone rt] }, s))
    (hw : (coreOf s ch.val).waitCairn = none) (hg : (coreOf s ch.val).grant = none) :
    let s1 := cairnWait s k ch.val (coreOf s ch.val).ctx
    (((coreOf s1 ch.val).grant.isSome = true → issueOp op ch .c b s = .next (commit s1 ch.val [.cnDone rt])) ∧
       ((coreOf s1 ch.val).grant.isSome = false → ∃ d, issueOp op ch .c b s = .next (holdIssue s1 ch.val b d none [] 5))) := by
  obtain ⟨hc, hh, d, hd⟩ := issueOp_asks h
  refine ⟨fun hx => ?_, fun hx => ⟨d, ?_⟩⟩ <;> rw [hd] <;> simp [attempt, (bundleAsks_alone hc hh).trans he, pickExc, cairnPhase, hw, hg, hx]

end Sys2Proof.Machine
end

