-- ==== Sys2Proof/Laws/Tab.lean ====
section
/-!
SUPPORT. The laws of sparse tables and memory: what a read gives after a write, and that every operation keeps the canonical form.
-/
namespace Sys2Proof.Machine

variable {α : Type} [DecidableEq α]

/-- A later lower bound is a stronger canonical form. -/
theorem Tab.wfFrom_some_of_lt {d : α} {l k : Nat} {t : Tab α} (h : l ≤ k) (w : Tab.wfFrom d (some k) t = true) :
    Tab.wfFrom d (some l) t = true := by
  cases t with
  | nil => rfl
  | cons e t =>
    obtain ⟨n, v⟩ := e
    simp only [Tab.wfFrom, Bool.and_eq_true, decide_eq_true_eq] at w ⊢
    exact ⟨⟨by omega, w.1.2⟩, w.2⟩

/-- A bounded canonical form is a canonical form. -/
theorem Tab.wfFrom_none {d : α} {k : Nat} {t : Tab α} (w : Tab.wfFrom d (some k) t = true) : Tab.wfFrom d none t = true := by
  cases t with
  | nil => rfl
  | cons e t =>
    obtain ⟨n, v⟩ := e
    simp only [Tab.wfFrom, Bool.and_eq_true, decide_eq_true_eq, Bool.true_and] at w ⊢
    exact ⟨w.1.2, w.2⟩

/-- Keys below every listed key read as the default. -/
theorem Tab.get_below {d : α} {k n : Nat} {t : Tab α} (w : Tab.wfFrom d (some k) t = true) (h : n ≤ k) : Tab.get d t n = d := by
  induction t generalizing k with
  | nil => rfl
  | cons e t ih =>
    obtain ⟨m, v⟩ := e
    simp only [Tab.wfFrom, Bool.and_eq_true, decide_eq_true_eq] at w
    have : m ≠ n := by omega
    simp only [Tab.get, this, if_false]
    exact ih w.2 (by omega)

/-- A write keeps the canonical form above a bound below its key. -/
theorem Tab.wfFrom_put {d : α} {t : Tab α} {lo : Option Nat} {n : Nat} {x : α} (w : Tab.wfFrom d lo t = true)
    (h : ∀ l, lo = some l → l < n) : Tab.wfFrom d lo (Tab.put d t n x) = true := by
  induction t generalizing lo with
  | nil =>
    unfold Tab.put
    split
    · exact w
    · next hx => cases lo <;> simp_all [Tab.wfFrom]
  | cons e t ih =>
    obtain ⟨k, v⟩ := e
    simp only [Tab.wfFrom, Bool.and_eq_true] at w
    unfold Tab.put
    split
    · split
      · simpa only [Tab.wfFrom, Bool.and_eq_true] using w
      · next hk hx =>
        simp only [Tab.wfFrom, Bool.and_eq_true, decide_eq_true_eq]
        refine ⟨⟨?_, by simpa using hx⟩, ⟨hk, w.1.2⟩, w.2⟩
        cases lo with
        | none => rfl
        | some l => simpa using h l rfl
    · next hk =>
      split
      · next hn =>
        subst hn
        split
        · cases lo with
          | none => exact Tab.wfFrom_none w.2
          | some l => exact Tab.wfFrom_some_of_lt (Nat.le_of_lt (h l rfl)) w.2
        · next hx =>
          simp only [Tab.wfFrom, Bool.and_eq_true]
          exact ⟨⟨w.1.1, by simpa using hx⟩, w.2⟩
      · next hn =>
        simp only [Tab.wfFrom, Bool.and_eq_true]
        exact ⟨w.1, ih w.2 (fun l hl => by cases hl; omega)⟩

/-- A write keeps the canonical form. -/
theorem Tab.wf_put {d : α} {t : Tab α} {n : Nat} {x : α} (w : Tab.wf d t = true) : Tab.wf d (Tab.put d t n x) = true :=
  Tab.wfFrom_put w (fun _ h => by cases h)

/-- A change of one entry keeps the canonical form. -/
theorem Tab.wf_upd {d : α} {t : Tab α} {n : Nat} {f : α → α} (w : Tab.wf d t = true) : Tab.wf d (Tab.upd d t n f) = true := Tab.wf_put w

/-- Dropping entries keeps the canonical form. -/
theorem Tab.wfFrom_filter {d : α} {t : Tab α} {lo : Option Nat} (p : Nat × α → Bool) (w : Tab.wfFrom d lo t = true) :
    Tab.wfFrom d lo (t.filter p) = true := by
  induction t generalizing lo with
  | nil => rfl
  | cons e t ih =>
    obtain ⟨k, v⟩ := e
    simp only [Tab.wfFrom, Bool.and_eq_true] at w
    simp only [List.filter]
    split
    · simp only [Tab.wfFrom, Bool.and_eq_true]
      exact ⟨w.1, ih w.2⟩
    · apply ih
      cases lo with
      | none => exact Tab.wfFrom_none w.2
      | some l =>
        refine Tab.wfFrom_some_of_lt (Nat.le_of_lt ?_) w.2
        simpa using w.1.1

/-- Clearing a range keeps the canonical form. -/
theorem Tab.wf_clearRange {d : α} {t : Tab α} {lo len : Nat} (w : Tab.wf d t = true) : Tab.wf d (Tab.clearRange t lo len) = true :=
  Tab.wfFrom_filter _ w

/-- What a read gives after a write, wherever it reads. -/
theorem Tab.get_put {d : α} {t : Tab α} {lo : Option Nat} {n m : Nat} {x : α} (w : Tab.wfFrom d lo t = true) :
    Tab.get d (Tab.put d t n x) m = if m = n then x else Tab.get d t m := by
  induction t generalizing lo with
  | nil =>
    unfold Tab.put
    split
    · next hx => simp [Tab.get, hx]
    · by_cases hm : m = n
      · simp [Tab.get, hm]
      · simp [Tab.get, hm, Ne.symm hm]
  | cons e t ih =>
    obtain ⟨k, v⟩ := e
    simp only [Tab.wfFrom, Bool.and_eq_true] at w
    unfold Tab.put
    split
    · next hk =>
      have hkn : Tab.get d ((k, v) :: t) n = d := by
        have : k ≠ n := by omega
        simp only [Tab.get, this, if_false]
        exact Tab.get_below w.2 (by omega)
      split
      · next hx =>
        by_cases hm : m = n
        · rw [if_pos hm, hm, hkn, hx]
        · rw [if_neg hm]
      · by_cases hm : m = n
        · simp [Tab.get, hm]
        · simp [Tab.get, hm, Ne.symm hm]
    · next hk =>
      split
      · next hn =>
        subst hn
        split
        · next hx =>
          by_cases hm : m = n
          · rw [if_pos hm, hm, hx]
            exact Tab.get_below w.2 (Nat.le_refl _)
          · simp [Tab.get, hm, Ne.symm hm]
        · by_cases hm : m = n
          · simp [Tab.get, hm]
          · simp [Tab.get, hm, Ne.symm hm]
      · next hn =>
        by_cases hkm : k = m
        · have : m ≠ n := by omega
          simp [Tab.get, hkm, this]
        · simp only [Tab.get, hkm, if_false]
          exact ih w.2

/-- The value written is the value read. -/
theorem Tab.get_put_same (d : α) (t : Tab α) (n : Nat) (x : α) (w : Tab.wf d t = true) : Tab.get d (Tab.put d t n x) n = x := by
  rw [Tab.get_put w]; simp

/-- A write leaves every other key alone, in a canonical table or not. -/
theorem Tab.get_put_other (d : α) (t : Tab α) {n m : Nat} (x : α) (h : m ≠ n) : Tab.get d (Tab.put d t n x) m = Tab.get d t m := by
  induction t with
  | nil =>
    unfold Tab.put
    split <;> simp [Tab.get, Ne.symm h]
  | cons e t ih =>
    obtain ⟨k, v⟩ := e
    unfold Tab.put
    split
    · split <;> simp [Tab.get, Ne.symm h]
    · split
      · next hn => subst hn; split <;> simp [Tab.get, Ne.symm h]
      · simp only [Tab.get, ih]

/-- A write of one byte keeps the canonical form of memory. -/
theorem Memory.wf_setByte {m : Memory} {k : Nat} {v : Byte} (w : m.wf = true) : (m.setByte k v).wf = true := Tab.wf_put w

/-- A write of bytes keeps the canonical form of memory. -/
theorem Memory.wf_setBytes {m : Memory} {k : Nat} {vs : List Byte} (w : m.wf = true) : (m.setBytes k vs).wf = true := by
  induction vs generalizing m k with
  | nil => exact w
  | cons v vs ih => exact ih (Memory.wf_setByte w)

/-- Clearing a range of memory keeps its canonical form. -/
theorem Memory.wf_clearRange {m : Memory} {k len : Nat} (w : m.wf = true) : Memory.wf (Tab.clearRange m k len) = true := Tab.wf_clearRange w

/-- A write of bytes leaves every byte outside them alone. -/
theorem Memory.byte_setBytes_other (m : Memory) (k : Nat) (vs : List Byte) {n : Nat} (h : n < k ∨ k + vs.length ≤ n) :
    (m.setBytes k vs).byte n = m.byte n := by
  induction vs generalizing m k with
  | nil => rfl
  | cons v vs ih =>
    simp only [List.length_cons] at h
    rw [Memory.setBytes, ih _ _ (by omega)]
    exact Tab.get_put_other _ _ _ (by omega)

/-- A byte written is the byte read. -/
theorem Memory.byte_setBytes (m : Memory) (k : Nat) (vs : List Byte) (w : m.wf = true) {i : Nat} (h : i < vs.length) :
    (m.setBytes k vs).byte (k + i) = vs[i] := by
  induction vs generalizing m k i with
  | nil => simp at h
  | cons v vs ih =>
    rw [Memory.setBytes]
    cases i with
    | zero =>
      rw [Memory.byte_setBytes_other _ _ _ (by omega)]
      exact Tab.get_put_same Memory.blank m k v w
    | succ i =>
      have := ih (m.setByte k v) (k + 1) (Memory.wf_setByte w) (i := i) (by simpa using h)
      simpa [Nat.add_assoc, Nat.add_comm 1 i] using this

end Sys2Proof.Machine
end

