-- ==== Sys2Proof/Laws/KeptBase.lean ====
section
/-! SUPPORT. The form a run keeps: what it says, and how it passes through a record update, a fold, a choice. -/

namespace Sys2Proof.Machine

/-- The queue is `q`, and, where `p` holds, memory and the tables of chambers, cairns and rings hold their canonical form. -/
structure Formed (cq : List Instr) (cp : Prop) (s : State) : Prop where
  pending : s.pending = cq
  mem : cp → Memory.wf s.mem = true
  host : cp → Memory.wf s.hostMem = true
  chms : cp → Tab.wf {} s.chms = true
  cairns : cp → Tab.wf {} s.cairns = true
  rings : cp → Tab.wf {} s.rings = true

/-- A next state, and it is formed. -/
def OutFormed (cq : List Instr) (cp : Prop) : Host.Outcome State Fault Refusal → Prop
  | .next t => Formed cq cp t
  | .fault _ => False
  | .refused _ => False

/-- A formed next state, or the stop at a block reset of a busy block. -/
def OutFormedOrBusy (cq : List Instr) (cp : Prop) : Host.Outcome State Fault Refusal → Prop
  | .next t => Formed cq cp t
  | .fault f => f = .blockResetBusy
  | .refused _ => False

/-- A next state. -/
theorem OutFormed.ofNext {cq : List Instr} {cp : Prop} {t : State} (h : Formed cq cp t) : OutFormed cq cp (.next t) := h

/-- A next state where a stop is allowed. -/
theorem OutFormedOrBusy.ofNext {cq : List Instr} {cp : Prop} {t : State} (h : Formed cq cp t) : OutFormedOrBusy cq cp (.next t) := h

/-- The stop. -/
theorem OutFormedOrBusy.ofBusy {cq : List Instr} {cp : Prop} : OutFormedOrBusy cq cp (.fault .blockResetBusy) := rfl

/-- A record update of fields other than memory and the three tables. -/
theorem formed_upd {cq : List Instr} {cp : Prop} {s : State} {x_free : Nat} {x_out : List Output} {x_wflags : Tab WFlags} {x_memErr : Tab EccErr}
    {x_siph : Tab Siphon} {x_lvic : Vic} {x_pairs : Tab Pair} {x_nciQ : List Nat} {x_nci : Option NciReply} {x_leq : Leq} {x_sts : Sts} {x_pcie :
        Pcie} {x_latch : Tab (Option Word)} {x_stage : Tab (Option Word)} {x_ctxs : Tab Ctx} {x_tmpls : Tab Tmpl} {x_chains : Tab RxChain} {x_sched :
            Sched} {x_units : Tab UnitSt} {x_gated : BitVec 16} {x_ports : Tab Port} {x_lports : Tab LPort} {x_flows : Tab Flow} {x_released : List
                Released} {x_dec : Dec} {x_estreams : Tab EStream} {x_echs : Tab Ech} {x_time : Time} {x_emx : Emx} {x_crp : Crp} {x_sec : Sec}
                    {x_pin : Pin} {x_err : Err} :
    Formed cq cp ⟨s.pending, x_free, x_out, s.hostMem, s.mem, x_wflags, x_memErr, s.chms, x_siph, s.cairns, x_lvic, s.rings, x_pairs, x_nciQ, x_nci,
        x_leq, x_sts, x_pcie, x_latch, x_stage, x_ctxs, x_tmpls, x_chains, x_sched, x_units, x_gated, x_ports, x_lports, x_flows, x_released, x_dec,
            x_estreams, x_echs, x_time, x_emx, x_crp, x_sec, x_pin, x_err⟩ ↔ Formed cq cp s := ⟨fun h => ⟨h.pending, h.mem, h.host, h.chms, h.cairns,
                h.rings⟩, fun h => ⟨h.pending, h.mem, h.host, h.chms, h.cairns, h.rings⟩⟩

/-- A record update of any field but the queue. -/
theorem Formed.mkOf {cq : List Instr} {cp : Prop} {s : State} {x_free : Nat} {x_out : List Output} {x_hostMem : Memory} {x_mem : Memory} {x_wflags :
    Tab WFlags} {x_memErr : Tab EccErr} {x_chms : Tab Chamber} {x_siph : Tab Siphon} {x_cairns : Tab Cairn} {x_lvic : Vic} {x_rings : Tab Ring}
        {x_pairs : Tab Pair} {x_nciQ : List Nat} {x_nci : Option NciReply} {x_leq : Leq} {x_sts : Sts} {x_pcie : Pcie} {x_latch : Tab (Option Word)}
            {x_stage : Tab (Option Word)} {x_ctxs : Tab Ctx} {x_tmpls : Tab Tmpl} {x_chains : Tab RxChain} {x_sched : Sched} {x_units : Tab UnitSt}
                {x_gated : BitVec 16} {x_ports : Tab Port} {x_lports : Tab LPort} {x_flows : Tab Flow} {x_released : List Released} {x_dec : Dec}
                    {x_estreams : Tab EStream} {x_echs : Tab Ech} {x_time : Time} {x_emx : Emx} {x_crp : Crp} {x_sec : Sec} {x_pin : Pin} {x_err :
                        Err} (h : Formed cq cp s)
    (h1 : cp → Memory.wf x_mem = true) (h2 : cp → Memory.wf x_hostMem = true) (h3 : cp → Tab.wf {} x_chms = true)
    (h4 : cp → Tab.wf {} x_cairns = true) (h5 : cp → Tab.wf {} x_rings = true) : Formed cq cp ⟨s.pending, x_free, x_out, x_hostMem, x_mem, x_wflags,
        x_memErr, x_chms, x_siph, x_cairns, x_lvic, x_rings, x_pairs, x_nciQ, x_nci, x_leq, x_sts, x_pcie, x_latch, x_stage, x_ctxs, x_tmpls,
            x_chains, x_sched, x_units, x_gated, x_ports, x_lports, x_flows, x_released, x_dec, x_estreams, x_echs, x_time, x_emx, x_crp, x_sec,
                x_pin, x_err⟩ := ⟨h.pending, h1, h2, h3, h4, h5⟩

/-- A fold of steps that each keep the form. -/
theorem Formed.foldl {cq : List Instr} {cp : Prop} {α : Type} {f : State → α → State} {l : List α} {s : State} (hf : ∀ x t, Formed cq cp t → Formed
    cq cp (f t x))
    (h : Formed cq cp s) : Formed cq cp (l.foldl f s) := by
  induction l generalizing s with
  | nil => exact h
  | cons x l ih => exact ih (hf x s h)

/-- A step under a condition. -/
theorem Formed.ite {cq : List Instr} {cp : Prop} {c : Prop} [Decidable c] {s t : State} (h1 : c → Formed cq cp s) (h2 : ¬c → Formed cq cp t) : Formed
    cq cp (if c then s else t) := by
  split
  · exact h1 ‹_›
  · exact h2 ‹_›

/-- Changing listed entries keeps the canonical form. -/
theorem Tab.wfFrom_mapListed {α : Type} [DecidableEq α] {d : α} {f : Nat → α → α} {t : Tab α} {lo : Option Nat} (w : Tab.wfFrom d lo t = true) :
    Tab.wfFrom d lo (Tab.mapListed d f t) = true := by
  induction t generalizing lo with
  | nil => rfl
  | cons e t ih =>
    obtain ⟨k, v⟩ := e
    simp only [Tab.wfFrom, Bool.and_eq_true] at w
    simp only [Tab.mapListed]
    have hk := ih w.2
    split
    · cases lo with
      | none => exact Tab.wfFrom_none hk
      | some l => exact Tab.wfFrom_some_of_lt (Nat.le_of_lt (by simpa using w.1.1)) hk
    · next hne => simp only [Tab.wfFrom, Bool.and_eq_true]; exact ⟨⟨w.1.1, by simpa using hne⟩, hk⟩

/-- The same for a whole table. -/
theorem Tab.wf_mapListed {α : Type} [DecidableEq α] {d : α} {f : Nat → α → α} {t : Tab α} (w : Tab.wf d t = true) :
    Tab.wf d (Tab.mapListed d f t) = true := Tab.wfFrom_mapListed w

/-- The state of a register write that is done. -/
theorem WrRes.st_ok (s : State) : (WrRes.ok s).st = s := rfl
/-- The state of a register write that ends in a bus error. -/
theorem WrRes.st_bus (s : State) : (WrRes.bus s).st = s := rfl
/-- The state of a register write that ends in an address error. -/
theorem WrRes.st_addr (s : State) : (WrRes.addr s).st = s := rfl

/-- A record update that changes every listed chamber. -/
theorem Formed.mapChms {cq : List Instr} {cp : Prop} {s : State} {x_free : Nat} {x_out : List Output} {x_wflags : Tab WFlags} {x_memErr : Tab EccErr}
    {x_siph : Tab Siphon} {x_lvic : Vic} {x_pairs : Tab Pair} {x_nciQ : List Nat} {x_nci : Option NciReply} {x_leq : Leq} {x_sts : Sts} {x_pcie :
        Pcie} {x_latch : Tab (Option Word)} {x_stage : Tab (Option Word)} {x_ctxs : Tab Ctx} {x_tmpls : Tab Tmpl} {x_chains : Tab RxChain} {x_sched :
            Sched} {x_units : Tab UnitSt} {x_gated : BitVec 16} {x_ports : Tab Port} {x_lports : Tab LPort} {x_flows : Tab Flow} {x_released : List
                Released} {x_dec : Dec} {x_estreams : Tab EStream} {x_echs : Tab Ech} {x_time : Time} {x_emx : Emx} {x_crp : Crp} {x_sec : Sec}
                    {x_pin : Pin} {x_err : Err} {f : Nat → Chamber → Chamber} (h : Formed cq cp s) :
    Formed cq cp ⟨s.pending, x_free, x_out, s.hostMem, s.mem, x_wflags, x_memErr, Tab.mapListed {} f s.chms, x_siph, s.cairns, x_lvic, s.rings,
        x_pairs, x_nciQ, x_nci, x_leq, x_sts, x_pcie, x_latch, x_stage, x_ctxs, x_tmpls, x_chains, x_sched, x_units, x_gated, x_ports, x_lports,
            x_flows, x_released, x_dec, x_estreams, x_echs, x_time, x_emx, x_crp, x_sec, x_pin, x_err⟩ := ⟨h.pending, h.mem, h.host, fun i =>
                Tab.wf_mapListed (h.chms i), h.cairns, h.rings⟩

/-- A register write under a condition. -/
theorem Formed.iteWr {cq : List Instr} {cp : Prop} {c : Prop} [Decidable c] {x y : WrRes} (hx : Formed cq cp x.st) (hy : Formed cq cp y.st) :
    Formed cq cp (if c then x else y).st := by
  split
  · exact hx
  · exact hy

/-- A fold over a state and a count, of steps that each keep the form. -/
theorem Formed.foldlFst {cq : List Instr} {cp : Prop} {α β : Type} {f : State × β → α → State × β} {l : List α} {a : State × β}
    (hf : ∀ x t, Formed cq cp t.1 → Formed cq cp (f t x).1) (h : Formed cq cp a.1) : Formed cq cp (l.foldl f a).1 := by
  induction l generalizing a with
  | nil => exact h
  | cons x l ih => exact ih (hf x a h)

end Sys2Proof.Machine
end

