-- ==== Sys2Proof/Laws/KeptOps.lean ====
section
/-! SUPPORT. The shared operations over memory, registers, events and job state keep the form. -/

namespace Sys2Proof.Machine

/-- `setChm` keeps the form. -/
theorem setChm_formed {cq : List Instr} {cp : Prop} (s : State) (ph : Nat) (c : Chamber) (h : Formed cq cp s) : Formed cq cp (setChm s ph c) :=
    ⟨h.pending, h.mem, h.host, fun i => Tab.wf_put (h.chms i), h.cairns, h.rings⟩

/-- `updChm` keeps the form. -/
theorem updChm_formed {cq : List Instr} {cp : Prop} (s : State) (ph : Nat) (f : Chamber → Chamber) (fm : Formed cq cp s) : Formed cq cp (updChm s ph
    f) := by
  unfold updChm
  try dsimp only
  repeat' first
    | with_reducible assumption
    | with_reducible apply setChm_formed
    | simp only [formed_upd]
    | split
    | dsimp only
    | intro _

/-- `updCore` keeps the form. -/
theorem updCore_formed {cq : List Instr} {cp : Prop} (s : State) (ph : Nat) (f : Core → Core) (fm : Formed cq cp s) : Formed cq cp (updCore s ph f)
    := by
  unfold updCore
  try dsimp only
  repeat' first
    | with_reducible assumption
    | with_reducible apply updChm_formed
    | simp only [formed_upd]
    | split
    | dsimp only
    | intro _

/-- `updAr` keeps the form. -/
theorem updAr_formed {cq : List Instr} {cp : Prop} (s : State) (ph : Nat) (f : Arrays → Arrays) (fm : Formed cq cp s) : Formed cq cp (updAr s ph f)
    := by
  unfold updAr
  try dsimp only
  repeat' first
    | with_reducible assumption
    | with_reducible apply updChm_formed
    | simp only [formed_upd]
    | split
    | dsimp only
    | intro _

/-- `updFl` keeps the form. -/
theorem updFl_formed {cq : List Instr} {cp : Prop} (s : State) (ph : Nat) (f : Fls → Fls) (fm : Formed cq cp s) : Formed cq cp (updFl s ph f) := by
  unfold updFl
  try dsimp only
  repeat' first
    | with_reducible assumption
    | with_reducible apply updChm_formed
    | simp only [formed_upd]
    | split
    | dsimp only
    | intro _

/-- `updSiph` keeps the form. -/
theorem updSiph_formed {cq : List Instr} {cp : Prop} (s : State) (q : Nat) (f : Siphon → Siphon) (fm : Formed cq cp s) : Formed cq cp (updSiph s q f)
    := by
  unfold updSiph
  try dsimp only
  repeat' first
    | with_reducible assumption
    | simp only [formed_upd]
    | split
    | dsimp only
    | intro _

/-- `setCairn` keeps the form. -/
theorem setCairn_formed {cq : List Instr} {cp : Prop} (s : State) (n : Nat) (c : Cairn) (h : Formed cq cp s) : Formed cq cp (setCairn s n c) :=
    ⟨h.pending, h.mem, h.host, h.chms, fun i => Tab.wf_put (h.cairns i), h.rings⟩

/-- `setRing` keeps the form. -/
theorem setRing_formed {cq : List Instr} {cp : Prop} (s : State) (n : Nat) (r : Ring) (h : Formed cq cp s) : Formed cq cp (setRing s n r) :=
    ⟨h.pending, h.mem, h.host, h.chms, h.cairns, fun i => Tab.wf_put (h.rings i)⟩

/-- `updPair` keeps the form. -/
theorem updPair_formed {cq : List Instr} {cp : Prop} (s : State) (k : Nat) (f : Pair → Pair) (fm : Formed cq cp s) : Formed cq cp (updPair s k f) :=
    by
  unfold updPair
  try dsimp only
  repeat' first
    | with_reducible assumption
    | simp only [formed_upd]
    | split
    | dsimp only
    | intro _

/-- `updCtx` keeps the form. -/
theorem updCtx_formed {cq : List Instr} {cp : Prop} (s : State) (k : Nat) (f : Ctx → Ctx) (fm : Formed cq cp s) : Formed cq cp (updCtx s k f) := by
  unfold updCtx
  try dsimp only
  repeat' first
    | with_reducible assumption
    | simp only [formed_upd]
    | split
    | dsimp only
    | intro _

/-- `updFlow` keeps the form. -/
theorem updFlow_formed {cq : List Instr} {cp : Prop} (s : State) (k : Nat) (f : Flow → Flow) (fm : Formed cq cp s) : Formed cq cp (updFlow s k f) :=
    by
  unfold updFlow
  try dsimp only
  repeat' first
    | with_reducible assumption
    | simp only [formed_upd]
    | split
    | dsimp only
    | intro _

/-- `updUnit` keeps the form. -/
theorem updUnit_formed {cq : List Instr} {cp : Prop} (s : State) (u : Nat) (f : UnitSt → UnitSt) (fm : Formed cq cp s) : Formed cq cp (updUnit s u f)
    := by
  unfold updUnit
  try dsimp only
  repeat' first
    | with_reducible assumption
    | simp only [formed_upd]
    | split
    | dsimp only
    | intro _

/-- `draw` keeps the form. -/
theorem draw_formed {cq : List Instr} {cp : Prop} (s : State) (fm : Formed cq cp s) : Formed cq cp (draw s) := by
  unfold draw
  try dsimp only
  repeat' first
    | with_reducible assumption
    | simp only [formed_upd]
    | split
    | dsimp only
    | intro _

/-- `emit` keeps the form. -/
theorem emit_formed {cq : List Instr} {cp : Prop} (s : State) (o : Output) (fm : Formed cq cp s) : Formed cq cp (emit s o) := by
  unfold emit
  try dsimp only
  repeat' first
    | with_reducible assumption
    | simp only [formed_upd]
    | split
    | dsimp only
    | intro _

/-- `updLink` keeps the form. -/
theorem updLink_formed {cq : List Instr} {cp : Prop} (s : State) (l : Nat) (f : ELink → ELink) (fm : Formed cq cp s) : Formed cq cp (updLink s l f)
    := by
  unfold updLink
  try dsimp only
  repeat' first
    | with_reducible assumption
    | simp only [formed_upd]
    | split
    | dsimp only
    | intro _

/-- `sendFlit` keeps the form. -/
theorem sendFlit_formed {cq : List Instr} {cp : Prop} (s : State) (l : Nat) (vc : Option Nat) (done : Option (Nat × Packet)) (slots : List Byte) (fm
    : Formed cq cp s) : Formed cq cp (sendFlit s l vc done slots) := by
  unfold sendFlit
  try dsimp only
  repeat' first
    | with_reducible assumption
    | with_reducible apply Formed.foldl
    | with_reducible apply Formed.foldlFst
    | with_reducible apply emit_formed
    | with_reducible apply updLink_formed
    | simp only [formed_upd]
    | split
    | dsimp only
    | intro _

/-- `answerFlit` keeps the form. -/
theorem answerFlit_formed {cq : List Instr} {cp : Prop} (s : State) (l : Nat) (nak : Bool) (fm : Formed cq cp s) : Formed cq cp (answerFlit s l nak)
    := by
  unfold answerFlit
  try dsimp only
  repeat' first
    | with_reducible assumption
    | with_reducible apply emit_formed
    | simp only [formed_upd]
    | split
    | dsimp only
    | intro _

/-- `sendParts` keeps the form. -/
theorem sendParts_formed {cq : List Instr} {cp : Prop} (s : State) (l vc dev : Nat) (p : Packet) (xs : List (List Byte)) (h : Formed cq cp s) :
    Formed cq cp (sendParts s l vc dev p xs) := by
  induction xs generalizing s with
  | nil => exact h
  | cons x xs ih =>
    cases xs with
    | nil => exact sendFlit_formed _ _ _ _ _ h
    | cons y r => exact ih _ (sendFlit_formed _ _ _ _ _ h)

/-- `sendWhole` keeps the form. -/
theorem sendWhole_formed {cq : List Instr} {cp : Prop} (s : State) (l vc dev : Nat) (p : Packet) (fm : Formed cq cp s) : Formed cq cp (sendWhole s l
    vc dev p) := by
  unfold sendWhole
  try dsimp only
  repeat' first
    | with_reducible assumption
    | with_reducible apply sendParts_formed
    | simp only [formed_upd]
    | split
    | dsimp only
    | intro _

/-- `drainLink` keeps the form. -/
theorem drainLink_formed {cq : List Instr} {cp : Prop} (l : Nat) (ws kept : List (Nat × Nat × Packet)) (s : State) (h : Formed cq cp s) : Formed cq
    cp (drainLink l ws kept s) := by
  induction ws generalizing kept s with
  | nil => exact updLink_formed _ _ _ h
  | cons w ws ih =>
    simp only [drainLink]
    split
    · exact ih _ _ (sendWhole_formed _ _ _ _ _ h)
    · exact ih _ _ h

/-- `sendOn` keeps the form. -/
theorem sendOn_formed {cq : List Instr} {cp : Prop} (s : State) (l vc dev : Nat) (p : Packet) (fm : Formed cq cp s) : Formed cq cp (sendOn s l vc dev
    p) := by
  unfold sendOn
  try dsimp only
  repeat' first
    | with_reducible assumption
    | with_reducible apply drainLink_formed
    | simp only [formed_upd]
    | split
    | dsimp only
    | intro _

/-- `sendPacket` keeps the form. -/
theorem sendPacket_formed {cq : List Instr} {cp : Prop} (s : State) (dev : Nat) (p : Packet) (fm : Formed cq cp s) : Formed cq cp (sendPacket s dev
    p) := by
  unfold sendPacket
  try dsimp only
  repeat' first
    | with_reducible assumption
    | with_reducible apply sendOn_formed
    | simp only [formed_upd]
    | split
    | dsimp only
    | intro _

/-- `toRoot` keeps the form. -/
theorem toRoot_formed {cq : List Instr} {cp : Prop} (s : State) (p : Packet) (fm : Formed cq cp s) : Formed cq cp (toRoot s p) := by
  unfold toRoot
  try dsimp only
  repeat' first
    | with_reducible assumption
    | with_reducible apply sendPacket_formed
    | simp only [formed_upd]
    | split
    | dsimp only
    | intro _

/-- `raiseLantern` keeps the form. -/
theorem raiseLantern_formed {cq : List Instr} {cp : Prop} (s : State) (n : Nat) (fm : Formed cq cp s) : Formed cq cp (raiseLantern s n) := by
  unfold raiseLantern
  try dsimp only
  repeat' first
    | with_reducible assumption
    | simp only [formed_upd]
    | split
    | dsimp only
    | intro _

/-- `deviceEvent` keeps the form. -/
theorem deviceEvent_formed {cq : List Instr} {cp : Prop} (s : State) (fm : Formed cq cp s) : Formed cq cp (deviceEvent s) := by
  unfold deviceEvent
  try dsimp only
  repeat' first
    | with_reducible assumption
    | with_reducible apply raiseLantern_formed
    | with_reducible apply draw_formed
    | simp only [formed_upd]
    | split
    | dsimp only
    | intro _

/-- `raiseChm` keeps the form. -/
theorem raiseChm_formed {cq : List Instr} {cp : Prop} (s : State) (ph n : Nat) (fm : Formed cq cp s) : Formed cq cp (raiseChm s ph n) := by
  unfold raiseChm
  try dsimp only
  repeat' first
    | with_reducible assumption
    | with_reducible apply updChm_formed
    | simp only [formed_upd]
    | split
    | dsimp only
    | intro _

/-- `msi` keeps the form. -/
theorem msi_formed {cq : List Instr} {cp : Prop} (s : State) (vec : Nat) (fm : Formed cq cp s) : Formed cq cp (msi s vec) := by
  unfold msi
  try dsimp only
  repeat' first
    | with_reducible assumption
    | with_reducible apply toRoot_formed
    | with_reducible apply emit_formed
    | simp only [formed_upd]
    | split
    | dsimp only
    | intro _

/-- `markUnit` keeps the form. -/
theorem markUnit_formed {cq : List Instr} {cp : Prop} (s : State) (u st cls : Nat) (fm : Formed cq cp s) : Formed cq cp (markUnit s u st cls) := by
  unfold markUnit
  try dsimp only
  repeat' first
    | with_reducible assumption
    | with_reducible apply updUnit_formed
    | simp only [formed_upd]
    | split
    | dsimp only
    | intro _

/-- `logErr` keeps the form. -/
theorem logErr_formed {cq : List Instr} {cp : Prop} (s : State) (cls sev u : Nat) (detail : Word) (addr : Nat) (inj : Bool) (fm : Formed cq cp s) :
    Formed cq cp (logErr s cls sev u detail addr inj) := by
  unfold logErr
  try dsimp only
  repeat' first
    | with_reducible assumption
    | with_reducible apply raiseLantern_formed
    | simp only [formed_upd]
    | split
    | dsimp only
    | intro _

/-- `moveLogEntry` keeps the form. -/
theorem moveLogEntry_formed {cq : List Instr} {cp : Prop} (s : State) (fm : Formed cq cp s) : Formed cq cp (moveLogEntry s) := by
  unfold moveLogEntry
  try dsimp only
  repeat' first
    | with_reducible assumption
    | simp only [formed_upd]
    | split
    | dsimp only
    | intro _

/-- `countPocketEcc` keeps the form. -/
theorem countPocketEcc_formed {cq : List Instr} {cp : Prop} (s : State) (k : Nat) (ue : Bool) (fm : Formed cq cp s) : Formed cq cp (countPocketEcc s
    k ue) := by
  unfold countPocketEcc
  try dsimp only
  repeat' first
    | with_reducible assumption
    | with_reducible apply updChm_formed
    | simp only [formed_upd]
    | split
    | dsimp only
    | intro _

/-- `correctedAt` keeps the form. -/
theorem correctedAt_formed {cq : List Instr} {cp : Prop} (s : State) (k a : Nat) (fm : Formed cq cp s) : Formed cq cp (correctedAt s k a) := by
  unfold correctedAt
  try dsimp only
  repeat' first
    | with_reducible assumption
    | with_reducible apply countPocketEcc_formed
    | with_reducible apply logErr_formed
    | with_reducible apply draw_formed
    | simp only [formed_upd]
    | split
    | dsimp only
    | intro _

/-- `uncorrectableAt` keeps the form. -/
theorem uncorrectableAt_formed {cq : List Instr} {cp : Prop} (s : State) (k a : Nat) (fm : Formed cq cp s) : Formed cq cp (uncorrectableAt s k a) :=
    by
  unfold uncorrectableAt
  try dsimp only
  repeat' first
    | with_reducible assumption
    | with_reducible apply countPocketEcc_formed
    | with_reducible apply logErr_formed
    | with_reducible apply draw_formed
    | with_reducible apply markUnit_formed
    | simp only [formed_upd]
    | split
    | dsimp only
    | intro _

/-- `setFlags` keeps the form. -/
theorem setFlags_formed {cq : List Instr} {cp : Prop} (s : State) (k : Nat) (f : WFlags) (fm : Formed cq cp s) : Formed cq cp (setFlags s k f) := by
  unfold setFlags
  try dsimp only
  repeat' first
    | with_reducible assumption
    | simp only [formed_upd]
    | split
    | dsimp only
    | intro _

/-- `poisonWords` keeps the form. -/
theorem poisonWords_formed {cq : List Instr} {cp : Prop} (s : State) (k n : Nat) (h : Formed cq cp s) : Formed cq cp (poisonWords s k n) := by
  induction n generalizing s k with
  | zero => exact h
  | succ n ih => exact ih _ _ (setFlags_formed _ _ _ ⟨h.pending, fun i => Memory.wf_setBytes (h.mem i), h.host, h.chms, h.cairns, h.rings⟩)

/-- `rewriteUnit` keeps the form. -/
theorem rewriteUnit_formed {cq : List Instr} {cp : Prop} (s : State) (k : Nat) (fm : Formed cq cp s) : Formed cq cp (rewriteUnit s k) := by
  unfold rewriteUnit
  try dsimp only
  repeat' first
    | with_reducible assumption
    | with_reducible apply poisonWords_formed
    | simp only [formed_upd]
    | split
    | dsimp only
    | intro _

/-- `readWord` keeps the form. -/
theorem readWord_formed {cq : List Instr} {cp : Prop} (s : State) (a : Nat) (h : Formed cq cp s) : Formed cq cp (readWord s a).2 := by
  unfold readWord
  split
  · exact h
  · split
    · exact rewriteUnit_formed _ _ (uncorrectableAt_formed _ _ _ h)
    · exact correctedAt_formed _ _ _ h
    · exact h

/-- `readWords` keeps the form. -/
theorem readWords_formed {cq : List Instr} {cp : Prop} (s : State) (a n : Nat) (h : Formed cq cp s) : Formed cq cp (readWords s a n).2.2.2 := by
  induction n generalizing s a with
  | zero => exact h
  | succ n ih => exact ih _ _ (readWord_formed _ _ h)

/-- `readBytes` keeps the form. -/
theorem readBytes_formed {cq : List Instr} {cp : Prop} (s : State) (a len : Nat) (h : Formed cq cp s) : Formed cq cp (readBytes s a len).2.2.2 :=
    readWords_formed _ _ _ h

/-- `partialCheck` keeps the form. -/
theorem partialCheck_formed {cq : List Instr} {cp : Prop} (s : State) (w k a len : Nat) (fm : Formed cq cp s) : Formed cq cp (partialCheck s w k a
    len) := by
  unfold partialCheck
  try dsimp only
  repeat' first
    | with_reducible assumption
    | with_reducible apply correctedAt_formed
    | with_reducible apply uncorrectableAt_formed
    | with_reducible apply poisonWords_formed
    | simp only [formed_upd]
    | split
    | dsimp only
    | intro _

/-- `writeInWord` keeps the form. -/
theorem writeInWord_formed {cq : List Instr} {cp : Prop} (s : State) (w a : Nat) (data : List Byte) (f : WFlags) (h : Formed cq cp s) : Formed cq cp
    (writeInWord s w a data f) := by
  unfold writeInWord
  split
  · exact h
  · next k hk =>
    have h1 := partialCheck_formed s w k a data.length h
    dsimp only
    split
    · exact setFlags_formed _ _ _ ⟨h1.pending, fun i => Memory.wf_setBytes (h1.mem i), h1.host, h1.chms, h1.cairns, h1.rings⟩
    · exact ⟨h1.pending, fun i => Memory.wf_setBytes (h1.mem i), h1.host, h1.chms, h1.cairns, h1.rings⟩

/-- `writeFrom` keeps the form. -/
theorem writeFrom_formed {cq : List Instr} {cp : Prop} (s : State) (w a : Nat) (data : List Byte) (f : WFlags) (n : Nat) (h : Formed cq cp s) :
    Formed cq cp (writeFrom s w a data f n) := by
  induction n generalizing s w with
  | zero => exact h
  | succ n ih => exact ih _ _ (writeInWord_formed _ _ _ _ _ h)

/-- `writeMem` keeps the form. -/
theorem writeMem_formed {cq : List Instr} {cp : Prop} (s : State) (a : Nat) (data : List Byte) (f : WFlags) (fm : Formed cq cp s) : Formed cq cp
    (writeMem s a data f) := by
  unfold writeMem
  try dsimp only
  repeat' first
    | with_reducible assumption
    | with_reducible apply writeFrom_formed
    | simp only [formed_upd]
    | split
    | dsimp only
    | intro _

/-- `zeroKeys` keeps the form. -/
theorem zeroKeys_formed {cq : List Instr} {cp : Prop} (s : State) (k len : Nat) (h : Formed cq cp s) : Formed cq cp (zeroKeys s k len) := ⟨h.pending,
    fun i => Memory.wf_clearRange (h.mem i), h.host, h.chms, h.cairns, h.rings⟩

/-- `readMemWords` keeps the form. -/
theorem readMemWords_formed {cq : List Instr} {cp : Prop} (s : State) (a n : Nat) (h : Formed cq cp s) : Formed cq cp (readMemWords s a n).2.2 :=
    readBytes_formed _ _ _ h

/-- `strikeUnit` keeps the form. -/
theorem strikeUnit_formed {cq : List Instr} {cp : Prop} (s : State) (e : Nat × List Nat) (fm : Formed cq cp s) : Formed cq cp (strikeUnit s e) := by
  unfold strikeUnit
  try dsimp only
  repeat' first
    | with_reducible assumption
    | simp only [formed_upd]
    | split
    | dsimp only
    | intro _

/-- `strikeMemory` keeps the form. -/
theorem strikeMemory_formed {cq : List Instr} {cp : Prop} (s : State) (fm : Formed cq cp s) : Formed cq cp (strikeMemory s) := by
  unfold strikeMemory
  try dsimp only
  repeat' first
    | with_reducible assumption
    | with_reducible apply Formed.foldl
    | with_reducible apply Formed.foldlFst
    | with_reducible apply strikeUnit_formed
    | with_reducible apply draw_formed
    | simp only [formed_upd]
    | split
    | dsimp only
    | intro _

/-- `strayByte` keeps the form. -/
theorem strayByte_formed {cq : List Instr} {cp : Prop} (s : State) (a : Nat) (v : Byte) (f : WFlags) (h : Formed cq cp s) :
    Formed cq cp (strayByte s a v f) := by
  unfold strayByte
  split
  · exact h
  · exact setFlags_formed _ _ _ ⟨h.pending, fun i => Tab.wf_put (h.mem i), h.host, h.chms, h.cairns, h.rings⟩

/-- `strayBytes` keeps the form. -/
theorem strayBytes_formed {cq : List Instr} {cp : Prop} (ok : Nat → Bool) (s : State) (h : Formed cq cp s) : Formed cq cp (strayBytes ok s) :=
  Formed.foldl (fun _ _ ht => Formed.ite (fun _ => strayByte_formed _ _ _ _ ht) (fun _ => ht)) h

/-- `strayFlags` keeps the form. -/
theorem strayFlags_formed {cq : List Instr} {cp : Prop} (k : Nat) (s : State) (h : Formed cq cp s) : Formed cq cp (strayFlags k s) :=
  Formed.foldl (fun _ _ ht => Formed.ite (fun _ => updChm_formed _ _ _ ht) (fun _ => ht)) h

/-- `strayJobs` keeps the form. -/
theorem strayJobs_formed {cq : List Instr} {cp : Prop} (k : Nat) (s : State) (h : Formed cq cp s) : Formed cq cp (strayJobs k s) :=
  ⟨h.pending, h.mem, h.host, h.chms, h.cairns, h.rings⟩

/-- `strayContext` keeps the form. -/
theorem strayContext_formed {cq : List Instr} {cp : Prop} (k : Nat) (s : State) (h : Formed cq cp s) : Formed cq cp (strayContext k s) :=
  strayJobs_formed k _ (strayFlags_formed k _ (strayBytes_formed _ _ (draw_formed _ h)))

/-- `leqPut` keeps the form. -/
theorem leqPut_formed {cq : List Instr} {cp : Prop} (s : State) (cls source : Nat) (tag : Word) (addr : Nat) (detail : Word) (fm : Formed cq cp s) :
    Formed cq cp (leqPut s cls source tag addr detail) := by
  unfold leqPut
  try dsimp only
  repeat' first
    | with_reducible assumption
    | with_reducible apply msi_formed
    | with_reducible apply logErr_formed
    | with_reducible apply toRoot_formed
    | simp only [formed_upd]
    | split
    | dsimp only
    | intro _

/-- `advisory` keeps the form. -/
theorem advisory_formed {cq : List Instr} {cp : Prop} (s : State) (fm : Formed cq cp s) : Formed cq cp (advisory s) := by
  unfold advisory
  try dsimp only
  repeat' first
    | with_reducible assumption
    | with_reducible apply logErr_formed
    | with_reducible apply emit_formed
    | simp only [formed_upd]
    | split
    | dsimp only
    | intro _

/-- `barDropped` keeps the form. -/
theorem barDropped_formed {cq : List Instr} {cp : Prop} (s : State) (bar off : Nat) (v : Word) (fm : Formed cq cp s) : Formed cq cp (barDropped s bar
    off v) := by
  unfold barDropped
  try dsimp only
  repeat' first
    | with_reducible assumption
    | with_reducible apply leqPut_formed
    | with_reducible apply advisory_formed
    | simp only [formed_upd]
    | split
    | dsimp only
    | intro _

/-- `ringStore` keeps the form. -/
theorem ringStore_formed {cq : List Instr} {cp : Prop} (s : State) (r : Ring) (a : Nat) (bs : List Byte) (h : Formed cq cp s) : Formed cq cp
    (ringStore s r a bs) := by
  unfold ringStore
  split
  · exact toRoot_formed _ _ h
  · split
    · exact ⟨h.pending, h.mem, fun i => Memory.wf_setBytes (h.host i), h.chms, h.cairns, h.rings⟩
    · exact writeMem_formed _ _ _ _ h

/-- `ringWriteBack` keeps the form. -/
theorem ringWriteBack_formed {cq : List Instr} {cp : Prop} (s : State) (n : Nat) (fm : Formed cq cp s) : Formed cq cp (ringWriteBack s n) := by
  unfold ringWriteBack
  try dsimp only
  repeat' first
    | with_reducible assumption
    | with_reducible apply ringStore_formed
    | with_reducible apply setRing_formed
    | simp only [formed_upd]
    | split
    | dsimp only
    | intro _

/-- `ringNote` keeps the form. -/
theorem ringNote_formed {cq : List Instr} {cp : Prop} (s : State) (n : Nat) (fm : Formed cq cp s) : Formed cq cp (ringNote s n) := by
  unfold ringNote
  try dsimp only
  repeat' first
    | with_reducible assumption
    | with_reducible apply setRing_formed
    | with_reducible apply ringWriteBack_formed
    | simp only [formed_upd]
    | split
    | dsimp only
    | intro _

/-- `ringPlace` keeps the form. -/
theorem ringPlace_formed {cq : List Instr} {cp : Prop} (s : State) (n : Nat) (ws : List Word) (compl : Bool) (fm : Formed cq cp s) : Formed cq cp
    (ringPlace s n ws compl) := by
  unfold ringPlace
  try dsimp only
  repeat' first
    | with_reducible assumption
    | with_reducible apply ringStore_formed
    | with_reducible apply setRing_formed
    | with_reducible apply ringWriteBack_formed
    | with_reducible apply msi_formed
    | simp only [formed_upd]
    | split
    | dsimp only
    | intro _

/-- `ringNerzon` keeps the form. -/
theorem ringNerzon_formed {cq : List Instr} {cp : Prop} (s : State) (n : Nat) (ws : List Word) (compl : Bool) (fm : Formed cq cp s) : Formed cq cp
    (ringNerzon s n ws compl) := by
  unfold ringNerzon
  try dsimp only
  repeat' first
    | with_reducible assumption
    | with_reducible apply ringPlace_formed
    | with_reducible apply setRing_formed
    | simp only [formed_upd]
    | split
    | dsimp only
    | intro _

/-- `ringDropper` keeps the form. -/
theorem ringDropper_formed {cq : List Instr} {cp : Prop} (s : State) (n : Nat) (ws : List Word) (fm : Formed cq cp s) : Formed cq cp (ringDropper s n
    ws).2 := by
  unfold ringDropper
  try dsimp only
  repeat' first
    | with_reducible assumption
    | with_reducible apply ringPlace_formed
    | with_reducible apply ringNote_formed
    | with_reducible apply setRing_formed
    | simp only [formed_upd]
    | split
    | dsimp only
    | intro _

/-- `grantTo` keeps the form. -/
theorem grantTo_formed {cq : List Instr} {cp : Prop} (s : State) (ph : Nat) (g : DWord) (back : Word) (fm : Formed cq cp s) : Formed cq cp (grantTo s
    ph g back) := by
  unfold grantTo
  try dsimp only
  repeat' first
    | with_reducible assumption
    | with_reducible apply updCore_formed
    | simp only [formed_upd]
    | split
    | dsimp only
    | intro _

/-- `grantAll` keeps the form. -/
theorem grantAll_formed {cq : List Instr} {cp : Prop} (s : State) (g : DWord) (back : Word) (l : List Nat) (h : Formed cq cp s) : Formed cq cp
    (grantAll s g back l) := by
  induction l generalizing s with
  | nil => exact h
  | cons x l ih => exact ih _ (grantTo_formed _ _ _ _ h)

/-- `bindEvent` keeps the form. -/
theorem bindEvent_formed {cq : List Instr} {cp : Prop} (s : State) (n : Nat) (h : Formed cq cp s) : Formed cq cp (bindEvent s n) := ⟨h.pending,
    h.mem, h.host, fun i => Tab.wf_mapListed (h.chms i), h.cairns, h.rings⟩

/-- `semaServe` keeps the form. -/
theorem semaServe_formed {cq : List Instr} {cp : Prop} (s : State) (n k : Nat) (h : Formed cq cp s) : Formed cq cp (semaServe s n k) := by
  induction k generalizing s with
  | zero => exact h
  | succ k ih =>
    simp only [semaServe]
    split
    · exact h
    · split
      · exact h
      · exact ih _ (grantTo_formed _ _ _ _ (setCairn_formed _ _ _ h))

/-- `barrierOpen` keeps the form. -/
theorem barrierOpen_formed {cq : List Instr} {cp : Prop} (s : State) (n : Nat) (late : Bool) (fm : Formed cq cp s) : Formed cq cp (barrierOpen s n
    late) := by
  unfold barrierOpen
  try dsimp only
  repeat' first
    | with_reducible assumption
    | with_reducible apply setCairn_formed
    | with_reducible apply bindEvent_formed
    | with_reducible apply grantAll_formed
    | simp only [formed_upd]
    | split
    | dsimp only
    | intro _

/-- `settleTimed` keeps the form. -/
theorem settleTimed_formed {cq : List Instr} {cp : Prop} (s : State) (n : Nat) (fm : Formed cq cp s) : Formed cq cp (settleTimed s n) := by
  unfold settleTimed
  try dsimp only
  repeat' first
    | with_reducible assumption
    | with_reducible apply barrierOpen_formed
    | simp only [formed_upd]
    | split
    | dsimp only
    | intro _

/-- `eventServe` keeps the form. -/
theorem eventServe_formed {cq : List Instr} {cp : Prop} (s : State) (n : Nat) (fm : Formed cq cp s) : Formed cq cp (eventServe s n) := by
  unfold eventServe
  try dsimp only
  repeat' first
    | with_reducible assumption
    | with_reducible apply setCairn_formed
    | with_reducible apply grantAll_formed
    | simp only [formed_upd]
    | split
    | dsimp only
    | intro _

/-- `cairnAdd` keeps the form. -/
theorem cairnAdd_formed {cq : List Instr} {cp : Prop} (s0 : State) (n : Nat) (amt : Word) (fm : Formed cq cp s0) : Formed cq cp (cairnAdd s0 n amt)
    := by
  unfold cairnAdd
  try dsimp only
  repeat' first
    | with_reducible assumption
    | with_reducible apply settleTimed_formed
    | with_reducible apply setCairn_formed
    | with_reducible apply bindEvent_formed
    | with_reducible apply semaServe_formed
    | with_reducible apply barrierOpen_formed
    | with_reducible apply draw_formed
    | with_reducible apply eventServe_formed
    | simp only [formed_upd]
    | split
    | dsimp only
    | intro _

/-- `cairnWait` keeps the form. -/
theorem cairnWait_formed {cq : List Instr} {cp : Prop} (s0 : State) (n ph ctx : Nat) (fm : Formed cq cp s0) : Formed cq cp (cairnWait s0 n ph ctx) :=
    by
  unfold cairnWait
  try dsimp only
  repeat' first
    | with_reducible assumption
    | with_reducible apply settleTimed_formed
    | with_reducible apply grantTo_formed
    | with_reducible apply draw_formed
    | with_reducible apply updCore_formed
    | with_reducible apply setCairn_formed
    | with_reducible apply cairnAdd_formed
    | simp only [formed_upd]
    | split
    | dsimp only
    | intro _

/-- `cairnTry` keeps the form. -/
theorem cairnTry_formed {cq : List Instr} {cp : Prop} (s0 : State) (n ctx : Nat) (fm : Formed cq cp s0) : Formed cq cp (cairnTry s0 n ctx).2 := by
  unfold cairnTry
  try dsimp only
  repeat' first
    | with_reducible assumption
    | with_reducible apply settleTimed_formed
    | with_reducible apply setCairn_formed
    | with_reducible apply barrierOpen_formed
    | simp only [formed_upd]
    | split
    | dsimp only
    | intro _

/-- `cairnWithdraw` keeps the form. -/
theorem cairnWithdraw_formed {cq : List Instr} {cp : Prop} (s0 : State) (ph n : Nat) (fm : Formed cq cp s0) : Formed cq cp (cairnWithdraw s0 ph n) :=
    by
  unfold cairnWithdraw
  try dsimp only
  repeat' first
    | with_reducible assumption
    | with_reducible apply settleTimed_formed
    | with_reducible apply updCore_formed
    | with_reducible apply setCairn_formed
    | with_reducible apply cairnAdd_formed
    | simp only [formed_upd]
    | split
    | dsimp only
    | intro _

/-- `cairnFault` keeps the form. -/
theorem cairnFault_formed {cq : List Instr} {cp : Prop} (s0 : State) (n : Nat) (fm : Formed cq cp s0) : Formed cq cp (cairnFault s0 n) := by
  unfold cairnFault
  try dsimp only
  repeat' first
    | with_reducible assumption
    | with_reducible apply settleTimed_formed
    | with_reducible apply setCairn_formed
    | with_reducible apply draw_formed
    | with_reducible apply bindEvent_formed
    | with_reducible apply grantAll_formed
    | simp only [formed_upd]
    | split
    | dsimp only
    | intro _

/-- `cairnsFaultOwner` keeps the form. -/
theorem cairnsFaultOwner_formed {cq : List Instr} {cp : Prop} (s : State) (lc : Nat) (fm : Formed cq cp s) : Formed cq cp (cairnsFaultOwner s lc) :=
    by
  unfold cairnsFaultOwner
  try dsimp only
  repeat' first
    | with_reducible assumption
    | with_reducible apply cairnFault_formed
    | simp only [formed_upd]
    | with_reducible apply Formed.foldl
    | with_reducible apply Formed.foldlFst
    | split
    | dsimp only
    | intro _

/-- `takeExc` keeps the form. -/
theorem takeExc_formed {cq : List Instr} {cp : Prop} (s : State) (ph cause pos eaddr : Nat) (fm : Formed cq cp s) : Formed cq cp (takeExc s ph cause
    pos eaddr) := by
  unfold takeExc
  try dsimp only
  repeat' first
    | with_reducible assumption
    | with_reducible apply logErr_formed
    | with_reducible apply updCore_formed
    | simp only [formed_upd]
    | split
    | dsimp only
    | intro _

/-- `hostDoor` keeps the form. -/
theorem hostDoor_formed {cq : List Instr} {cp : Prop} (s : State) (f : State → State) (hf : ∀ x, Formed cq cp x → Formed cq cp (f x)) (fm : Formed cq
    cp s) : Formed cq cp (hostDoor s f) := by
  unfold hostDoor
  try dsimp only
  repeat' first
    | with_reducible assumption
    | with_reducible apply emit_formed
    | with_reducible apply hf
    | simp only [formed_upd]
    | split
    | dsimp only
    | intro _

/-- `byDoor` keeps the form. -/
theorem byDoor_formed {cq : List Instr} {cp : Prop} (who : Agent) (s : State) (f : State → State) (hf : ∀ x, Formed cq cp x → Formed cq cp (f x)) (fm
    : Formed cq cp s) : Formed cq cp (byDoor who s f) := by
  unfold byDoor
  try dsimp only
  repeat' first
    | with_reducible assumption
    | with_reducible apply hostDoor_formed
    | with_reducible apply hf
    | simp only [formed_upd]
    | split
    | dsimp only
    | intro _

/-- `cairnSignalFor` keeps the form. -/
theorem cairnSignalFor_formed {cq : List Instr} {cp : Prop} (s : State) (ctx n : Nat) (amt : Word) (fm : Formed cq cp s) : Formed cq cp
    (cairnSignalFor s ctx n amt) := by
  unfold cairnSignalFor
  try dsimp only
  repeat' first
    | with_reducible assumption
    | with_reducible apply cairnAdd_formed
    | simp only [formed_upd]
    | split
    | dsimp only
    | intro _

/-- `cairnSignalOpt` keeps the form. -/
theorem cairnSignalOpt_formed {cq : List Instr} {cp : Prop} (s : State) (ctx : Option Nat) (n : Nat) (fm : Formed cq cp s) : Formed cq cp
    (cairnSignalOpt s ctx n) := by
  unfold cairnSignalOpt
  try dsimp only
  repeat' first
    | with_reducible assumption
    | with_reducible apply cairnSignalFor_formed
    | with_reducible apply cairnAdd_formed
    | simp only [formed_upd]
    | split
    | dsimp only
    | intro _

/-- `powerUp` keeps the form. -/
theorem powerUp_formed {cq : List Instr} {cp : Prop} (s : State) (g : Nat) (fm : Formed cq cp s) : Formed cq cp (powerUp s g) := by
  unfold powerUp
  try dsimp only
  repeat' first
    | with_reducible assumption
    | simp only [formed_upd]
    | split
    | dsimp only
    | intro _

/-- `updMbox` keeps the form. -/
theorem updMbox_formed {cq : List Instr} {cp : Prop} (s : State) (k : Nat) (req : Bool) (f : Mbox → Mbox) (fm : Formed cq cp s) : Formed cq cp
    (updMbox s k req f) := by
  unfold updMbox
  try dsimp only
  repeat' first
    | with_reducible assumption
    | with_reducible apply updPair_formed
    | simp only [formed_upd]
    | split
    | dsimp only
    | intro _

/-- `mbxReject` keeps the form. -/
theorem mbxReject_formed {cq : List Instr} {cp : Prop} (s : State) (who : Agent) (k : Nat) (req : Bool) (off : Nat) (v : Word) (fm : Formed cq cp s)
    : Formed cq cp (mbxReject s who k req off v).st := by
  unfold mbxReject
  try dsimp only
  repeat' first
    | with_reducible assumption
    | with_reducible apply updMbox_formed
    | with_reducible apply leqPut_formed
    | with_reducible apply advisory_formed
    | simp only [formed_upd]
    | with_reducible apply Formed.iteWr
    | simp only [WrRes.st_ok, WrRes.st_bus]
    | split
    | dsimp only
    | intro _

/-- `mbxWake` keeps the form. -/
theorem mbxWake_formed {cq : List Instr} {cp : Prop} (s : State) (k : Nat) (req : Bool) (fm : Formed cq cp s) : Formed cq cp (mbxWake s k req) := by
  unfold mbxWake
  try dsimp only
  repeat' first
    | with_reducible assumption
    | with_reducible apply raiseLantern_formed
    | with_reducible apply msi_formed
    | with_reducible apply raiseChm_formed
    | with_reducible apply powerUp_formed
    | simp only [formed_upd]
    | split
    | dsimp only
    | intro _

/-- `routeRequest` keeps the form. -/
theorem routeRequest_formed {cq : List Instr} {cp : Prop} (s : State) (k : Nat) (fm : Formed cq cp s) : Formed cq cp (routeRequest s k) := by
  unfold routeRequest
  try dsimp only
  repeat' first
    | with_reducible assumption
    | with_reducible apply sendPacket_formed
    | simp only [formed_upd]
    | split
    | dsimp only
    | intro _

/-- `mbxPost` keeps the form. -/
theorem mbxPost_formed {cq : List Instr} {cp : Prop} (s : State) (k : Nat) (req : Bool) (fm : Formed cq cp s) : Formed cq cp (mbxPost s k req) := by
  unfold mbxPost
  try dsimp only
  repeat' first
    | with_reducible assumption
    | with_reducible apply mbxWake_formed
    | with_reducible apply updMbox_formed
    | with_reducible apply routeRequest_formed
    | simp only [formed_upd]
    | split
    | dsimp only
    | intro _

/-- `mbxAck` keeps the form. -/
theorem mbxAck_formed {cq : List Instr} {cp : Prop} (s : State) (k : Nat) (req : Bool) (code : BitVec 16) (fm : Formed cq cp s) : Formed cq cp
    (mbxAck s k req code) := by
  unfold mbxAck
  try dsimp only
  repeat' first
    | with_reducible assumption
    | with_reducible apply updMbox_formed
    | simp only [formed_upd]
    | split
    | dsimp only
    | intro _

/-- `mbxWritePost` keeps the form. -/
theorem mbxWritePost_formed {cq : List Instr} {cp : Prop} (s : State) (who : Agent) (k : Nat) (req : Bool) (v : Word) (fm : Formed cq cp s) : Formed
    cq cp (mbxWritePost s who k req v).st := by
  unfold mbxWritePost
  try dsimp only
  repeat' first
    | with_reducible assumption
    | with_reducible apply mbxPost_formed
    | with_reducible apply mbxReject_formed
    | simp only [formed_upd]
    | with_reducible apply Formed.iteWr
    | simp only [WrRes.st_ok]
    | split
    | dsimp only
    | intro _

/-- `mbxWriteAck` keeps the form. -/
theorem mbxWriteAck_formed {cq : List Instr} {cp : Prop} (s : State) (who : Agent) (k : Nat) (req : Bool) (v : Word) (fm : Formed cq cp s) : Formed
    cq cp (mbxWriteAck s who k req v).st := by
  unfold mbxWriteAck
  try dsimp only
  repeat' first
    | with_reducible assumption
    | with_reducible apply mbxAck_formed
    | with_reducible apply mbxReject_formed
    | simp only [formed_upd]
    | with_reducible apply Formed.iteWr
    | simp only [WrRes.st_ok]
    | split
    | dsimp only
    | intro _

/-- `mbxWrite` keeps the form. -/
theorem mbxWrite_formed {cq : List Instr} {cp : Prop} (s : State) (who : Agent) (k off : Nat) (v : Word) (fm : Formed cq cp s) : Formed cq cp
    (mbxWrite s who k off v).st := by
  unfold mbxWrite
  try dsimp only
  repeat' first
    | with_reducible assumption
    | with_reducible apply updMbox_formed
    | with_reducible apply mbxReject_formed
    | with_reducible apply mbxWritePost_formed
    | with_reducible apply mbxWriteAck_formed
    | simp only [formed_upd]
    | with_reducible apply Formed.iteWr
    | simp only [WrRes.st_ok, WrRes.st_addr]
    | split
    | dsimp only
    | intro _

/-- `countReport` keeps the form. -/
theorem countReport_formed {cq : List Instr} {cp : Prop} (s : State) (ph r : Nat) (ws : List Word) (fm : Formed cq cp s) : Formed cq cp (countReport
    s ph r ws) := by
  unfold countReport
  try dsimp only
  repeat' first
    | with_reducible assumption
    | simp only [formed_upd]
    | with_reducible apply Formed.foldl
    | with_reducible apply Formed.foldlFst
    | split
    | dsimp only
    | intro _

/-- `ringPush` keeps the form. -/
theorem ringPush_formed {cq : List Instr} {cp : Prop} (s : State) (ph r : Nat) (fm : Formed cq cp s) : Formed cq cp (ringPush s ph r).st := by
  unfold ringPush
  try dsimp only
  repeat' first
    | with_reducible assumption
    | with_reducible apply draw_formed
    | with_reducible apply ringDropper_formed
    | with_reducible apply updChm_formed
    | with_reducible apply countReport_formed
    | simp only [formed_upd]
    | with_reducible apply Formed.iteWr
    | simp only [WrRes.st_ok, WrRes.st_bus]
    | split
    | dsimp only
    | intro _

/-- `decRefuse` keeps the form. -/
theorem decRefuse_formed {cq : List Instr} {cp : Prop} (s : State) (ph ctx kind addr : Nat) (fm : Formed cq cp s) : Formed cq cp (decRefuse s ph ctx
    kind addr) := by
  unfold decRefuse
  try dsimp only
  repeat' first
    | with_reducible assumption
    | with_reducible apply raiseChm_formed
    | simp only [formed_upd]
    | split
    | dsimp only
    | intro _

/-- `taskBlocks` keeps the form. -/
theorem taskBlocks_formed {cq : List Instr} {cp : Prop} (s : State) (ws : List Word) (fm : Formed cq cp s) : Formed cq cp (taskBlocks s ws).2 := by
  unfold taskBlocks
  try dsimp only
  repeat' first
    | with_reducible assumption
    | with_reducible apply readMemWords_formed
    | simp only [formed_upd]
    | split
    | dsimp only
    | intro _

/-- `takeTask` keeps the form. -/
theorem takeTask_formed {cq : List Instr} {cp : Prop} (s : State) (ph : Nat) (c : Core) (addr ncbs : Nat) (ws : List Word) (fm : Formed cq cp s) :
    Formed cq cp (takeTask s ph c addr ncbs ws) := by
  unfold takeTask
  try dsimp only
  repeat' first
    | with_reducible assumption
    | with_reducible apply decRefuse_formed
    | simp only [formed_upd]
    | split
    | dsimp only
    | intro _

/-- `decSubmitAt` keeps the form. -/
theorem decSubmitAt_formed {cq : List Instr} {cp : Prop} (s : State) (ph addr : Nat) (fm : Formed cq cp s) : Formed cq cp (decSubmitAt s ph addr).st
    := by
  unfold decSubmitAt
  try dsimp only
  repeat' first
    | with_reducible assumption
    | with_reducible apply decRefuse_formed
    | with_reducible apply readMemWords_formed
    | with_reducible apply taskBlocks_formed
    | with_reducible apply takeTask_formed
    | simp only [formed_upd]
    | with_reducible apply Formed.iteWr
    | simp only [WrRes.st_ok, WrRes.st_bus]
    | split
    | dsimp only
    | intro _

/-- `setCmp` keeps the form. -/
theorem setCmp_formed {cq : List Instr} {cp : Prop} (s : State) (k : Nat) (c : Cmp) (fm : Formed cq cp s) : Formed cq cp (setCmp s k c) := by
  unfold setCmp
  try dsimp only
  repeat' first
    | with_reducible assumption
    | simp only [formed_upd]
    | split
    | dsimp only
    | intro _

/-- `cmpIrq` keeps the form. -/
theorem cmpIrq_formed {cq : List Instr} {cp : Prop} (s : State) (k : Nat) (c : Cmp) (fm : Formed cq cp s) : Formed cq cp (cmpIrq s k c) := by
  unfold cmpIrq
  try dsimp only
  repeat' first
    | with_reducible assumption
    | with_reducible apply raiseLantern_formed
    | simp only [formed_upd]
    | with_reducible apply Formed.mapChms
    | split
    | dsimp only
    | intro _

/-- `cmpFire` keeps the form. -/
theorem cmpFire_formed {cq : List Instr} {cp : Prop} (s : State) (k : Nat) (late : Bool) (fm : Formed cq cp s) : Formed cq cp (cmpFire s k late) := by
  unfold cmpFire
  try dsimp only
  repeat' first
    | with_reducible assumption
    | with_reducible apply setCmp_formed
    | with_reducible apply cmpIrq_formed
    | with_reducible apply cairnSignalFor_formed
    | with_reducible apply cairnAdd_formed
    | simp only [formed_upd]
    | split
    | dsimp only
    | intro _

/-- `vicBind` keeps the form. -/
theorem vicBind_formed {cq : List Instr} {cp : Prop} (s : State) (who : Agent) (ph k : Nat) (x : Word) (fm : Formed cq cp s) : Formed cq cp (vicBind
    s who ph k x).st := by
  unfold vicBind
  try dsimp only
  repeat' first
    | with_reducible assumption
    | with_reducible apply updChm_formed
    | simp only [formed_upd]
    | with_reducible apply Formed.iteWr
    | simp only [WrRes.st_ok, WrRes.st_bus]
    | split
    | dsimp only
    | intro _

/-- `readClears` keeps the form. -/
theorem readClears_formed {cq : List Instr} {cp : Prop} (s : State) (a : Nat) (fm : Formed cq cp s) : Formed cq cp (readClears s a) := by
  unfold readClears
  try dsimp only
  repeat' first
    | with_reducible assumption
    | with_reducible apply updChm_formed
    | simp only [formed_upd]
    | split
    | dsimp only
    | intro _

/-- `csrRead` keeps the form. -/
theorem csrRead_formed {cq : List Instr} {cp : Prop} (s : State) (ph a : Nat) {w : Word} {t : State} (h : Formed cq cp s) (hr : csrRead s ph a = some
    (w, t)) : Formed cq cp t := by
  unfold csrRead at hr
  repeat' split at hr
  all_goals
    first
      | (cases hr; exact h)
      | (cases hr; exact readClears_formed _ _ h)
      | (cases hr; exact formed_upd.2 h)
      | cases hr

/-- `cmpCtlWrite` keeps the form. -/
theorem cmpCtlWrite_formed {cq : List Instr} {cp : Prop} (s : State) (who : Agent) (k : Nat) (v : Word) (fm : Formed cq cp s) : Formed cq cp
    (cmpCtlWrite s who k v).st := by
  unfold cmpCtlWrite
  try dsimp only
  repeat' first
    | with_reducible assumption
    | with_reducible apply setCmp_formed
    | with_reducible apply cmpFire_formed
    | simp only [formed_upd]
    | with_reducible apply Formed.iteWr
    | simp only [WrRes.st_ok, WrRes.st_bus]
    | split
    | dsimp only
    | intro _

/-- `chmCtlWrite` keeps the form. -/
theorem chmCtlWrite_formed {cq : List Instr} {cp : Prop} (s : State) (who : Agent) (ph : Nat) (v : Word) (fm : Formed cq cp s) : Formed cq cp
    (chmCtlWrite s who ph v).st := by
  unfold chmCtlWrite
  try dsimp only
  repeat' first
    | with_reducible assumption
    | with_reducible apply updCore_formed
    | simp only [formed_upd]
    | with_reducible apply Formed.iteWr
    | simp only [WrRes.st_ok, WrRes.st_bus]
    | split
    | dsimp only
    | intro _

/-- `chmWrite32` keeps the form. -/
theorem chmWrite32_formed {cq : List Instr} {cp : Prop} (s : State) (who : Agent) (ph off : Nat) (v : Word) (fm : Formed cq cp s) : Formed cq cp
    (chmWrite32 s who ph off v).st := by
  unfold chmWrite32
  try dsimp only
  repeat' first
    | with_reducible assumption
    | with_reducible apply chmCtlWrite_formed
    | with_reducible apply updAr_formed
    | with_reducible apply vicBind_formed
    | with_reducible apply updChm_formed
    | with_reducible apply updFl_formed
    | simp only [formed_upd]
    | with_reducible apply Formed.iteWr
    | simp only [WrRes.st_ok, WrRes.st_addr]
    | split
    | dsimp only
    | intro _

/-- `chmWrite64` keeps the form. -/
theorem chmWrite64_formed {cq : List Instr} {cp : Prop} (s : State) (who : Agent) (ph off : Nat) (v : DWord) (fm : Formed cq cp s) : Formed cq cp
    (chmWrite64 s who ph off v).st := by
  unfold chmWrite64
  try dsimp only
  repeat' first
    | with_reducible assumption
    | with_reducible apply updCore_formed
    | with_reducible apply updChm_formed
    | with_reducible apply updSiph_formed
    | simp only [formed_upd]
    | with_reducible apply Formed.iteWr
    | simp only [WrRes.st_ok, WrRes.st_bus]
    | split
    | dsimp only
    | intro _

/-- `cairnAddBy` keeps the form. -/
theorem cairnAddBy_formed {cq : List Instr} {cp : Prop} (s : State) (who : Agent) (n : Nat) (v : Word) (fm : Formed cq cp s) : Formed cq cp
    (cairnAddBy s who n v) := by
  unfold cairnAddBy
  try dsimp only
  repeat' first
    | with_reducible assumption
    | with_reducible apply cairnSignalFor_formed
    | with_reducible apply cairnAdd_formed
    | simp only [formed_upd]
    | split
    | dsimp only
    | intro _

/-- `cairnWrite32` keeps the form. -/
theorem cairnWrite32_formed {cq : List Instr} {cp : Prop} (s : State) (who : Agent) (n o : Nat) (v : Word) (fm : Formed cq cp s) : Formed cq cp
    (cairnWrite32 s who n o v).st := by
  unfold cairnWrite32
  try dsimp only
  repeat' first
    | with_reducible assumption
    | with_reducible apply Formed.iteWr
    | simp only [WrRes.st_ok, WrRes.st_addr]
    | with_reducible apply cairnAddBy_formed
    | with_reducible apply setCairn_formed
    | simp only [formed_upd]
    | split
    | dsimp only
    | intro _

/-- `pushWrite32` keeps the form. -/
theorem pushWrite32_formed {cq : List Instr} {cp : Prop} (s : State) (who : Agent) (r o : Nat) (v : Word) (fm : Formed cq cp s) : Formed cq cp
    (pushWrite32 s who r o v).st := by
  unfold pushWrite32
  try dsimp only
  repeat' first
    | with_reducible assumption
    | with_reducible apply updChm_formed
    | with_reducible apply ringPush_formed
    | simp only [formed_upd]
    | with_reducible apply Formed.iteWr
    | simp only [WrRes.st_ok, WrRes.st_bus, WrRes.st_addr]
    | split
    | dsimp only
    | intro _

/-- `cmpWrite32` keeps the form. -/
theorem cmpWrite32_formed {cq : List Instr} {cp : Prop} (s : State) (who : Agent) (k o : Nat) (v : Word) (fm : Formed cq cp s) : Formed cq cp
    (cmpWrite32 s who k o v).st := by
  unfold cmpWrite32
  try dsimp only
  repeat' first
    | with_reducible assumption
    | with_reducible apply cmpCtlWrite_formed
    | with_reducible apply setCmp_formed
    | simp only [formed_upd]
    | with_reducible apply Formed.iteWr
    | simp only [WrRes.st_ok, WrRes.st_addr]
    | split
    | dsimp only
    | intro _

/-- `decWrite32` keeps the form. -/
theorem decWrite32_formed {cq : List Instr} {cp : Prop} (s : State) (ctx o : Nat) (v : Word) (fm : Formed cq cp s) : Formed cq cp (decWrite32 s ctx o
    v).st := by
  unfold decWrite32
  try dsimp only
  repeat' first
    | with_reducible assumption
    | simp only [formed_upd]
    | with_reducible apply Formed.iteWr
    | simp only [WrRes.st_ok, WrRes.st_addr]
    | split
    | dsimp only
    | intro _

/-- `regWrite32` keeps the form. -/
theorem regWrite32_formed {cq : List Instr} {cp : Prop} (s : State) (who : Agent) (a : Nat) (v : Word) (fm : Formed cq cp s) : Formed cq cp
    (regWrite32 s who a v).st := by
  unfold regWrite32
  try dsimp only
  repeat' first
    | with_reducible assumption
    | with_reducible apply Formed.iteWr
    | simp only [WrRes.st_addr]
    | with_reducible apply cairnWrite32_formed
    | with_reducible apply pushWrite32_formed
    | with_reducible apply cmpWrite32_formed
    | with_reducible apply decWrite32_formed
    | with_reducible apply mbxWrite_formed
    | with_reducible apply chmWrite32_formed
    | simp only [formed_upd]
    | split
    | dsimp only
    | intro _

/-- `regWrite64` keeps the form. -/
theorem regWrite64_formed {cq : List Instr} {cp : Prop} (s : State) (who : Agent) (a : Nat) (v : DWord) (fm : Formed cq cp s) : Formed cq cp
    (regWrite64 s who a v).st := by
  unfold regWrite64
  try dsimp only
  repeat' first
    | with_reducible assumption
    | with_reducible apply setCmp_formed
    | with_reducible apply decSubmitAt_formed
    | with_reducible apply chmWrite64_formed
    | simp only [formed_upd]
    | with_reducible apply Formed.iteWr
    | simp only [WrRes.st_ok]
    | split
    | dsimp only
    | intro _

/-- `csrWrite` keeps the form. -/
theorem csrWrite_formed {cq : List Instr} {cp : Prop} (s : State) (who : Agent) (a : Nat) (v : Word) (fm : Formed cq cp s) : Formed cq cp (csrWrite s
    who a v).st := by
  unfold csrWrite
  try dsimp only
  repeat' first
    | with_reducible assumption
    | with_reducible apply regWrite64_formed
    | with_reducible apply regWrite32_formed
    | simp only [formed_upd]
    | with_reducible apply Formed.iteWr
    | simp only [WrRes.st_ok]
    | split
    | dsimp only
    | intro _

/-- `updJob` keeps the form. -/
theorem updJob_formed {cq : List Instr} {cp : Prop} (s : State) (tag : Word) (f : Job → Job) (fm : Formed cq cp s) : Formed cq cp (updJob s tag f) :=
    by
  unfold updJob
  try dsimp only
  repeat' first
    | with_reducible assumption
    | simp only [formed_upd]
    | split
    | dsimp only
    | intro _

/-- `writeDigests` keeps the form. -/
theorem writeDigests_formed {cq : List Instr} {cp : Prop} (s : State) (j : Job) (fm : Formed cq cp s) : Formed cq cp (writeDigests s j) := by
  unfold writeDigests
  try dsimp only
  repeat' first
    | with_reducible assumption
    | with_reducible apply ringNerzon_formed
    | simp only [formed_upd]
    | with_reducible apply Formed.foldl
    | with_reducible apply Formed.foldlFst
    | split
    | dsimp only
    | intro _

/-- `finishJob` keeps the form. -/
theorem finishJob_formed {cq : List Instr} {cp : Prop} (s : State) (j : Job) (fm : Formed cq cp s) : Formed cq cp (finishJob s j) := by
  unfold finishJob
  try dsimp only
  repeat' first
    | with_reducible assumption
    | with_reducible apply draw_formed
    | with_reducible apply ringNerzon_formed
    | with_reducible apply writeDigests_formed
    | simp only [formed_upd]
    | split
    | dsimp only
    | intro _

/-- `partEnded` keeps the form. -/
theorem partEnded_formed {cq : List Instr} {cp : Prop} (s : State) (ph : Nat) (exc : Option Word) (fm : Formed cq cp s) : Formed cq cp (partEnded s
    ph exc) := by
  unfold partEnded
  try dsimp only
  repeat' first
    | with_reducible assumption
    | with_reducible apply updJob_formed
    | with_reducible apply finishJob_formed
    | simp only [formed_upd]
    | split
    | dsimp only
    | intro _

/-- `jobEnd` keeps the form. -/
theorem jobEnd_formed {cq : List Instr} {cp : Prop} (s : State) (ph : Nat) (fm : Formed cq cp s) : Formed cq cp (jobEnd s ph) := by
  unfold jobEnd
  try dsimp only
  repeat' first
    | with_reducible assumption
    | with_reducible apply updChm_formed
    | with_reducible apply partEnded_formed
    | simp only [formed_upd]
    | split
    | dsimp only
    | intro _

/-- `watchWrite` keeps the form. -/
theorem watchWrite_formed {cq : List Instr} {cp : Prop} (s : State) (a len : Nat) (fm : Formed cq cp s) : Formed cq cp (watchWrite s a len) := by
  unfold watchWrite
  try dsimp only
  repeat' first
    | with_reducible assumption
    | with_reducible apply Formed.foldl
    | with_reducible apply Formed.foldlFst
    | with_reducible apply strayContext_formed
    | simp only [formed_upd]
    | split
    | dsimp only
    | intro _

end Sys2Proof.Machine
end

