-- ==== Sys2Proof/Laws/KeptTile.lean ====
section
/-! SUPPORT. The meanings of the chamber operations and bundles keep the form. -/

namespace Sys2Proof.Machine

/-- `actEff` keeps the form. -/
theorem actEff_formed {cq : List Instr} {cp : Prop} (ph rrb : Nat) (s : State) (e : Eff) (h : Formed cq cp s) : Formed cq cp (actEff ph rrb s e) := by
  cases e <;> simp only [actEff]
  case csrLoad code sx a =>
    split
    · next v t hr => exact updCore_formed _ _ _ (csrRead_formed _ _ _ h hr)
    · exact h
  case csrStore a v =>
    split
    · exact csrWrite_formed _ _ _ _ h
    · exact h
  all_goals first
    | exact updCore_formed _ _ _ h
    | exact watchWrite_formed _ _ _ (writeMem_formed _ _ _ _ h)
    | exact updAr_formed _ _ _ h
    | exact updFl_formed _ _ _ h
    | exact updSiph_formed _ _ _ h
    | exact cairnSignalFor_formed _ _ _ _ h
    | exact updCore_formed _ _ _ (cairnTry_formed _ _ _ h)
    | exact updChm_formed _ _ _ h
    | exact jobEnd_formed _ _ h

/-- `actEffs` keeps the form. -/
theorem actEffs_formed {cq : List Instr} {cp : Prop} (ph rrb : Nat) (s : State) (l : List Eff) (h : Formed cq cp s) : Formed cq cp (actEffs ph rrb s
    l) := by
  induction l generalizing s with
  | nil => exact h
  | cons e l ih => exact ih _ (actEff_formed _ _ _ _ h)

/-- `advancePc` keeps the form. -/
theorem advancePc_formed {cq : List Instr} {cp : Prop} (s : State) (ph : Nat) (fm : Formed cq cp s) : Formed cq cp (advancePc s ph) := by
  unfold advancePc
  try dsimp only
  repeat' first
    | with_reducible assumption
    | with_reducible apply updCore_formed
    | with_reducible apply draw_formed
    | simp only [formed_upd]
    | split
    | dsimp only
    | intro _

/-- `commit` keeps the form. -/
theorem commit_formed {cq : List Instr} {cp : Prop} (s : State) (ph : Nat) (l : List Eff) (fm : Formed cq cp s) : Formed cq cp (commit s ph l) := by
  unfold commit
  try dsimp only
  repeat' first
    | with_reducible assumption
    | with_reducible apply actEffs_formed
    | with_reducible apply advancePc_formed
    | simp only [formed_upd]
    | split
    | dsimp only
    | intro _

/-- `loadMem` keeps the form. -/
theorem loadMem_formed {cq : List Instr} {cp : Prop} (s : State) (ph pos f a : Nat) (fm : Formed cq cp s) : Formed cq cp (loadMem s ph pos f a).2 :=
    by
  unfold loadMem
  try dsimp only
  repeat' first
    | with_reducible assumption
    | with_reducible apply readBytes_formed
    | simp only [formed_upd]
    | split
    | dsimp only
    | intro _

/-- `evLd` keeps the form. -/
theorem evLd_formed {cq : List Instr} {cp : Prop} (s : State) (ph pos f : Nat) (fin : Bool) (fm : Formed cq cp s) : Formed cq cp (evLd s ph pos f
    fin).2 := by
  unfold evLd
  try dsimp only
  repeat' first
    | with_reducible assumption
    | with_reducible apply loadMem_formed
    | simp only [formed_upd]
    | split
    | dsimp only
    | intro _

/-- `evSt` keeps the form. -/
theorem evSt_formed {cq : List Instr} {cp : Prop} (s : State) (ph : Fin 144) (pos f : Nat) (fin : Bool) (h : Formed cq cp s) : Formed cq cp (evSt s
    ph pos f fin).2 := by
  unfold evSt
  dsimp only
  split
  · exact h
  · have hw := csrWrite_formed s (.chamber ph) (unalias ph.val (accAddr (coreOf s ph.val) f)) (w32 (readReg (coreOf s ph.val) (fld f 20
        14)).toNat) h
    repeat' split
    any_goals exact h
    · next t ht _ => rw [ht] at hw; exact hw

/-- `evAldw` keeps the form. -/
theorem evAldw_formed {cq : List Instr} {cp : Prop} (s : State) (ph pos f : Nat) (fm : Formed cq cp s) : Formed cq cp (evAldw s ph pos f).2 := by
  unfold evAldw
  try dsimp only
  repeat' first
    | with_reducible assumption
    | with_reducible apply readMemWords_formed
    | simp only [formed_upd]
    | split
    | dsimp only
    | intro _

/-- The meaning `execAldwComplete` keeps the form and answers a next state. -/
theorem execAldwComplete_formed {cq : List Instr} {cp : Prop} (ch : Fin 144) (s : State) (fm : Formed cq cp s) : OutFormed cq cp (execAldwComplete ch
    s) := by
  unfold execAldwComplete
  try dsimp only
  repeat' first
    | with_reducible assumption
    | with_reducible apply OutFormed.ofNext
    | with_reducible apply readBytes_formed
    | with_reducible apply updAr_formed
    | simp only [formed_upd]
    | split
    | dsimp only
    | intro _

/-- The meaning `execAswpTakesEffect` keeps the form and answers a next state. -/
theorem execAswpTakesEffect_formed {cq : List Instr} {cp : Prop} (ch : Fin 144) (s : State) (fm : Formed cq cp s) : OutFormed cq cp
    (execAswpTakesEffect ch s) := by
  unfold execAswpTakesEffect
  try dsimp only
  repeat' first
    | with_reducible assumption
    | with_reducible apply OutFormed.ofNext
    | with_reducible apply updAr_formed
    | simp only [formed_upd]
    | split
    | dsimp only
    | intro _

/-- The meaning `execAcfgTakesEffect` keeps the form and answers a next state. -/
theorem execAcfgTakesEffect_formed {cq : List Instr} {cp : Prop} (ch : Fin 144) (s : State) (fm : Formed cq cp s) : OutFormed cq cp
    (execAcfgTakesEffect ch s) := by
  unfold execAcfgTakesEffect
  try dsimp only
  repeat' first
    | with_reducible assumption
    | with_reducible apply OutFormed.ofNext
    | with_reducible apply updAr_formed
    | simp only [formed_upd]
    | split
    | dsimp only
    | intro _

/-- `readRow` keeps the form. -/
theorem readRow_formed {cq : List Instr} {cp : Prop} (s : State) (t : WeightTile) (o : StreamOp) (a m : Nat) (fm : Formed cq cp s) : Formed cq cp
    (readRow s t o a m).2 := by
  unfold readRow
  try dsimp only
  repeat' first
    | with_reducible assumption
    | with_reducible apply readBytes_formed
    | split
    | dsimp only
    | intro _

/-- `readRows` keeps the form. -/
theorem readRows_formed {cq : List Instr} {cp : Prop} (s : State) (t : WeightTile) (o : StreamOp) (a m n : Nat) (h : Formed cq cp s) : Formed cq cp
    (readRows s t o a m n).2 := by
  induction n generalizing s m with
  | zero => exact h
  | succ n ih => exact ih _ _ (readRow_formed _ _ _ _ _ h)

/-- The meaning `enterBlock` keeps the form and answers a next state. -/
theorem enterBlock_formed {cq : List Instr} {cp : Prop} (s : State) (ph a : Nat) (r : StreamRun) (fm : Formed cq cp s) : OutFormed cq cp (enterBlock
    s ph a r) := by
  unfold enterBlock
  try dsimp only
  repeat' first
    | with_reducible assumption
    | with_reducible apply OutFormed.ofNext
    | with_reducible apply readRows_formed
    | with_reducible apply updAr_formed
    | with_reducible apply strayContext_formed
    | simp only [formed_upd]
    | split
    | dsimp only
    | intro _

/-- The meaning `execStreamBlockStart` keeps the form and answers a next state. -/
theorem execStreamBlockStart_formed {cq : List Instr} {cp : Prop} (ch : Fin 144) (a : Fin 4) (s : State) (fm : Formed cq cp s) : OutFormed cq cp
    (execStreamBlockStart ch a s) := by
  unfold execStreamBlockStart
  try dsimp only
  repeat' first
    | with_reducible assumption
    | with_reducible apply OutFormed.ofNext
    | with_reducible apply enterBlock_formed
    | with_reducible apply updAr_formed
    | simp only [formed_upd]
    | split
    | dsimp only
    | intro _

/-- The meaning `execSumpAddition` keeps the form and answers a next state. -/
theorem execSumpAddition_formed {cq : List Instr} {cp : Prop} (ch : Fin 144) (a : Fin 4) (s : State) (fm : Formed cq cp s) : OutFormed cq cp
    (execSumpAddition ch a s) := by
  unfold execSumpAddition
  try dsimp only
  repeat' first
    | with_reducible assumption
    | with_reducible apply OutFormed.ofNext
    | with_reducible apply updAr_formed
    | with_reducible apply strayContext_formed
    | with_reducible apply draw_formed
    | simp only [formed_upd]
    | split
    | dsimp only
    | intro _

/-- The meaning `execDriplineTake` keeps the form and answers a next state. -/
theorem execDriplineTake_formed {cq : List Instr} {cp : Prop} (ch : Fin 144) (s : State) (fm : Formed cq cp s) : OutFormed cq cp (execDriplineTake ch
    s) := by
  unfold execDriplineTake
  try dsimp only
  repeat' first
    | with_reducible assumption
    | with_reducible apply OutFormed.ofNext
    | with_reducible apply updChm_formed
    | simp only [formed_upd]
    | split
    | dsimp only
    | intro _

/-- The meaning `execStreamHold` keeps the form and answers a next state. -/
theorem execStreamHold_formed {cq : List Instr} {cp : Prop} (ch : Fin 144) (s : State) (fm : Formed cq cp s) : OutFormed cq cp (execStreamHold ch s)
    := by
  unfold execStreamHold
  try dsimp only
  repeat' first
    | with_reducible assumption
    | with_reducible apply OutFormed.ofNext
    | with_reducible apply updAr_formed
    | simp only [formed_upd]
    | split
    | dsimp only
    | intro _

/-- `idle` keeps the form. -/
theorem idle_formed {cq : List Instr} {cp : Prop} (s : State) (fm : Formed cq cp s) : Formed cq cp (idle s) := by
  unfold idle
  have h0 := strikeMemory_formed s fm
  dsimp only
  split
  · exact moveLogEntry_formed _ (Formed.mapChms h0)
  · exact Formed.mapChms h0

/-- `evalOp` keeps the form. -/
theorem evalOp_formed {cq : List Instr} {cp : Prop} (op : BOp) (s : State) (ph : Fin 144) (p f : Nat) (fin : Bool) (fm : Formed cq cp s) : Formed cq
    cp (evalOp op s ph p f fin).2 := by
  unfold evalOp
  try dsimp only
  repeat' first
    | with_reducible assumption
    | with_reducible apply evLd_formed
    | with_reducible apply evSt_formed
    | with_reducible apply evAldw_formed
    | with_reducible apply jobEnd_formed
    | simp only [formed_upd]
    | split
    | dsimp only
    | intro _

/-- `evalPos` keeps the form. -/
theorem evalPos_formed {cq : List Instr} {cp : Prop} (s : State) (ph : Fin 144) (b : Bundle) (p : Pos) (fin : Bool) (fm : Formed cq cp s) : Formed cq
    cp (evalPos s ph b p fin).2 := by
  unfold evalPos
  try dsimp only
  repeat' first
    | with_reducible assumption
    | with_reducible apply evalOp_formed
    | simp only [formed_upd]
    | split
    | dsimp only
    | intro _

/-- `evalBundle` keeps the form. -/
theorem evalBundle_formed {cq : List Instr} {cp : Prop} (s : State) (ph : Fin 144) (b : Bundle) (l : List Pos) (h : Formed cq cp s) :
    Formed cq cp (evalBundle s ph b l).2 := by
  induction l generalizing s with
  | nil => exact h
  | cons p l ih => exact ih _ (evalPos_formed _ _ _ _ _ h)

/-- `bundleAsks` keeps the form. -/
theorem bundleAsks_formed {cq : List Instr} {cp : Prop} (s : State) (ph : Fin 144) (b : Bundle) (fm : Formed cq cp s) : Formed cq cp (bundleAsks s ph
    b).2 := by
  unfold bundleAsks
  try dsimp only
  repeat' first
    | with_reducible assumption
    | with_reducible apply evalBundle_formed
    | simp only [formed_upd]
    | split
    | dsimp only
    | intro _

/-- `withdrawIssue` keeps the form. -/
theorem withdrawIssue_formed {cq : List Instr} {cp : Prop} (s : State) (ph : Fin 144) (fm : Formed cq cp s) : Formed cq cp (withdrawIssue s ph) := by
  unfold withdrawIssue
  try dsimp only
  repeat' first
    | with_reducible assumption
    | with_reducible apply evalPos_formed
    | with_reducible apply cairnWithdraw_formed
    | simp only [formed_upd]
    | split
    | dsimp only
    | intro _

/-- `raiseExc` keeps the form. -/
theorem raiseExc_formed {cq : List Instr} {cp : Prop} (s : State) (ph : Fin 144) (e : Nat × Nat × Nat) (fm : Formed cq cp s) : Formed cq cp (raiseExc
    s ph e) := by
  unfold raiseExc
  try dsimp only
  repeat' first
    | with_reducible assumption
    | with_reducible apply takeExc_formed
    | with_reducible apply withdrawIssue_formed
    | with_reducible apply updChm_formed
    | simp only [formed_upd]
    | split
    | dsimp only
    | intro _

/-- `raiseAt` keeps the form. -/
theorem raiseAt_formed {cq : List Instr} {cp : Prop} (s : State) (ph : Fin 144) (e : Nat × Nat × Nat) (fm : Formed cq cp s) : Formed cq cp (raiseAt s
    ph e) := by
  unfold raiseAt
  try dsimp only
  repeat' first
    | with_reducible assumption
    | with_reducible apply updFl_formed
    | with_reducible apply raiseExc_formed
    | simp only [formed_upd]
    | split
    | dsimp only
    | intro _

/-- `holdIssue` keeps the form. -/
theorem holdIssue_formed {cq : List Instr} {cp : Prop} (s : State) (ph : Nat) (b : Bundle) (done : List Pos) (acc : Option OutAcc) (es : List Eff)
    (code : Nat) (fm : Formed cq cp s) : Formed cq cp (holdIssue s ph b done acc es code) := by
  unfold holdIssue
  try dsimp only
  repeat' first
    | with_reducible assumption
    | with_reducible apply updCore_formed
    | simp only [formed_upd]
    | split
    | dsimp only
    | intro _

/-- `cairnPhase` keeps the form. -/
theorem cairnPhase_formed {cq : List Instr} {cp : Prop} (s : State) (ph : Nat) (o : Option Nat) (h : Formed cq cp s) : Formed cq cp (cairnPhase s ph
    o).2 := by
  cases o with
  | none => exact h
  | some n =>
    simp only [cairnPhase]
    repeat' split
    all_goals first
      | exact h
      | exact cairnWait_formed _ _ _ _ h

/-- The meaning `attempt` keeps the form and answers a next state. -/
theorem attempt_formed {cq : List Instr} {cp : Prop} (s : State) (ph : Fin 144) (b : Bundle) (done : List Pos) (fm : Formed cq cp s) : OutFormed cq
    cp (attempt s ph b done) := by
  unfold attempt
  try dsimp only
  repeat' first
    | with_reducible assumption
    | with_reducible apply OutFormed.ofNext
    | with_reducible apply bundleAsks_formed
    | with_reducible apply raiseAt_formed
    | with_reducible apply holdIssue_formed
    | with_reducible apply cairnPhase_formed
    | with_reducible apply commit_formed
    | simp only [formed_upd]
    | split
    | dsimp only
    | intro _

/-- The meaning `issueOp` keeps the form and answers a next state. -/
theorem issueOp_formed {cq : List Instr} {cp : Prop} (op : BOp) (ph : Fin 144) (p : Pos) (b : Bundle) (s : State) (fm : Formed cq cp s) : OutFormed
    cq cp (issueOp op ph p b s) := by
  unfold issueOp
  try dsimp only
  repeat' first
    | with_reducible assumption
    | with_reducible apply OutFormed.ofNext
    | with_reducible apply attempt_formed
    | with_reducible apply holdIssue_formed
    | simp only [formed_upd]
    | split
    | dsimp only
    | intro _

/-- The meaning `execNop` keeps the form and answers a next state. -/
theorem execNop_formed {cq : List Instr} {cp : Prop} (ch : Fin 144) (pos : Pos) (b : Bundle) (s : State) (fm : Formed cq cp s) : OutFormed cq cp
    (execNop ch pos b s) := by
  unfold execNop
  try dsimp only
  repeat' first
    | with_reducible assumption
    | with_reducible apply OutFormed.ofNext
    | with_reducible apply issueOp_formed
    | simp only [formed_upd]
    | split
    | dsimp only
    | intro _

/-- The meaning `execAdd` keeps the form and answers a next state. -/
theorem execAdd_formed {cq : List Instr} {cp : Prop} (ch : Fin 144) (pos : Pos) (b : Bundle) (s : State) (fm : Formed cq cp s) : OutFormed cq cp
    (execAdd ch pos b s) := by
  unfold execAdd
  try dsimp only
  repeat' first
    | with_reducible assumption
    | with_reducible apply OutFormed.ofNext
    | with_reducible apply issueOp_formed
    | simp only [formed_upd]
    | split
    | dsimp only
    | intro _

/-- The meaning `execSub` keeps the form and answers a next state. -/
theorem execSub_formed {cq : List Instr} {cp : Prop} (ch : Fin 144) (pos : Pos) (b : Bundle) (s : State) (fm : Formed cq cp s) : OutFormed cq cp
    (execSub ch pos b s) := by
  unfold execSub
  try dsimp only
  repeat' first
    | with_reducible assumption
    | with_reducible apply OutFormed.ofNext
    | with_reducible apply issueOp_formed
    | simp only [formed_upd]
    | split
    | dsimp only
    | intro _

/-- The meaning `execAnd` keeps the form and answers a next state. -/
theorem execAnd_formed {cq : List Instr} {cp : Prop} (ch : Fin 144) (pos : Pos) (b : Bundle) (s : State) (fm : Formed cq cp s) : OutFormed cq cp
    (execAnd ch pos b s) := by
  unfold execAnd
  try dsimp only
  repeat' first
    | with_reducible assumption
    | with_reducible apply OutFormed.ofNext
    | with_reducible apply issueOp_formed
    | simp only [formed_upd]
    | split
    | dsimp only
    | intro _

/-- The meaning `execOr` keeps the form and answers a next state. -/
theorem execOr_formed {cq : List Instr} {cp : Prop} (ch : Fin 144) (pos : Pos) (b : Bundle) (s : State) (fm : Formed cq cp s) : OutFormed cq cp
    (execOr ch pos b s) := by
  unfold execOr
  try dsimp only
  repeat' first
    | with_reducible assumption
    | with_reducible apply OutFormed.ofNext
    | with_reducible apply issueOp_formed
    | simp only [formed_upd]
    | split
    | dsimp only
    | intro _

/-- The meaning `execXor` keeps the form and answers a next state. -/
theorem execXor_formed {cq : List Instr} {cp : Prop} (ch : Fin 144) (pos : Pos) (b : Bundle) (s : State) (fm : Formed cq cp s) : OutFormed cq cp
    (execXor ch pos b s) := by
  unfold execXor
  try dsimp only
  repeat' first
    | with_reducible assumption
    | with_reducible apply OutFormed.ofNext
    | with_reducible apply issueOp_formed
    | simp only [formed_upd]
    | split
    | dsimp only
    | intro _

/-- The meaning `execShl` keeps the form and answers a next state. -/
theorem execShl_formed {cq : List Instr} {cp : Prop} (ch : Fin 144) (pos : Pos) (b : Bundle) (s : State) (fm : Formed cq cp s) : OutFormed cq cp
    (execShl ch pos b s) := by
  unfold execShl
  try dsimp only
  repeat' first
    | with_reducible assumption
    | with_reducible apply OutFormed.ofNext
    | with_reducible apply issueOp_formed
    | simp only [formed_upd]
    | split
    | dsimp only
    | intro _

/-- The meaning `execShr` keeps the form and answers a next state. -/
theorem execShr_formed {cq : List Instr} {cp : Prop} (ch : Fin 144) (pos : Pos) (b : Bundle) (s : State) (fm : Formed cq cp s) : OutFormed cq cp
    (execShr ch pos b s) := by
  unfold execShr
  try dsimp only
  repeat' first
    | with_reducible assumption
    | with_reducible apply OutFormed.ofNext
    | with_reducible apply issueOp_formed
    | simp only [formed_upd]
    | split
    | dsimp only
    | intro _

/-- The meaning `execSra` keeps the form and answers a next state. -/
theorem execSra_formed {cq : List Instr} {cp : Prop} (ch : Fin 144) (pos : Pos) (b : Bundle) (s : State) (fm : Formed cq cp s) : OutFormed cq cp
    (execSra ch pos b s) := by
  unfold execSra
  try dsimp only
  repeat' first
    | with_reducible assumption
    | with_reducible apply OutFormed.ofNext
    | with_reducible apply issueOp_formed
    | simp only [formed_upd]
    | split
    | dsimp only
    | intro _

/-- The meaning `execConstL` keeps the form and answers a next state. -/
theorem execConstL_formed {cq : List Instr} {cp : Prop} (ch : Fin 144) (pos : Pos) (b : Bundle) (s : State) (fm : Formed cq cp s) : OutFormed cq cp
    (execConstL ch pos b s) := by
  unfold execConstL
  try dsimp only
  repeat' first
    | with_reducible assumption
    | with_reducible apply OutFormed.ofNext
    | with_reducible apply issueOp_formed
    | simp only [formed_upd]
    | split
    | dsimp only
    | intro _

/-- The meaning `execConstH` keeps the form and answers a next state. -/
theorem execConstH_formed {cq : List Instr} {cp : Prop} (ch : Fin 144) (pos : Pos) (b : Bundle) (s : State) (fm : Formed cq cp s) : OutFormed cq cp
    (execConstH ch pos b s) := by
  unfold execConstH
  try dsimp only
  repeat' first
    | with_reducible assumption
    | with_reducible apply OutFormed.ofNext
    | with_reducible apply issueOp_formed
    | simp only [formed_upd]
    | split
    | dsimp only
    | intro _

/-- The meaning `execCmpEq` keeps the form and answers a next state. -/
theorem execCmpEq_formed {cq : List Instr} {cp : Prop} (ch : Fin 144) (pos : Pos) (b : Bundle) (s : State) (fm : Formed cq cp s) : OutFormed cq cp
    (execCmpEq ch pos b s) := by
  unfold execCmpEq
  try dsimp only
  repeat' first
    | with_reducible assumption
    | with_reducible apply OutFormed.ofNext
    | with_reducible apply issueOp_formed
    | simp only [formed_upd]
    | split
    | dsimp only
    | intro _

/-- The meaning `execCmpNe` keeps the form and answers a next state. -/
theorem execCmpNe_formed {cq : List Instr} {cp : Prop} (ch : Fin 144) (pos : Pos) (b : Bundle) (s : State) (fm : Formed cq cp s) : OutFormed cq cp
    (execCmpNe ch pos b s) := by
  unfold execCmpNe
  try dsimp only
  repeat' first
    | with_reducible assumption
    | with_reducible apply OutFormed.ofNext
    | with_reducible apply issueOp_formed
    | simp only [formed_upd]
    | split
    | dsimp only
    | intro _

/-- The meaning `execCmpLt` keeps the form and answers a next state. -/
theorem execCmpLt_formed {cq : List Instr} {cp : Prop} (ch : Fin 144) (pos : Pos) (b : Bundle) (s : State) (fm : Formed cq cp s) : OutFormed cq cp
    (execCmpLt ch pos b s) := by
  unfold execCmpLt
  try dsimp only
  repeat' first
    | with_reducible assumption
    | with_reducible apply OutFormed.ofNext
    | with_reducible apply issueOp_formed
    | simp only [formed_upd]
    | split
    | dsimp only
    | intro _

/-- The meaning `execCmpLe` keeps the form and answers a next state. -/
theorem execCmpLe_formed {cq : List Instr} {cp : Prop} (ch : Fin 144) (pos : Pos) (b : Bundle) (s : State) (fm : Formed cq cp s) : OutFormed cq cp
    (execCmpLe ch pos b s) := by
  unfold execCmpLe
  try dsimp only
  repeat' first
    | with_reducible assumption
    | with_reducible apply OutFormed.ofNext
    | with_reducible apply issueOp_formed
    | simp only [formed_upd]
    | split
    | dsimp only
    | intro _

/-- The meaning `execCmpGt` keeps the form and answers a next state. -/
theorem execCmpGt_formed {cq : List Instr} {cp : Prop} (ch : Fin 144) (pos : Pos) (b : Bundle) (s : State) (fm : Formed cq cp s) : OutFormed cq cp
    (execCmpGt ch pos b s) := by
  unfold execCmpGt
  try dsimp only
  repeat' first
    | with_reducible assumption
    | with_reducible apply OutFormed.ofNext
    | with_reducible apply issueOp_formed
    | simp only [formed_upd]
    | split
    | dsimp only
    | intro _

/-- The meaning `execCmpGe` keeps the form and answers a next state. -/
theorem execCmpGe_formed {cq : List Instr} {cp : Prop} (ch : Fin 144) (pos : Pos) (b : Bundle) (s : State) (fm : Formed cq cp s) : OutFormed cq cp
    (execCmpGe ch pos b s) := by
  unfold execCmpGe
  try dsimp only
  repeat' first
    | with_reducible assumption
    | with_reducible apply OutFormed.ofNext
    | with_reducible apply issueOp_formed
    | simp only [formed_upd]
    | split
    | dsimp only
    | intro _

/-- The meaning `execCmpLtu` keeps the form and answers a next state. -/
theorem execCmpLtu_formed {cq : List Instr} {cp : Prop} (ch : Fin 144) (pos : Pos) (b : Bundle) (s : State) (fm : Formed cq cp s) : OutFormed cq cp
    (execCmpLtu ch pos b s) := by
  unfold execCmpLtu
  try dsimp only
  repeat' first
    | with_reducible assumption
    | with_reducible apply OutFormed.ofNext
    | with_reducible apply issueOp_formed
    | simp only [formed_upd]
    | split
    | dsimp only
    | intro _

/-- The meaning `execCmpGeu` keeps the form and answers a next state. -/
theorem execCmpGeu_formed {cq : List Instr} {cp : Prop} (ch : Fin 144) (pos : Pos) (b : Bundle) (s : State) (fm : Formed cq cp s) : OutFormed cq cp
    (execCmpGeu ch pos b s) := by
  unfold execCmpGeu
  try dsimp only
  repeat' first
    | with_reducible assumption
    | with_reducible apply OutFormed.ofNext
    | with_reducible apply issueOp_formed
    | simp only [formed_upd]
    | split
    | dsimp only
    | intro _

/-- The meaning `execMul` keeps the form and answers a next state. -/
theorem execMul_formed {cq : List Instr} {cp : Prop} (ch : Fin 144) (pos : Pos) (b : Bundle) (s : State) (fm : Formed cq cp s) : OutFormed cq cp
    (execMul ch pos b s) := by
  unfold execMul
  try dsimp only
  repeat' first
    | with_reducible assumption
    | with_reducible apply OutFormed.ofNext
    | with_reducible apply issueOp_formed
    | simp only [formed_upd]
    | split
    | dsimp only
    | intro _

/-- The meaning `execGets` keeps the form and answers a next state. -/
theorem execGets_formed {cq : List Instr} {cp : Prop} (ch : Fin 144) (b : Bundle) (s : State) (fm : Formed cq cp s) : OutFormed cq cp (execGets ch b
    s) := by
  unfold execGets
  try dsimp only
  repeat' first
    | with_reducible assumption
    | with_reducible apply OutFormed.ofNext
    | with_reducible apply issueOp_formed
    | simp only [formed_upd]
    | split
    | dsimp only
    | intro _

/-- The meaning `execSets` keeps the form and answers a next state. -/
theorem execSets_formed {cq : List Instr} {cp : Prop} (ch : Fin 144) (b : Bundle) (s : State) (fm : Formed cq cp s) : OutFormed cq cp (execSets ch b
    s) := by
  unfold execSets
  try dsimp only
  repeat' first
    | with_reducible assumption
    | with_reducible apply OutFormed.ofNext
    | with_reducible apply issueOp_formed
    | simp only [formed_upd]
    | split
    | dsimp only
    | intro _

/-- The meaning `execLd` keeps the form and answers a next state. -/
theorem execLd_formed {cq : List Instr} {cp : Prop} (ch : Fin 144) (b : Bundle) (s : State) (fm : Formed cq cp s) : OutFormed cq cp (execLd ch b s)
    := by
  unfold execLd
  try dsimp only
  repeat' first
    | with_reducible assumption
    | with_reducible apply OutFormed.ofNext
    | with_reducible apply issueOp_formed
    | simp only [formed_upd]
    | split
    | dsimp only
    | intro _

/-- The meaning `execSt` keeps the form and answers a next state. -/
theorem execSt_formed {cq : List Instr} {cp : Prop} (ch : Fin 144) (b : Bundle) (s : State) (fm : Formed cq cp s) : OutFormed cq cp (execSt ch b s)
    := by
  unfold execSt
  try dsimp only
  repeat' first
    | with_reducible assumption
    | with_reducible apply OutFormed.ofNext
    | with_reducible apply issueOp_formed
    | simp only [formed_upd]
    | split
    | dsimp only
    | intro _

/-- The meaning `execSiphRun` keeps the form and answers a next state. -/
theorem execSiphRun_formed {cq : List Instr} {cp : Prop} (ch : Fin 144) (b : Bundle) (s : State) (fm : Formed cq cp s) : OutFormed cq cp (execSiphRun
    ch b s) := by
  unfold execSiphRun
  try dsimp only
  repeat' first
    | with_reducible assumption
    | with_reducible apply OutFormed.ofNext
    | with_reducible apply issueOp_formed
    | simp only [formed_upd]
    | split
    | dsimp only
    | intro _

/-- The meaning `execSiphPoll` keeps the form and answers a next state. -/
theorem execSiphPoll_formed {cq : List Instr} {cp : Prop} (ch : Fin 144) (b : Bundle) (s : State) (fm : Formed cq cp s) : OutFormed cq cp
    (execSiphPoll ch b s) := by
  unfold execSiphPoll
  try dsimp only
  repeat' first
    | with_reducible assumption
    | with_reducible apply OutFormed.ofNext
    | with_reducible apply issueOp_formed
    | simp only [formed_upd]
    | split
    | dsimp only
    | intro _

/-- The meaning `execFence` keeps the form and answers a next state. -/
theorem execFence_formed {cq : List Instr} {cp : Prop} (ch : Fin 144) (b : Bundle) (s : State) (fm : Formed cq cp s) : OutFormed cq cp (execFence ch
    b s) := by
  unfold execFence
  try dsimp only
  repeat' first
    | with_reducible assumption
    | with_reducible apply OutFormed.ofNext
    | with_reducible apply issueOp_formed
    | simp only [formed_upd]
    | split
    | dsimp only
    | intro _

/-- The meaning `execAldw` keeps the form and answers a next state. -/
theorem execAldw_formed {cq : List Instr} {cp : Prop} (ch : Fin 144) (b : Bundle) (s : State) (fm : Formed cq cp s) : OutFormed cq cp (execAldw ch b
    s) := by
  unfold execAldw
  try dsimp only
  repeat' first
    | with_reducible assumption
    | with_reducible apply OutFormed.ofNext
    | with_reducible apply issueOp_formed
    | simp only [formed_upd]
    | split
    | dsimp only
    | intro _

/-- The meaning `execAswp` keeps the form and answers a next state. -/
theorem execAswp_formed {cq : List Instr} {cp : Prop} (ch : Fin 144) (b : Bundle) (s : State) (fm : Formed cq cp s) : OutFormed cq cp (execAswp ch b
    s) := by
  unfold execAswp
  try dsimp only
  repeat' first
    | with_reducible assumption
    | with_reducible apply OutFormed.ofNext
    | with_reducible apply issueOp_formed
    | simp only [formed_upd]
    | split
    | dsimp only
    | intro _

/-- The meaning `execAcfg` keeps the form and answers a next state. -/
theorem execAcfg_formed {cq : List Instr} {cp : Prop} (ch : Fin 144) (b : Bundle) (s : State) (fm : Formed cq cp s) : OutFormed cq cp (execAcfg ch b
    s) := by
  unfold execAcfg
  try dsimp only
  repeat' first
    | with_reducible assumption
    | with_reducible apply OutFormed.ofNext
    | with_reducible apply issueOp_formed
    | simp only [formed_upd]
    | split
    | dsimp only
    | intro _

/-- The meaning `execStream` keeps the form and answers a next state. -/
theorem execStream_formed {cq : List Instr} {cp : Prop} (ch : Fin 144) (b : Bundle) (s : State) (fm : Formed cq cp s) : OutFormed cq cp (execStream
    ch b s) := by
  unfold execStream
  try dsimp only
  repeat' first
    | with_reducible assumption
    | with_reducible apply OutFormed.ofNext
    | with_reducible apply issueOp_formed
    | simp only [formed_upd]
    | split
    | dsimp only
    | intro _

/-- The meaning `execFlRun` keeps the form and answers a next state. -/
theorem execFlRun_formed {cq : List Instr} {cp : Prop} (ch : Fin 144) (b : Bundle) (s : State) (fm : Formed cq cp s) : OutFormed cq cp (execFlRun ch
    b s) := by
  unfold execFlRun
  try dsimp only
  repeat' first
    | with_reducible assumption
    | with_reducible apply OutFormed.ofNext
    | with_reducible apply issueOp_formed
    | simp only [formed_upd]
    | split
    | dsimp only
    | intro _

/-- The meaning `execFlLdt` keeps the form and answers a next state. -/
theorem execFlLdt_formed {cq : List Instr} {cp : Prop} (ch : Fin 144) (b : Bundle) (s : State) (fm : Formed cq cp s) : OutFormed cq cp (execFlLdt ch
    b s) := by
  unfold execFlLdt
  try dsimp only
  repeat' first
    | with_reducible assumption
    | with_reducible apply OutFormed.ofNext
    | with_reducible apply issueOp_formed
    | simp only [formed_upd]
    | split
    | dsimp only
    | intro _

/-- The meaning `execFlStt` keeps the form and answers a next state. -/
theorem execFlStt_formed {cq : List Instr} {cp : Prop} (ch : Fin 144) (b : Bundle) (s : State) (fm : Formed cq cp s) : OutFormed cq cp (execFlStt ch
    b s) := by
  unfold execFlStt
  try dsimp only
  repeat' first
    | with_reducible assumption
    | with_reducible apply OutFormed.ofNext
    | with_reducible apply issueOp_formed
    | simp only [formed_upd]
    | split
    | dsimp only
    | intro _

/-- The meaning `execFlLdb` keeps the form and answers a next state. -/
theorem execFlLdb_formed {cq : List Instr} {cp : Prop} (ch : Fin 144) (b : Bundle) (s : State) (fm : Formed cq cp s) : OutFormed cq cp (execFlLdb ch
    b s) := by
  unfold execFlLdb
  try dsimp only
  repeat' first
    | with_reducible assumption
    | with_reducible apply OutFormed.ofNext
    | with_reducible apply issueOp_formed
    | simp only [formed_upd]
    | split
    | dsimp only
    | intro _

/-- The meaning `execFlStb` keeps the form and answers a next state. -/
theorem execFlStb_formed {cq : List Instr} {cp : Prop} (ch : Fin 144) (b : Bundle) (s : State) (fm : Formed cq cp s) : OutFormed cq cp (execFlStb ch
    b s) := by
  unfold execFlStb
  try dsimp only
  repeat' first
    | with_reducible assumption
    | with_reducible apply OutFormed.ofNext
    | with_reducible apply issueOp_formed
    | simp only [formed_upd]
    | split
    | dsimp only
    | intro _

/-- The meaning `execFlLdm` keeps the form and answers a next state. -/
theorem execFlLdm_formed {cq : List Instr} {cp : Prop} (ch : Fin 144) (b : Bundle) (s : State) (fm : Formed cq cp s) : OutFormed cq cp (execFlLdm ch
    b s) := by
  unfold execFlLdm
  try dsimp only
  repeat' first
    | with_reducible assumption
    | with_reducible apply OutFormed.ofNext
    | with_reducible apply issueOp_formed
    | simp only [formed_upd]
    | split
    | dsimp only
    | intro _

/-- The meaning `execFlStm` keeps the form and answers a next state. -/
theorem execFlStm_formed {cq : List Instr} {cp : Prop} (ch : Fin 144) (b : Bundle) (s : State) (fm : Formed cq cp s) : OutFormed cq cp (execFlStm ch
    b s) := by
  unfold execFlStm
  try dsimp only
  repeat' first
    | with_reducible assumption
    | with_reducible apply OutFormed.ofNext
    | with_reducible apply issueOp_formed
    | simp only [formed_upd]
    | split
    | dsimp only
    | intro _

/-- The meaning `execBr` keeps the form and answers a next state. -/
theorem execBr_formed {cq : List Instr} {cp : Prop} (ch : Fin 144) (b : Bundle) (s : State) (fm : Formed cq cp s) : OutFormed cq cp (execBr ch b s)
    := by
  unfold execBr
  try dsimp only
  repeat' first
    | with_reducible assumption
    | with_reducible apply OutFormed.ofNext
    | with_reducible apply issueOp_formed
    | simp only [formed_upd]
    | split
    | dsimp only
    | intro _

/-- The meaning `execCall` keeps the form and answers a next state. -/
theorem execCall_formed {cq : List Instr} {cp : Prop} (ch : Fin 144) (b : Bundle) (s : State) (fm : Formed cq cp s) : OutFormed cq cp (execCall ch b
    s) := by
  unfold execCall
  try dsimp only
  repeat' first
    | with_reducible assumption
    | with_reducible apply OutFormed.ofNext
    | with_reducible apply issueOp_formed
    | simp only [formed_upd]
    | split
    | dsimp only
    | intro _

/-- The meaning `execJmp` keeps the form and answers a next state. -/
theorem execJmp_formed {cq : List Instr} {cp : Prop} (ch : Fin 144) (b : Bundle) (s : State) (fm : Formed cq cp s) : OutFormed cq cp (execJmp ch b s)
    := by
  unfold execJmp
  try dsimp only
  repeat' first
    | with_reducible assumption
    | with_reducible apply OutFormed.ofNext
    | with_reducible apply issueOp_formed
    | simp only [formed_upd]
    | split
    | dsimp only
    | intro _

/-- The meaning `execCallr` keeps the form and answers a next state. -/
theorem execCallr_formed {cq : List Instr} {cp : Prop} (ch : Fin 144) (b : Bundle) (s : State) (fm : Formed cq cp s) : OutFormed cq cp (execCallr ch
    b s) := by
  unfold execCallr
  try dsimp only
  repeat' first
    | with_reducible assumption
    | with_reducible apply OutFormed.ofNext
    | with_reducible apply issueOp_formed
    | simp only [formed_upd]
    | split
    | dsimp only
    | intro _

/-- The meaning `execLoopBr` keeps the form and answers a next state. -/
theorem execLoopBr_formed {cq : List Instr} {cp : Prop} (ch : Fin 144) (b : Bundle) (s : State) (fm : Formed cq cp s) : OutFormed cq cp (execLoopBr
    ch b s) := by
  unfold execLoopBr
  try dsimp only
  repeat' first
    | with_reducible assumption
    | with_reducible apply OutFormed.ofNext
    | with_reducible apply issueOp_formed
    | simp only [formed_upd]
    | split
    | dsimp only
    | intro _

/-- The meaning `execLoopBrN` keeps the form and answers a next state. -/
theorem execLoopBrN_formed {cq : List Instr} {cp : Prop} (ch : Fin 144) (b : Bundle) (s : State) (fm : Formed cq cp s) : OutFormed cq cp (execLoopBrN
    ch b s) := by
  unfold execLoopBrN
  try dsimp only
  repeat' first
    | with_reducible assumption
    | with_reducible apply OutFormed.ofNext
    | with_reducible apply issueOp_formed
    | simp only [formed_upd]
    | split
    | dsimp only
    | intro _

/-- The meaning `execCnSig` keeps the form and answers a next state. -/
theorem execCnSig_formed {cq : List Instr} {cp : Prop} (ch : Fin 144) (b : Bundle) (s : State) (fm : Formed cq cp s) : OutFormed cq cp (execCnSig ch
    b s) := by
  unfold execCnSig
  try dsimp only
  repeat' first
    | with_reducible assumption
    | with_reducible apply OutFormed.ofNext
    | with_reducible apply issueOp_formed
    | simp only [formed_upd]
    | split
    | dsimp only
    | intro _

/-- The meaning `execCnAdd` keeps the form and answers a next state. -/
theorem execCnAdd_formed {cq : List Instr} {cp : Prop} (ch : Fin 144) (b : Bundle) (s : State) (fm : Formed cq cp s) : OutFormed cq cp (execCnAdd ch
    b s) := by
  unfold execCnAdd
  try dsimp only
  repeat' first
    | with_reducible assumption
    | with_reducible apply OutFormed.ofNext
    | with_reducible apply issueOp_formed
    | simp only [formed_upd]
    | split
    | dsimp only
    | intro _

/-- The meaning `execCnWait` keeps the form and answers a next state. -/
theorem execCnWait_formed {cq : List Instr} {cp : Prop} (ch : Fin 144) (b : Bundle) (s : State) (fm : Formed cq cp s) : OutFormed cq cp (execCnWait
    ch b s) := by
  unfold execCnWait
  try dsimp only
  repeat' first
    | with_reducible assumption
    | with_reducible apply OutFormed.ofNext
    | with_reducible apply issueOp_formed
    | simp only [formed_upd]
    | split
    | dsimp only
    | intro _

/-- The meaning `execCnTry` keeps the form and answers a next state. -/
theorem execCnTry_formed {cq : List Instr} {cp : Prop} (ch : Fin 144) (b : Bundle) (s : State) (fm : Formed cq cp s) : OutFormed cq cp (execCnTry ch
    b s) := by
  unfold execCnTry
  try dsimp only
  repeat' first
    | with_reducible assumption
    | with_reducible apply OutFormed.ofNext
    | with_reducible apply issueOp_formed
    | simp only [formed_upd]
    | split
    | dsimp only
    | intro _

/-- The meaning `execCnSigr` keeps the form and answers a next state. -/
theorem execCnSigr_formed {cq : List Instr} {cp : Prop} (ch : Fin 144) (b : Bundle) (s : State) (fm : Formed cq cp s) : OutFormed cq cp (execCnSigr
    ch b s) := by
  unfold execCnSigr
  try dsimp only
  repeat' first
    | with_reducible assumption
    | with_reducible apply OutFormed.ofNext
    | with_reducible apply issueOp_formed
    | simp only [formed_upd]
    | split
    | dsimp only
    | intro _

/-- The meaning `execCnAddr` keeps the form and answers a next state. -/
theorem execCnAddr_formed {cq : List Instr} {cp : Prop} (ch : Fin 144) (b : Bundle) (s : State) (fm : Formed cq cp s) : OutFormed cq cp (execCnAddr
    ch b s) := by
  unfold execCnAddr
  try dsimp only
  repeat' first
    | with_reducible assumption
    | with_reducible apply OutFormed.ofNext
    | with_reducible apply issueOp_formed
    | simp only [formed_upd]
    | split
    | dsimp only
    | intro _

/-- The meaning `execCnWaitr` keeps the form and answers a next state. -/
theorem execCnWaitr_formed {cq : List Instr} {cp : Prop} (ch : Fin 144) (b : Bundle) (s : State) (fm : Formed cq cp s) : OutFormed cq cp (execCnWaitr
    ch b s) := by
  unfold execCnWaitr
  try dsimp only
  repeat' first
    | with_reducible assumption
    | with_reducible apply OutFormed.ofNext
    | with_reducible apply issueOp_formed
    | simp only [formed_upd]
    | split
    | dsimp only
    | intro _

/-- The meaning `execCnTryr` keeps the form and answers a next state. -/
theorem execCnTryr_formed {cq : List Instr} {cp : Prop} (ch : Fin 144) (b : Bundle) (s : State) (fm : Formed cq cp s) : OutFormed cq cp (execCnTryr
    ch b s) := by
  unfold execCnTryr
  try dsimp only
  repeat' first
    | with_reducible assumption
    | with_reducible apply OutFormed.ofNext
    | with_reducible apply issueOp_formed
    | simp only [formed_upd]
    | split
    | dsimp only
    | intro _

/-- The meaning `execIret` keeps the form and answers a next state. -/
theorem execIret_formed {cq : List Instr} {cp : Prop} (ch : Fin 144) (b : Bundle) (s : State) (fm : Formed cq cp s) : OutFormed cq cp (execIret ch b
    s) := by
  unfold execIret
  try dsimp only
  repeat' first
    | with_reducible assumption
    | with_reducible apply OutFormed.ofNext
    | with_reducible apply issueOp_formed
    | simp only [formed_upd]
    | split
    | dsimp only
    | intro _

/-- The meaning `execExret` keeps the form and answers a next state. -/
theorem execExret_formed {cq : List Instr} {cp : Prop} (ch : Fin 144) (b : Bundle) (s : State) (fm : Formed cq cp s) : OutFormed cq cp (execExret ch
    b s) := by
  unfold execExret
  try dsimp only
  repeat' first
    | with_reducible assumption
    | with_reducible apply OutFormed.ofNext
    | with_reducible apply issueOp_formed
    | simp only [formed_upd]
    | split
    | dsimp only
    | intro _

/-- The meaning `execJobEnd` keeps the form and answers a next state. -/
theorem execJobEnd_formed {cq : List Instr} {cp : Prop} (ch : Fin 144) (b : Bundle) (s : State) (fm : Formed cq cp s) : OutFormed cq cp (execJobEnd
    ch b s) := by
  unfold execJobEnd
  try dsimp only
  repeat' first
    | with_reducible assumption
    | with_reducible apply OutFormed.ofNext
    | with_reducible apply issueOp_formed
    | with_reducible apply jobEnd_formed
    | simp only [formed_upd]
    | split
    | dsimp only
    | intro _

/-- The meaning `execBreak` keeps the form and answers a next state. -/
theorem execBreak_formed {cq : List Instr} {cp : Prop} (ch : Fin 144) (b : Bundle) (s : State) (fm : Formed cq cp s) : OutFormed cq cp (execBreak ch
    b s) := by
  unfold execBreak
  try dsimp only
  repeat' first
    | with_reducible assumption
    | with_reducible apply OutFormed.ofNext
    | with_reducible apply issueOp_formed
    | simp only [formed_upd]
    | split
    | dsimp only
    | intro _

/-- `finishAcc` keeps the form. -/
theorem finishAcc_formed {cq : List Instr} {cp : Prop} (s : State) (ch : Fin 144) (i : Issue) (fm : Formed cq cp s) : Formed cq cp (finishAcc s ch i)
    := by
  unfold finishAcc
  try dsimp only
  repeat' first
    | with_reducible assumption
    | with_reducible apply evalPos_formed
    | with_reducible apply raiseExc_formed
    | with_reducible apply commit_formed
    | simp only [formed_upd]
    | split
    | dsimp only
    | intro _

/-- The meaning `completeAcc` keeps the form and answers a next state. -/
theorem completeAcc_formed {cq : List Instr} {cp : Prop} (store : Bool) (ch : Fin 144) (s : State) (fm : Formed cq cp s) : OutFormed cq cp
    (completeAcc store ch s) := by
  unfold completeAcc
  try dsimp only
  repeat' first
    | with_reducible assumption
    | with_reducible apply OutFormed.ofNext
    | with_reducible apply finishAcc_formed
    | simp only [formed_upd]
    | split
    | dsimp only
    | intro _

/-- The meaning `execLoadCompletion` keeps the form and answers a next state. -/
theorem execLoadCompletion_formed {cq : List Instr} {cp : Prop} (ch : Fin 144) (s : State) (fm : Formed cq cp s) : OutFormed cq cp
    (execLoadCompletion ch s) := by
  unfold execLoadCompletion
  try dsimp only
  repeat' first
    | with_reducible assumption
    | with_reducible apply OutFormed.ofNext
    | with_reducible apply completeAcc_formed
    | simp only [formed_upd]
    | split
    | dsimp only
    | intro _

/-- The meaning `execStoreCompletion` keeps the form and answers a next state. -/
theorem execStoreCompletion_formed {cq : List Instr} {cp : Prop} (ch : Fin 144) (s : State) (fm : Formed cq cp s) : OutFormed cq cp
    (execStoreCompletion ch s) := by
  unfold execStoreCompletion
  try dsimp only
  repeat' first
    | with_reducible assumption
    | with_reducible apply OutFormed.ofNext
    | with_reducible apply completeAcc_formed
    | simp only [formed_upd]
    | split
    | dsimp only
    | intro _

/-- The meaning `execFlowstoneFault` keeps the form and answers a next state. -/
theorem execFlowstoneFault_formed {cq : List Instr} {cp : Prop} (ch : Fin 144) (s : State) (fm : Formed cq cp s) : OutFormed cq cp
    (execFlowstoneFault ch s) := by
  unfold execFlowstoneFault
  try dsimp only
  repeat' first
    | with_reducible assumption
    | with_reducible apply OutFormed.ofNext
    | with_reducible apply attempt_formed
    | with_reducible apply raiseAt_formed
    | simp only [formed_upd]
    | split
    | dsimp only
    | intro _

/-- `chmRefused` keeps the form. -/
theorem chmRefused_formed {cq : List Instr} {cp : Prop} (s : State) (ch : Fin 144) (cause a : Nat) (fm : Formed cq cp s) : Formed cq cp (chmRefused s
    ch cause a) := by
  unfold chmRefused
  try dsimp only
  repeat' first
    | with_reducible assumption
    | with_reducible apply raiseExc_formed
    | simp only [formed_upd]
    | split
    | dsimp only
    | intro _

/-- `chmWrote` keeps the form. -/
theorem chmWrote_formed {cq : List Instr} {cp : Prop} (ch : Fin 144) (a : Nat) (r : WrRes) (h : Formed cq cp r.st) : Formed cq cp (chmWrote ch a
    r) := by
  cases r with
  | ok t => exact h
  | bus t => exact chmRefused_formed _ _ _ _ h
  | addr t => exact chmRefused_formed _ _ _ _ h

/-- `lanternExc` keeps the form. -/
theorem lanternExc_formed {cq : List Instr} {cp : Prop} (s : State) (cause a : Nat) (fm : Formed cq cp s) : Formed cq cp (lanternExc s cause a) := by
  unfold lanternExc
  try dsimp only
  repeat' first
    | with_reducible assumption
    | simp only [formed_upd]
    | split
    | dsimp only
    | intro _

/-- `wroteBy` keeps the form. -/
theorem wroteBy_formed {cq : List Instr} {cp : Prop} (who : Agent) (a : Nat) (r : WrRes) (h : Formed cq cp r.st) : Formed cq cp (wroteBy who a r) := by
  unfold wroteBy
  split
  · exact chmWrote_formed _ _ _ h
  · split
    · exact h
    · exact lanternExc_formed _ _ _ h
    · exact lanternExc_formed _ _ _ h
  · exact h
  · exact h

end Sys2Proof.Machine
end

