-- ==== Sys2Proof/Laws/KeptUnits.lean ====
section
/-! SUPPORT. The meanings of the siphons, the control plane, links, interrupts, partitions and time keep the form. -/

namespace Sys2Proof.Machine

/-- `sendRemote` keeps the form. -/
theorem sendRemote_formed {cq : List Instr} {cp : Prop} (s : State) (r : Remote) (p : Packet) (fm : Formed cq cp s) : Formed cq cp (sendRemote s r p)
    := by
  unfold sendRemote
  try dsimp only
  repeat' first
    | with_reducible assumption
    | with_reducible apply sendPacket_formed
    | simp only [formed_upd]
    | split
    | dsimp only
    | intro _

/-- `sendWrites` keeps the form. -/
theorem sendWrites_formed {cq : List Instr} {cp : Prop} (s : State) (q d : Nat) (ctx : Option Nat) (g : Nat) (data : List Byte) (f : WFlags) (n :
    Nat) (h : Formed cq cp s) : Formed cq cp (sendWrites s q d ctx g data f n) := by
  induction n generalizing s g data with
  | zero => exact h
  | succ n ih => 
    simp only [sendWrites]
    split
    · exact h
    · exact ih _ _ _ (sendRemote_formed _ _ _ h)

/-- `sendRead` keeps the form. -/
theorem sendRead_formed {cq : List Instr} {cp : Prop} (s : State) (q d : Nat) (ctx : Option Nat) (g len dest : Nat) (tile : List (Nat × Nat)) (fm :
    Formed cq cp s) : Formed cq cp (sendRead s q d ctx g len dest tile) := by
  unfold sendRead
  try dsimp only
  repeat' first
    | with_reducible assumption
    | with_reducible apply sendRemote_formed
    | simp only [formed_upd]
    | split
    | dsimp only
    | intro _

/-- `readIndex` keeps the form. -/
theorem readIndex_formed {cq : List Instr} {cp : Prop} (s : State) (d : List Word) (n : Nat) (fm : Formed cq cp s) : Formed cq cp (readIndex s d
    n).2.2 := by
  unfold readIndex
  try dsimp only
  repeat' first
    | with_reducible assumption
    | with_reducible apply readBytes_formed
    | simp only [formed_upd]
    | split
    | dsimp only
    | intro _

/-- `planGather` keeps the form. -/
theorem planGather_formed {cq : List Instr} {cp : Prop} (k : Checker) (d : List Word) (s : State) (n m : Nat) (h : Formed cq cp s) : Formed cq cp
    (planGather k d s n m).st := by
  induction m generalizing s n with
  | zero => exact h
  | succ m ih => 
    simp only [planGather]
    have h1 := readIndex_formed s d n h
    repeat' split
    all_goals first
      | exact h
      | exact h1
      | exact ih _ _ h1

/-- `planBlock` keeps the form. -/
theorem planBlock_formed {cq : List Instr} {cp : Prop} (k : Checker) (d : List Word) (s : State) (n m : Nat) (h : Formed cq cp s) : Formed cq cp
    (planBlock k d s n m).st := by
  induction m generalizing s n with
  | zero => exact h
  | succ m ih => 
    simp only [planBlock]
    repeat' split
    all_goals first
      | exact h
      | exact ih _ _ h

/-- `readSource` keeps the form. -/
theorem readSource_formed {cq : List Instr} {cp : Prop} (s : State) (r : Row) (fm : Formed cq cp s) : Formed cq cp (readSource s r).2 := by
  unfold readSource
  try dsimp only
  repeat' first
    | with_reducible assumption
    | with_reducible apply readBytes_formed
    | simp only [formed_upd]
    | split
    | dsimp only
    | intro _

/-- `readSources` keeps the form. -/
theorem readSources_formed {cq : List Instr} {cp : Prop} (s : State) (l : List Row) (h : Formed cq cp s) : Formed cq cp (readSources s l).2 := by
  induction l generalizing s with
  | nil => exact h
  | cons p l ih => exact ih _ (readSource_formed _ _ h)

/-- `putPiece` keeps the form. -/
theorem putPiece_formed {cq : List Instr} {cp : Prop} (s : State) (q d : Nat) (ctx : Option Nat) (bad : List Nat) (all : List Piece) (p : Piece) (fm
    : Formed cq cp s) : Formed cq cp (putPiece s q d ctx bad all p) := by
  unfold putPiece
  try dsimp only
  repeat' first
    | with_reducible assumption
    | with_reducible apply sendRead_formed
    | with_reducible apply writeMem_formed
    | with_reducible apply sendWrites_formed
    | simp only [formed_upd]
    | split
    | dsimp only
    | intro _

/-- `putRows` keeps the form. -/
theorem putRows_formed {cq : List Instr} {cp : Prop} (s : State) (q d : Nat) (ctx : Option Nat) (gather : Bool) (n : Nat) (xs : List ReadRow) (fm :
    Formed cq cp s) : Formed cq cp (putRows s q d ctx gather n xs) := by
  unfold putRows
  try dsimp only
  repeat' first
    | with_reducible assumption
    | with_reducible apply Formed.foldl
    | with_reducible apply Formed.foldlFst
    | with_reducible apply putPiece_formed
    | simp only [formed_upd]
    | split
    | dsimp only
    | intro _

/-- `moveRows` keeps the form. -/
theorem moveRows_formed {cq : List Instr} {cp : Prop} (s : State) (q d : Nat) (ctx : Option Nat) (rows : List Row) (fm : Formed cq cp s) : Formed cq
    cp (moveRows s q d ctx rows) := by
  unfold moveRows
  try dsimp only
  repeat' first
    | with_reducible assumption
    | with_reducible apply readSources_formed
    | with_reducible apply putRows_formed
    | simp only [formed_upd]
    | split
    | dsimp only
    | intro _

/-- `putTiles` keeps the form. -/
theorem putTiles_formed {cq : List Instr} {cp : Prop} (q d : Nat) (ctx : Option Nat) (w : List (Nat × List ReadRow)) (s : State) (fm : Formed cq cp
    s) : Formed cq cp (putTiles q d ctx w s) := by
  unfold putTiles
  try dsimp only
  repeat' first
    | with_reducible assumption
    | with_reducible apply Formed.foldl
    | with_reducible apply Formed.foldlFst
    | with_reducible apply putRows_formed
    | simp only [formed_upd]
    | split
    | dsimp only
    | intro _

/-- `gatherTiles` keeps the form. -/
theorem gatherTiles_formed {cq : List Instr} {cp : Prop} (k : Checker) (d : List Word) (q id total n t : Nat) (w : List (Nat × List ReadRow))
    (s : State) (h : Formed cq cp s) : Formed cq cp (gatherTiles k d q id total n t w s).st := by
  induction n generalizing t w s with
  | zero => exact putTiles_formed _ _ _ _ _ h
  | succ n ih =>
    simp only [gatherTiles]
    have h1 := readSources_formed _ (planGather k d (putTiles q id k.ctx (w.take (w.length - Config.readAhead s.free t % 5)) s) (32 * t)
      (min 32 (total - 32 * t))).rows (planGather_formed k d _ (32 * t) (min 32 (total - 32 * t)) (putTiles_formed q id k.ctx (w.take (w.length -
        Config.readAhead s.free t % 5)) s h))
    split
    · exact putTiles_formed _ _ _ _ _ h1
    · exact ih _ _ _ h1

/-- `siphFault` keeps the form. -/
theorem siphFault_formed {cq : List Instr} {cp : Prop} (s : State) (q : Nat) (f : SFault) (fm : Formed cq cp s) : Formed cq cp (siphFault s q f) := by
  unfold siphFault
  try dsimp only
  repeat' first
    | with_reducible assumption
    | with_reducible apply updSiph_formed
    | with_reducible apply raiseChm_formed
    | simp only [formed_upd]
    | split
    | dsimp only
    | intro _

/-- The meaning `execChainStart` keeps the form and answers a next state. -/
theorem execChainStart_formed {cq : List Instr} {cp : Prop} (q : Fin 352) (s : State) (fm : Formed cq cp s) : OutFormed cq cp (execChainStart q s) :=
    by
  unfold execChainStart
  try dsimp only
  repeat' first
    | with_reducible assumption
    | with_reducible apply OutFormed.ofNext
    | with_reducible apply updSiph_formed
    | with_reducible apply draw_formed
    | with_reducible apply siphFault_formed
    | simp only [formed_upd]
    | split
    | dsimp only
    | intro _

/-- `readBurst` keeps the form. -/
theorem readBurst_formed {cq : List Instr} {cp : Prop} (s : State) (k : Checker) (a n : Nat) (h : Formed cq cp s) : Formed cq cp (readBurst s k a
    n).2 := by
  induction n generalizing s a with
  | zero => exact h
  | succ n ih => 
    simp only [readBurst]
    repeat' split
    all_goals first
      | exact h
      | exact readMemWords_formed _ _ _ h
      | exact ih _ _ (readMemWords_formed _ _ _ h)

/-- The meaning `execDescriptorFetch` keeps the form and answers a next state. -/
theorem execDescriptorFetch_formed {cq : List Instr} {cp : Prop} (q : Fin 352) (s : State) (fm : Formed cq cp s) : OutFormed cq cp
    (execDescriptorFetch q s) := by
  unfold execDescriptorFetch
  try dsimp only
  repeat' first
    | with_reducible assumption
    | with_reducible apply OutFormed.ofNext
    | with_reducible apply siphFault_formed
    | with_reducible apply updSiph_formed
    | with_reducible apply readBurst_formed
    | simp only [formed_upd]
    | split
    | dsimp only
    | intro _

/-- `pushDesc` keeps the form. -/
theorem pushDesc_formed {cq : List Instr} {cp : Prop} (s : State) (q id a : Nat) (d : List Word) (rows : List Row) (fm : Formed cq cp s) : Formed cq
    cp (pushDesc s q id a d rows) := by
  unfold pushDesc
  try dsimp only
  repeat' first
    | with_reducible assumption
    | with_reducible apply updSiph_formed
    | simp only [formed_upd]
    | split
    | dsimp only
    | intro _

/-- `strayMove` keeps the form. -/
theorem strayMove_formed {cq : List Instr} {cp : Prop} (ctx : Option Nat) (rows : List Row) (s : State) (h : Formed cq cp s) :
    Formed cq cp (strayMove ctx rows s) := by
  cases ctx with
  | none => exact strayBytes_formed _ _ (draw_formed _ h)
  | some k => exact strayJobs_formed k _ (strayFlags_formed k _ (strayBytes_formed _ _ (draw_formed _ h)))

/-- `afterMove` keeps the form. -/
theorem afterMove_formed {cq : List Instr} {cp : Prop} (q : Nat) (ctx : Option Nat) (rows : List Row) (s : State) (fm : Formed cq cp s) : Formed cq
    cp (afterMove q ctx rows s) := by
  unfold afterMove
  try dsimp only
  repeat' first
    | with_reducible assumption
    | with_reducible apply Formed.foldl
    | with_reducible apply Formed.foldlFst
    | with_reducible apply strayMove_formed
    | with_reducible apply watchWrite_formed
    | simp only [formed_upd]
    | split
    | dsimp only
    | intro _

/-- The meaning `runDesc` keeps the form and answers a next state. -/
theorem runDesc_formed {cq : List Instr} {cp : Prop} (s : State) (q : Nat) (c : Chain) (a : Nat) (d : List Word) (fm : Formed cq cp s) : OutFormed cq
    cp (runDesc s q c a d) := by
  unfold runDesc
  try dsimp only
  repeat' first
    | with_reducible assumption
    | with_reducible apply OutFormed.ofNext
    | with_reducible apply gatherTiles_formed
    | with_reducible apply draw_formed
    | with_reducible apply planBlock_formed
    | with_reducible apply moveRows_formed
    | with_reducible apply afterMove_formed
    | with_reducible apply siphFault_formed
    | with_reducible apply updSiph_formed
    | with_reducible apply pushDesc_formed
    | simp only [formed_upd]
    | split
    | dsimp only
    | intro _

/-- `runLink` keeps the form. -/
theorem runLink_formed {cq : List Instr} {cp : Prop} (s : State) (q : Nat) (c : Chain) (a : Nat) (d : List Word) (fm : Formed cq cp s) : Formed cq cp
    (runLink s q c a d) := by
  unfold runLink
  try dsimp only
  repeat' first
    | with_reducible assumption
    | with_reducible apply updSiph_formed
    | with_reducible apply siphFault_formed
    | with_reducible apply cairnSignalOpt_formed
    | simp only [formed_upd]
    | split
    | dsimp only
    | intro _

/-- The meaning `startDesc` keeps the form and answers a next state. -/
theorem startDesc_formed {cq : List Instr} {cp : Prop} (kind : Nat) (q : Fin 352) (s : State) (fm : Formed cq cp s) : OutFormed cq cp (startDesc kind
    q s) := by
  unfold startDesc
  try dsimp only
  repeat' first
    | with_reducible assumption
    | with_reducible apply OutFormed.ofNext
    | with_reducible apply updSiph_formed
    | with_reducible apply siphFault_formed
    | with_reducible apply runLink_formed
    | with_reducible apply runDesc_formed
    | simp only [formed_upd]
    | split
    | dsimp only
    | intro _

/-- The meaning `execGather` keeps the form and answers a next state. -/
theorem execGather_formed {cq : List Instr} {cp : Prop} (q : Fin 352) (s : State) (fm : Formed cq cp s) : OutFormed cq cp (execGather q s) := by
  unfold execGather
  try dsimp only
  repeat' first
    | with_reducible assumption
    | with_reducible apply OutFormed.ofNext
    | with_reducible apply startDesc_formed
    | simp only [formed_upd]
    | split
    | dsimp only
    | intro _

/-- The meaning `execBlock` keeps the form and answers a next state. -/
theorem execBlock_formed {cq : List Instr} {cp : Prop} (q : Fin 352) (s : State) (fm : Formed cq cp s) : OutFormed cq cp (execBlock q s) := by
  unfold execBlock
  try dsimp only
  repeat' first
    | with_reducible assumption
    | with_reducible apply OutFormed.ofNext
    | with_reducible apply startDesc_formed
    | simp only [formed_upd]
    | split
    | dsimp only
    | intro _

/-- The meaning `execFill` keeps the form and answers a next state. -/
theorem execFill_formed {cq : List Instr} {cp : Prop} (q : Fin 352) (s : State) (fm : Formed cq cp s) : OutFormed cq cp (execFill q s) := by
  unfold execFill
  try dsimp only
  repeat' first
    | with_reducible assumption
    | with_reducible apply OutFormed.ofNext
    | with_reducible apply startDesc_formed
    | simp only [formed_upd]
    | split
    | dsimp only
    | intro _

/-- The meaning `execLink` keeps the form and answers a next state. -/
theorem execLink_formed {cq : List Instr} {cp : Prop} (q : Fin 352) (s : State) (fm : Formed cq cp s) : OutFormed cq cp (execLink q s) := by
  unfold execLink
  try dsimp only
  repeat' first
    | with_reducible assumption
    | with_reducible apply OutFormed.ofNext
    | with_reducible apply startDesc_formed
    | simp only [formed_upd]
    | split
    | dsimp only
    | intro _

/-- The meaning `execDescriptorComplete` keeps the form and answers a next state. -/
theorem execDescriptorComplete_formed {cq : List Instr} {cp : Prop} (q : Fin 352) (s : State) (fm : Formed cq cp s) : OutFormed cq cp
    (execDescriptorComplete q s) := by
  unfold execDescriptorComplete
  try dsimp only
  repeat' first
    | with_reducible assumption
    | with_reducible apply OutFormed.ofNext
    | with_reducible apply updSiph_formed
    | with_reducible apply cairnSignalOpt_formed
    | simp only [formed_upd]
    | split
    | dsimp only
    | intro _

/-- `scrubOne` keeps the form. -/
theorem scrubOne_formed {cq : List Instr} {cp : Prop} (s : State) (e : Nat × EccErr) (fm : Formed cq cp s) : Formed cq cp (scrubOne s e) := by
  unfold scrubOne
  try dsimp only
  repeat' first
    | with_reducible assumption
    | with_reducible apply correctedAt_formed
    | with_reducible apply rewriteUnit_formed
    | with_reducible apply uncorrectableAt_formed
    | simp only [formed_upd]
    | split
    | dsimp only
    | intro _

/-- The meaning `execPatrolScrub` keeps the form and answers a next state. -/
theorem execPatrolScrub_formed {cq : List Instr} {cp : Prop} (s : State) (fm : Formed cq cp s) : OutFormed cq cp (execPatrolScrub s) := by
  unfold execPatrolScrub
  try dsimp only
  repeat' first
    | with_reducible assumption
    | with_reducible apply OutFormed.ofNext
    | with_reducible apply Formed.foldl
    | with_reducible apply Formed.foldlFst
    | with_reducible apply scrubOne_formed
    | simp only [formed_upd]
    | split
    | dsimp only
    | intro _

/-- `nciInternal` keeps the form. -/
theorem nciInternal_formed {cq : List Instr} {cp : Prop} (s : State) (k : Nat) (ws : List Word) (fm : Formed cq cp s) : Formed cq cp (nciInternal s k
    ws) := by
  unfold nciInternal
  try dsimp only
  repeat' first
    | with_reducible assumption
    | with_reducible apply logErr_formed
    | simp only [formed_upd]
    | split
    | dsimp only
    | intro _

/-- `withNciPick` keeps the form. -/
theorem withNciPick_formed {cq : List Instr} {cp : Prop} (op : Nat) (pick : List Word → Bool) (masks : List Nat) (pair : Fin 176) (s : State)
    (body : List Word → State → NciRes) (h : Formed cq cp s) (hb : ∀ ws, Formed cq cp (body ws s).st)
    (ha : ∀ ws c t, Formed cq cp t → Formed cq cp ((body ws s).after c t)) : OutFormed cq cp (withNciPick op pick masks pair s body) := by
  unfold withNciPick
  dsimp only
  repeat' split
  · exact h
  · exact formed_upd.2 h
  · exact formed_upd.2 h
  · exact h
  · exact nciInternal_formed _ _ _ h
  · exact ha _ _ _ (formed_upd.2 (hb _))
  · exact ha _ _ _ (formed_upd.2 h)

/-- `withNci` keeps the form. -/
theorem withNci_formed {cq : List Instr} {cp : Prop} (op : Nat) (masks : List Nat) (pair : Fin 176) (s : State)
    (body : List Word → State → NciRes) (h : Formed cq cp s) (hb : ∀ ws, Formed cq cp (body ws s).st)
    (ha : ∀ ws c t, Formed cq cp t → Formed cq cp ((body ws s).after c t)) : OutFormed cq cp (withNci op masks pair s body) :=
  withNciPick_formed _ _ _ _ _ _ h hb ha

/-- `afterReply` keeps the form. -/
theorem afterReply_formed {cq : List Instr} {cp : Prop} (s : State) (r : NciReply) (fm : Formed cq cp s) : Formed cq cp (afterReply s r) := by
  unfold afterReply
  try dsimp only
  repeat' first
    | with_reducible assumption
    | with_reducible apply updCtx_formed
    | simp only [formed_upd]
    | split
    | dsimp only
    | intro _

/-- `postReply` keeps the form. -/
theorem postReply_formed {cq : List Instr} {cp : Prop} (s : State) (r : NciReply) (fm : Formed cq cp s) : Formed cq cp (postReply s r) := by
  unfold postReply
  try dsimp only
  repeat' first
    | with_reducible assumption
    | with_reducible apply updMbox_formed
    | with_reducible apply mbxPost_formed
    | with_reducible apply mbxAck_formed
    | simp only [formed_upd]
    | with_reducible apply Formed.foldl
    | with_reducible apply Formed.foldlFst
    | split
    | dsimp only
    | intro _

/-- `postTunnel` keeps the form. -/
theorem postTunnel_formed {cq : List Instr} {cp : Prop} (s : State) (r : NciReply) (fm : Formed cq cp s) : Formed cq cp (postTunnel s r) := by
  unfold postTunnel
  try dsimp only
  repeat' first
    | with_reducible assumption
    | with_reducible apply toRoot_formed
    | with_reducible apply mbxAck_formed
    | simp only [formed_upd]
    | split
    | dsimp only
    | intro _

/-- The meaning `execReplyPost` keeps the form and answers a next state. -/
theorem execReplyPost_formed {cq : List Instr} {cp : Prop} (s : State) (fm : Formed cq cp s) : OutFormed cq cp (execReplyPost s) := by
  unfold execReplyPost
  try dsimp only
  repeat' first
    | with_reducible assumption
    | with_reducible apply OutFormed.ofNext
    | with_reducible apply afterReply_formed
    | with_reducible apply postTunnel_formed
    | with_reducible apply postReply_formed
    | simp only [formed_upd]
    | split
    | dsimp only
    | intro _

/-- `pairWrite` keeps the form. -/
theorem pairWrite_formed {cq : List Instr} {cp : Prop} (who : Agent) (k off : Nat) (s : State) (f : State → WrRes) (h : Formed cq cp s)
    (hf : Formed cq cp (f s).st) : Formed cq cp (pairWrite who k off s f) := by
  unfold pairWrite
  refine wroteBy_formed _ _ _ ?_
  split
  · exact hf
  · exact h

/-- The meaning `execMbxReqPost` keeps the form and answers a next state. -/
theorem execMbxReqPost_formed {cq : List Instr} {cp : Prop} (who : Agent) (pair : Fin 176) (s : State) (fm : Formed cq cp s) : OutFormed cq cp
    (execMbxReqPost who pair s) := by
  unfold execMbxReqPost
  try dsimp only
  repeat' first
    | with_reducible assumption
    | with_reducible apply OutFormed.ofNext
    | with_reducible apply Formed.iteWr
    | with_reducible apply byDoor_formed
    | with_reducible apply pairWrite_formed
    | with_reducible apply mbxWritePost_formed
    | simp only [formed_upd]
    | split
    | dsimp only
    | intro _

/-- The meaning `execMbxRspPost` keeps the form and answers a next state. -/
theorem execMbxRspPost_formed {cq : List Instr} {cp : Prop} (who : Agent) (pair : Fin 176) (s : State) (fm : Formed cq cp s) : OutFormed cq cp
    (execMbxRspPost who pair s) := by
  unfold execMbxRspPost
  try dsimp only
  repeat' first
    | with_reducible assumption
    | with_reducible apply OutFormed.ofNext
    | with_reducible apply Formed.iteWr
    | with_reducible apply byDoor_formed
    | with_reducible apply pairWrite_formed
    | with_reducible apply mbxWritePost_formed
    | simp only [formed_upd]
    | split
    | dsimp only
    | intro _

/-- The meaning `execMbxReqAck` keeps the form and answers a next state. -/
theorem execMbxReqAck_formed {cq : List Instr} {cp : Prop} (who : Agent) (pair : Fin 176) (code : BitVec 16) (s : State) (fm : Formed cq cp s) :
    OutFormed cq cp (execMbxReqAck who pair code s) := by
  unfold execMbxReqAck
  try dsimp only
  repeat' first
    | with_reducible assumption
    | with_reducible apply OutFormed.ofNext
    | with_reducible apply Formed.iteWr
    | with_reducible apply byDoor_formed
    | with_reducible apply pairWrite_formed
    | with_reducible apply mbxWriteAck_formed
    | simp only [formed_upd]
    | split
    | dsimp only
    | intro _

/-- The meaning `execMbxRspAck` keeps the form and answers a next state. -/
theorem execMbxRspAck_formed {cq : List Instr} {cp : Prop} (who : Agent) (pair : Fin 176) (code : BitVec 16) (s : State) (fm : Formed cq cp s) :
    OutFormed cq cp (execMbxRspAck who pair code s) := by
  unfold execMbxRspAck
  try dsimp only
  repeat' first
    | with_reducible assumption
    | with_reducible apply OutFormed.ofNext
    | with_reducible apply Formed.iteWr
    | with_reducible apply byDoor_formed
    | with_reducible apply pairWrite_formed
    | with_reducible apply mbxWriteAck_formed
    | simp only [formed_upd]
    | split
    | dsimp only
    | intro _

/-- `ringBell` keeps the form. -/
theorem ringBell_formed {cq : List Instr} {cp : Prop} (s : State) (n : Nat) (idx : Word) (arm : Bool) (fm : Formed cq cp s) : Formed cq cp (ringBell
    s n idx arm) := by
  unfold ringBell
  try dsimp only
  repeat' first
    | with_reducible assumption
    | with_reducible apply setRing_formed
    | simp only [formed_upd]
    | split
    | dsimp only
    | intro _

/-- `doorbellWrite` keeps the form. -/
theorem doorbellWrite_formed {cq : List Instr} {cp : Prop} (s : State) (ring : Nat) (idx : Word) (arm : Bool) (fm : Formed cq cp s) : Formed cq cp
    (doorbellWrite s ring idx arm) := by
  unfold doorbellWrite
  try dsimp only
  repeat' first
    | with_reducible assumption
    | with_reducible apply ringBell_formed
    | with_reducible apply leqPut_formed
    | simp only [formed_upd]
    | split
    | dsimp only
    | intro _

/-- The meaning `execDoorbell` keeps the form and answers a next state. -/
theorem execDoorbell_formed {cq : List Instr} {cp : Prop} (ring : Fin 16384) (idx : Word) (arm : Bool) (s : State) (fm : Formed cq cp s) : OutFormed
    cq cp (execDoorbell ring idx arm s) := by
  unfold execDoorbell
  try dsimp only
  repeat' first
    | with_reducible assumption
    | with_reducible apply OutFormed.ofNext
    | with_reducible apply hostDoor_formed
    | with_reducible apply doorbellWrite_formed
    | simp only [formed_upd]
    | split
    | dsimp only
    | intro _

/-- The meaning `execRingPushGo` keeps the form and answers a next state. -/
theorem execRingPushGo_formed {cq : List Instr} {cp : Prop} (ch : Fin 144) (ring : Fin 16384) (s : State) (fm : Formed cq cp s) : OutFormed cq cp
    (execRingPushGo ch ring s) := by
  unfold execRingPushGo
  try dsimp only
  repeat' first
    | with_reducible assumption
    | with_reducible apply OutFormed.ofNext
    | with_reducible apply Formed.iteWr
    | with_reducible apply chmWrote_formed
    | with_reducible apply ringPush_formed
    | simp only [formed_upd]
    | split
    | dsimp only
    | intro _

/-- The meaning `execWaitingRecordWritten` keeps the form and answers a next state. -/
theorem execWaitingRecordWritten_formed {cq : List Instr} {cp : Prop} (ring : Fin 16384) (s : State) (fm : Formed cq cp s) : OutFormed cq cp
    (execWaitingRecordWritten ring s) := by
  unfold execWaitingRecordWritten
  try dsimp only
  repeat' first
    | with_reducible assumption
    | with_reducible apply OutFormed.ofNext
    | with_reducible apply ringPlace_formed
    | with_reducible apply setRing_formed
    | simp only [formed_upd]
    | split
    | dsimp only
    | intro _

/-- `hostWords` keeps the form. -/
theorem hostWords_formed {cq : List Instr} {cp : Prop} (s : State) (a n : Nat) (h : Formed cq cp s) : Formed cq cp (hostWords s a n).2.2 := by
  induction n generalizing s a with
  | zero => exact h
  | succ n ih => exact ih _ _ (readWord_formed _ _ h)

/-- `bar2Access` keeps the form. -/
theorem bar2Access_formed {cq : List Instr} {cp : Prop} (off : Nat) (acc : Bar2Op) (s : State) (fm : Formed cq cp s) : Formed cq cp (bar2Access off
    acc s) := by
  unfold bar2Access
  try dsimp only
  repeat' first
    | with_reducible assumption
    | with_reducible apply hostWords_formed
    | with_reducible apply emit_formed
    | with_reducible apply watchWrite_formed
    | with_reducible apply writeMem_formed
    | with_reducible apply barDropped_formed
    | simp only [formed_upd]
    | split
    | dsimp only
    | intro _

/-- The meaning `execBar2Access` keeps the form and answers a next state. -/
theorem execBar2Access_formed {cq : List Instr} {cp : Prop} (off : Nat) (acc : Bar2Op) (s : State) (fm : Formed cq cp s) : OutFormed cq cp
    (execBar2Access off acc s) := by
  unfold execBar2Access
  try dsimp only
  repeat' first
    | with_reducible assumption
    | with_reducible apply OutFormed.ofNext
    | with_reducible apply hostDoor_formed
    | with_reducible apply bar2Access_formed
    | simp only [formed_upd]
    | split
    | dsimp only
    | intro _

/-- The meaning `execPcieConventionalReset` keeps the form and answers a next state. -/
theorem execPcieConventionalReset_formed {cq : List Instr} {cp : Prop} (s : State) (fm : Formed cq cp s) : OutFormed cq cp (execPcieConventionalReset
    s) := by
  unfold execPcieConventionalReset
  try dsimp only
  repeat' first
    | with_reducible assumption
    | with_reducible apply OutFormed.ofNext
    | with_reducible apply Formed.mapChms
    | with_reducible apply deviceEvent_formed
    | with_reducible apply advisory_formed
    | simp only [formed_upd]
    | split
    | dsimp only
    | intro _

/-- The meaning `execHeldMsiSend` keeps the form and answers a next state. -/
theorem execHeldMsiSend_formed {cq : List Instr} {cp : Prop} (vec : Fin 32) (s : State) (fm : Formed cq cp s) : OutFormed cq cp (execHeldMsiSend vec
    s) := by
  unfold execHeldMsiSend
  try dsimp only
  repeat' first
    | with_reducible assumption
    | with_reducible apply OutFormed.ofNext
    | with_reducible apply emit_formed
    | simp only [formed_upd]
    | split
    | dsimp only
    | intro _

/-- The meaning `execSessionOpen` keeps the form and answers a next state. -/
theorem execSessionOpen_formed {cq : List Instr} {cp : Prop} (pair : Fin 176) (s : State) (fm : Formed cq cp s) : OutFormed cq cp (execSessionOpen
    pair s) := by
  unfold execSessionOpen
  try dsimp only
  repeat' first
    | with_reducible assumption
    | with_reducible apply OutFormed.ofNext
    | with_reducible apply withNci_formed
    | with_reducible apply updPair_formed
    | split
    | dsimp only
    | intro _

/-- The meaning `execSessionClose` keeps the form and answers a next state. -/
theorem execSessionClose_formed {cq : List Instr} {cp : Prop} (pair : Fin 176) (s : State) (fm : Formed cq cp s) : OutFormed cq cp (execSessionClose
    pair s) := by
  unfold execSessionClose
  try dsimp only
  repeat' first
    | with_reducible assumption
    | with_reducible apply OutFormed.ofNext
    | with_reducible apply withNci_formed
    | with_reducible apply updPair_formed
    | split
    | dsimp only
    | intro _

/-- The meaning `execNciInfo` keeps the form and answers a next state. -/
theorem execNciInfo_formed {cq : List Instr} {cp : Prop} (pair : Fin 176) (s : State) (fm : Formed cq cp s) : OutFormed cq cp (execNciInfo pair s) :=
    by
  unfold execNciInfo
  try dsimp only
  repeat' first
    | with_reducible assumption
    | with_reducible apply OutFormed.ofNext
    | with_reducible apply withNci_formed
    | split
    | dsimp only
    | intro _

/-- The meaning `execRingSet` keeps the form and answers a next state. -/
theorem execRingSet_formed {cq : List Instr} {cp : Prop} (pair : Fin 176) (s : State) (fm : Formed cq cp s) : OutFormed cq cp (execRingSet pair s) :=
    by
  unfold execRingSet
  try dsimp only
  repeat' first
    | with_reducible assumption
    | with_reducible apply OutFormed.ofNext
    | with_reducible apply withNci_formed
    | with_reducible apply setRing_formed
    | with_reducible apply ringNote_formed
    | split
    | dsimp only
    | intro _

/-- The meaning `execRingClear` keeps the form and answers a next state. -/
theorem execRingClear_formed {cq : List Instr} {cp : Prop} (pair : Fin 176) (s : State) (fm : Formed cq cp s) : OutFormed cq cp (execRingClear pair
    s) := by
  unfold execRingClear
  try dsimp only
  repeat' first
    | with_reducible assumption
    | with_reducible apply OutFormed.ofNext
    | with_reducible apply withNci_formed
    | with_reducible apply setRing_formed
    | split
    | dsimp only
    | intro _

/-- The meaning `execRingStatus` keeps the form and answers a next state. -/
theorem execRingStatus_formed {cq : List Instr} {cp : Prop} (pair : Fin 176) (s : State) (fm : Formed cq cp s) : OutFormed cq cp (execRingStatus pair
    s) := by
  unfold execRingStatus
  try dsimp only
  repeat' first
    | with_reducible assumption
    | with_reducible apply OutFormed.ofNext
    | with_reducible apply withNci_formed
    | split
    | dsimp only
    | intro _

/-- `recount` keeps the form. -/
theorem recount_formed {cq : List Instr} {cp : Prop} (s : State) (q id : Nat) (fm : Formed cq cp s) : Formed cq cp (recount s q id) := by
  unfold recount
  try dsimp only
  repeat' first
    | with_reducible assumption
    | with_reducible apply updSiph_formed
    | simp only [formed_upd]
    | split
    | dsimp only
    | intro _

/-- `answered` keeps the form. -/
theorem answered_formed {cq : List Instr} {cp : Prop} (s : State) (r : Remote) (fm : Formed cq cp s) : Formed cq cp (answered s r) := by
  unfold answered
  try dsimp only
  repeat' first
    | with_reducible assumption
    | with_reducible apply recount_formed
    | simp only [formed_upd]
    | split
    | dsimp only
    | intro _

/-- `putGlobal` keeps the form. -/
theorem putGlobal_formed {cq : List Instr} {cp : Prop} (s : State) (r : Remote) (g : Nat) (data : List Byte) (f : WFlags) (fm : Formed cq cp s) :
    Formed cq cp (putGlobal s r g data f) := by
  unfold putGlobal
  try dsimp only
  repeat' first
    | with_reducible assumption
    | with_reducible apply writeMem_formed
    | with_reducible apply sendWrites_formed
    | simp only [formed_upd]
    | split
    | dsimp only
    | intro _

/-- `readFails` keeps the form. -/
theorem readFails_formed {cq : List Instr} {cp : Prop} (s : State) (r : Remote) (fm : Formed cq cp s) : Formed cq cp (readFails s r) := by
  unfold readFails
  try dsimp only
  repeat' first
    | with_reducible assumption
    | with_reducible apply putGlobal_formed
    | with_reducible apply answered_formed
    | simp only [formed_upd]
    | with_reducible apply Formed.foldl
    | with_reducible apply Formed.foldlFst
    | split
    | dsimp only
    | intro _

/-- `remoteFails` keeps the form. -/
theorem remoteFails_formed {cq : List Instr} {cp : Prop} (s : State) (r : Remote) (code : Nat) (fm : Formed cq cp s) : Formed cq cp (remoteFails s r
    code) := by
  unfold remoteFails
  try dsimp only
  repeat' first
    | with_reducible assumption
    | with_reducible apply readFails_formed
    | with_reducible apply answered_formed
    | with_reducible apply leqPut_formed
    | simp only [formed_upd]
    | split
    | dsimp only
    | intro _

/-- `readArrives` keeps the form. -/
theorem readArrives_formed {cq : List Instr} {cp : Prop} (s : State) (tag : Word) (okay : Bool) (data : List Byte) (f : WFlags) (fm : Formed cq cp s)
    : Formed cq cp (readArrives s tag okay data f) := by
  unfold readArrives
  try dsimp only
  repeat' first
    | with_reducible assumption
    | with_reducible apply answered_formed
    | with_reducible apply putGlobal_formed
    | with_reducible apply readFails_formed
    | simp only [formed_upd]
    | split
    | dsimp only
    | intro _

/-- `serveWrite` keeps the form. -/
theorem serveWrite_formed {cq : List Instr} {cp : Prop} (s : State) (l : Nat) (src : Fin 64) (tag : Word) (ctx : Option (Fin 64)) (a : Nat) (data :
    List Byte) (f : WFlags) (fm : Formed cq cp s) : Formed cq cp (serveWrite s l src tag ctx a data f) := by
  unfold serveWrite
  try dsimp only
  repeat' first
    | with_reducible assumption
    | with_reducible apply sendPacket_formed
    | with_reducible apply writeMem_formed
    | with_reducible apply logErr_formed
    | simp only [formed_upd]
    | split
    | dsimp only
    | intro _

/-- `serveRead` keeps the form. -/
theorem serveRead_formed {cq : List Instr} {cp : Prop} (s : State) (src : Fin 64) (tag : Word) (ctx : Option (Fin 64)) (a len : Nat) (fm : Formed cq
    cp s) : Formed cq cp (serveRead s src tag ctx a len) := by
  unfold serveRead
  try dsimp only
  repeat' first
    | with_reducible assumption
    | with_reducible apply readBytes_formed
    | with_reducible apply sendPacket_formed
    | simp only [formed_upd]
    | split
    | dsimp only
    | intro _

/-- `joinArrives` keeps the form. -/
theorem joinArrives_formed {cq : List Instr} {cp : Prop} (s : State) (devid root : Fin 64) (dims : Nat × Nat × Nat) (members : List (Fin 64)) (fm :
    Formed cq cp s) : Formed cq cp (joinArrives s devid root dims members) := by
  unfold joinArrives
  try dsimp only
  repeat' first
    | with_reducible assumption
    | with_reducible apply sendPacket_formed
    | simp only [formed_upd]
    | split
    | dsimp only
    | intro _

/-- `tunnelArrives` keeps the form. -/
theorem tunnelArrives_formed {cq : List Instr} {cp : Prop} (s : State) (k : Nat) (ws : List Word) (fm : Formed cq cp s) : Formed cq cp (tunnelArrives
    s k ws) := by
  unfold tunnelArrives
  try dsimp only
  repeat' first
    | with_reducible assumption
    | with_reducible apply updMbox_formed
    | with_reducible apply mbxPost_formed
    | simp only [formed_upd]
    | with_reducible apply Formed.foldl
    | with_reducible apply Formed.foldlFst
    | split
    | dsimp only
    | intro _

/-- `relayArrives` keeps the form. -/
theorem relayArrives_formed {cq : List Instr} {cp : Prop} (s : State) (src pair : Nat) (code : BitVec 16) (ws : List Word) (fm : Formed cq cp s) :
    Formed cq cp (relayArrives s src pair code ws) := by
  unfold relayArrives
  try dsimp only
  repeat' first
    | with_reducible assumption
    | simp only [formed_upd]
    | split
    | dsimp only
    | intro _

/-- `epochArrives` keeps the form. -/
theorem epochArrives_formed {cq : List Instr} {cp : Prop} (s : State) (src : Nat) (fm : Formed cq cp s) : Formed cq cp (epochArrives s src) := by
  unfold epochArrives
  try dsimp only
  repeat' first
    | with_reducible assumption
    | simp only [formed_upd]
    | split
    | dsimp only
    | intro _

/-- `leqCopy` keeps the form. -/
theorem leqCopy_formed {cq : List Instr} {cp : Prop} (s : State) (ws : List Word) (fm : Formed cq cp s) : Formed cq cp (leqCopy s ws) := by
  unfold leqCopy
  try dsimp only
  repeat' first
    | with_reducible assumption
    | with_reducible apply logErr_formed
    | with_reducible apply msi_formed
    | simp only [formed_upd]
    | split
    | dsimp only
    | intro _

/-- `hostWrite` keeps the form. -/
theorem hostWrite_formed {cq : List Instr} {cp : Prop} (s : State) (a : Nat) (bs : List Byte) (h : Formed cq cp s) : Formed cq cp (hostWrite s a bs)
    := by
  unfold hostWrite
  split
  · exact ⟨h.pending, h.mem, fun i => Memory.wf_setBytes (h.host i), h.chms, h.cairns, h.rings⟩
  · exact formed_upd.2 h

/-- `releaseHeld` keeps the form. -/
theorem releaseHeld_formed {cq : List Instr} {cp : Prop} (s : State) (h : Formed cq cp s) : Formed cq cp (releaseHeld s) := by
  have key (l : List (Nat × List Byte)) : ∀ m : Memory, Memory.wf m = true → Memory.wf (l.foldl (fun m w => Memory.setBytes m w.1 w.2) m) = true := by
    induction l with
    | nil => exact fun m hm => hm
    | cons x l ih => exact fun m hm => ih _ (Memory.wf_setBytes hm)
  exact ⟨h.pending, h.mem, fun i => key _ _ (h.host i), h.chms, h.cairns, h.rings⟩

/-- `servePacket` keeps the form. -/
theorem servePacket_formed {cq : List Instr} {cp : Prop} (s : State) (l : Nat) (p : Packet) (fm : Formed cq cp s) : Formed cq cp (servePacket s l p)
    := by
  unfold servePacket
  try dsimp only
  repeat' first
    | with_reducible assumption
    | with_reducible apply serveWrite_formed
    | with_reducible apply serveRead_formed
    | with_reducible apply readArrives_formed
    | with_reducible apply answered_formed
    | with_reducible apply remoteFails_formed
    | with_reducible apply joinArrives_formed
    | with_reducible apply tunnelArrives_formed
    | with_reducible apply relayArrives_formed
    | with_reducible apply hostWrite_formed
    | with_reducible apply msi_formed
    | with_reducible apply leqCopy_formed
    | with_reducible apply epochArrives_formed
    | simp only [formed_upd]
    | split
    | dsimp only
    | intro _

/-- `forwardPacket` keeps the form. -/
theorem forwardPacket_formed {cq : List Instr} {cp : Prop} (s : State) (l vc dev : Nat) (p : Packet) (fm : Formed cq cp s) : Formed cq cp
    (forwardPacket s l vc dev p) := by
  unfold forwardPacket
  try dsimp only
  repeat' first
    | with_reducible assumption
    | with_reducible apply sendOn_formed
    | simp only [formed_upd]
    | split
    | dsimp only
    | intro _

/-- `deliver` keeps the form. -/
theorem deliver_formed {cq : List Instr} {cp : Prop} (l : Nat) (s : State) (x : Nat × Nat × Packet) (fm : Formed cq cp s) : Formed cq cp (deliver l s
    x) := by
  unfold deliver
  try dsimp only
  repeat' first
    | with_reducible assumption
    | with_reducible apply servePacket_formed
    | with_reducible apply forwardPacket_formed
    | with_reducible apply joinArrives_formed
    | simp only [formed_upd]
    | split
    | dsimp only
    | intro _

/-- `resend` keeps the form. -/
theorem resend_formed {cq : List Instr} {cp : Prop} (s : State) (l : Nat) (fm : Formed cq cp s) : Formed cq cp (resend s l) := by
  unfold resend
  try dsimp only
  repeat' first
    | with_reducible assumption
    | with_reducible apply Formed.foldl
    | with_reducible apply Formed.foldlFst
    | with_reducible apply emit_formed
    | simp only [formed_upd]
    | split
    | dsimp only
    | intro _

/-- `takeAck` keeps the form. -/
theorem takeAck_formed {cq : List Instr} {cp : Prop} (s : State) (l : Nat) (f : Flit) (fm : Formed cq cp s) : Formed cq cp (takeAck s l f) := by
  unfold takeAck
  try dsimp only
  repeat' first
    | with_reducible assumption
    | with_reducible apply updLink_formed
    | with_reducible apply resend_formed
    | simp only [formed_upd]
    | split
    | dsimp only
    | intro _

/-- `answerTaken` keeps the form. -/
theorem answerTaken_formed {cq : List Instr} {cp : Prop} (s : State) (l : Nat) (fm : Formed cq cp s) : Formed cq cp (answerTaken s l) := by
  unfold answerTaken
  try dsimp only
  repeat' first
    | with_reducible assumption
    | with_reducible apply drainLink_formed
    | with_reducible apply sendFlit_formed
    | with_reducible apply answerFlit_formed
    | simp only [formed_upd]
    | split
    | dsimp only
    | intro _

/-- The meaning `execFlitReceive` keeps the form and answers a next state. -/
theorem execFlitReceive_formed {cq : List Instr} {cp : Prop} (link : Fin 6) (bytes : List Byte) (s : State) (fm : Formed cq cp s) : OutFormed cq cp
    (execFlitReceive link bytes s) := by
  unfold execFlitReceive
  try dsimp only
  repeat' first
    | with_reducible assumption
    | with_reducible apply OutFormed.ofNext
    | with_reducible apply Formed.foldl
    | with_reducible apply Formed.foldlFst
    | with_reducible apply answerFlit_formed
    | with_reducible apply takeAck_formed
    | with_reducible apply drainLink_formed
    | with_reducible apply answerTaken_formed
    | with_reducible apply deliver_formed
    | with_reducible apply updLink_formed
    | simp only [formed_upd]
    | split
    | dsimp only
    | intro _

/-- The meaning `execLinkRetrain` keeps the form and answers a next state. -/
theorem execLinkRetrain_formed {cq : List Instr} {cp : Prop} (link : Fin 6) (s : State) (fm : Formed cq cp s) : OutFormed cq cp (execLinkRetrain link
    s) := by
  unfold execLinkRetrain
  try dsimp only
  repeat' first
    | with_reducible assumption
    | with_reducible apply OutFormed.ofNext
    | with_reducible apply updLink_formed
    | simp only [formed_upd]
    | split
    | dsimp only
    | intro _

/-- `linkError` keeps the form. -/
theorem linkError_formed {cq : List Instr} {cp : Prop} (s : State) (l st : Nat) (inj : Bool) (fm : Formed cq cp s) : Formed cq cp (linkError s l st
    inj) := by
  unfold linkError
  try dsimp only
  repeat' first
    | with_reducible assumption
    | with_reducible apply deviceEvent_formed
    | with_reducible apply markUnit_formed
    | with_reducible apply logErr_formed
    | simp only [formed_upd]
    | split
    | dsimp only
    | intro _

/-- The meaning `execRetrainEnd` keeps the form and answers a next state. -/
theorem execRetrainEnd_formed {cq : List Instr} {cp : Prop} (link : Fin 6) (failed : BitVec 4) (s : State) (fm : Formed cq cp s) : OutFormed cq cp
    (execRetrainEnd link failed s) := by
  unfold execRetrainEnd
  try dsimp only
  repeat' first
    | with_reducible assumption
    | with_reducible apply OutFormed.ofNext
    | with_reducible apply updLink_formed
    | with_reducible apply linkError_formed
    | with_reducible apply drainLink_formed
    | with_reducible apply resend_formed
    | simp only [formed_upd]
    | split
    | dsimp only
    | intro _

/-- `packetLost` keeps the form. -/
theorem packetLost_formed {cq : List Instr} {cp : Prop} (s : State) (p : Packet) (fm : Formed cq cp s) : Formed cq cp (packetLost s p) := by
  unfold packetLost
  try dsimp only
  repeat' first
    | with_reducible assumption
    | with_reducible apply remoteFails_formed
    | with_reducible apply sendPacket_formed
    | simp only [formed_upd]
    | split
    | dsimp only
    | intro _

/-- `rerouteOwn` keeps the form. -/
theorem rerouteOwn_formed {cq : List Instr} {cp : Prop} (s : State) (l : Nat) (fm : Formed cq cp s) : Formed cq cp (rerouteOwn s l) := by
  unfold rerouteOwn
  try dsimp only
  repeat' first
    | with_reducible assumption
    | with_reducible apply Formed.foldl
    | with_reducible apply Formed.foldlFst
    | with_reducible apply updLink_formed
    | with_reducible apply packetLost_formed
    | with_reducible apply sendPacket_formed
    | simp only [formed_upd]
    | split
    | dsimp only
    | intro _

/-- The meaning `execReroute` keeps the form and answers a next state. -/
theorem execReroute_formed {cq : List Instr} {cp : Prop} (link : FarLink) (s : State) (fm : Formed cq cp s) : OutFormed cq cp
    (execReroute link s) := by
  unfold execReroute
  try dsimp only
  repeat' first
    | with_reducible assumption
    | with_reducible apply OutFormed.ofNext
    | with_reducible apply rerouteOwn_formed
    | simp only [formed_upd]
    | split
    | dsimp only
    | intro _

/-- The meaning `execNoResponse` keeps the form and answers a next state. -/
theorem execNoResponse_formed {cq : List Instr} {cp : Prop} (tag : Word) (s : State) (fm : Formed cq cp s) : OutFormed cq cp (execNoResponse tag s)
    := by
  unfold execNoResponse
  try dsimp only
  repeat' first
    | with_reducible assumption
    | with_reducible apply OutFormed.ofNext
    | with_reducible apply remoteFails_formed
    | simp only [formed_upd]
    | split
    | dsimp only
    | intro _

/-- The meaning `execLinkNoPartner` keeps the form and answers a next state. -/
theorem execLinkNoPartner_formed {cq : List Instr} {cp : Prop} (link : Fin 6) (s : State) (fm : Formed cq cp s) : OutFormed cq cp (execLinkNoPartner
    link s) := by
  unfold execLinkNoPartner
  try dsimp only
  repeat' first
    | with_reducible assumption
    | with_reducible apply OutFormed.ofNext
    | with_reducible apply updLink_formed
    | simp only [formed_upd]
    | split
    | dsimp only
    | intro _

/-- The meaning `execLinkRetry` keeps the form and answers a next state. -/
theorem execLinkRetry_formed {cq : List Instr} {cp : Prop} (link : Fin 6) (partner : Option (Fin 64)) (s : State) (fm : Formed cq cp s) : OutFormed
    cq cp (execLinkRetry link partner s) := by
  unfold execLinkRetry
  try dsimp only
  repeat' first
    | with_reducible assumption
    | with_reducible apply OutFormed.ofNext
    | with_reducible apply updLink_formed
    | simp only [formed_upd]
    | split
    | dsimp only
    | intro _

/-- `joinSystem` keeps the form. -/
theorem joinSystem_formed {cq : List Instr} {cp : Prop} (s : State) (d : Nat × Nat × Nat) (root : Nat) (ans : List Nat) (fm : Formed cq cp s) :
    Formed cq cp (joinSystem s d root ans) := by
  unfold joinSystem
  try dsimp only
  repeat' first
    | with_reducible assumption
    | with_reducible apply Formed.foldl
    | with_reducible apply Formed.foldlFst
    | with_reducible apply sendPacket_formed
    | simp only [formed_upd]
    | split
    | dsimp only
    | intro _

/-- The meaning `execEmxJoin` keeps the form and answers a next state. -/
theorem execEmxJoin_formed {cq : List Instr} {cp : Prop} (pair : Fin 176) (answered : List (Fin 64)) (s : State) (fm : Formed cq cp s) : OutFormed cq
    cp (execEmxJoin pair answered s) := by
  unfold execEmxJoin
  try dsimp only
  repeat' first
    | with_reducible assumption
    | with_reducible apply OutFormed.ofNext
    | with_reducible apply withNci_formed
    | with_reducible apply joinSystem_formed
    | split
    | dsimp only
    | intro _

/-- The meaning `execEmxLinkStatus` keeps the form and answers a next state. -/
theorem execEmxLinkStatus_formed {cq : List Instr} {cp : Prop} (pair : Fin 176) (s : State) (fm : Formed cq cp s) : OutFormed cq cp
    (execEmxLinkStatus pair s) := by
  unfold execEmxLinkStatus
  try dsimp only
  repeat' first
    | with_reducible assumption
    | with_reducible apply OutFormed.ofNext
    | with_reducible apply withNci_formed
    | split
    | dsimp only
    | intro _

/-- The meaning `execEmxTunnelSet` keeps the form and answers a next state. -/
theorem execEmxTunnelSet_formed {cq : List Instr} {cp : Prop} (pair : Fin 176) (s : State) (fm : Formed cq cp s) : OutFormed cq cp (execEmxTunnelSet
    pair s) := by
  unfold execEmxTunnelSet
  try dsimp only
  repeat' first
    | with_reducible assumption
    | with_reducible apply OutFormed.ofNext
    | with_reducible apply withNci_formed
    | simp only [formed_upd]
    | split
    | dsimp only
    | intro _

/-- The meaning `execEmxDoorbell` keeps the form and answers a next state. -/
theorem execEmxDoorbell_formed {cq : List Instr} {cp : Prop} (pair : Fin 176) (s : State) (fm : Formed cq cp s) : OutFormed cq cp (execEmxDoorbell
    pair s) := by
  unfold execEmxDoorbell
  try dsimp only
  repeat' first
    | with_reducible assumption
    | with_reducible apply OutFormed.ofNext
    | with_reducible apply withNci_formed
    | with_reducible apply ringBell_formed
    | split
    | dsimp only
    | intro _

/-- The meaning `execEmxStatus` keeps the form and answers a next state. -/
theorem execEmxStatus_formed {cq : List Instr} {cp : Prop} (pair : Fin 176) (far : List Word) (s : State) (fm : Formed cq cp s) : OutFormed cq cp
    (execEmxStatus pair far s) := by
  unfold execEmxStatus
  try dsimp only
  repeat' first
    | with_reducible assumption
    | with_reducible apply OutFormed.ofNext
    | with_reducible apply withNci_formed
    | split
    | dsimp only
    | intro _

/-- `deliverLantern` keeps the form. -/
theorem deliverLantern_formed {cq : List Instr} {cp : Prop} (s : State) (fm : Formed cq cp s) : Formed cq cp (deliverLantern s) := by
  unfold deliverLantern
  try dsimp only
  repeat' first
    | with_reducible assumption
    | simp only [formed_upd]
    | split
    | dsimp only
    | intro _

/-- `deliverChamber` keeps the form. -/
theorem deliverChamber_formed {cq : List Instr} {cp : Prop} (s : State) (ph : Nat) (fm : Formed cq cp s) : Formed cq cp (deliverChamber s ph) := by
  unfold deliverChamber
  try dsimp only
  repeat' first
    | with_reducible assumption
    | with_reducible apply updChm_formed
    | simp only [formed_upd]
    | split
    | dsimp only
    | intro _

/-- The meaning `execInterruptDelivery` keeps the form and answers a next state. -/
theorem execInterruptDelivery_formed {cq : List Instr} {cp : Prop} (vic : VicId) (s : State) (fm : Formed cq cp s) : OutFormed cq cp
    (execInterruptDelivery vic s) := by
  unfold execInterruptDelivery
  try dsimp only
  repeat' first
    | with_reducible assumption
    | with_reducible apply OutFormed.ofNext
    | with_reducible apply deliverLantern_formed
    | with_reducible apply deliverChamber_formed
    | simp only [formed_upd]
    | split
    | dsimp only
    | intro _

/-- The meaning `execInterruptEntry` keeps the form and answers a next state. -/
theorem execInterruptEntry_formed {cq : List Instr} {cp : Prop} (ch : Fin 144) (s : State) (fm : Formed cq cp s) : OutFormed cq cp
    (execInterruptEntry ch s) := by
  unfold execInterruptEntry
  try dsimp only
  repeat' first
    | with_reducible assumption
    | with_reducible apply OutFormed.ofNext
    | with_reducible apply updCore_formed
    | with_reducible apply withdrawIssue_formed
    | simp only [formed_upd]
    | split
    | dsimp only
    | intro _

/-- The meaning `execVicEoi` keeps the form and answers a next state. -/
theorem execVicEoi_formed {cq : List Instr} {cp : Prop} (s : State) (fm : Formed cq cp s) : OutFormed cq cp (execVicEoi s) := by
  unfold execVicEoi
  try dsimp only
  repeat' first
    | with_reducible assumption
    | with_reducible apply OutFormed.ofNext
    | simp only [formed_upd]
    | split
    | dsimp only
    | intro _

/-- The meaning `execVicBindk` keeps the form and answers a next state. -/
theorem execVicBindk_formed {cq : List Instr} {cp : Prop} (who : Agent) (ch : Fin 144) (k : Fin 64) (v : Word) (s : State) (fm : Formed cq cp s) :
    OutFormed cq cp (execVicBindk who ch k v s) := by
  unfold execVicBindk
  try dsimp only
  repeat' first
    | with_reducible assumption
    | with_reducible apply OutFormed.ofNext
    | with_reducible apply Formed.iteWr
    | simp only [WrRes.st_bus, WrRes.st_addr]
    | with_reducible apply wroteBy_formed
    | with_reducible apply vicBind_formed
    | simp only [formed_upd]
    | split
    | dsimp only
    | intro _

/-- The meaning `execTimedBarrierOpen` keeps the form and answers a next state. -/
theorem execTimedBarrierOpen_formed {cq : List Instr} {cp : Prop} (cairn : Fin 65536) (s : State) (fm : Formed cq cp s) : OutFormed cq cp
    (execTimedBarrierOpen cairn s) := by
  unfold execTimedBarrierOpen
  try dsimp only
  repeat' first
    | with_reducible assumption
    | with_reducible apply OutFormed.ofNext
    | with_reducible apply settleTimed_formed
    | simp only [formed_upd]
    | split
    | dsimp only
    | intro _

/-- The meaning `execCnAddn` keeps the form and answers a next state. -/
theorem execCnAddn_formed {cq : List Instr} {cp : Prop} (who : Agent) (cairn : Fin 65536) (n : Word) (s : State) (fm : Formed cq cp s) : OutFormed cq
    cp (execCnAddn who cairn n s) := by
  unfold execCnAddn
  try dsimp only
  repeat' first
    | with_reducible assumption
    | with_reducible apply OutFormed.ofNext
    | with_reducible apply Formed.iteWr
    | simp only [WrRes.st_ok, WrRes.st_bus]
    | with_reducible apply cairnAdd_formed
    | with_reducible apply wroteBy_formed
    | simp only [formed_upd]
    | split
    | dsimp only
    | intro _

/-- The meaning `execChmCtlHaltReq` keeps the form and answers a next state. -/
theorem execChmCtlHaltReq_formed {cq : List Instr} {cp : Prop} (ch : Fin 144) (halt : Bool) (s : State) (fm : Formed cq cp s) : OutFormed cq cp
    (execChmCtlHaltReq ch halt s) := by
  unfold execChmCtlHaltReq
  try dsimp only
  repeat' first
    | with_reducible assumption
    | with_reducible apply OutFormed.ofNext
    | with_reducible apply chmCtlWrite_formed
    | simp only [formed_upd]
    | split
    | dsimp only
    | intro _

/-- The meaning `execChmCtlStep` keeps the form and answers a next state. -/
theorem execChmCtlStep_formed {cq : List Instr} {cp : Prop} (ch : Fin 144) (s : State) (fm : Formed cq cp s) : OutFormed cq cp (execChmCtlStep ch s)
    := by
  unfold execChmCtlStep
  try dsimp only
  repeat' first
    | with_reducible assumption
    | with_reducible apply OutFormed.ofNext
    | with_reducible apply chmCtlWrite_formed
    | simp only [formed_upd]
    | split
    | dsimp only
    | intro _

/-- `putCairn` keeps the form. -/
theorem putCairn_formed {cq : List Instr} {cp : Prop} (s : State) (n : Nat) (c : Cairn) (fm : Formed cq cp s) : Formed cq cp (putCairn s n c) := by
  unfold putCairn
  try dsimp only
  repeat' first
    | with_reducible assumption
    | with_reducible apply setCairn_formed
    | with_reducible apply bindEvent_formed
    | simp only [formed_upd]
    | split
    | dsimp only
    | intro _

/-- `cairnSet` keeps the form. -/
theorem cairnSet_formed {cq : List Instr} {cp : Prop} (s : State) (n : Nat) (c : Cairn) (fm : Formed cq cp s) : Formed cq cp (cairnSet s n c) := by
  unfold cairnSet
  try dsimp only
  repeat' first
    | with_reducible assumption
    | with_reducible apply putCairn_formed
    | with_reducible apply grantAll_formed
    | with_reducible apply draw_formed
    | simp only [formed_upd]
    | split
    | dsimp only
    | intro _

/-- The meaning `execCairnSet` keeps the form and answers a next state. -/
theorem execCairnSet_formed {cq : List Instr} {cp : Prop} (pair : Fin 176) (s : State) (fm : Formed cq cp s) : OutFormed cq cp (execCairnSet pair s)
    := by
  unfold execCairnSet
  try dsimp only
  repeat' first
    | with_reducible assumption
    | with_reducible apply OutFormed.ofNext
    | with_reducible apply withNci_formed
    | with_reducible apply cairnSet_formed
    | split
    | dsimp only
    | intro _

/-- The meaning `execCairnGet` keeps the form and answers a next state. -/
theorem execCairnGet_formed {cq : List Instr} {cp : Prop} (pair : Fin 176) (s : State) (fm : Formed cq cp s) : OutFormed cq cp (execCairnGet pair s)
    := by
  unfold execCairnGet
  try dsimp only
  repeat' first
    | with_reducible assumption
    | with_reducible apply OutFormed.ofNext
    | with_reducible apply withNci_formed
    | split
    | dsimp only
    | intro _

/-- `zeroIvs` keeps the form. -/
theorem zeroIvs_formed {cq : List Instr} {cp : Prop} (s : State) (base u : Nat) (ivs : List (Nat × Nat)) (fm : Formed cq cp s) : Formed cq cp
    (zeroIvs s base u ivs) := by
  unfold zeroIvs
  try dsimp only
  repeat' first
    | with_reducible assumption
    | with_reducible apply zeroKeys_formed
    | simp only [formed_upd]
    | with_reducible apply Formed.foldl
    | with_reducible apply Formed.foldlFst
    | split
    | dsimp only
    | intro _

/-- `zeroPockets` keeps the form. -/
theorem zeroPockets_formed {cq : List Instr} {cp : Prop} (s : State) (ivs : List (Nat × Nat)) (fm : Formed cq cp s) : Formed cq cp (zeroPockets s
    ivs) := by
  unfold zeroPockets
  try dsimp only
  repeat' first
    | with_reducible assumption
    | with_reducible apply zeroIvs_formed
    | simp only [formed_upd]
    | with_reducible apply Formed.foldl
    | with_reducible apply Formed.foldlFst
    | split
    | dsimp only
    | intro _

/-- `zeroCisterns` keeps the form. -/
theorem zeroCisterns_formed {cq : List Instr} {cp : Prop} (s : State) (ivs : List (Nat × Nat)) (fm : Formed cq cp s) : Formed cq cp (zeroCisterns s
    ivs) := by
  unfold zeroCisterns
  try dsimp only
  repeat' first
    | with_reducible assumption
    | with_reducible apply zeroIvs_formed
    | simp only [formed_upd]
    | with_reducible apply Formed.foldl
    | with_reducible apply Formed.foldlFst
    | split
    | dsimp only
    | intro _

/-- `zeroChanged` keeps the form. -/
theorem zeroChanged_formed {cq : List Instr} {cp : Prop} (s : State) (a b : Ctx) (fm : Formed cq cp s) : Formed cq cp (zeroChanged s a b) := by
  unfold zeroChanged
  try dsimp only
  repeat' first
    | with_reducible assumption
    | with_reducible apply zeroPockets_formed
    | with_reducible apply zeroCisterns_formed
    | with_reducible apply zeroIvs_formed
    | simp only [formed_upd]
    | split
    | dsimp only
    | intro _

/-- The meaning `execMemPartSet` keeps the form and answers a next state. -/
theorem execMemPartSet_formed {cq : List Instr} {cp : Prop} (pair : Fin 176) (s : State) (fm : Formed cq cp s) : OutFormed cq cp (execMemPartSet pair
    s) := by
  unfold execMemPartSet
  try dsimp only
  repeat' first
    | with_reducible assumption
    | with_reducible apply OutFormed.ofNext
    | with_reducible apply withNci_formed
    | with_reducible apply updCtx_formed
    | with_reducible apply zeroChanged_formed
    | split
    | dsimp only
    | intro _

/-- The meaning `execMemPartGet` keeps the form and answers a next state. -/
theorem execMemPartGet_formed {cq : List Instr} {cp : Prop} (pair : Fin 176) (s : State) (fm : Formed cq cp s) : OutFormed cq cp (execMemPartGet pair
    s) := by
  unfold execMemPartGet
  try dsimp only
  repeat' first
    | with_reducible assumption
    | with_reducible apply OutFormed.ofNext
    | with_reducible apply withNci_formed
    | split
    | dsimp only
    | intro _

/-- `loadImage` keeps the form. -/
theorem loadImage_formed {cq : List Instr} {cp : Prop} (s : State) (c : Ctx) (i : Image) (lc : Nat) (fm : Formed cq cp s) : Formed cq cp (loadImage s
    c i lc) := by
  unfold loadImage
  try dsimp only
  repeat' first
    | with_reducible assumption
    | with_reducible apply powerUp_formed
    | with_reducible apply moveRows_formed
    | simp only [formed_upd]
    | split
    | dsimp only
    | intro _

/-- `loadImages` keeps the form. -/
theorem loadImages_formed {cq : List Instr} {cp : Prop} (s : State) (c : Ctx) (is : List Image) (lcs : List Nat) (fm : Formed cq cp s) : Formed cq cp
    (loadImages s c is lcs) := by
  unfold loadImages
  try dsimp only
  repeat' first
    | with_reducible assumption
    | with_reducible apply loadImage_formed
    | simp only [formed_upd]
    | with_reducible apply Formed.foldl
    | with_reducible apply Formed.foldlFst
    | split
    | dsimp only
    | intro _

/-- The meaning `execMemImageBind` keeps the form and answers a next state. -/
theorem execMemImageBind_formed {cq : List Instr} {cp : Prop} (pair : Fin 176) (s : State) (h : Formed cq cp s) : OutFormed cq cp (execMemImageBind
    pair s) := by
  unfold execMemImageBind
  refine withNci_formed _ _ _ _ _ h (fun ws => ?_) (fun ws c t hh => hh)
  dsimp only
  split
  · exact strayContext_formed _ _ (updCtx_formed _ _ _ (loadImages_formed _ _ _ _ h))
  · exact updCtx_formed _ _ _ (loadImages_formed _ _ _ _ h)

/-- `gateOne` keeps the form. -/
theorem gateOne_formed {cq : List Instr} {cp : Prop} (k : Nat) (s : State) (g : Nat) (fm : Formed cq cp s) : Formed cq cp (gateOne k s g) := by
  unfold gateOne
  try dsimp only
  repeat' first
    | with_reducible assumption
    | with_reducible apply zeroKeys_formed
    | simp only [formed_upd]
    | with_reducible apply Formed.foldl
    | with_reducible apply Formed.foldlFst
    | split
    | dsimp only
    | intro _

/-- `gateIdle` keeps the form. -/
theorem gateIdle_formed {cq : List Instr} {cp : Prop} (s : State) (fm : Formed cq cp s) : Formed cq cp (gateIdle s) := by
  unfold gateIdle
  try dsimp only
  repeat' first
    | with_reducible assumption
    | with_reducible apply gateOne_formed
    | with_reducible apply draw_formed
    | simp only [formed_upd]
    | with_reducible apply Formed.foldl
    | with_reducible apply Formed.foldlFst
    | split
    | dsimp only
    | intro _

/-- The meaning `execPlaceSetChambers` keeps the form and answers a next state. -/
theorem execPlaceSetChambers_formed {cq : List Instr} {cp : Prop} (pair : Fin 176) (s : State) (fm : Formed cq cp s) : OutFormed cq cp
    (execPlaceSetChambers pair s) := by
  unfold execPlaceSetChambers
  try dsimp only
  repeat' first
    | with_reducible assumption
    | with_reducible apply OutFormed.ofNext
    | with_reducible apply withNci_formed
    | with_reducible apply gateIdle_formed
    | with_reducible apply loadImages_formed
    | with_reducible apply updCtx_formed
    | split
    | dsimp only
    | intro _

/-- The meaning `execPlaceMapGet` keeps the form and answers a next state. -/
theorem execPlaceMapGet_formed {cq : List Instr} {cp : Prop} (pair : Fin 176) (s : State) (fm : Formed cq cp s) : OutFormed cq cp (execPlaceMapGet
    pair s) := by
  unfold execPlaceMapGet
  try dsimp only
  repeat' first
    | with_reducible assumption
    | with_reducible apply OutFormed.ofNext
    | with_reducible apply withNci_formed
    | split
    | dsimp only
    | intro _

/-- The meaning `execPlaceReport` keeps the form and answers a next state. -/
theorem execPlaceReport_formed {cq : List Instr} {cp : Prop} (pair : Fin 176) (s : State) (fm : Formed cq cp s) : OutFormed cq cp (execPlaceReport
    pair s) := by
  unfold execPlaceReport
  try dsimp only
  repeat' first
    | with_reducible assumption
    | with_reducible apply OutFormed.ofNext
    | with_reducible apply withNci_formed
    | with_reducible apply writeMem_formed
    | split
    | dsimp only
    | intro _

/-- The meaning `execMemBar2Set` keeps the form and answers a next state. -/
theorem execMemBar2Set_formed {cq : List Instr} {cp : Prop} (pair : Fin 176) (s : State) (fm : Formed cq cp s) : OutFormed cq cp (execMemBar2Set pair
    s) := by
  unfold execMemBar2Set
  try dsimp only
  repeat' first
    | with_reducible assumption
    | with_reducible apply OutFormed.ofNext
    | with_reducible apply withNci_formed
    | simp only [formed_upd]
    | split
    | dsimp only
    | intro _

/-- `retick` keeps the form. -/
theorem retick_formed {cq : List Instr} {cp : Prop} (s : State) (fm : Formed cq cp s) : Formed cq cp (retick s) := by
  unfold retick
  try dsimp only
  repeat' first
    | with_reducible assumption
    | simp only [formed_upd]
    | split
    | dsimp only
    | intro _

/-- `setDom` keeps the form. -/
theorem setDom_formed {cq : List Instr} {cp : Prop} (s : State) (d : Dom) (f : Domain → Domain) (fm : Formed cq cp s) : Formed cq cp (setDom s d f)
    := by
  unfold setDom
  try dsimp only
  repeat' first
    | with_reducible assumption
    | simp only [formed_upd]
    | split
    | dsimp only
    | intro _

/-- `correct` keeps the form. -/
theorem correct_formed {cq : List Instr} {cp : Prop} (s : State) (d : Dom) (x : Int) (fm : Formed cq cp s) : Formed cq cp (correct s d x) := by
  unfold correct
  try dsimp only
  repeat' first
    | with_reducible assumption
    | with_reducible apply setDom_formed
    | simp only [formed_upd]
    | split
    | dsimp only
    | intro _

/-- `servo` keeps the form. -/
theorem servo_formed {cq : List Instr} {cp : Prop} (s : State) (d : Dom) (x : Int) (fm : Formed cq cp s) : Formed cq cp (servo s d x) := by
  unfold servo
  try dsimp only
  repeat' first
    | with_reducible assumption
    | with_reducible apply correct_formed
    | with_reducible apply setDom_formed
    | with_reducible apply draw_formed
    | simp only [formed_upd]
    | split
    | dsimp only
    | intro _

/-- `switchTo` keeps the form. -/
theorem switchTo_formed {cq : List Instr} {cp : Prop} (s : State) (d : Dom) (fm : Formed cq cp s) : Formed cq cp (switchTo s d) := by
  unfold switchTo
  try dsimp only
  repeat' first
    | with_reducible assumption
    | with_reducible apply retick_formed
    | simp only [formed_upd]
    | split
    | dsimp only
    | intro _

/-- `lockDom` keeps the form. -/
theorem lockDom_formed {cq : List Instr} {cp : Prop} (s : State) (d : Dom) (fm : Formed cq cp s) : Formed cq cp (lockDom s d) := by
  unfold lockDom
  try dsimp only
  repeat' first
    | with_reducible assumption
    | with_reducible apply setDom_formed
    | with_reducible apply retick_formed
    | simp only [formed_upd]
    | split
    | dsimp only
    | intro _

/-- The meaning `execDomainLocked` keeps the form and answers a next state. -/
theorem execDomainLocked_formed {cq : List Instr} {cp : Prop} (dom : Dom) (s : State) (fm : Formed cq cp s) : OutFormed cq cp (execDomainLocked dom
    s) := by
  unfold execDomainLocked
  try dsimp only
  repeat' first
    | with_reducible assumption
    | with_reducible apply OutFormed.ofNext
    | with_reducible apply lockDom_formed
    | simp only [formed_upd]
    | split
    | dsimp only
    | intro _

/-- The meaning `execSourceLost` keeps the form and answers a next state. -/
theorem execSourceLost_formed {cq : List Instr} {cp : Prop} (dom : Dom) (s : State) (fm : Formed cq cp s) : OutFormed cq cp (execSourceLost dom s) :=
    by
  unfold execSourceLost
  try dsimp only
  repeat' first
    | with_reducible assumption
    | with_reducible apply OutFormed.ofNext
    | with_reducible apply setDom_formed
    | with_reducible apply switchTo_formed
    | simp only [formed_upd]
    | split
    | dsimp only
    | intro _

/-- `ppsEdge` keeps the form. -/
theorem ppsEdge_formed {cq : List Instr} {cp : Prop} (s : State) (d : Dom) (fm : Formed cq cp s) : Formed cq cp (ppsEdge s d) := by
  unfold ppsEdge
  try dsimp only
  repeat' first
    | with_reducible assumption
    | with_reducible apply setDom_formed
    | with_reducible apply servo_formed
    | simp only [formed_upd]
    | split
    | dsimp only
    | intro _

/-- The meaning `execPpsInEdge` keeps the form and answers a next state. -/
theorem execPpsInEdge_formed {cq : List Instr} {cp : Prop} (s : State) (fm : Formed cq cp s) : OutFormed cq cp (execPpsInEdge s) := by
  unfold execPpsInEdge
  try dsimp only
  repeat' first
    | with_reducible assumption
    | with_reducible apply OutFormed.ofNext
    | with_reducible apply ppsEdge_formed
    | simp only [formed_upd]
    | split
    | dsimp only
    | intro _

/-- `ptpAt` keeps the form. -/
theorem ptpAt_formed {cq : List Instr} {cp : Prop} (lport ts : Nat) (m : PtpMsg) (s : State) (d : Dom) (fm : Formed cq cp s) : Formed cq cp (ptpAt
    lport ts m s d) := by
  unfold ptpAt
  try dsimp only
  repeat' first
    | with_reducible assumption
    | with_reducible apply servo_formed
    | with_reducible apply setDom_formed
    | simp only [formed_upd]
    | split
    | dsimp only
    | intro _

/-- `ptpFrame` keeps the form. -/
theorem ptpFrame_formed {cq : List Instr} {cp : Prop} (s : State) (lport ts : Nat) (m : PtpMsg) (fm : Formed cq cp s) : Formed cq cp (ptpFrame s
    lport ts m) := by
  unfold ptpFrame
  try dsimp only
  repeat' first
    | with_reducible assumption
    | with_reducible apply ptpAt_formed
    | simp only [formed_upd]
    | split
    | dsimp only
    | intro _

/-- `synceTo` keeps the form. -/
theorem synceTo_formed {cq : List Instr} {cp : Prop} (s : State) (f : Time → Time) (fm : Formed cq cp s) : Formed cq cp (synceTo s f) := by
  unfold synceTo
  try dsimp only
  repeat' first
    | with_reducible assumption
    | with_reducible apply emit_formed
    | simp only [formed_upd]
    | split
    | dsimp only
    | intro _

/-- `esmcFrame` keeps the form. -/
theorem esmcFrame_formed {cq : List Instr} {cp : Prop} (s : State) (lport : Nat) (ql : BitVec 8) (fm : Formed cq cp s) : Formed cq cp (esmcFrame s
    lport ql) := by
  unfold esmcFrame
  try dsimp only
  repeat' first
    | with_reducible assumption
    | simp only [formed_upd]
    | split
    | dsimp only
    | intro _

/-- `ptpSends` keeps the form. -/
theorem ptpSends_formed {cq : List Instr} {cp : Prop} (s : State) (d : Dom) (fm : Formed cq cp s) : Formed cq cp (ptpSends s d) := by
  unfold ptpSends
  try dsimp only
  repeat' first
    | with_reducible assumption
    | with_reducible apply emit_formed
    | simp only [formed_upd]
    | with_reducible apply Formed.foldl
    | with_reducible apply Formed.foldlFst
    | split
    | dsimp only
    | intro _

/-- The meaning `execPtpMessageSend` keeps the form and answers a next state. -/
theorem execPtpMessageSend_formed {cq : List Instr} {cp : Prop} (s : State) (fm : Formed cq cp s) : OutFormed cq cp (execPtpMessageSend s) := by
  unfold execPtpMessageSend
  try dsimp only
  repeat' first
    | with_reducible assumption
    | with_reducible apply OutFormed.ofNext
    | with_reducible apply ptpSends_formed
    | simp only [formed_upd]
    | split
    | dsimp only
    | intro _

/-- The meaning `execEsmcSend` keeps the form and answers a next state. -/
theorem execEsmcSend_formed {cq : List Instr} {cp : Prop} (s : State) (fm : Formed cq cp s) : OutFormed cq cp (execEsmcSend s) := by
  unfold execEsmcSend
  try dsimp only
  repeat' first
    | with_reducible assumption
    | with_reducible apply OutFormed.ofNext
    | with_reducible apply Formed.foldl
    | with_reducible apply Formed.foldlFst
    | with_reducible apply emit_formed
    | simp only [formed_upd]
    | split
    | dsimp only
    | intro _

/-- The meaning `execCompareFire` keeps the form and answers a next state. -/
theorem execCompareFire_formed {cq : List Instr} {cp : Prop} (k : Fin 16) (s : State) (fm : Formed cq cp s) : OutFormed cq cp (execCompareFire k s)
    := by
  unfold execCompareFire
  try dsimp only
  repeat' first
    | with_reducible assumption
    | with_reducible apply OutFormed.ofNext
    | with_reducible apply Formed.foldl
    | with_reducible apply Formed.foldlFst
    | with_reducible apply cmpFire_formed
    | simp only [formed_upd]
    | split
    | dsimp only
    | intro _

/-- `setPulse` keeps the form. -/
theorem setPulse_formed {cq : List Instr} {cp : Prop} (s : State) (p : Nat) (x : Pulse) (fm : Formed cq cp s) : Formed cq cp (setPulse s p x) := by
  unfold setPulse
  try dsimp only
  repeat' first
    | with_reducible assumption
    | simp only [formed_upd]
    | split
    | dsimp only
    | intro _

/-- The meaning `execPulseEdge` keeps the form and answers a next state. -/
theorem execPulseEdge_formed {cq : List Instr} {cp : Prop} (p : Fin 4) (s : State) (fm : Formed cq cp s) : OutFormed cq cp (execPulseEdge p s) := by
  unfold execPulseEdge
  try dsimp only
  repeat' first
    | with_reducible assumption
    | with_reducible apply OutFormed.ofNext
    | with_reducible apply emit_formed
    | with_reducible apply setPulse_formed
    | simp only [formed_upd]
    | split
    | dsimp only
    | intro _

/-- The meaning `execTimeDomainSet` keeps the form and answers a next state. -/
theorem execTimeDomainSet_formed {cq : List Instr} {cp : Prop} (pair : Fin 176) (s : State) (fm : Formed cq cp s) : OutFormed cq cp
    (execTimeDomainSet pair s) := by
  unfold execTimeDomainSet
  try dsimp only
  repeat' first
    | with_reducible assumption
    | with_reducible apply OutFormed.ofNext
    | with_reducible apply withNci_formed
    | with_reducible apply setDom_formed
    | split
    | dsimp only
    | intro _

/-- The meaning `execTimeDomainAdj` keeps the form and answers a next state. -/
theorem execTimeDomainAdj_formed {cq : List Instr} {cp : Prop} (pair : Fin 176) (s : State) (fm : Formed cq cp s) : OutFormed cq cp
    (execTimeDomainAdj pair s) := by
  unfold execTimeDomainAdj
  try dsimp only
  repeat' first
    | with_reducible assumption
    | with_reducible apply OutFormed.ofNext
    | with_reducible apply withNci_formed
    | with_reducible apply setDom_formed
    | with_reducible apply correct_formed
    | split
    | dsimp only
    | intro _

/-- The meaning `execTimeSwitch` keeps the form and answers a next state. -/
theorem execTimeSwitch_formed {cq : List Instr} {cp : Prop} (pair : Fin 176) (s : State) (fm : Formed cq cp s) : OutFormed cq cp (execTimeSwitch pair
    s) := by
  unfold execTimeSwitch
  try dsimp only
  repeat' first
    | with_reducible assumption
    | with_reducible apply OutFormed.ofNext
    | with_reducible apply withNci_formed
    | with_reducible apply switchTo_formed
    | simp only [formed_upd]
    | split
    | dsimp only
    | intro _

/-- The meaning `execTimeTickSet` keeps the form and answers a next state. -/
theorem execTimeTickSet_formed {cq : List Instr} {cp : Prop} (pair : Fin 176) (s : State) (fm : Formed cq cp s) : OutFormed cq cp (execTimeTickSet
    pair s) := by
  unfold execTimeTickSet
  try dsimp only
  repeat' first
    | with_reducible assumption
    | with_reducible apply OutFormed.ofNext
    | with_reducible apply withNci_formed
    | with_reducible apply retick_formed
    | simp only [formed_upd]
    | split
    | dsimp only
    | intro _

/-- The meaning `execTimePulseSet` keeps the form and answers a next state. -/
theorem execTimePulseSet_formed {cq : List Instr} {cp : Prop} (pair : Fin 176) (s : State) (fm : Formed cq cp s) : OutFormed cq cp (execTimePulseSet
    pair s) := by
  unfold execTimePulseSet
  try dsimp only
  repeat' first
    | with_reducible assumption
    | with_reducible apply OutFormed.ofNext
    | with_reducible apply withNci_formed
    | with_reducible apply setPulse_formed
    | split
    | dsimp only
    | intro _

/-- The meaning `execTimeCmpGrant` keeps the form and answers a next state. -/
theorem execTimeCmpGrant_formed {cq : List Instr} {cp : Prop} (pair : Fin 176) (s : State) (fm : Formed cq cp s) : OutFormed cq cp (execTimeCmpGrant
    pair s) := by
  unfold execTimeCmpGrant
  try dsimp only
  repeat' first
    | with_reducible assumption
    | with_reducible apply OutFormed.ofNext
    | with_reducible apply withNci_formed
    | with_reducible apply setCmp_formed
    | split
    | dsimp only
    | intro _

/-- The meaning `execTimeStatus` keeps the form and answers a next state. -/
theorem execTimeStatus_formed {cq : List Instr} {cp : Prop} (pair : Fin 176) (s : State) (fm : Formed cq cp s) : OutFormed cq cp (execTimeStatus pair
    s) := by
  unfold execTimeStatus
  try dsimp only
  repeat' first
    | with_reducible assumption
    | with_reducible apply OutFormed.ofNext
    | with_reducible apply withNci_formed
    | split
    | dsimp only
    | intro _

/-- The meaning `execSynceSet` keeps the form and answers a next state. -/
theorem execSynceSet_formed {cq : List Instr} {cp : Prop} (pair : Fin 176) (s : State) (fm : Formed cq cp s) : OutFormed cq cp (execSynceSet pair s)
    := by
  unfold execSynceSet
  try dsimp only
  repeat' first
    | with_reducible assumption
    | with_reducible apply OutFormed.ofNext
    | with_reducible apply withNci_formed
    | with_reducible apply synceTo_formed
    | split
    | dsimp only
    | intro _

end Sys2Proof.Machine
end

