-- ==== Sys2Proof/Laws/KeptAir.lean ====
section
/-! SUPPORT. The meanings of the fences, resets, fronthaul and echo bank keep the form. -/

namespace Sys2Proof.Machine

/-- `zeroTransient` keeps the form. -/
theorem zeroTransient_formed {cq : List Instr} {cp : Prop} (s : State) (ph : Nat) (fm : Formed cq cp s) : Formed cq cp (zeroTransient s ph) := by
  unfold zeroTransient
  try dsimp only
  repeat' first
    | with_reducible assumption
    | with_reducible apply updChm_formed
    | with_reducible apply zeroKeys_formed
    | simp only [formed_upd]
    | with_reducible apply Formed.foldl
    | with_reducible apply Formed.foldlFst
    | split
    | dsimp only
    | intro _

/-- `finishStore` keeps the form. -/
theorem finishStore_formed {cq : List Instr} {cp : Prop} (s : State) (ph : Fin 144) (h : Formed cq cp s) : Formed cq cp (finishStore s ph) := by
  unfold finishStore
  dsimp only
  repeat' split
  all_goals first
    | exact h
    | exact commit_formed _ _ _ (evalPos_formed _ _ _ _ _ h)
    | exact evalPos_formed _ _ _ _ _ h

/-- `fenceRunning` keeps the form. -/
theorem fenceRunning_formed {cq : List Instr} {cp : Prop} (s : State) (ph : Nat) (tag : Word) (fm : Formed cq cp s) : Formed cq cp (fenceRunning s ph
    tag) := by
  unfold fenceRunning
  try dsimp only
  repeat' first
    | with_reducible assumption
    | with_reducible apply updChm_formed
    | with_reducible apply withdrawIssue_formed
    | with_reducible apply finishStore_formed
    | simp only [formed_upd]
    | split
    | dsimp only
    | intro _

/-- `fenceChamber` keeps the form. -/
theorem fenceChamber_formed {cq : List Instr} {cp : Prop} (tag : Word) (s : State) (ph : Nat) (fm : Formed cq cp s) : Formed cq cp (fenceChamber tag
    s ph) := by
  unfold fenceChamber
  try dsimp only
  repeat' first
    | with_reducible assumption
    | with_reducible apply updFl_formed
    | with_reducible apply fenceRunning_formed
    | with_reducible apply zeroTransient_formed
    | with_reducible apply updChm_formed
    | simp only [formed_upd]
    | split
    | dsimp only
    | intro _

/-- `fenceSiphons` keeps the form. -/
theorem fenceSiphons_formed {cq : List Instr} {cp : Prop} (s : State) (tag : Word) (fm : Formed cq cp s) : Formed cq cp (fenceSiphons s tag) := by
  unfold fenceSiphons
  try dsimp only
  repeat' first
    | with_reducible assumption
    | simp only [formed_upd]
    | with_reducible apply Formed.mapChms
    | split
    | dsimp only
    | intro _

/-- `harqHeader` keeps the form. -/
theorem harqHeader_formed {cq : List Instr} {cp : Prop} (s : State) (a h ncb ntx : Nat) (fm : Formed cq cp s) : Formed cq cp (harqHeader s a h ncb
    ntx) := by
  unfold harqHeader
  try dsimp only
  repeat' first
    | with_reducible assumption
    | with_reducible apply writeMem_formed
    | simp only [formed_upd]
    | split
    | dsimp only
    | intro _

/-- `harqInvalid` keeps the form. -/
theorem harqInvalid_formed {cq : List Instr} {cp : Prop} (s : State) (a : Nat) (fm : Formed cq cp s) : Formed cq cp (harqInvalid s a) := by
  unfold harqInvalid
  try dsimp only
  repeat' first
    | with_reducible assumption
    | with_reducible apply writeMem_formed
    | simp only [formed_upd]
    | split
    | dsimp only
    | intro _

/-- `applyFlush` keeps the form. -/
theorem applyFlush_formed {cq : List Instr} {cp : Prop} (s : State) (a : Nat) (fm : Formed cq cp s) : Formed cq cp (applyFlush s a) := by
  unfold applyFlush
  try dsimp only
  repeat' first
    | with_reducible assumption
    | with_reducible apply harqInvalid_formed
    | simp only [formed_upd]
    | split
    | dsimp only
    | intro _

/-- `abandonRun` keeps the form. -/
theorem abandonRun_formed {cq : List Instr} {cp : Prop} (s : State) (u : Nat) (r : RunTask) (fm : Formed cq cp s) : Formed cq cp (abandonRun s u r)
    := by
  unfold abandonRun
  try dsimp only
  repeat' first
    | with_reducible assumption
    | with_reducible apply harqHeader_formed
    | with_reducible apply applyFlush_formed
    | with_reducible apply draw_formed
    | simp only [formed_upd]
    | split
    | dsimp only
    | intro _

/-- `abandonUnit` keeps the form. -/
theorem abandonUnit_formed {cq : List Instr} {cp : Prop} (s : State) (u : Nat) (fm : Formed cq cp s) : Formed cq cp (abandonUnit s u) := by
  unfold abandonUnit
  try dsimp only
  repeat' first
    | with_reducible assumption
    | with_reducible apply abandonRun_formed
    | simp only [formed_upd]
    | split
    | dsimp only
    | intro _

/-- `fenceDec` keeps the form. -/
theorem fenceDec_formed {cq : List Instr} {cp : Prop} (s : State) (tag : Word) (fm : Formed cq cp s) : Formed cq cp (fenceDec s tag) := by
  unfold fenceDec
  try dsimp only
  repeat' first
    | with_reducible assumption
    | with_reducible apply Formed.foldl
    | with_reducible apply Formed.foldlFst
    | with_reducible apply abandonUnit_formed
    | simp only [formed_upd]
    | split
    | dsimp only
    | intro _

/-- `dropJob` keeps the form. -/
theorem dropJob_formed {cq : List Instr} {cp : Prop} (s : State) (tag : Word) (fm : Formed cq cp s) : Formed cq cp (dropJob s tag) := by
  unfold dropJob
  try dsimp only
  repeat' first
    | with_reducible assumption
    | simp only [formed_upd]
    | split
    | dsimp only
    | intro _

/-- `noteCleaning` keeps the form. -/
theorem noteCleaning_formed {cq : List Instr} {cp : Prop} (s : State) (j : Job) (fm : Formed cq cp s) : Formed cq cp (noteCleaning s j) := by
  unfold noteCleaning
  try dsimp only
  repeat' first
    | with_reducible assumption
    | simp only [formed_upd]
    | split
    | dsimp only
    | intro _

/-- `fenceJob` keeps the form. -/
theorem fenceJob_formed {cq : List Instr} {cp : Prop} (s : State) (j : Job) (outcome : Nat) (chm : Option Nat) (detail : Word) (fm : Formed cq cp s)
    : Formed cq cp (fenceJob s j outcome chm detail) := by
  unfold fenceJob
  try dsimp only
  repeat' first
    | with_reducible assumption
    | with_reducible apply draw_formed
    | with_reducible apply fenceChamber_formed
    | with_reducible apply noteCleaning_formed
    | with_reducible apply dropJob_formed
    | with_reducible apply fenceDec_formed
    | with_reducible apply fenceSiphons_formed
    | with_reducible apply ringNerzon_formed
    | simp only [formed_upd]
    | with_reducible apply Formed.foldl
    | with_reducible apply Formed.foldlFst
    | split
    | dsimp only
    | intro _

/-- `deadlineJob` keeps the form. -/
theorem deadlineJob_formed {cq : List Instr} {cp : Prop} (s : State) (j : Job) (fm : Formed cq cp s) : Formed cq cp (deadlineJob s j) := by
  unfold deadlineJob
  try dsimp only
  repeat' first
    | with_reducible assumption
    | with_reducible apply dropJob_formed
    | with_reducible apply fenceDec_formed
    | with_reducible apply fenceJob_formed
    | simp only [formed_upd]
    | split
    | dsimp only
    | intro _

/-- The meaning `execDeadlineFence` keeps the form and answers a next state. -/
theorem execDeadlineFence_formed {cq : List Instr} {cp : Prop} (tag : Word) (s : State) (fm : Formed cq cp s) : OutFormed cq cp (execDeadlineFence
    tag s) := by
  unfold execDeadlineFence
  try dsimp only
  repeat' first
    | with_reducible assumption
    | with_reducible apply OutFormed.ofNext
    | with_reducible apply Formed.foldl
    | with_reducible apply Formed.foldlFst
    | with_reducible apply deadlineJob_formed
    | simp only [formed_upd]
    | split
    | dsimp only
    | intro _

/-- `emptyPair` keeps the form. -/
theorem emptyPair_formed {cq : List Instr} {cp : Prop} (s : State) (k : Nat) (fm : Formed cq cp s) : Formed cq cp (emptyPair s k) := by
  unfold emptyPair
  try dsimp only
  repeat' first
    | with_reducible assumption
    | with_reducible apply updPair_formed
    | simp only [formed_upd]
    | split
    | dsimp only
    | intro _

/-- `resetChamber` keeps the form. -/
theorem resetChamber_formed {cq : List Instr} {cp : Prop} (s : State) (ph : Nat) (fm : Formed cq cp s) : Formed cq cp (resetChamber s ph) := by
  unfold resetChamber
  try dsimp only
  repeat' first
    | with_reducible assumption
    | with_reducible apply withdrawIssue_formed
    | with_reducible apply cairnsFaultOwner_formed
    | with_reducible apply setChm_formed
    | with_reducible apply zeroKeys_formed
    | with_reducible apply emptyPair_formed
    | simp only [formed_upd]
    | split
    | dsimp only
    | intro _

/-- `isolate` keeps the form. -/
theorem isolate_formed {cq : List Instr} {cp : Prop} (s : State) (ph : Nat) (fm : Formed cq cp s) : Formed cq cp (isolate s ph) := by
  unfold isolate
  try dsimp only
  repeat' first
    | with_reducible assumption
    | with_reducible apply resetChamber_formed
    | with_reducible apply updChm_formed
    | simp only [formed_upd]
    | split
    | dsimp only
    | intro _

/-- `refreeze` keeps the form. -/
theorem refreeze_formed {cq : List Instr} {cp : Prop} (s : State) (fm : Formed cq cp s) : Formed cq cp (refreeze s) := by
  unfold refreeze
  try dsimp only
  repeat' first
    | with_reducible assumption
    | simp only [formed_upd]
    | split
    | dsimp only
    | intro _

/-- `substitute` keeps the form. -/
theorem substitute_formed {cq : List Instr} {cp : Prop} (s : State) (ph t0 : Nat) (fm : Formed cq cp s) : Formed cq cp (substitute s ph t0) := by
  unfold substitute
  try dsimp only
  repeat' first
    | with_reducible assumption
    | with_reducible apply Formed.foldl
    | with_reducible apply Formed.foldlFst
    | with_reducible apply refreeze_formed
    | with_reducible apply updChm_formed
    | with_reducible apply loadImages_formed
    | simp only [formed_upd]
    | split
    | dsimp only
    | intro _

/-- `retireChamber` keeps the form. -/
theorem retireChamber_formed {cq : List Instr} {cp : Prop} (s : State) (ph cls t0 : Nat) (fm : Formed cq cp s) : Formed cq cp (retireChamber s ph cls
    t0) := by
  unfold retireChamber
  try dsimp only
  repeat' first
    | with_reducible assumption
    | with_reducible apply substitute_formed
    | with_reducible apply markUnit_formed
    | with_reducible apply isolate_formed
    | simp only [formed_upd]
    | split
    | dsimp only
    | intro _

/-- `faultFenceOn` keeps the form. -/
theorem faultFenceOn_formed {cq : List Instr} {cp : Prop} (s : State) (ph : Nat) (code : Word) (fm : Formed cq cp s) : Formed cq cp (faultFenceOn s
    ph code) := by
  unfold faultFenceOn
  try dsimp only
  repeat' first
    | with_reducible assumption
    | with_reducible apply fenceJob_formed
    | simp only [formed_upd]
    | split
    | dsimp only
    | intro _

/-- `retireGallery` keeps the form. -/
theorem retireGallery_formed {cq : List Instr} {cp : Prop} (s : State) (g cls : Nat) (fence : Bool) (fm : Formed cq cp s) : Formed cq cp
    (retireGallery s g cls fence) := by
  unfold retireGallery
  try dsimp only
  repeat' first
    | with_reducible assumption
    | with_reducible apply faultFenceOn_formed
    | with_reducible apply updChm_formed
    | with_reducible apply isolate_formed
    | with_reducible apply refreeze_formed
    | with_reducible apply markUnit_formed
    | simp only [formed_upd]
    | with_reducible apply Formed.foldl
    | with_reducible apply Formed.foldlFst
    | split
    | dsimp only
    | intro _

/-- `retireDec` keeps the form. -/
theorem retireDec_formed {cq : List Instr} {cp : Prop} (s : State) (u cls : Nat) (fm : Formed cq cp s) : Formed cq cp (retireDec s u cls) := by
  unfold retireDec
  try dsimp only
  repeat' first
    | with_reducible assumption
    | with_reducible apply markUnit_formed
    | with_reducible apply abandonUnit_formed
    | simp only [formed_upd]
    | split
    | dsimp only
    | intro _

/-- `retireUnit` keeps the form. -/
theorem retireUnit_formed {cq : List Instr} {cp : Prop} (s : State) (u cls : Nat) (fm : Formed cq cp s) : Formed cq cp (retireUnit s u cls) := by
  unfold retireUnit
  try dsimp only
  repeat' first
    | with_reducible assumption
    | with_reducible apply retireChamber_formed
    | with_reducible apply retireGallery_formed
    | with_reducible apply retireDec_formed
    | simp only [formed_upd]
    | split
    | dsimp only
    | intro _

/-- The meaning `execFenceTimeout` keeps the form and answers a next state. -/
theorem execFenceTimeout_formed {cq : List Instr} {cp : Prop} (unit : BitVec 16) (tag : Word) (s : State) (fm : Formed cq cp s) : OutFormed cq cp
    (execFenceTimeout unit tag s) := by
  unfold execFenceTimeout
  try dsimp only
  repeat' first
    | with_reducible assumption
    | with_reducible apply OutFormed.ofNext
    | with_reducible apply retireUnit_formed
    | with_reducible apply logErr_formed
    | simp only [formed_upd]
    | split
    | dsimp only
    | intro _

/-- `chmParityErr` keeps the form. -/
theorem chmParityErr_formed {cq : List Instr} {cp : Prop} (s : State) (ph : Nat) (inj : Bool) (fm : Formed cq cp s) : Formed cq cp (chmParityErr s ph
    inj) := by
  unfold chmParityErr
  try dsimp only
  repeat' first
    | with_reducible assumption
    | with_reducible apply logErr_formed
    | simp only [formed_upd]
    | split
    | dsimp only
    | intro _

/-- The meaning `execChmParity` keeps the form and answers a next state. -/
theorem execChmParity_formed {cq : List Instr} {cp : Prop} (ch : Fin 144) (s : State) (fm : Formed cq cp s) : OutFormed cq cp (execChmParity ch s) :=
    by
  unfold execChmParity
  try dsimp only
  repeat' first
    | with_reducible assumption
    | with_reducible apply OutFormed.ofNext
    | with_reducible apply chmParityErr_formed
    | simp only [formed_upd]
    | split
    | dsimp only
    | intro _

/-- The meaning `execFaultFence` keeps the form and answers a next state. -/
theorem execFaultFence_formed {cq : List Instr} {cp : Prop} (ch : Fin 144) (s : State) (fm : Formed cq cp s) : OutFormed cq cp (execFaultFence ch s)
    := by
  unfold execFaultFence
  try dsimp only
  repeat' first
    | with_reducible assumption
    | with_reducible apply OutFormed.ofNext
    | with_reducible apply retireChamber_formed
    | with_reducible apply faultFenceOn_formed
    | simp only [formed_upd]
    | split
    | dsimp only
    | intro _

/-- `decParityErr` keeps the form. -/
theorem decParityErr_formed {cq : List Instr} {cp : Prop} (s : State) (u : Nat) (inj : Bool) (fm : Formed cq cp s) : Formed cq cp (decParityErr s u
    inj) := by
  unfold decParityErr
  try dsimp only
  repeat' first
    | with_reducible assumption
    | with_reducible apply retireDec_formed
    | with_reducible apply logErr_formed
    | simp only [formed_upd]
    | split
    | dsimp only
    | intro _

/-- The meaning `execDecParity` keeps the form and answers a next state. -/
theorem execDecParity_formed {cq : List Instr} {cp : Prop} (unit : Fin 20) (s : State) (fm : Formed cq cp s) : OutFormed cq cp (execDecParity unit s)
    := by
  unfold execDecParity
  try dsimp only
  repeat' first
    | with_reducible assumption
    | with_reducible apply OutFormed.ofNext
    | with_reducible apply decParityErr_formed
    | simp only [formed_upd]
    | split
    | dsimp only
    | intro _

/-- `fabricErr` keeps the form. -/
theorem fabricErr_formed {cq : List Instr} {cp : Prop} (s : State) (g : Nat) (retryOk inj : Bool) (fm : Formed cq cp s) : Formed cq cp (fabricErr s g
    retryOk inj) := by
  unfold fabricErr
  try dsimp only
  repeat' first
    | with_reducible assumption
    | with_reducible apply logErr_formed
    | with_reducible apply retireGallery_formed
    | simp only [formed_upd]
    | split
    | dsimp only
    | intro _

/-- The meaning `execFabric` keeps the form and answers a next state. -/
theorem execFabric_formed {cq : List Instr} {cp : Prop} (gal : Fin 16) (retryOk : Bool) (s : State) (fm : Formed cq cp s) : OutFormed cq cp
    (execFabric gal retryOk s) := by
  unfold execFabric
  try dsimp only
  repeat' first
    | with_reducible assumption
    | with_reducible apply OutFormed.ofNext
    | with_reducible apply fabricErr_formed
    | simp only [formed_upd]
    | split
    | dsimp only
    | intro _

/-- `outside` keeps the form. -/
theorem outside_formed {cq : List Instr} {cp : Prop} (s t : State) (h : Formed cq cp s) (hm : cp → Memory.wf t.mem = true)
    (hc : cp → Tab.wf {} t.chms = true) (hn : cp → Tab.wf {} t.cairns = true) (hr : cp → Tab.wf {} t.rings = true) : Formed cq cp (outside s t) :=
        ⟨h.pending, hm, h.host, hc, hn, hr⟩

/-- `powerReset` keeps the form. -/
theorem powerReset_formed {cq : List Instr} {cp : Prop} (s : State) (h : Formed cq cp s) : Formed cq cp (powerReset s) := outside_formed _ _ h (fun _
    => rfl) (fun _ => rfl) (fun _ => rfl) (fun _ => rfl)

/-- `systemReset` keeps the form. -/
theorem systemReset_formed {cq : List Instr} {cp : Prop} (s : State) (cause : Nat) (h : Formed cq cp s) : Formed cq cp (systemReset s cause) :=
    outside_formed _ _ h (fun _ => rfl) (fun _ => rfl) (fun _ => rfl) (fun _ => rfl)

/-- `staleTunnels` keeps the form. -/
theorem staleTunnels_formed {cq : List Instr} {cp : Prop} (s : State) (fm : Formed cq cp s) : Formed cq cp (staleTunnels s) := by
  unfold staleTunnels
  try dsimp only
  repeat' first
    | with_reducible assumption
    | with_reducible apply toRoot_formed
    | simp only [formed_upd]
    | with_reducible apply Formed.foldl
    | with_reducible apply Formed.foldlFst
    | split
    | dsimp only
    | intro _

/-- `coreReset` keeps the form. -/
theorem coreReset_formed {cq : List Instr} {cp : Prop} (s : State) (cause : Nat) (h : Formed cq cp s) : Formed cq cp (coreReset s cause) :=
    outside_formed _ _ (staleTunnels_formed _ h) (fun _ => rfl) (fun _ => rfl) (fun _ => rfl) (fun _ => rfl)

/-- `bootFailed` keeps the form. -/
theorem bootFailed_formed {cq : List Instr} {cp : Prop} (s : State) (code : Nat) (fm : Formed cq cp s) : Formed cq cp (bootFailed s code) := by
  unfold bootFailed
  try dsimp only
  repeat' first
    | with_reducible assumption
    | simp only [formed_upd]
    | split
    | dsimp only
    | intro _

/-- `bootStart` keeps the form. -/
theorem bootStart_formed {cq : List Instr} {cp : Prop} (s0 : State) (fm : Formed cq cp s0) : Formed cq cp (bootStart s0) := by
  unfold bootStart
  try dsimp only
  repeat' first
    | with_reducible assumption
    | with_reducible apply Formed.foldl
    | with_reducible apply Formed.foldlFst
    | with_reducible apply draw_formed
    | with_reducible apply bootFailed_formed
    | simp only [formed_upd]
    | split
    | dsimp only
    | intro _

/-- `release` keeps the form. -/
theorem release_formed {cq : List Instr} {cp : Prop} (s : State) (fm : Formed cq cp s) : Formed cq cp (release s) := by
  unfold release
  try dsimp only
  repeat' first
    | with_reducible assumption
    | with_reducible apply bootStart_formed
    | simp only [formed_upd]
    | split
    | dsimp only
    | intro _

/-- `resetNow` keeps the form. -/
theorem resetNow_formed {cq : List Instr} {cp : Prop} (s : State) (level cause : Nat) (fm : Formed cq cp s) : Formed cq cp (resetNow s level cause)
    := by
  unfold resetNow
  try dsimp only
  repeat' first
    | with_reducible assumption
    | with_reducible apply powerReset_formed
    | with_reducible apply release_formed
    | with_reducible apply systemReset_formed
    | with_reducible apply coreReset_formed
    | simp only [formed_upd]
    | split
    | dsimp only
    | intro _

/-- `assertReset` keeps the form. -/
theorem assertReset_formed {cq : List Instr} {cp : Prop} (s : State) (held level cause : Nat) (fm : Formed cq cp s) : Formed cq cp (assertReset s
    held level cause) := by
  unfold assertReset
  try dsimp only
  repeat' first
    | with_reducible assumption
    | with_reducible apply resetNow_formed
    | simp only [formed_upd]
    | split
    | dsimp only
    | intro _

/-- The meaning `execPorstN` keeps the form and answers a next state. -/
theorem execPorstN_formed {cq : List Instr} {cp : Prop} (level : Bool) (s : State) (fm : Formed cq cp s) : OutFormed cq cp (execPorstN level s) := by
  unfold execPorstN
  try dsimp only
  repeat' first
    | with_reducible assumption
    | with_reducible apply OutFormed.ofNext
    | with_reducible apply draw_formed
    | with_reducible apply assertReset_formed
    | simp only [formed_upd]
    | split
    | dsimp only
    | intro _

/-- The meaning `execOscillatorCountEnd` keeps the form and answers a next state. -/
theorem execOscillatorCountEnd_formed {cq : List Instr} {cp : Prop} (s : State) (fm : Formed cq cp s) : OutFormed cq cp (execOscillatorCountEnd s) :=
    by
  unfold execOscillatorCountEnd
  try dsimp only
  repeat' first
    | with_reducible assumption
    | with_reducible apply OutFormed.ofNext
    | with_reducible apply release_formed
    | simp only [formed_upd]
    | split
    | dsimp only
    | intro _

/-- The meaning `execSysRstN` keeps the form and answers a next state. -/
theorem execSysRstN_formed {cq : List Instr} {cp : Prop} (level : Bool) (s : State) (fm : Formed cq cp s) : OutFormed cq cp (execSysRstN level s) :=
    by
  unfold execSysRstN
  try dsimp only
  repeat' first
    | with_reducible assumption
    | with_reducible apply OutFormed.ofNext
    | with_reducible apply release_formed
    | with_reducible apply assertReset_formed
    | simp only [formed_upd]
    | split
    | dsimp only
    | intro _

/-- The meaning `execClockStop` keeps the form and answers a next state. -/
theorem execClockStop_formed {cq : List Instr} {cp : Prop} (src : Fin 9) (s : State) (fm : Formed cq cp s) : OutFormed cq cp (execClockStop src s) :=
    by
  unfold execClockStop
  try dsimp only
  repeat' first
    | with_reducible assumption
    | with_reducible apply OutFormed.ofNext
    | with_reducible apply deviceEvent_formed
    | with_reducible apply assertReset_formed
    | simp only [formed_upd]
    | split
    | dsimp only
    | intro _

/-- The meaning `execReferenceReturn` keeps the form and answers a next state. -/
theorem execReferenceReturn_formed {cq : List Instr} {cp : Prop} (s : State) (fm : Formed cq cp s) : OutFormed cq cp (execReferenceReturn s) := by
  unfold execReferenceReturn
  try dsimp only
  repeat' first
    | with_reducible assumption
    | with_reducible apply OutFormed.ofNext
    | with_reducible apply release_formed
    | simp only [formed_upd]
    | split
    | dsimp only
    | intro _

/-- The meaning `execPllLockLoss` keeps the form and answers a next state. -/
theorem execPllLockLoss_formed {cq : List Instr} {cp : Prop} (k : Fin 8) (s : State) (fm : Formed cq cp s) : OutFormed cq cp (execPllLockLoss k s) :=
    by
  unfold execPllLockLoss
  try dsimp only
  repeat' first
    | with_reducible assumption
    | with_reducible apply OutFormed.ofNext
    | with_reducible apply logErr_formed
    | simp only [formed_upd]
    | split
    | dsimp only
    | intro _

/-- The meaning `execLockstepMismatch` keeps the form and answers a next state. -/
theorem execLockstepMismatch_formed {cq : List Instr} {cp : Prop} (s : State) (fm : Formed cq cp s) : OutFormed cq cp (execLockstepMismatch s) := by
  unfold execLockstepMismatch
  try dsimp only
  repeat' first
    | with_reducible assumption
    | with_reducible apply OutFormed.ofNext
    | with_reducible apply assertReset_formed
    | simp only [formed_upd]
    | split
    | dsimp only
    | intro _

/-- The meaning `execOvertemp` keeps the form and answers a next state. -/
theorem execOvertemp_formed {cq : List Instr} {cp : Prop} (tj : BitVec 8) (s : State) (fm : Formed cq cp s) : OutFormed cq cp (execOvertemp tj s) :=
    by
  unfold execOvertemp
  try dsimp only
  repeat' first
    | with_reducible assumption
    | with_reducible apply OutFormed.ofNext
    | with_reducible apply assertReset_formed
    | simp only [formed_upd]
    | split
    | dsimp only
    | intro _

/-- The meaning `execOvertempRecovery` keeps the form and answers a next state. -/
theorem execOvertempRecovery_formed {cq : List Instr} {cp : Prop} (s : State) (fm : Formed cq cp s) : OutFormed cq cp (execOvertempRecovery s) := by
  unfold execOvertempRecovery
  try dsimp only
  repeat' first
    | with_reducible assumption
    | with_reducible apply OutFormed.ofNext
    | with_reducible apply release_formed
    | simp only [formed_upd]
    | split
    | dsimp only
    | intro _

/-- `measureTj` keeps the form. -/
theorem measureTj_formed {cq : List Instr} {cp : Prop} (s : State) (tj : BitVec 8) (fm : Formed cq cp s) : Formed cq cp (measureTj s tj) := by
  unfold measureTj
  try dsimp only
  repeat' first
    | with_reducible assumption
    | with_reducible apply deviceEvent_formed
    | with_reducible apply logErr_formed
    | simp only [formed_upd]
    | split
    | dsimp only
    | intro _

/-- The meaning `execTjAboveTwarn` keeps the form and answers a next state. -/
theorem execTjAboveTwarn_formed {cq : List Instr} {cp : Prop} (tj : BitVec 8) (s : State) (fm : Formed cq cp s) : OutFormed cq cp (execTjAboveTwarn
    tj s) := by
  unfold execTjAboveTwarn
  try dsimp only
  repeat' first
    | with_reducible assumption
    | with_reducible apply OutFormed.ofNext
    | with_reducible apply measureTj_formed
    | simp only [formed_upd]
    | split
    | dsimp only
    | intro _

/-- `crpResetCtl` keeps the form. -/
theorem crpResetCtl_formed {cq : List Instr} {cp : Prop} (s : State) (v : Word) (fm : Formed cq cp s) : Formed cq cp (crpResetCtl s v) := by
  unfold crpResetCtl
  try dsimp only
  repeat' first
    | with_reducible assumption
    | with_reducible apply assertReset_formed
    | simp only [formed_upd]
    | split
    | dsimp only
    | intro _

/-- The meaning `execCrpResetCtl` keeps the form and answers a next state. -/
theorem execCrpResetCtl_formed {cq : List Instr} {cp : Prop} (v : Word) (s : State) (fm : Formed cq cp s) : OutFormed cq cp (execCrpResetCtl v s) :=
    by
  unfold execCrpResetCtl
  try dsimp only
  repeat' first
    | with_reducible assumption
    | with_reducible apply OutFormed.ofNext
    | with_reducible apply crpResetCtl_formed
    | simp only [formed_upd]
    | split
    | dsimp only
    | intro _

/-- The meaning `execReset` keeps the form and answers a next state. -/
theorem execReset_formed {cq : List Instr} {cp : Prop} (pair : Fin 176) (s : State) (fm : Formed cq cp s) : OutFormed cq cp (execReset pair s) := by
  unfold execReset
  try dsimp only
  repeat' first
    | with_reducible assumption
    | with_reducible apply OutFormed.ofNext
    | with_reducible apply withNci_formed
    | simp only [formed_upd]
    | split
    | dsimp only
    | intro _

/-- The meaning `execResetTakesEffect` keeps the form and answers a next state. -/
theorem execResetTakesEffect_formed {cq : List Instr} {cp : Prop} (s : State) (fm : Formed cq cp s) : OutFormed cq cp (execResetTakesEffect s) := by
  unfold execResetTakesEffect
  try dsimp only
  repeat' first
    | with_reducible assumption
    | with_reducible apply OutFormed.ofNext
    | with_reducible apply assertReset_formed
    | simp only [formed_upd]
    | split
    | dsimp only
    | intro _

/-- `crpWdt` keeps the form. -/
theorem crpWdt_formed {cq : List Instr} {cp : Prop} (s : State) (v : Word) (fm : Formed cq cp s) : Formed cq cp (crpWdt s v) := by
  unfold crpWdt
  try dsimp only
  repeat' first
    | with_reducible assumption
    | simp only [formed_upd]
    | split
    | dsimp only
    | intro _

/-- The meaning `execCrpWdt` keeps the form and answers a next state. -/
theorem execCrpWdt_formed {cq : List Instr} {cp : Prop} (v : Word) (s : State) (fm : Formed cq cp s) : OutFormed cq cp (execCrpWdt v s) := by
  unfold execCrpWdt
  try dsimp only
  repeat' first
    | with_reducible assumption
    | with_reducible apply OutFormed.ofNext
    | with_reducible apply crpWdt_formed
    | simp only [formed_upd]
    | split
    | dsimp only
    | intro _

/-- The meaning `execWatchdogExpiry` keeps the form and answers a next state. -/
theorem execWatchdogExpiry_formed {cq : List Instr} {cp : Prop} (s : State) (fm : Formed cq cp s) : OutFormed cq cp (execWatchdogExpiry s) := by
  unfold execWatchdogExpiry
  try dsimp only
  repeat' first
    | with_reducible assumption
    | with_reducible apply OutFormed.ofNext
    | with_reducible apply assertReset_formed
    | simp only [formed_upd]
    | split
    | dsimp only
    | intro _

/-- The meaning `execOtpProgramPulseEnd` keeps the form and answers a next state. -/
theorem execOtpProgramPulseEnd_formed {cq : List Instr} {cp : Prop} (s : State) (fm : Formed cq cp s) : OutFormed cq cp (execOtpProgramPulseEnd s) :=
    by
  unfold execOtpProgramPulseEnd
  try dsimp only
  repeat' first
    | with_reducible assumption
    | with_reducible apply OutFormed.ofNext
    | with_reducible apply assertReset_formed
    | simp only [formed_upd]
    | split
    | dsimp only
    | intro _

/-- `resetGallery` keeps the form. -/
theorem resetGallery_formed {cq : List Instr} {cp : Prop} (s : State) (g : Nat) (fm : Formed cq cp s) : Formed cq cp (resetGallery s g) := by
  unfold resetGallery
  try dsimp only
  repeat' first
    | with_reducible assumption
    | with_reducible apply resetChamber_formed
    | with_reducible apply zeroKeys_formed
    | simp only [formed_upd]
    | with_reducible apply Formed.foldl
    | with_reducible apply Formed.foldlFst
    | split
    | dsimp only
    | intro _

/-- `crpBlkRst` keeps the form. -/
theorem crpBlkRst_formed {cq : List Instr} {cp : Prop} (s : State) (v : Word) (fm : Formed cq cp s) : OutFormedOrBusy cq cp (crpBlkRst s v) := by
  unfold crpBlkRst
  try dsimp only
  repeat' first
    | with_reducible assumption
    | with_reducible apply OutFormedOrBusy.ofNext
    | with_reducible exact OutFormedOrBusy.ofBusy
    | with_reducible apply resetGallery_formed
    | with_reducible apply resetChamber_formed
    | simp only [formed_upd]
    | split
    | dsimp only
    | intro _

/-- The meaning `execCrpBlkRst` keeps the form or stops at a busy block. -/
theorem execCrpBlkRst_formed {cq : List Instr} {cp : Prop} (v : Word) (s : State) (fm : Formed cq cp s) : OutFormedOrBusy cq cp (execCrpBlkRst v s) := by
  unfold execCrpBlkRst
  try dsimp only
  repeat' first
    | with_reducible assumption
    | with_reducible apply OutFormedOrBusy.ofNext
    | with_reducible exact OutFormedOrBusy.ofBusy
    | with_reducible apply crpBlkRst_formed
    | simp only [formed_upd]
    | split
    | dsimp only
    | intro _

/-- The meaning `execBlockResetDone` keeps the form and answers a next state. -/
theorem execBlockResetDone_formed {cq : List Instr} {cp : Prop} (s : State) (fm : Formed cq cp s) : OutFormed cq cp (execBlockResetDone s) := by
  unfold execBlockResetDone
  try dsimp only
  repeat' first
    | with_reducible assumption
    | with_reducible apply OutFormed.ofNext
    | simp only [formed_upd]
    | split
    | dsimp only
    | intro _

/-- `imageAccepted` keeps the form. -/
theorem imageAccepted_formed {cq : List Instr} {cp : Prop} (s : State) (img : List Byte) (fm : Formed cq cp s) : Formed cq cp (imageAccepted s img)
    := by
  unfold imageAccepted
  try dsimp only
  repeat' first
    | with_reducible assumption
    | simp only [formed_upd]
    | split
    | dsimp only
    | intro _

/-- `flashCheck` keeps the form. -/
theorem flashCheck_formed {cq : List Instr} {cp : Prop} (s : State) (secondary : Bool) (img : List Byte) (fm : Formed cq cp s) : Formed cq cp
    (flashCheck s secondary img) := by
  unfold flashCheck
  try dsimp only
  repeat' first
    | with_reducible assumption
    | with_reducible apply imageAccepted_formed
    | with_reducible apply bootFailed_formed
    | simp only [formed_upd]
    | split
    | dsimp only
    | intro _

/-- `hostCheck` keeps the form. -/
theorem hostCheck_formed {cq : List Instr} {cp : Prop} (s : State) (fm : Formed cq cp s) : Formed cq cp (hostCheck s) := by
  unfold hostCheck
  try dsimp only
  repeat' first
    | with_reducible assumption
    | with_reducible apply readBytes_formed
    | with_reducible apply mbxAck_formed
    | with_reducible apply imageAccepted_formed
    | simp only [formed_upd]
    | split
    | dsimp only
    | intro _

/-- The meaning `execBootImageCheck` keeps the form and answers a next state. -/
theorem execBootImageCheck_formed {cq : List Instr} {cp : Prop} (secondary : Bool) (img : List Byte) (s : State) (fm : Formed cq cp s) : OutFormed cq
    cp (execBootImageCheck secondary img s) := by
  unfold execBootImageCheck
  try dsimp only
  repeat' first
    | with_reducible assumption
    | with_reducible apply OutFormed.ofNext
    | with_reducible apply hostCheck_formed
    | with_reducible apply flashCheck_formed
    | simp only [formed_upd]
    | split
    | dsimp only
    | intro _

/-- `lostEntry` keeps the form. -/
theorem lostEntry_formed {cq : List Instr} {cp : Prop} (s : State) (fm : Formed cq cp s) : Formed cq cp (lostEntry s) := by
  unfold lostEntry
  try dsimp only
  repeat' first
    | with_reducible assumption
    | with_reducible apply logErr_formed
    | simp only [formed_upd]
    | split
    | dsimp only
    | intro _

/-- The map at a start keeps the chambers' canonical form. -/
theorem wf_mapChambers {bad : List Nat} {t : Tab Chamber} (w : Tab.wf {} t = true) : Tab.wf {} (mapChambers bad t) = true := by
  have key (l : List Nat) : ∀ u : Tab Chamber, Tab.wf {} u = true →
      Tab.wf {} (l.foldl (fun u ph => Tab.upd {} u ph fun c => { c with logical := mapAtStart bad ph }) u) = true := by
    induction l with
    | nil => exact fun u hu => hu
    | cons x l ih => exact fun u hu => ih _ (Tab.wf_upd hu)
  exact key _ _ w

/-- `nerzonReady` keeps the form. -/
theorem nerzonReady_formed {cq : List Instr} {cp : Prop} (s0 : State) (h : Formed cq cp s0) : Formed cq cp (nerzonReady s0) := by
  have h1 := draw_formed _ h
  unfold nerzonReady
  exact lostEntry_formed _ (Formed.mkOf (s := draw s0) h1 (show cp → Memory.wf ([] : Memory) = true from fun _ => rfl) h1.host (fun i =>
      wf_mapChambers (h1.chms i)) h1.cairns h1.rings)

/-- The meaning `execNerzonReady` keeps the form and answers a next state. -/
theorem execNerzonReady_formed {cq : List Instr} {cp : Prop} (selfTest : Bool) (s : State) (fm : Formed cq cp s) : OutFormed cq cp (execNerzonReady
    selfTest s) := by
  unfold execNerzonReady
  try dsimp only
  repeat' first
    | with_reducible assumption
    | with_reducible apply OutFormed.ofNext
    | with_reducible apply nerzonReady_formed
    | with_reducible apply bootFailed_formed
    | simp only [formed_upd]
    | split
    | dsimp only
    | intro _

/-- The meaning `execStsHeartbeat` keeps the form and answers a next state. -/
theorem execStsHeartbeat_formed {cq : List Instr} {cp : Prop} (s : State) (fm : Formed cq cp s) : OutFormed cq cp (execStsHeartbeat s) := by
  unfold execStsHeartbeat
  try dsimp only
  repeat' first
    | with_reducible assumption
    | with_reducible apply OutFormed.ofNext
    | simp only [formed_upd]
    | split
    | dsimp only
    | intro _

/-- The meaning `execCrpStatus` keeps the form and answers a next state. -/
theorem execCrpStatus_formed {cq : List Instr} {cp : Prop} (pair : Fin 176) (s : State) (fm : Formed cq cp s) : OutFormed cq cp (execCrpStatus pair
    s) := by
  unfold execCrpStatus
  try dsimp only
  repeat' first
    | with_reducible assumption
    | with_reducible apply OutFormed.ofNext
    | with_reducible apply withNci_formed
    | split
    | dsimp only
    | intro _

/-- `crpClksel` keeps the form. -/
theorem crpClksel_formed {cq : List Instr} {cp : Prop} (s : State) (d : Nat) (v : Word) (fm : Formed cq cp s) : Formed cq cp (crpClksel s d v) := by
  unfold crpClksel
  try dsimp only
  repeat' first
    | with_reducible assumption
    | simp only [formed_upd]
    | split
    | dsimp only
    | intro _

/-- The meaning `execCrpClkseld` keeps the form and answers a next state. -/
theorem execCrpClkseld_formed {cq : List Instr} {cp : Prop} (d : Fin 4) (v : Word) (s : State) (fm : Formed cq cp s) : OutFormed cq cp
    (execCrpClkseld d v s) := by
  unfold execCrpClkseld
  try dsimp only
  repeat' first
    | with_reducible assumption
    | with_reducible apply OutFormed.ofNext
    | with_reducible apply crpClksel_formed
    | simp only [formed_upd]
    | split
    | dsimp only
    | intro _

/-- The meaning `execClockSwitchDone` keeps the form and answers a next state. -/
theorem execClockSwitchDone_formed {cq : List Instr} {cp : Prop} (d : Fin 4) (s : State) (fm : Formed cq cp s) : OutFormed cq cp (execClockSwitchDone
    d s) := by
  unfold execClockSwitchDone
  try dsimp only
  repeat' first
    | with_reducible assumption
    | with_reducible apply OutFormed.ofNext
    | simp only [formed_upd]
    | split
    | dsimp only
    | intro _

/-- `crpClkout` keeps the form. -/
theorem crpClkout_formed {cq : List Instr} {cp : Prop} (s : State) (v : Word) (fm : Formed cq cp s) : Formed cq cp (crpClkout s v) := by
  unfold crpClkout
  try dsimp only
  repeat' first
    | with_reducible assumption
    | with_reducible apply emit_formed
    | simp only [formed_upd]
    | split
    | dsimp only
    | intro _

/-- The meaning `execClkoutSet` keeps the form and answers a next state. -/
theorem execClkoutSet_formed {cq : List Instr} {cp : Prop} (pair : Fin 176) (s : State) (fm : Formed cq cp s) : OutFormed cq cp (execClkoutSet pair
    s) := by
  unfold execClkoutSet
  try dsimp only
  repeat' first
    | with_reducible assumption
    | with_reducible apply OutFormed.ofNext
    | with_reducible apply withNci_formed
    | with_reducible apply crpClkout_formed
    | split
    | dsimp only
    | intro _

/-- The meaning `execPowerSet` keeps the form and answers a next state. -/
theorem execPowerSet_formed {cq : List Instr} {cp : Prop} (pair : Fin 176) (s : State) (fm : Formed cq cp s) : OutFormed cq cp (execPowerSet pair s)
    := by
  unfold execPowerSet
  try dsimp only
  repeat' first
    | with_reducible assumption
    | with_reducible apply OutFormed.ofNext
    | with_reducible apply withNci_formed
    | simp only [formed_upd]
    | split
    | dsimp only
    | intro _

/-- `measure` keeps the form. -/
theorem measure_formed {cq : List Instr} {cp : Prop} (s : State) (power : BitVec 9) (tj : BitVec 8) (fm : Formed cq cp s) : Formed cq cp (measure s
    power tj) := by
  unfold measure
  try dsimp only
  repeat' first
    | with_reducible assumption
    | with_reducible apply measureTj_formed
    | simp only [formed_upd]
    | split
    | dsimp only
    | intro _

/-- The meaning `execLimiterAct` keeps the form and answers a next state. -/
theorem execLimiterAct_formed {cq : List Instr} {cp : Prop} (power : BitVec 9) (tj : BitVec 8) (s : State) (fm : Formed cq cp s) : OutFormed cq cp
    (execLimiterAct power tj s) := by
  unfold execLimiterAct
  try dsimp only
  repeat' first
    | with_reducible assumption
    | with_reducible apply OutFormed.ofNext
    | with_reducible apply measure_formed
    | with_reducible apply logErr_formed
    | simp only [formed_upd]
    | split
    | dsimp only
    | intro _

/-- The meaning `execLimiterRelease` keeps the form and answers a next state. -/
theorem execLimiterRelease_formed {cq : List Instr} {cp : Prop} (s : State) (fm : Formed cq cp s) : OutFormed cq
    cp (execLimiterRelease s) := by
  unfold execLimiterRelease
  try dsimp only
  repeat' first
    | with_reducible assumption
    | with_reducible apply OutFormed.ofNext
    | with_reducible apply measure_formed
    | simp only [formed_upd]
    | split
    | dsimp only
    | intro _

/-- The meaning `execAdaptiveVoltageLoop` keeps the form and answers a next state. -/
theorem execAdaptiveVoltageLoop_formed {cq : List Instr} {cp : Prop} (need : BitVec 10) (s : State) (fm : Formed cq cp s) : OutFormed cq cp
    (execAdaptiveVoltageLoop need s) := by
  unfold execAdaptiveVoltageLoop
  try dsimp only
  repeat' first
    | with_reducible assumption
    | with_reducible apply OutFormed.ofNext
    | with_reducible apply emit_formed
    | simp only [formed_upd]
    | split
    | dsimp only
    | intro _

/-- `updEch` keeps the form. -/
theorem updEch_formed {cq : List Instr} {cp : Prop} (s : State) (k : Nat) (f : Ech → Ech) (fm : Formed cq cp s) : Formed cq cp (updEch s k f) := by
  unfold updEch
  try dsimp only
  repeat' first
    | with_reducible assumption
    | simp only [formed_upd]
    | split
    | dsimp only
    | intro _

/-- `updStream` keeps the form. -/
theorem updStream_formed {cq : List Instr} {cp : Prop} (s : State) (k : Nat) (f : EStream → EStream) (fm : Formed cq cp s) : Formed cq cp (updStream
    s k f) := by
  unfold updStream
  try dsimp only
  repeat' first
    | with_reducible assumption
    | simp only [formed_upd]
    | split
    | dsimp only
    | intro _

/-- The meaning `execPreambleDetection` keeps the form and answers a next state. -/
theorem execPreambleDetection_formed {cq : List Instr} {cp : Prop} (ech : Fin 4096) (m : PreambleMeas) (pos : Nat) (s : State) (fm : Formed cq cp s) : OutFormed
    cq cp (execPreambleDetection ech m pos s) := by
  unfold execPreambleDetection
  try dsimp only
  repeat' first
    | with_reducible assumption
    | with_reducible apply OutFormed.ofNext
    | with_reducible apply updEch_formed
    | with_reducible apply draw_formed
    | simp only [formed_upd]
    | split
    | dsimp only
    | intro _

/-- `writeArea` keeps the form. -/
theorem writeArea_formed {cq : List Instr} {cp : Prop} (s : State) (c : EchCfg) (off : Nat) (bs : List Byte) (fm : Formed cq cp s) : Formed cq cp
    (writeArea s c off bs) := by
  unfold writeArea
  try dsimp only
  repeat' first
    | with_reducible assumption
    | with_reducible apply writeMem_formed
    | simp only [formed_upd]
    | split
    | dsimp only
    | intro _

/-- `endPacket` keeps the form. -/
theorem endPacket_formed {cq : List Instr} {cp : Prop} (s : State) (ch status : Nat) (bs : List Byte) (ferr : BitVec 16) (fm : Formed cq cp s) :
    Formed cq cp (endPacket s ch status bs ferr) := by
  unfold endPacket
  try dsimp only
  repeat' first
    | with_reducible assumption
    | with_reducible apply ringDropper_formed
    | with_reducible apply writeArea_formed
    | with_reducible apply updEch_formed
    | simp only [formed_upd]
    | split
    | dsimp only
    | intro _

/-- `cutPacket` keeps the form. -/
theorem cutPacket_formed {cq : List Instr} {cp : Prop} (s : State) (ch status upTo : Nat) (fm : Formed cq cp s) : Formed cq cp (cutPacket s ch status
    upTo) := by
  unfold cutPacket
  try dsimp only
  repeat' first
    | with_reducible assumption
    | with_reducible apply updEch_formed
    | with_reducible apply endPacket_formed
    | with_reducible apply draw_formed
    | simp only [formed_upd]
    | split
    | dsimp only
    | intro _

/-- The meaning `execSyncMiss` keeps the form and answers a next state. -/
theorem execSyncMiss_formed {cq : List Instr} {cp : Prop} (ech : Fin 4096) (s : State) (fm : Formed cq cp s) : OutFormed cq cp (execSyncMiss ech s)
    := by
  unfold execSyncMiss
  try dsimp only
  repeat' first
    | with_reducible assumption
    | with_reducible apply OutFormed.ofNext
    | with_reducible apply updEch_formed
    | simp only [formed_upd]
    | split
    | dsimp only
    | intro _

/-- The meaning `execSyncWordFound` keeps the form and answers a next state. -/
theorem execSyncWordFound_formed {cq : List Instr} {cp : Prop} (ech : Fin 4096) (m : SyncMeas) (s : State) (fm : Formed cq cp s) : OutFormed cq cp
    (execSyncWordFound ech m s) := by
  unfold execSyncWordFound
  try dsimp only
  repeat' first
    | with_reducible assumption
    | with_reducible apply OutFormed.ofNext
    | with_reducible apply updEch_formed
    | simp only [formed_upd]
    | split
    | dsimp only
    | intro _

/-- The meaning `execLengthField` keeps the form and answers a next state. -/
theorem execLengthField_formed {cq : List Instr} {cp : Prop} (ech : Fin 4096) (syms : List SymDec) (s : State) (fm : Formed cq cp s) : OutFormed cq
    cp (execLengthField ech syms s) := by
  unfold execLengthField
  try dsimp only
  repeat' first
    | with_reducible assumption
    | with_reducible apply OutFormed.ofNext
    | with_reducible apply updEch_formed
    | with_reducible apply endPacket_formed
    | with_reducible apply draw_formed
    | simp only [formed_upd]
    | split
    | dsimp only
    | intro _

/-- The meaning `execPacketEnd` keeps the form and answers a next state. -/
theorem execPacketEnd_formed {cq : List Instr} {cp : Prop} (ech : Fin 4096) (syms : List SymDec) (ferr : BitVec 16) (s : State) (fm : Formed cq cp s)
    : OutFormed cq cp (execPacketEnd ech syms ferr s) := by
  unfold execPacketEnd
  try dsimp only
  repeat' first
    | with_reducible assumption
    | with_reducible apply OutFormed.ofNext
    | with_reducible apply updEch_formed
    | with_reducible apply endPacket_formed
    | simp only [formed_upd]
    | split
    | dsimp only
    | intro _

/-- The meaning `execCapture` keeps the form and answers a next state. -/
theorem execCapture_formed {cq : List Instr} {cp : Prop} (ech : Fin 4096) (m : PreambleMeas) (pos : Nat) (s : State) (fm : Formed cq cp s) : OutFormed cq cp
    (execCapture ech m pos s) := by
  unfold execCapture
  try dsimp only
  repeat' first
    | with_reducible assumption
    | with_reducible apply OutFormed.ofNext
    | with_reducible apply cutPacket_formed
    | with_reducible apply updEch_formed
    | simp only [formed_upd]
    | split
    | dsimp only
    | intro _

/-- `lostStream` keeps the form. -/
theorem lostStream_formed {cq : List Instr} {cp : Prop} (looks : Bool) (s : State) (k : Nat) (fm : Formed cq cp s) : Formed cq cp (lostStream looks s
    k) := by
  unfold lostStream
  try dsimp only
  repeat' first
    | with_reducible assumption
    | with_reducible apply Formed.foldl
    | with_reducible apply Formed.foldlFst
    | with_reducible apply cutPacket_formed
    | with_reducible apply updEch_formed
    | simp only [formed_upd]
    | split
    | dsimp only
    | intro _

/-- `lostFlow` keeps the form. -/
theorem lostFlow_formed {cq : List Instr} {cp : Prop} (s : State) (flow : Nat) (fm : Formed cq cp s) : Formed cq cp (lostFlow s flow) := by
  unfold lostFlow
  try dsimp only
  repeat' first
    | with_reducible assumption
    | with_reducible apply Formed.foldl
    | with_reducible apply Formed.foldlFst
    | with_reducible apply updStream_formed
    | with_reducible apply lostStream_formed
    | simp only [formed_upd]
    | split
    | dsimp only
    | intro _

/-- `nbStream` keeps the form. -/
theorem nbStream_formed {cq : List Instr} {cp : Prop} (seq ts : Nat) (p : NbPlane) (s : State) (k : Nat) (fm : Formed cq cp s) : Formed cq cp
    (nbStream seq ts p s k) := by
  unfold nbStream
  try dsimp only
  repeat' first
    | with_reducible assumption
    | with_reducible apply updStream_formed
    | with_reducible apply lostStream_formed
    | split
    | dsimp only
    | intro _

/-- `nbPacket` keeps the form. -/
theorem nbPacket_formed {cq : List Instr} {cp : Prop} (s : State) (flow seq ts : Nat) (p : NbPlane) (fm : Formed cq cp s) : Formed cq cp (nbPacket s
    flow seq ts p) := by
  unfold nbPacket
  try dsimp only
  repeat' first
    | with_reducible assumption
    | with_reducible apply Formed.foldl
    | with_reducible apply Formed.foldlFst
    | with_reducible apply nbStream_formed
    | simp only [formed_upd]
    | split
    | dsimp only
    | intro _

/-- The meaning `execEchoStreamSet` keeps the form and answers a next state. -/
theorem execEchoStreamSet_formed {cq : List Instr} {cp : Prop} (pair : Fin 176) (s : State) (fm : Formed cq cp s) : OutFormed cq cp
    (execEchoStreamSet pair s) := by
  unfold execEchoStreamSet
  try dsimp only
  repeat' first
    | with_reducible assumption
    | with_reducible apply OutFormed.ofNext
    | with_reducible apply withNci_formed
    | with_reducible apply updStream_formed
    | split
    | dsimp only
    | intro _

/-- The meaning `execEchoChSet` keeps the form and answers a next state. -/
theorem execEchoChSet_formed {cq : List Instr} {cp : Prop} (pair : Fin 176) (s : State) (fm : Formed cq cp s) : OutFormed cq cp (execEchoChSet pair
    s) := by
  unfold execEchoChSet
  try dsimp only
  repeat' first
    | with_reducible assumption
    | with_reducible apply OutFormed.ofNext
    | with_reducible apply withNci_formed
    | with_reducible apply updEch_formed
    | split
    | dsimp only
    | intro _

/-- The meaning `execEchoChDisable` keeps the form and answers a next state. -/
theorem execEchoChDisable_formed {cq : List Instr} {cp : Prop} (pair : Fin 176) (s : State) (fm : Formed cq cp s) : OutFormed cq cp
    (execEchoChDisable pair s) := by
  unfold execEchoChDisable
  try dsimp only
  repeat' first
    | with_reducible assumption
    | with_reducible apply OutFormed.ofNext
    | with_reducible apply withNci_formed
    | with_reducible apply updEch_formed
    | with_reducible apply cutPacket_formed
    | split
    | dsimp only
    | intro _

/-- The meaning `execEchoChStatus` keeps the form and answers a next state. -/
theorem execEchoChStatus_formed {cq : List Instr} {cp : Prop} (pair : Fin 176) (s : State) (fm : Formed cq cp s) : OutFormed cq cp (execEchoChStatus
    pair s) := by
  unfold execEchoChStatus
  try dsimp only
  repeat' first
    | with_reducible assumption
    | with_reducible apply OutFormed.ofNext
    | with_reducible apply withNci_formed
    | with_reducible apply draw_formed
    | split
    | dsimp only
    | intro _

/-- The meaning `execEchoStreamStatus` keeps the form and answers a next state. -/
theorem execEchoStreamStatus_formed {cq : List Instr} {cp : Prop} (pair : Fin 176) (s : State) (fm : Formed cq cp s) : OutFormed cq cp
    (execEchoStreamStatus pair s) := by
  unfold execEchoStreamStatus
  try dsimp only
  repeat' first
    | with_reducible assumption
    | with_reducible apply OutFormed.ofNext
    | with_reducible apply withNci_formed
    | split
    | dsimp only
    | intro _

/-- `setAside` keeps the form. -/
theorem setAside_formed {cq : List Instr} {cp : Prop} (s : State) (k : Nat) (fm : Formed cq cp s) : Formed cq cp (setAside s k) := by
  unfold setAside
  try dsimp only
  repeat' first
    | with_reducible assumption
    | with_reducible apply updFlow_formed
    | simp only [formed_upd]
    | split
    | dsimp only
    | intro _

/-- `flowEvent` keeps the form. -/
theorem flowEvent_formed {cq : List Instr} {cp : Prop} (s : State) (k kind cause t : Nat) (data : List Byte) (fm : Formed cq cp s) : Formed cq cp
    (flowEvent s k kind cause t data) := by
  unfold flowEvent
  try dsimp only
  repeat' first
    | with_reducible assumption
    | with_reducible apply raiseLantern_formed
    | with_reducible apply updFlow_formed
    | with_reducible apply ringNerzon_formed
    | simp only [formed_upd]
    | split
    | dsimp only
    | intro _

/-- `writeEnergy` keeps the form. -/
theorem writeEnergy_formed {cq : List Instr} {cp : Prop} (s : State) (k g : Nat) (fm : Formed cq cp s) : Formed cq cp (writeEnergy s k g) := by
  unfold writeEnergy
  try dsimp only
  repeat' first
    | with_reducible assumption
    | with_reducible apply writeMem_formed
    | with_reducible apply updFlow_formed
    | simp only [formed_upd]
    | split
    | dsimp only
    | intro _

/-- `releaseOne` keeps the form. -/
theorem releaseOne_formed {cq : List Instr} {cp : Prop} (s : State) (k t : Nat) (closed : Bool) (fm : Formed cq cp s) : Formed cq cp (releaseOne s k
    t closed) := by
  unfold releaseOne
  try dsimp only
  repeat' first
    | with_reducible assumption
    | with_reducible apply updFlow_formed
    | with_reducible apply writeEnergy_formed
    | simp only [formed_upd]
    | split
    | dsimp only
    | intro _

/-- `pumpRelease` keeps the form. -/
theorem pumpRelease_formed {cq : List Instr} {cp : Prop} (s : State) (k t n : Nat) (h : Formed cq cp s) : Formed cq cp (pumpRelease s k t n) := by
  induction n generalizing s with
  | zero => exact h
  | succ n ih =>
    simp only [pumpRelease]
    repeat' split
    all_goals first
      | exact h
      | exact ih _ (releaseOne_formed _ _ _ _ h)

/-- `openWindow` keeps the form. -/
theorem openWindow_formed {cq : List Instr} {cp : Prop} (sym : Nat) (s : State) (k : Nat) (fm : Formed cq cp s) : Formed cq cp (openWindow sym s k)
    := by
  unfold openWindow
  try dsimp only
  repeat' first
    | with_reducible assumption
    | with_reducible apply updFlow_formed
    | simp only [formed_upd]
    | split
    | dsimp only
    | intro _

/-- The meaning `execWindowOpen` keeps the form and answers a next state. -/
theorem execWindowOpen_formed {cq : List Instr} {cp : Prop} (flow : Fin 128) (sym : Nat) (s : State) (fm : Formed cq cp s) : OutFormed cq cp
    (execWindowOpen flow sym s) := by
  unfold execWindowOpen
  try dsimp only
  repeat' first
    | with_reducible assumption
    | with_reducible apply OutFormed.ofNext
    | with_reducible apply Formed.foldl
    | with_reducible apply Formed.foldlFst
    | with_reducible apply openWindow_formed
    | simp only [formed_upd]
    | split
    | dsimp only
    | intro _

/-- `closeWindow` keeps the form. -/
theorem closeWindow_formed {cq : List Instr} {cp : Prop} (sym : Nat) (s : State) (k : Nat) (fm : Formed cq cp s) : Formed cq cp (closeWindow sym s k)
    := by
  unfold closeWindow
  try dsimp only
  repeat' first
    | with_reducible assumption
    | with_reducible apply pumpRelease_formed
    | simp only [formed_upd]
    | split
    | dsimp only
    | intro _

/-- The meaning `execWindowClose` keeps the form and answers a next state. -/
theorem execWindowClose_formed {cq : List Instr} {cp : Prop} (flow : Fin 128) (sym : Nat) (s : State) (fm : Formed cq cp s) : OutFormed cq cp
    (execWindowClose flow sym s) := by
  unfold execWindowClose
  try dsimp only
  repeat' first
    | with_reducible assumption
    | with_reducible apply OutFormed.ofNext
    | with_reducible apply Formed.foldl
    | with_reducible apply Formed.foldlFst
    | with_reducible apply closeWindow_formed
    | simp only [formed_upd]
    | split
    | dsimp only
    | intro _

/-- `writeGroup` keeps the form. -/
theorem writeGroup_formed {cq : List Instr} {cp : Prop} (c : FlowCfg) (prbs : List Staged) (base : Nat) (acc : State × Nat) (g : Nat) (h : Formed cq
    cp acc.1) :
    Formed cq cp (writeGroup c prbs base acc g).1 := by
  unfold writeGroup
  exact writeMem_formed _ _ _ _ (writeMem_formed _ _ _ _ h)

/-- `convert` keeps the form. -/
theorem convert_formed {cq : List Instr} {cp : Prop} (s : State) (r : Released) (fm : Formed cq cp s) : Formed cq cp (convert s r) := by
  unfold convert
  try dsimp only
  repeat' first
    | with_reducible assumption
    | with_reducible apply Formed.foldl
    | with_reducible apply Formed.foldlFst
    | with_reducible apply writeGroup_formed
    | with_reducible apply writeMem_formed
    | with_reducible apply updFlow_formed
    | with_reducible apply cairnSignalFor_formed
    | simp only [formed_upd]
    | split
    | dsimp only
    | intro _

/-- The meaning `execSqueezeConversion` keeps the form and answers a next state. -/
theorem execSqueezeConversion_formed {cq : List Instr} {cp : Prop} (s : State) (fm : Formed cq cp s) : OutFormed cq cp (execSqueezeConversion s) := by
  unfold execSqueezeConversion
  try dsimp only
  repeat' first
    | with_reducible assumption
    | with_reducible apply OutFormed.ofNext
    | with_reducible apply convert_formed
    | simp only [formed_upd]
    | split
    | dsimp only
    | intro _

/-- `countPort` keeps the form. -/
theorem countPort_formed {cq : List Instr} {cp : Prop} (s : State) (p : Nat) (f : LPort → LPort) (fm : Formed cq cp s) : Formed cq cp (countPort s p
    f) := by
  unfold countPort
  try dsimp only
  repeat' first
    | with_reducible assumption
    | simp only [formed_upd]
    | split
    | dsimp only
    | intro _

/-- `stagePacket` keeps the form. -/
theorem stagePacket_formed {cq : List Instr} {cp : Prop} (s : State) (k stream sym : Nat) (xs : List USection) (ts : Nat) (fm : Formed cq cp s) :
    Formed cq cp (stagePacket s k stream sym xs ts) := by
  unfold stagePacket
  try dsimp only
  repeat' first
    | with_reducible assumption
    | with_reducible apply Formed.foldl
    | with_reducible apply Formed.foldlFst
    | with_reducible apply updFlow_formed
    | with_reducible apply pumpRelease_formed
    | simp only [formed_upd]
    | split
    | dsimp only
    | intro _

/-- `haltFlow` keeps the form. -/
theorem haltFlow_formed {cq : List Instr} {cp : Prop} (s : State) (k cause ts : Nat) (data : List Byte) (fm : Formed cq cp s) : Formed cq cp
    (haltFlow s k cause ts data) := by
  unfold haltFlow
  try dsimp only
  repeat' first
    | with_reducible assumption
    | with_reducible apply updFlow_formed
    | with_reducible apply flowEvent_formed
    | with_reducible apply lostFlow_formed
    | simp only [formed_upd]
    | split
    | dsimp only
    | intro _

/-- `noFlow` keeps the form. -/
theorem noFlow_formed {cq : List Instr} {cp : Prop} (s : State) (lport : Nat) (fm : Formed cq cp s) : Formed cq cp (noFlow s lport) := by
  unfold noFlow
  try dsimp only
  repeat' first
    | with_reducible assumption
    | with_reducible apply countPort_formed
    | simp only [formed_upd]
    | split
    | dsimp only
    | intro _

/-- `flowPacket` keeps the form. -/
theorem flowPacket_formed {cq : List Instr} {cp : Prop} (s : State) (lport k stream : Nat) (tagged : Bool) (m : List Byte) (ts : Nat) (fm : Formed cq
    cp s) : Formed cq cp (flowPacket s lport k stream tagged m ts) := by
  unfold flowPacket
  try dsimp only
  repeat' first
    | with_reducible assumption
    | with_reducible apply noFlow_formed
    | with_reducible apply haltFlow_formed
    | with_reducible apply updFlow_formed
    | with_reducible apply nbPacket_formed
    | with_reducible apply stagePacket_formed
    | simp only [formed_upd]
    | split
    | dsimp only
    | intro _

/-- `ecpriFrame` keeps the form. -/
theorem ecpriFrame_formed {cq : List Instr} {cp : Prop} (s : State) (lport : Nat) (vlan : Option Nat) (m : List Byte) (ts : Nat) (fm : Formed cq cp
    s) : Formed cq cp (ecpriFrame s lport vlan m ts) := by
  unfold ecpriFrame
  try dsimp only
  repeat' first
    | with_reducible assumption
    | with_reducible apply countPort_formed
    | with_reducible apply flowPacket_formed
    | with_reducible apply noFlow_formed
    | simp only [formed_upd]
    | split
    | dsimp only
    | intro _

/-- The meaning `execFrameReceive` keeps the form and answers a next state. -/
theorem execFrameReceive_formed {cq : List Instr} {cp : Prop} (lport : Fin 32) (fcsOk : Bool) (f : Frame) (s : State) (fm : Formed cq cp s) : OutFormed cq cp
    (execFrameReceive lport fcsOk f s) := by
  unfold execFrameReceive
  try dsimp only
  repeat' first
    | with_reducible assumption
    | with_reducible apply OutFormed.ofNext
    | with_reducible apply draw_formed
    | with_reducible apply countPort_formed
    | with_reducible apply ecpriFrame_formed
    | with_reducible apply ptpFrame_formed
    | with_reducible apply esmcFrame_formed
    | simp only [formed_upd]
    | split
    | dsimp only
    | intro _

/-- `linkDown` keeps the form. -/
theorem linkDown_formed {cq : List Instr} {cp : Prop} (s : State) (l : Nat) (fm : Formed cq cp s) : Formed cq cp (linkDown s l) := by
  unfold linkDown
  try dsimp only
  repeat' first
    | with_reducible assumption
    | with_reducible apply Formed.foldl
    | with_reducible apply Formed.foldlFst
    | with_reducible apply countPort_formed
    | with_reducible apply synceTo_formed
    | with_reducible apply flowEvent_formed
    | with_reducible apply lostFlow_formed
    | simp only [formed_upd]
    | split
    | dsimp only
    | intro _

/-- The meaning `execLinkDown` keeps the form and answers a next state. -/
theorem execLinkDown_formed {cq : List Instr} {cp : Prop} (lport : Fin 32) (s : State) (fm : Formed cq cp s) : OutFormed cq cp (execLinkDown lport s)
    := by
  unfold execLinkDown
  try dsimp only
  repeat' first
    | with_reducible assumption
    | with_reducible apply OutFormed.ofNext
    | with_reducible apply linkDown_formed
    | simp only [formed_upd]
    | split
    | dsimp only
    | intro _

/-- The meaning `execLinkUp` keeps the form and answers a next state. -/
theorem execLinkUp_formed {cq : List Instr} {cp : Prop} (lport : Fin 32) (s : State) (fm : Formed cq cp s) : OutFormed cq cp (execLinkUp lport s) :=
    by
  unfold execLinkUp
  try dsimp only
  repeat' first
    | with_reducible assumption
    | with_reducible apply OutFormed.ofNext
    | with_reducible apply Formed.foldl
    | with_reducible apply Formed.foldlFst
    | with_reducible apply countPort_formed
    | with_reducible apply synceTo_formed
    | with_reducible apply flowEvent_formed
    | simp only [formed_upd]
    | split
    | dsimp only
    | intro _

/-- `degradePort` keeps the form. -/
theorem degradePort_formed {cq : List Instr} {cp : Prop} (s : State) (u : Nat) (fm : Formed cq cp s) : Formed cq cp (degradePort s u) := by
  unfold degradePort
  try dsimp only
  repeat' first
    | with_reducible assumption
    | with_reducible apply markUnit_formed
    | simp only [formed_upd]
    | split
    | dsimp only
    | intro _

/-- `parityAt` keeps the form. -/
theorem parityAt_formed {cq : List Instr} {cp : Prop} (sym : Nat) (s : State) (k : Nat) (fm : Formed cq cp s) : Formed cq cp (parityAt sym s k) := by
  unfold parityAt
  try dsimp only
  repeat' first
    | with_reducible assumption
    | with_reducible apply updFlow_formed
    | simp only [formed_upd]
    | split
    | dsimp only
    | intro _

/-- The meaning `execFhParity` keeps the form and answers a next state. -/
theorem execFhParity_formed {cq : List Instr} {cp : Prop} (flow : Fin 128) (sym : Nat) (s : State) (fm : Formed cq cp s) : OutFormed cq cp
    (execFhParity flow sym s) := by
  unfold execFhParity
  try dsimp only
  repeat' first
    | with_reducible assumption
    | with_reducible apply OutFormed.ofNext
    | with_reducible apply Formed.foldl
    | with_reducible apply Formed.foldlFst
    | with_reducible apply parityAt_formed
    | with_reducible apply degradePort_formed
    | with_reducible apply logErr_formed
    | simp only [formed_upd]
    | split
    | dsimp only
    | intro _

/-- `readUnit` keeps the form. -/
theorem readUnit_formed {cq : List Instr} {cp : Prop} (s : State) (r : Ring) (i : Word) (fm : Formed cq cp s) : Formed cq cp (readUnit s r i).2 := by
  unfold readUnit
  try dsimp only
  repeat' first
    | with_reducible assumption
    | with_reducible apply readBytes_formed
    | simp only [formed_upd]
    | split
    | dsimp only
    | intro _

/-- `readUnits` keeps the form. -/
theorem readUnits_formed {cq : List Instr} {cp : Prop} (s : State) (r : Ring) (i : Word) (n : Nat) (h : Formed cq cp s) : Formed cq cp (readUnits s r
    i n).2 := by
  induction n generalizing s i with
  | zero => exact h
  | succ n ih => exact ih _ _ (readUnit_formed _ _ _ h)

/-- `consume` keeps the form. -/
theorem consume_formed {cq : List Instr} {cp : Prop} (s : State) (n units : Nat) (fm : Formed cq cp s) : Formed cq cp (consume s n units) := by
  unfold consume
  try dsimp only
  repeat' first
    | with_reducible assumption
    | with_reducible apply ringNote_formed
    | with_reducible apply setRing_formed
    | simp only [formed_upd]
    | split
    | dsimp only
    | intro _

/-- `takeGrant` keeps the form. -/
theorem takeGrant_formed {cq : List Instr} {cp : Prop} (s : State) (n scs g m : Nat) (h : Formed cq cp s) : Formed cq cp (takeGrant s n scs g m).2 :=
    by
  induction m generalizing s with
  | zero => exact h
  | succ m ih => 
    simp only [takeGrant]
    have h1 := fun x (y : Word) z => readUnits_formed s x y z h
    repeat' split
    all_goals first
      | exact h
      | exact h1 _ _ _
      | exact ih _ (consume_formed _ _ _ (h1 _ _ _))
      | exact consume_formed _ _ _ (readUnits_formed _ _ _ _ (h1 _ _ _))

/-- `lateGrant` keeps the form. -/
theorem lateGrant_formed {cq : List Instr} {cp : Prop} (s : State) (k g : Nat) (fm : Formed cq cp s) : Formed cq cp (lateGrant s k g) := by
  unfold lateGrant
  try dsimp only
  repeat' first
    | with_reducible assumption
    | with_reducible apply flowEvent_formed
    | with_reducible apply updFlow_formed
    | simp only [formed_upd]
    | split
    | dsimp only
    | intro _

/-- `readBlock` keeps the form. -/
theorem readBlock_formed {cq : List Instr} {cp : Prop} (s : State) (ctx a : Nat) (fm : Formed cq cp s) : Formed cq cp (readBlock s ctx a).2 := by
  unfold readBlock
  try dsimp only
  repeat' first
    | with_reducible assumption
    | with_reducible apply readBytes_formed
    | simp only [formed_upd]
    | split
    | dsimp only
    | intro _

/-- `readGrant` keeps the form. -/
theorem readGrant_formed {cq : List Instr} {cp : Prop} (s : State) (k g : Nat) (fm : Formed cq cp s) : Formed cq cp (readGrant s k g) := by
  unfold readGrant
  try dsimp only
  repeat' first
    | with_reducible assumption
    | with_reducible apply lateGrant_formed
    | with_reducible apply leqPut_formed
    | with_reducible apply draw_formed
    | with_reducible apply takeGrant_formed
    | with_reducible apply readBlock_formed
    | with_reducible apply updFlow_formed
    | simp only [formed_upd]
    | split
    | dsimp only
    | intro _

/-- The meaning `execGrantRead` keeps the form and answers a next state. -/
theorem execGrantRead_formed {cq : List Instr} {cp : Prop} (flow : Fin 128) (s : State) (fm : Formed cq cp s) : OutFormed cq cp (execGrantRead flow
    s) := by
  unfold execGrantRead
  try dsimp only
  repeat' first
    | with_reducible assumption
    | with_reducible apply OutFormed.ofNext
    | with_reducible apply readGrant_formed
    | simp only [formed_upd]
    | split
    | dsimp only
    | intro _

/-- `takeSeq` keeps the form. -/
theorem takeSeq_formed {cq : List Instr} {cp : Prop} (s : State) (k stream plane : Nat) (fm : Formed cq cp s) : Formed cq cp (takeSeq s k stream
    plane).2 := by
  unfold takeSeq
  try dsimp only
  repeat' first
    | with_reducible assumption
    | with_reducible apply updFlow_formed
    | simp only [formed_upd]
    | split
    | dsimp only
    | intro _

/-- `sendEcpri` keeps the form. -/
theorem sendEcpri_formed {cq : List Instr} {cp : Prop} (s : State) (k stream mtype seq : Nat) (body : List Byte) (fm : Formed cq cp s) : Formed cq cp
    (sendEcpri s k stream mtype seq body) := by
  unfold sendEcpri
  try dsimp only
  repeat' first
    | with_reducible assumption
    | with_reducible apply emit_formed
    | simp only [formed_upd]
    | split
    | dsimp only
    | intro _

/-- `sendType1` keeps the form. -/
theorem sendType1_formed {cq : List Instr} {cp : Prop} (k g : Nat) (s : State) (stream : Nat) (ix : Option Nat) (r : Region) (fm : Formed cq cp s) :
    Formed cq cp (sendType1 k g s stream ix r) := by
  unfold sendType1
  try dsimp only
  repeat' first
    | with_reducible assumption
    | with_reducible apply takeSeq_formed
    | with_reducible apply sendEcpri_formed
    | simp only [formed_upd]
    | split
    | dsimp only
    | intro _

/-- `sendType3` keeps the form. -/
theorem sendType3_formed {cq : List Instr} {cp : Prop} (k g : Nat) (s : State) (stream ix : Nat) (r : Region) (fm : Formed cq cp s) : Formed cq cp
    (sendType3 k g s stream ix r) := by
  unfold sendType3
  try dsimp only
  repeat' first
    | with_reducible assumption
    | with_reducible apply takeSeq_formed
    | with_reducible apply sendEcpri_formed
    | simp only [formed_upd]
    | split
    | dsimp only
    | intro _

/-- `sendCplane` keeps the form. -/
theorem sendCplane_formed {cq : List Instr} {cp : Prop} (k g : Nat) (gr : Grant) (s : State) (stream : Nat) (fm : Formed cq cp s) : Formed cq cp
    (sendCplane k g gr s stream) := by
  unfold sendCplane
  try dsimp only
  repeat' first
    | with_reducible assumption
    | with_reducible apply sendType3_formed
    | with_reducible apply sendType1_formed
    | simp only [formed_upd]
    | with_reducible apply Formed.foldl
    | with_reducible apply Formed.foldlFst
    | split
    | dsimp only
    | intro _

/-- `sendSlot` keeps the form. -/
theorem sendSlot_formed {cq : List Instr} {cp : Prop} (s : State) (k : Nat) (fm : Formed cq cp s) : Formed cq cp (sendSlot s k) := by
  unfold sendSlot
  try dsimp only
  repeat' first
    | with_reducible assumption
    | with_reducible apply Formed.foldl
    | with_reducible apply Formed.foldlFst
    | with_reducible apply sendCplane_formed
    | with_reducible apply updFlow_formed
    | simp only [formed_upd]
    | split
    | dsimp only
    | intro _

/-- The meaning `execCplaneSend` keeps the form and answers a next state. -/
theorem execCplaneSend_formed {cq : List Instr} {cp : Prop} (flow : Fin 128) (s : State) (fm : Formed cq cp s) : OutFormed cq cp (execCplaneSend flow
    s) := by
  unfold execCplaneSend
  try dsimp only
  repeat' first
    | with_reducible assumption
    | with_reducible apply OutFormed.ofNext
    | with_reducible apply sendSlot_formed
    | simp only [formed_upd]
    | split
    | dsimp only
    | intro _

/-- `readPrb` keeps the form. -/
theorem readPrb_formed {cq : List Instr} {cp : Prop} (s : State) (c : FlowCfg) (base g p : Nat) (h : Formed cq cp s) : Formed cq cp (readPrb s c base
    g p).2 := readBytes_formed _ _ _ (readBytes_formed _ _ _ h)

/-- `readPrbs` keeps the form. -/
theorem readPrbs_formed {cq : List Instr} {cp : Prop} (s : State) (c : FlowCfg) (base stream : Nat) (l : List Nat) (h : Formed cq cp s) : Formed cq
    cp (readPrbs s c base stream l).2.2 := by
  induction l generalizing s with
  | nil => exact h
  | cons p l ih => exact ih _ (readPrb_formed _ _ _ _ _ h)

/-- `sendPackets` keeps the form. -/
theorem sendPackets_formed {cq : List Instr} {cp : Prop} (k stream g sym ix n : Nat) (s : State) (start : Nat) (ps : List PrbData) (m : Nat) (h :
    Formed cq cp s) : Formed cq cp (sendPackets k stream g sym ix n s start ps m) := by
  induction m generalizing s start ps with
  | zero => exact h
  | succ m ih =>
    simp only [sendPackets]
    split
    · exact h
    · exact ih _ _ _ (sendEcpri_formed _ _ _ _ _ _ (takeSeq_formed _ _ _ _ h))

/-- `sendSection` keeps the form. -/
theorem sendSection_formed {cq : List Instr} {cp : Prop} (k sym base : Nat) (late : Bool) (ix : Nat) (r : Region) (s : State) (stream : Nat) (fm :
    Formed cq cp s) : Formed cq cp (sendSection k sym base late ix r s stream) := by
  unfold sendSection
  try dsimp only
  repeat' first
    | with_reducible assumption
    | with_reducible apply readPrbs_formed
    | with_reducible apply updFlow_formed
    | with_reducible apply sendPackets_formed
    | split
    | dsimp only
    | intro _

/-- `sendSymbol` keeps the form. -/
theorem sendSymbol_formed {cq : List Instr} {cp : Prop} (s : State) (k sym : Nat) (gr : Grant) (late : Bool) (fm : Formed cq cp s) : Formed cq cp
    (sendSymbol s k sym gr late) := by
  unfold sendSymbol
  try dsimp only
  repeat' first
    | with_reducible assumption
    | with_reducible apply sendSection_formed
    | simp only [formed_upd]
    | with_reducible apply Formed.foldl
    | with_reducible apply Formed.foldlFst
    | split
    | dsimp only
    | intro _

/-- `stepSend` keeps the form. -/
theorem stepSend_formed {cq : List Instr} {cp : Prop} (s : State) (k : Nat) (fm : Formed cq cp s) : Formed cq cp (stepSend s k) := by
  unfold stepSend
  try dsimp only
  repeat' first
    | with_reducible assumption
    | with_reducible apply updFlow_formed
    | simp only [formed_upd]
    | split
    | dsimp only
    | intro _

/-- `sendLate` keeps the form. -/
theorem sendLate_formed {cq : List Instr} {cp : Prop} (s : State) (k : Nat) (gr : Grant) (fm : Formed cq cp s) : Formed cq cp (sendLate s k gr) := by
  unfold sendLate
  try dsimp only
  repeat' first
    | with_reducible assumption
    | with_reducible apply updFlow_formed
    | with_reducible apply sendSymbol_formed
    | simp only [formed_upd]
    | split
    | dsimp only
    | intro _

/-- `sendNext` keeps the form. -/
theorem sendNext_formed {cq : List Instr} {cp : Prop} (s : State) (k : Nat) (fm : Formed cq cp s) : Formed cq cp (sendNext s k) := by
  unfold sendNext
  try dsimp only
  repeat' first
    | with_reducible assumption
    | with_reducible apply stepSend_formed
    | with_reducible apply sendLate_formed
    | with_reducible apply cairnTry_formed
    | with_reducible apply sendSymbol_formed
    | simp only [formed_upd]
    | split
    | dsimp only
    | intro _

/-- The meaning `execUplaneSend` keeps the form and answers a next state. -/
theorem execUplaneSend_formed {cq : List Instr} {cp : Prop} (flow : Fin 128) (s : State) (fm : Formed cq cp s) : OutFormed cq cp (execUplaneSend flow
    s) := by
  unfold execUplaneSend
  try dsimp only
  repeat' first
    | with_reducible assumption
    | with_reducible apply OutFormed.ofNext
    | with_reducible apply sendNext_formed
    | simp only [formed_upd]
    | split
    | dsimp only
    | intro _

/-- The meaning `execFhPortSet` keeps the form and answers a next state. -/
theorem execFhPortSet_formed {cq : List Instr} {cp : Prop} (pair : Fin 176) (s : State) (fm : Formed cq cp s) : OutFormed cq cp (execFhPortSet pair
    s) := by
  unfold execFhPortSet
  try dsimp only
  repeat' first
    | with_reducible assumption
    | with_reducible apply OutFormed.ofNext
    | with_reducible apply Formed.foldl
    | with_reducible apply Formed.foldlFst
    | with_reducible apply withNci_formed
    | with_reducible apply linkDown_formed
    | simp only [formed_upd]
    | split
    | dsimp only
    | intro _

/-- The meaning `execFhPortStatus` keeps the form and answers a next state. -/
theorem execFhPortStatus_formed {cq : List Instr} {cp : Prop} (pair : Fin 176) (s : State) (fm : Formed cq cp s) : OutFormed cq cp (execFhPortStatus
    pair s) := by
  unfold execFhPortStatus
  try dsimp only
  repeat' first
    | with_reducible assumption
    | with_reducible apply OutFormed.ofNext
    | with_reducible apply withNci_formed
    | split
    | dsimp only
    | intro _

/-- `readEaxc` keeps the form. -/
theorem readEaxc_formed {cq : List Instr} {cp : Prop} (s : State) (a n : Nat) (fm : Formed cq cp s) : Formed cq cp (readEaxc s a n).2.2 := by
  unfold readEaxc
  try dsimp only
  repeat' first
    | with_reducible assumption
    | with_reducible apply readBytes_formed
    | with_reducible apply readMemWords_formed
    | simp only [formed_upd]
    | split
    | dsimp only
    | intro _

/-- The meaning `execFhFlowSet` keeps the form and answers a next state. -/
theorem execFhFlowSet_formed {cq : List Instr} {cp : Prop} (pair : Fin 176) (s : State) (fm : Formed cq cp s) : OutFormed cq cp (execFhFlowSet pair
    s) := by
  unfold execFhFlowSet
  try dsimp only
  repeat' first
    | with_reducible assumption
    | with_reducible apply OutFormed.ofNext
    | with_reducible apply withNci_formed
    | with_reducible apply readEaxc_formed
    | with_reducible apply updFlow_formed
    | with_reducible apply draw_formed
    | with_reducible apply setAside_formed
    | split
    | dsimp only
    | intro _

/-- The meaning `execFhFlowArm` keeps the form and answers a next state. -/
theorem execFhFlowArm_formed {cq : List Instr} {cp : Prop} (pair : Fin 176) (s : State) (fm : Formed cq cp s) : OutFormed cq cp (execFhFlowArm pair
    s) := by
  unfold execFhFlowArm
  try dsimp only
  repeat' first
    | with_reducible assumption
    | with_reducible apply OutFormed.ofNext
    | with_reducible apply withNci_formed
    | with_reducible apply updFlow_formed
    | split
    | dsimp only
    | intro _

/-- The meaning `execFhFlowStop` keeps the form and answers a next state. -/
theorem execFhFlowStop_formed {cq : List Instr} {cp : Prop} (pair : Fin 176) (s : State) (fm : Formed cq cp s) : OutFormed cq cp (execFhFlowStop pair
    s) := by
  unfold execFhFlowStop
  try dsimp only
  repeat' first
    | with_reducible assumption
    | with_reducible apply OutFormed.ofNext
    | with_reducible apply withNci_formed
    | with_reducible apply updFlow_formed
    | with_reducible apply setAside_formed
    | split
    | dsimp only
    | intro _

/-- The meaning `execFhFlowStatus` keeps the form and answers a next state. -/
theorem execFhFlowStatus_formed {cq : List Instr} {cp : Prop} (pair : Fin 176) (s : State) (fm : Formed cq cp s) : OutFormed cq cp (execFhFlowStatus
    pair s) := by
  unfold execFhFlowStatus
  try dsimp only
  repeat' first
    | with_reducible assumption
    | with_reducible apply OutFormed.ofNext
    | with_reducible apply withNci_formed
    | split
    | dsimp only
    | intro _

/-- `tickFlow` keeps the form. -/
theorem tickFlow_formed {cq : List Instr} {cp : Prop} (t : Nat) (s : State) (k : Nat) (fm : Formed cq cp s) : Formed cq cp (tickFlow t s k) := by
  unfold tickFlow
  try dsimp only
  repeat' first
    | with_reducible assumption
    | with_reducible apply updFlow_formed
    | with_reducible apply lostFlow_formed
    | simp only [formed_upd]
    | split
    | dsimp only
    | intro _

/-- `tickFlows` keeps the form. -/
theorem tickFlows_formed {cq : List Instr} {cp : Prop} (s : State) (t : Nat) (fm : Formed cq cp s) : Formed cq cp (tickFlows s t) := by
  unfold tickFlows
  try dsimp only
  repeat' first
    | with_reducible assumption
    | with_reducible apply tickFlow_formed
    | simp only [formed_upd]
    | with_reducible apply Formed.foldl
    | with_reducible apply Formed.foldlFst
    | split
    | dsimp only
    | intro _

end Sys2Proof.Machine
end

