-- ==== Sys2Proof/Laws/KeptBoard.lean ====
section
/-! SUPPORT. The meanings of the decoders, the schedule, the flowstone and the board keep the form. -/

namespace Sys2Proof.Machine

/-- The meaning `execDecSubmit` keeps the form and answers a next state. -/
theorem execDecSubmit_formed {cq : List Instr} {cp : Prop} (ch : Fin 144) (hi : Word) (s : State) (fm : Formed cq cp s) : OutFormed cq cp
    (execDecSubmit ch hi s) := by
  unfold execDecSubmit
  try dsimp only
  repeat' first
    | with_reducible assumption
    | with_reducible apply OutFormed.ofNext
    | with_reducible apply Formed.iteWr
    | simp only [WrRes.st_bus]
    | with_reducible apply chmWrote_formed
    | with_reducible apply csrWrite_formed
    | simp only [formed_upd]
    | split
    | dsimp only
    | intro _

/-- `runTask` keeps the form. -/
theorem runTask_formed {cq : List Instr} {cp : Prop} (s : State) (i u : Nat) (r : RunTask) (fm : Formed cq cp s) : Formed cq cp (runTask s i u r) :=
    by
  unfold runTask
  try dsimp only
  repeat' first
    | with_reducible assumption
    | simp only [formed_upd]
    | split
    | dsimp only
    | intro _

/-- `readSoft` keeps the form. -/
theorem readSoft_formed {cq : List Instr} {cp : Prop} (s : State) (a n : Nat) (h : Formed cq cp s) : Formed cq cp (readSoft s a n).2.2 := by
  induction n generalizing s a with
  | zero => exact h
  | succ n ih => exact ih _ _ (readWord_formed _ _ h)

/-- `readHarq` keeps the form. -/
theorem readHarq_formed {cq : List Instr} {cp : Prop} (s : State) (a n : Nat) (h : Formed cq cp s) : Formed cq cp (readHarq s a n).2.2 := by
  induction n generalizing s a with
  | zero => exact h
  | succ n ih => exact ih _ _ (readWord_formed _ _ h)

/-- `combineTask` keeps the form. -/
theorem combineTask_formed {cq : List Instr} {cp : Prop} (s : State) (t : Task) (fm : Formed cq cp s) : Formed cq cp (combineTask s t).2 := by
  unfold combineTask
  try dsimp only
  repeat' first
    | with_reducible assumption
    | with_reducible apply readSoft_formed
    | with_reducible apply readMemWords_formed
    | with_reducible apply readHarq_formed
    | with_reducible apply writeMem_formed
    | with_reducible apply harqInvalid_formed
    | simp only [formed_upd]
    | split
    | dsimp only
    | intro _

/-- The meaning `execDecodeTaskStart` keeps the form and answers a next state. -/
theorem execDecodeTaskStart_formed {cq : List Instr} {cp : Prop} (s : State) (fm : Formed cq cp s) : OutFormed cq cp (execDecodeTaskStart s) := by
  unfold execDecodeTaskStart
  try dsimp only
  repeat' first
    | with_reducible assumption
    | with_reducible apply OutFormed.ofNext
    | with_reducible apply combineTask_formed
    | with_reducible apply runTask_formed
    | simp only [formed_upd]
    | split
    | dsimp only
    | intro _

/-- `readBits` keeps the form. -/
theorem readBits_formed {cq : List Instr} {cp : Prop} (s : State) (a n : Nat) (fm : Formed cq cp s) : Formed cq cp (readBits s a n).2 := by
  unfold readBits
  try dsimp only
  repeat' first
    | with_reducible assumption
    | with_reducible apply readBytes_formed
    | simp only [formed_upd]
    | split
    | dsimp only
    | intro _

/-- `writeBits` keeps the form. -/
theorem writeBits_formed {cq : List Instr} {cp : Prop} (s : State) (a obit : Nat) (bits : List Bool) (fm : Formed cq cp s) : Formed cq cp (writeBits
    s a obit bits) := by
  unfold writeBits
  try dsimp only
  repeat' first
    | with_reducible assumption
    | with_reducible apply readBytes_formed
    | with_reducible apply writeMem_formed
    | split
    | dsimp only
    | intro _

/-- `writeWord32` keeps the form. -/
theorem writeWord32_formed {cq : List Instr} {cp : Prop} (s : State) (a : Nat) (w : Word) (fm : Formed cq cp s) : Formed cq cp (writeWord32 s a w) :=
    by
  unfold writeWord32
  try dsimp only
  repeat' first
    | with_reducible assumption
    | with_reducible apply writeMem_formed
    | simp only [formed_upd]
    | split
    | dsimp only
    | intro _

/-- `finishBlock` keeps the form. -/
theorem finishBlock_formed {cq : List Instr} {cp : Prop} (s : State) (ctx tbr : Nat) (ws : List Word) (w5 : Nat) (fm : Formed cq cp s) : Formed cq cp
    (finishBlock s ctx tbr ws w5) := by
  unfold finishBlock
  try dsimp only
  repeat' first
    | with_reducible assumption
    | with_reducible apply readBits_formed
    | with_reducible apply writeWord32_formed
    | with_reducible apply cairnSignalFor_formed
    | simp only [formed_upd]
    | split
    | dsimp only
    | intro _

/-- `updateRecord` keeps the form. -/
theorem updateRecord_formed {cq : List Instr} {cp : Prop} (s : State) (r : RunTask) (iters : Nat) (passed : Bool) (tbr : Nat) (ws : List Word) (fm :
    Formed cq cp s) : Formed cq cp (updateRecord s r iters passed tbr ws) := by
  unfold updateRecord
  try dsimp only
  repeat' first
    | with_reducible assumption
    | with_reducible apply writeMem_formed
    | with_reducible apply writeWord32_formed
    | with_reducible apply finishBlock_formed
    | simp only [formed_upd]
    | split
    | dsimp only
    | intro _

/-- `taskCairn` keeps the form. -/
theorem taskCairn_formed {cq : List Instr} {cp : Prop} (s : State) (t : Task) (fm : Formed cq cp s) : Formed cq cp (taskCairn s t) := by
  unfold taskCairn
  try dsimp only
  repeat' first
    | with_reducible assumption
    | with_reducible apply cairnSignalFor_formed
    | simp only [formed_upd]
    | split
    | dsimp only
    | intro _

/-- `endDecode` keeps the form. -/
theorem endDecode_formed {cq : List Instr} {cp : Prop} (s : State) (u : Nat) (r : RunTask) (fm : Formed cq cp s) : Formed cq cp (endDecode s u r) :=
    by
  unfold endDecode
  try dsimp only
  repeat' first
    | with_reducible assumption
    | with_reducible apply harqHeader_formed
    | with_reducible apply readMemWords_formed
    | with_reducible apply writeBits_formed
    | with_reducible apply updateRecord_formed
    | with_reducible apply applyFlush_formed
    | with_reducible apply taskCairn_formed
    | simp only [formed_upd]
    | split
    | dsimp only
    | intro _

/-- The meaning `execDecodeTaskEnd` keeps the form and answers a next state. -/
theorem execDecodeTaskEnd_formed {cq : List Instr} {cp : Prop} (unit : Fin 16) (s : State) (fm : Formed cq cp s) : OutFormed cq cp (execDecodeTaskEnd
    unit s) := by
  unfold execDecodeTaskEnd
  try dsimp only
  repeat' first
    | with_reducible assumption
    | with_reducible apply OutFormed.ofNext
    | with_reducible apply endDecode_formed
    | simp only [formed_upd]
    | split
    | dsimp only
    | intro _

/-- The meaning `execEncodeTaskStart` keeps the form and answers a next state. -/
theorem execEncodeTaskStart_formed {cq : List Instr} {cp : Prop} (s : State) (fm : Formed cq cp s) : OutFormed cq cp (execEncodeTaskStart s) := by
  unfold execEncodeTaskStart
  try dsimp only
  repeat' first
    | with_reducible assumption
    | with_reducible apply OutFormed.ofNext
    | with_reducible apply runTask_formed
    | simp only [formed_upd]
    | split
    | dsimp only
    | intro _

/-- The meaning `execEncodeTaskEnd` keeps the form and answers a next state. -/
theorem execEncodeTaskEnd_formed {cq : List Instr} {cp : Prop} (unit : Fin 4) (s : State) (fm : Formed cq cp s) : OutFormed cq cp (execEncodeTaskEnd
    unit s) := by
  unfold execEncodeTaskEnd
  try dsimp only
  repeat' first
    | with_reducible assumption
    | with_reducible apply OutFormed.ofNext
    | with_reducible apply readBits_formed
    | with_reducible apply writeBits_formed
    | with_reducible apply taskCairn_formed
    | simp only [formed_upd]
    | split
    | dsimp only
    | intro _

/-- `updChain` keeps the form. -/
theorem updChain_formed {cq : List Instr} {cp : Prop} (s : State) (k : Nat) (f : RxChain → RxChain) (fm : Formed cq cp s) : Formed cq cp (updChain s
    k f) := by
  unfold updChain
  try dsimp only
  repeat' first
    | with_reducible assumption
    | simp only [formed_upd]
    | split
    | dsimp only
    | intro _

/-- The meaning `execChainSet` keeps the form and answers a next state. -/
theorem execChainSet_formed {cq : List Instr} {cp : Prop} (pair : Fin 176) (s : State) (fm : Formed cq cp s) : OutFormed cq cp (execChainSet pair s)
    := by
  unfold execChainSet
  try dsimp only
  repeat' first
    | with_reducible assumption
    | with_reducible apply OutFormed.ofNext
    | with_reducible apply withNci_formed
    | with_reducible apply draw_formed
    | with_reducible apply updChain_formed
    | split
    | dsimp only
    | intro _

/-- The meaning `execChainClear` keeps the form and answers a next state. -/
theorem execChainClear_formed {cq : List Instr} {cp : Prop} (pair : Fin 176) (s : State) (fm : Formed cq cp s) : OutFormed cq cp (execChainClear pair
    s) := by
  unfold execChainClear
  try dsimp only
  repeat' first
    | with_reducible assumption
    | with_reducible apply OutFormed.ofNext
    | with_reducible apply withNci_formed
    | with_reducible apply updChain_formed
    | split
    | dsimp only
    | intro _

/-- The meaning `execChainStatus` keeps the form and answers a next state. -/
theorem execChainStatus_formed {cq : List Instr} {cp : Prop} (pair : Fin 176) (s : State) (fm : Formed cq cp s) : OutFormed cq cp (execChainStatus
    pair s) := by
  unfold execChainStatus
  try dsimp only
  repeat' first
    | with_reducible assumption
    | with_reducible apply OutFormed.ofNext
    | with_reducible apply withNci_formed
    | split
    | dsimp only
    | intro _

/-- `flushOne` keeps the form. -/
theorem flushOne_formed {cq : List Instr} {cp : Prop} (s : State) (a : Nat) (fm : Formed cq cp s) : Formed cq cp (flushOne s a) := by
  unfold flushOne
  try dsimp only
  repeat' first
    | with_reducible assumption
    | with_reducible apply harqInvalid_formed
    | simp only [formed_upd]
    | split
    | dsimp only
    | intro _

/-- The meaning `execHarqFlush` keeps the form and answers a next state. -/
theorem execHarqFlush_formed {cq : List Instr} {cp : Prop} (pair : Fin 176) (s : State) (fm : Formed cq cp s) : OutFormed cq cp (execHarqFlush pair
    s) := by
  unfold execHarqFlush
  try dsimp only
  repeat' first
    | with_reducible assumption
    | with_reducible apply OutFormed.ofNext
    | with_reducible apply withNci_formed
    | with_reducible apply flushOne_formed
    | with_reducible apply Formed.foldl
    | with_reducible apply Formed.foldlFst
    | split
    | dsimp only
    | intro _

/-- The meaning `execLdpcOffsetsSet` keeps the form and answers a next state. -/
theorem execLdpcOffsetsSet_formed {cq : List Instr} {cp : Prop} (pair : Fin 176) (s : State) (fm : Formed cq cp s) : OutFormed cq cp
    (execLdpcOffsetsSet pair s) := by
  unfold execLdpcOffsetsSet
  try dsimp only
  repeat' first
    | with_reducible assumption
    | with_reducible apply OutFormed.ofNext
    | with_reducible apply withNci_formed
    | with_reducible apply readBytes_formed
    | simp only [formed_upd]
    | split
    | dsimp only
    | intro _

/-- The meaning `execDecStatus` keeps the form and answers a next state. -/
theorem execDecStatus_formed {cq : List Instr} {cp : Prop} (pair : Fin 176) (s : State) (fm : Formed cq cp s) : OutFormed cq cp (execDecStatus pair
    s) := by
  unfold execDecStatus
  try dsimp only
  repeat' first
    | with_reducible assumption
    | with_reducible apply OutFormed.ofNext
    | with_reducible apply withNci_formed
    | split
    | dsimp only
    | intro _

/-- The meaning `execCtxSet` keeps the form and answers a next state. -/
theorem execCtxSet_formed {cq : List Instr} {cp : Prop} (pair : Fin 176) (s : State) (fm : Formed cq cp s) : OutFormed cq cp (execCtxSet pair s) := by
  unfold execCtxSet
  try dsimp only
  repeat' first
    | with_reducible assumption
    | with_reducible apply OutFormed.ofNext
    | with_reducible apply withNci_formed
    | with_reducible apply updCtx_formed
    | split
    | dsimp only
    | intro _

/-- `clearCtx` keeps the form. -/
theorem clearCtx_formed {cq : List Instr} {cp : Prop} (s : State) (k : Nat) (fm : Formed cq cp s) : Formed cq cp (clearCtx s k) := by
  unfold clearCtx
  try dsimp only
  repeat' first
    | with_reducible assumption
    | with_reducible apply updCtx_formed
    | with_reducible apply zeroChanged_formed
    | with_reducible apply gateIdle_formed
    | simp only [formed_upd]
    | split
    | dsimp only
    | intro _

/-- The meaning `execCtxClear` keeps the form and answers a next state. -/
theorem execCtxClear_formed {cq : List Instr} {cp : Prop} (pair : Fin 176) (s : State) (fm : Formed cq cp s) : OutFormed cq cp (execCtxClear pair s)
    := by
  unfold execCtxClear
  try dsimp only
  repeat' first
    | with_reducible assumption
    | with_reducible apply OutFormed.ofNext
    | with_reducible apply withNci_formed
    | with_reducible apply clearCtx_formed
    | split
    | dsimp only
    | intro _

/-- The meaning `execTmplSet` keeps the form and answers a next state. -/
theorem execTmplSet_formed {cq : List Instr} {cp : Prop} (pair : Fin 176) (s : State) (fm : Formed cq cp s) : OutFormed cq cp (execTmplSet pair s) :=
    by
  unfold execTmplSet
  try dsimp only
  repeat' first
    | with_reducible assumption
    | with_reducible apply OutFormed.ofNext
    | with_reducible apply withNci_formed
    | with_reducible apply readMemWords_formed
    | simp only [formed_upd]
    | split
    | dsimp only
    | intro _

/-- The meaning `execTmplClear` keeps the form and answers a next state. -/
theorem execTmplClear_formed {cq : List Instr} {cp : Prop} (pair : Fin 176) (s : State) (fm : Formed cq cp s) : OutFormed cq cp (execTmplClear pair
    s) := by
  unfold execTmplClear
  try dsimp only
  repeat' first
    | with_reducible assumption
    | with_reducible apply OutFormed.ofNext
    | with_reducible apply withNci_formed
    | simp only [formed_upd]
    | split
    | dsimp only
    | intro _

/-- The meaning `execSurveyStage` keeps the form and answers a next state. -/
theorem execSurveyStage_formed {cq : List Instr} {cp : Prop} (pair : Fin 176) (s : State) (fm : Formed cq cp s) : OutFormed cq cp (execSurveyStage
    pair s) := by
  unfold execSurveyStage
  try dsimp only
  repeat' first
    | with_reducible assumption
    | with_reducible apply OutFormed.ofNext
    | with_reducible apply withNci_formed
    | with_reducible apply readMemWords_formed
    | simp only [formed_upd]
    | split
    | dsimp only
    | intro _

/-- The meaning `execSurveyCommit` keeps the form and answers a next state. -/
theorem execSurveyCommit_formed {cq : List Instr} {cp : Prop} (pair : Fin 176) (s : State) (fm : Formed cq cp s) : OutFormed cq cp (execSurveyCommit
    pair s) := by
  unfold execSurveyCommit
  try dsimp only
  repeat' first
    | with_reducible assumption
    | with_reducible apply OutFormed.ofNext
    | with_reducible apply withNciPick_formed
    | simp only [formed_upd]
    | split
    | dsimp only
    | intro _

/-- The meaning `execSurveyCommitCancel` keeps the form and answers a next state. -/
theorem execSurveyCommitCancel_formed {cq : List Instr} {cp : Prop} (pair : Fin 176) (s : State) (fm : Formed cq cp s) : OutFormed cq cp
    (execSurveyCommitCancel pair s) := by
  unfold execSurveyCommitCancel
  try dsimp only
  repeat' first
    | with_reducible assumption
    | with_reducible apply OutFormed.ofNext
    | with_reducible apply withNciPick_formed
    | simp only [formed_upd]
    | split
    | dsimp only
    | intro _

/-- The meaning `execSchedStatus` keeps the form and answers a next state. -/
theorem execSchedStatus_formed {cq : List Instr} {cp : Prop} (pair : Fin 176) (s : State) (fm : Formed cq cp s) : OutFormed cq cp (execSchedStatus
    pair s) := by
  unfold execSchedStatus
  try dsimp only
  repeat' first
    | with_reducible assumption
    | with_reducible apply OutFormed.ofNext
    | with_reducible apply withNci_formed
    | split
    | dsimp only
    | intro _

/-- The meaning `execCfgCommit` keeps the form and answers a next state. -/
theorem execCfgCommit_formed {cq : List Instr} {cp : Prop} (pair : Fin 176) (s : State) (fm : Formed cq cp s) : OutFormed cq cp (execCfgCommit pair
    s) := by
  unfold execCfgCommit
  try dsimp only
  repeat' first
    | with_reducible assumption
    | with_reducible apply OutFormed.ofNext
    | with_reducible apply withNci_formed
    | simp only [formed_upd]
    | with_reducible apply Formed.mapChms
    | split
    | dsimp only
    | intro _

/-- The meaning `execDetSet` keeps the form and answers a next state. -/
theorem execDetSet_formed {cq : List Instr} {cp : Prop} (pair : Fin 176) (s : State) (fm : Formed cq cp s) : OutFormed cq cp (execDetSet pair s) := by
  unfold execDetSet
  try dsimp only
  repeat' first
    | with_reducible assumption
    | with_reducible apply OutFormed.ofNext
    | with_reducible apply withNci_formed
    | simp only [formed_upd]
    | split
    | dsimp only
    | intro _

/-- `tickUnits` keeps the form. -/
theorem tickUnits_formed {cq : List Instr} {cp : Prop} (s : State) (fm : Formed cq cp s) : Formed cq cp (tickUnits s) := by
  unfold tickUnits
  try dsimp only
  repeat' first
    | with_reducible assumption
    | with_reducible apply Formed.foldl
    | with_reducible apply Formed.foldlFst
    | with_reducible apply Formed.mapChms
    | with_reducible apply logErr_formed
    | simp only [formed_upd]
    | split
    | dsimp only
    | intro _

/-- `commitSurvey` keeps the form. -/
theorem commitSurvey_formed {cq : List Instr} {cp : Prop} (s : State) (aslot : Nat) (fm : Formed cq cp s) : Formed cq cp (commitSurvey s aslot) := by
  unfold commitSurvey
  try dsimp only
  repeat' first
    | with_reducible assumption
    | with_reducible apply ringNerzon_formed
    | simp only [formed_upd]
    | with_reducible apply Formed.foldl
    | with_reducible apply Formed.foldlFst
    | split
    | dsimp only
    | intro _

/-- `hyperTick` keeps the form. -/
theorem hyperTick_formed {cq : List Instr} {cp : Prop} (s : State) (aslot : Nat) (fm : Formed cq cp s) : Formed cq cp (hyperTick s aslot) := by
  unfold hyperTick
  try dsimp only
  repeat' first
    | with_reducible assumption
    | with_reducible apply commitSurvey_formed
    | with_reducible apply refreeze_formed
    | simp only [formed_upd]
    | split
    | dsimp only
    | intro _

/-- `applyChange` keeps the form. -/
theorem applyChange_formed {cq : List Instr} {cp : Prop} (s : State) (k : Nat) (c : ChainCfg) (status aslot : Nat) (fm : Formed cq cp s) : Formed cq
    cp (applyChange s k c status aslot) := by
  unfold applyChange
  try dsimp only
  repeat' first
    | with_reducible assumption
    | with_reducible apply ringNerzon_formed
    | with_reducible apply updChain_formed
    | simp only [formed_upd]
    | split
    | dsimp only
    | intro _

/-- `tickChain` keeps the form. -/
theorem tickChain_formed {cq : List Instr} {cp : Prop} (t aslot : Nat) (hyper : Bool) (es : List Entry) (acc : State × List Nat) (k : Nat) (fm :
    Formed cq cp acc.1) :
    Formed cq cp (tickChain t aslot hyper es acc k).1 := by
  unfold tickChain
  dsimp only
  have hd := draw_formed acc.1 fm
  repeat' split
  · exact fm
  · exact applyChange_formed _ _ _ _ _ hd
  · exact formed_upd.2 (applyChange_formed _ _ _ _ _ hd)
  · exact hd
  · exact updChain_formed _ _ _ (ringNerzon_formed _ _ _ _ hd)

/-- `setJobCairn` keeps the form. -/
theorem setJobCairn_formed {cq : List Instr} {cp : Prop} (lc : Nat) (s : State) (j : Nat × Nat) (fm : Formed cq cp s) : Formed cq cp (setJobCairn lc
    s j) := by
  unfold setJobCairn
  try dsimp only
  repeat' first
    | with_reducible assumption
    | with_reducible apply putCairn_formed
    | with_reducible apply semaServe_formed
    | with_reducible apply eventServe_formed
    | simp only [formed_upd]
    | split
    | dsimp only
    | intro _

/-- `releaseJob` keeps the form. -/
theorem releaseJob_formed {cq : List Instr} {cp : Prop} (s : State) (t aslot idx : Nat) (e : Entry) (key : Nat) (lcs : List Nat) (fm : Formed cq cp
    s) : Formed cq cp (releaseJob s t aslot idx e key lcs) := by
  unfold releaseJob
  try dsimp only
  repeat' first
    | with_reducible assumption
    | with_reducible apply Formed.foldl
    | with_reducible apply Formed.foldlFst
    | with_reducible apply setJobCairn_formed
    | with_reducible apply updChm_formed
    | simp only [formed_upd]
    | split
    | dsimp only
    | intro _

/-- `notPlaced` keeps the form. -/
theorem notPlaced_formed {cq : List Instr} {cp : Prop} (s : State) (aslot idx : Nat) (e : Entry) (fm : Formed cq cp s) : Formed cq cp (notPlaced s
    aslot idx e) := by
  unfold notPlaced
  try dsimp only
  repeat' first
    | with_reducible assumption
    | with_reducible apply ringNerzon_formed
    | simp only [formed_upd]
    | split
    | dsimp only
    | intro _

/-- `releaseEntry` keeps the form. -/
theorem releaseEntry_formed {cq : List Instr} {cp : Prop} (t aslot sl : Nat) (pl : List (Nat × Nat × List Nat)) (s : State) (x : Nat × Entry) (fm :
    Formed cq cp s) : Formed cq cp (releaseEntry t aslot sl pl s x) := by
  unfold releaseEntry
  try dsimp only
  repeat' first
    | with_reducible assumption
    | with_reducible apply releaseJob_formed
    | with_reducible apply notPlaced_formed
    | simp only [formed_upd]
    | split
    | dsimp only
    | intro _

/-- `countTick` keeps the form. -/
theorem countTick_formed {cq : List Instr} {cp : Prop} (s : State) (fm : Formed cq cp s) : Formed cq cp (countTick s) := by
  unfold countTick
  try dsimp only
  repeat' first
    | with_reducible assumption
    | simp only [formed_upd]
    | split
    | dsimp only
    | intro _

/-- `slotTick` keeps the form. -/
theorem slotTick_formed {cq : List Instr} {cp : Prop} (s : State) (fm : Formed cq cp s) : Formed cq cp (slotTick s) := by
  unfold slotTick
  try dsimp only
  repeat' first
    | with_reducible assumption
    | with_reducible apply Formed.foldl
    | with_reducible apply Formed.foldlFst
    | with_reducible apply countTick_formed
    | with_reducible apply deadlineJob_formed
    | with_reducible apply hyperTick_formed
    | with_reducible apply tickUnits_formed
    | with_reducible apply tickFlows_formed
    | with_reducible apply tickChain_formed
    | with_reducible apply releaseEntry_formed
    | simp only [formed_upd]
    | split
    | dsimp only
    | intro _

/-- The meaning `execSlotTick` keeps the form and answers a next state. -/
theorem execSlotTick_formed {cq : List Instr} {cp : Prop} (s : State) (fm : Formed cq cp s) : OutFormed cq cp (execSlotTick s) := by
  unfold execSlotTick
  try dsimp only
  repeat' first
    | with_reducible assumption
    | with_reducible apply OutFormed.ofNext
    | with_reducible apply slotTick_formed
    | simp only [formed_upd]
    | split
    | dsimp only
    | intro _

/-- The meaning `execSymbolTick` keeps the form and answers a next state. -/
theorem execSymbolTick_formed {cq : List Instr} {cp : Prop} (s : State) (fm : Formed cq cp s) : OutFormed cq cp (execSymbolTick s) := by
  unfold execSymbolTick
  try dsimp only
  repeat' first
    | with_reducible assumption
    | with_reducible apply OutFormed.ofNext
    | simp only [formed_upd]
    | split
    | dsimp only
    | intro _

/-- The meaning `execJobStart` keeps the form and answers a next state. -/
theorem execJobStart_formed {cq : List Instr} {cp : Prop} (ch : Fin 144) (s : State) (fm : Formed cq cp s) : OutFormed cq cp (execJobStart ch s) := by
  unfold execJobStart
  try dsimp only
  repeat' first
    | with_reducible assumption
    | with_reducible apply OutFormed.ofNext
    | with_reducible apply zeroTransient_formed
    | with_reducible apply writeMem_formed
    | with_reducible apply updChm_formed
    | with_reducible apply draw_formed
    | simp only [formed_upd]
    | split
    | dsimp only
    | intro _

/-- The meaning `execFaultUnitGet` keeps the form and answers a next state. -/
theorem execFaultUnitGet_formed {cq : List Instr} {cp : Prop} (pair : Fin 176) (s : State) (fm : Formed cq cp s) : OutFormed cq cp (execFaultUnitGet
    pair s) := by
  unfold execFaultUnitGet
  try dsimp only
  repeat' first
    | with_reducible assumption
    | with_reducible apply OutFormed.ofNext
    | with_reducible apply withNci_formed
    | split
    | dsimp only
    | intro _

/-- The meaning `execFaultUnitSet` keeps the form and answers a next state. -/
theorem execFaultUnitSet_formed {cq : List Instr} {cp : Prop} (pair : Fin 176) (s : State) (fm : Formed cq cp s) : OutFormed cq cp (execFaultUnitSet
    pair s) := by
  unfold execFaultUnitSet
  try dsimp only
  repeat' first
    | with_reducible assumption
    | with_reducible apply OutFormed.ofNext
    | with_reducible apply withNci_formed
    | with_reducible apply updUnit_formed
    | split
    | dsimp only
    | intro _

/-- `mctpReply` keeps the form. -/
theorem mctpReply_formed {cq : List Instr} {cp : Prop} (s : State) (u : Nat) (fm : Formed cq cp s) : Formed cq cp (mctpReply s u) := by
  unfold mctpReply
  try dsimp only
  repeat' first
    | with_reducible assumption
    | with_reducible apply emit_formed
    | simp only [formed_upd]
    | split
    | dsimp only
    | intro _

/-- `mctpMismatch` keeps the form. -/
theorem mctpMismatch_formed {cq : List Instr} {cp : Prop} (s : State) (u : Nat) (fm : Formed cq cp s) : Formed cq cp (mctpMismatch s u) := by
  unfold mctpMismatch
  try dsimp only
  repeat' first
    | with_reducible assumption
    | with_reducible apply mctpReply_formed
    | with_reducible apply logErr_formed
    | simp only [formed_upd]
    | split
    | dsimp only
    | intro _

/-- The meaning `execMctpMessage` keeps the form and answers a next state. -/
theorem execMctpMessage_formed {cq : List Instr} {cp : Prop} (vid : BitVec 16) (req : MctpReq) (unit : BitVec 16) (s : State) (fm : Formed cq cp s) :
    OutFormed cq cp (execMctpMessage vid req unit s) := by
  unfold execMctpMessage
  try dsimp only
  repeat' first
    | with_reducible assumption
    | with_reducible apply OutFormed.ofNext
    | with_reducible apply mctpReply_formed
    | with_reducible apply updUnit_formed
    | with_reducible apply mctpMismatch_formed
    | simp only [formed_upd]
    | split
    | dsimp only
    | intro _

/-- `moveEntries` keeps the form. -/
theorem moveEntries_formed {cq : List Instr} {cp : Prop} (s : State) (n : Nat) (h : Formed cq cp s) : Formed cq cp (moveEntries s n) := by
  induction n generalizing s with
  | zero => exact h
  | succ n ih => exact ih _ (moveLogEntry_formed _ h)

/-- The meaning `execFaultLogRead` keeps the form and answers a next state. -/
theorem execFaultLogRead_formed {cq : List Instr} {cp : Prop} (pair : Fin 176) (s : State) (fm : Formed cq cp s) : OutFormed cq cp (execFaultLogRead
    pair s) := by
  unfold execFaultLogRead
  try dsimp only
  repeat' first
    | with_reducible assumption
    | with_reducible apply OutFormed.ofNext
    | with_reducible apply withNci_formed
    | with_reducible apply moveEntries_formed
    | with_reducible apply writeMem_formed
    | split
    | dsimp only
    | intro _

/-- The meaning `execTelemetryGet` keeps the form and answers a next state. -/
theorem execTelemetryGet_formed {cq : List Instr} {cp : Prop} (pair : Fin 176) (s : State) (fm : Formed cq cp s) : OutFormed cq cp (execTelemetryGet
    pair s) := by
  unfold execTelemetryGet
  try dsimp only
  repeat' first
    | with_reducible assumption
    | with_reducible apply OutFormed.ofNext
    | with_reducible apply withNci_formed
    | split
    | dsimp only
    | intro _

/-- `injectEcc` keeps the form. -/
theorem injectEcc_formed {cq : List Instr} {cp : Prop} (s : State) (cls u : Nat) (fm : Formed cq cp s) : Formed cq cp (injectEcc s cls u) := by
  unfold injectEcc
  try dsimp only
  repeat' first
    | with_reducible assumption
    | with_reducible apply logErr_formed
    | with_reducible apply draw_formed
    | with_reducible apply countPocketEcc_formed
    | with_reducible apply markUnit_formed
    | simp only [formed_upd]
    | split
    | dsimp only
    | intro _

/-- `injectDouble` keeps the form. -/
theorem injectDouble_formed {cq : List Instr} {cp : Prop} (s : State) (ph : Nat) (fm : Formed cq cp s) : Formed cq cp (injectDouble s ph) := by
  unfold injectDouble
  try dsimp only
  repeat' first
    | with_reducible assumption
    | with_reducible apply updCore_formed
    | with_reducible apply logErr_formed
    | simp only [formed_upd]
    | split
    | dsimp only
    | intro _

/-- `injectTimeout` keeps the form. -/
theorem injectTimeout_formed {cq : List Instr} {cp : Prop} (s : State) (u : Nat) (fm : Formed cq cp s) : Formed cq cp (injectTimeout s u) := by
  unfold injectTimeout
  try dsimp only
  repeat' first
    | with_reducible assumption
    | with_reducible apply retireUnit_formed
    | with_reducible apply logErr_formed
    | simp only [formed_upd]
    | split
    | dsimp only
    | intro _

/-- `injectParity` keeps the form. -/
theorem injectParity_formed {cq : List Instr} {cp : Prop} (s : State) (u : Nat) (fm : Formed cq cp s) : Formed cq cp (injectParity s u) := by
  unfold injectParity
  try dsimp only
  repeat' first
    | with_reducible assumption
    | with_reducible apply degradePort_formed
    | with_reducible apply logErr_formed
    | with_reducible apply parityAt_formed
    | simp only [formed_upd]
    | split
    | dsimp only
    | intro _

/-- `injectLink` keeps the form. -/
theorem injectLink_formed {cq : List Instr} {cp : Prop} (s : State) (l : Nat) (fm : Formed cq cp s) : Formed cq cp (injectLink s l) := by
  unfold injectLink
  try dsimp only
  repeat' first
    | with_reducible assumption
    | with_reducible apply linkError_formed
    | with_reducible apply updLink_formed
    | simp only [formed_upd]
    | split
    | dsimp only
    | intro _

/-- `injectErr` keeps the form. -/
theorem injectErr_formed {cq : List Instr} {cp : Prop} (s : State) (cls u : Nat) (fm : Formed cq cp s) : Formed cq cp (injectErr s cls u) := by
  unfold injectErr
  try dsimp only
  repeat' first
    | with_reducible assumption
    | with_reducible apply injectEcc_formed
    | with_reducible apply injectDouble_formed
    | with_reducible apply chmParityErr_formed
    | with_reducible apply injectTimeout_formed
    | with_reducible apply fabricErr_formed
    | with_reducible apply decParityErr_formed
    | with_reducible apply injectParity_formed
    | with_reducible apply injectLink_formed
    | with_reducible apply logErr_formed
    | with_reducible apply emit_formed
    | with_reducible apply advisory_formed
    | with_reducible apply assertReset_formed
    | simp only [formed_upd]
    | split
    | dsimp only
    | intro _

/-- `errInj` keeps the form. -/
theorem errInj_formed {cq : List Instr} {cp : Prop} (s : State) (v : Word) (fm : Formed cq cp s) : Formed cq cp (errInj s v) := by
  unfold errInj
  try dsimp only
  repeat' first
    | with_reducible assumption
    | with_reducible apply injectErr_formed
    | simp only [formed_upd]
    | split
    | dsimp only
    | intro _

/-- The meaning `execErrInj` keeps the form and answers a next state. -/
theorem execErrInj_formed {cq : List Instr} {cp : Prop} (v : Word) (s : State) (fm : Formed cq cp s) : OutFormed cq cp (execErrInj v s) := by
  unfold execErrInj
  try dsimp only
  repeat' first
    | with_reducible assumption
    | with_reducible apply OutFormed.ofNext
    | with_reducible apply errInj_formed
    | simp only [formed_upd]
    | split
    | dsimp only
    | intro _

/-- The meaning `execFaultInject` keeps the form and answers a next state. -/
theorem execFaultInject_formed {cq : List Instr} {cp : Prop} (pair : Fin 176) (s : State) (fm : Formed cq cp s) : OutFormed cq cp (execFaultInject
    pair s) := by
  unfold execFaultInject
  try dsimp only
  repeat' first
    | with_reducible assumption
    | with_reducible apply OutFormed.ofNext
    | with_reducible apply withNci_formed
    | with_reducible apply errInj_formed
    | split
    | dsimp only
    | intro _

/-- The meaning `execFaultTrace` keeps the form and answers a next state. -/
theorem execFaultTrace_formed {cq : List Instr} {cp : Prop} (pair : Fin 176) (s : State) (fm : Formed cq cp s) : OutFormed cq cp (execFaultTrace pair
    s) := by
  unfold execFaultTrace
  try dsimp only
  repeat' first
    | with_reducible assumption
    | with_reducible apply OutFormed.ofNext
    | with_reducible apply withNci_formed
    | with_reducible apply draw_formed
    | with_reducible apply emit_formed
    | with_reducible apply writeMem_formed
    | simp only [formed_upd]
    | split
    | dsimp only
    | intro _

/-- The meaning `execHeadlampRelease` keeps the form and answers a next state. -/
theorem execHeadlampRelease_formed {cq : List Instr} {cp : Prop} (h : Fin 17) (s : State) (fm : Formed cq cp s) : OutFormed cq cp
    (execHeadlampRelease h s) := by
  unfold execHeadlampRelease
  try dsimp only
  repeat' first
    | with_reducible assumption
    | with_reducible apply OutFormed.ofNext
    | simp only [formed_upd]
    | split
    | dsimp only
    | intro _

/-- The meaning `withUop` keeps the form and answers a next state. -/
theorem withUop_formed {cq : List Instr} {cp : Prop} (op : Nat) (ch : Fin 144) (s : State) (g : FRun → DWord → Fls → Fls × Option Nat) (fm : Formed
    cq cp s) : OutFormed cq cp (withUop op ch s g) := by
  unfold withUop
  try dsimp only
  repeat' first
    | with_reducible assumption
    | with_reducible apply OutFormed.ofNext
    | with_reducible apply updFl_formed
    | simp only [formed_upd]
    | split
    | dsimp only
    | intro _

/-- The meaning `execUopAdd` keeps the form and answers a next state. -/
theorem execUopAdd_formed {cq : List Instr} {cp : Prop} (ch : Fin 144) (s : State) (fm : Formed cq cp s) : OutFormed cq cp (execUopAdd ch s) := by
  unfold execUopAdd
  try dsimp only
  repeat' first
    | with_reducible assumption
    | with_reducible apply OutFormed.ofNext
    | with_reducible apply withUop_formed
    | simp only [formed_upd]
    | split
    | dsimp only
    | intro _

/-- The meaning `execUopSub` keeps the form and answers a next state. -/
theorem execUopSub_formed {cq : List Instr} {cp : Prop} (ch : Fin 144) (s : State) (fm : Formed cq cp s) : OutFormed cq cp (execUopSub ch s) := by
  unfold execUopSub
  try dsimp only
  repeat' first
    | with_reducible assumption
    | with_reducible apply OutFormed.ofNext
    | with_reducible apply withUop_formed
    | simp only [formed_upd]
    | split
    | dsimp only
    | intro _

/-- The meaning `execUopMac` keeps the form and answers a next state. -/
theorem execUopMac_formed {cq : List Instr} {cp : Prop} (ch : Fin 144) (s : State) (fm : Formed cq cp s) : OutFormed cq cp (execUopMac ch s) := by
  unfold execUopMac
  try dsimp only
  repeat' first
    | with_reducible assumption
    | with_reducible apply OutFormed.ofNext
    | with_reducible apply withUop_formed
    | simp only [formed_upd]
    | split
    | dsimp only
    | intro _

/-- The meaning `execUopShv` keeps the form and answers a next state. -/
theorem execUopShv_formed {cq : List Instr} {cp : Prop} (ch : Fin 144) (s : State) (fm : Formed cq cp s) : OutFormed cq cp (execUopShv ch s) := by
  unfold execUopShv
  try dsimp only
  repeat' first
    | with_reducible assumption
    | with_reducible apply OutFormed.ofNext
    | with_reducible apply withUop_formed
    | simp only [formed_upd]
    | split
    | dsimp only
    | intro _

/-- The meaning `execUopSra` keeps the form and answers a next state. -/
theorem execUopSra_formed {cq : List Instr} {cp : Prop} (ch : Fin 144) (s : State) (fm : Formed cq cp s) : OutFormed cq cp (execUopSra ch s) := by
  unfold execUopSra
  try dsimp only
  repeat' first
    | with_reducible assumption
    | with_reducible apply OutFormed.ofNext
    | with_reducible apply withUop_formed
    | simp only [formed_upd]
    | split
    | dsimp only
    | intro _

/-- The meaning `execUopMin` keeps the form and answers a next state. -/
theorem execUopMin_formed {cq : List Instr} {cp : Prop} (ch : Fin 144) (s : State) (fm : Formed cq cp s) : OutFormed cq cp (execUopMin ch s) := by
  unfold execUopMin
  try dsimp only
  repeat' first
    | with_reducible assumption
    | with_reducible apply OutFormed.ofNext
    | with_reducible apply withUop_formed
    | simp only [formed_upd]
    | split
    | dsimp only
    | intro _

/-- The meaning `execUopMax` keeps the form and answers a next state. -/
theorem execUopMax_formed {cq : List Instr} {cp : Prop} (ch : Fin 144) (s : State) (fm : Formed cq cp s) : OutFormed cq cp (execUopMax ch s) := by
  unfold execUopMax
  try dsimp only
  repeat' first
    | with_reducible assumption
    | with_reducible apply OutFormed.ofNext
    | with_reducible apply withUop_formed
    | simp only [formed_upd]
    | split
    | dsimp only
    | intro _

/-- The meaning `execUopAnd` keeps the form and answers a next state. -/
theorem execUopAnd_formed {cq : List Instr} {cp : Prop} (ch : Fin 144) (s : State) (fm : Formed cq cp s) : OutFormed cq cp (execUopAnd ch s) := by
  unfold execUopAnd
  try dsimp only
  repeat' first
    | with_reducible assumption
    | with_reducible apply OutFormed.ofNext
    | with_reducible apply withUop_formed
    | simp only [formed_upd]
    | split
    | dsimp only
    | intro _

/-- The meaning `execUopOr` keeps the form and answers a next state. -/
theorem execUopOr_formed {cq : List Instr} {cp : Prop} (ch : Fin 144) (s : State) (fm : Formed cq cp s) : OutFormed cq cp (execUopOr ch s) := by
  unfold execUopOr
  try dsimp only
  repeat' first
    | with_reducible assumption
    | with_reducible apply OutFormed.ofNext
    | with_reducible apply withUop_formed
    | simp only [formed_upd]
    | split
    | dsimp only
    | intro _

/-- The meaning `execUopXor` keeps the form and answers a next state. -/
theorem execUopXor_formed {cq : List Instr} {cp : Prop} (ch : Fin 144) (s : State) (fm : Formed cq cp s) : OutFormed cq cp (execUopXor ch s) := by
  unfold execUopXor
  try dsimp only
  repeat' first
    | with_reducible assumption
    | with_reducible apply OutFormed.ofNext
    | with_reducible apply withUop_formed
    | simp only [formed_upd]
    | split
    | dsimp only
    | intro _

/-- The meaning `execUopSel` keeps the form and answers a next state. -/
theorem execUopSel_formed {cq : List Instr} {cp : Prop} (ch : Fin 144) (s : State) (fm : Formed cq cp s) : OutFormed cq cp (execUopSel ch s) := by
  unfold execUopSel
  try dsimp only
  repeat' first
    | with_reducible assumption
    | with_reducible apply OutFormed.ofNext
    | with_reducible apply withUop_formed
    | simp only [formed_upd]
    | split
    | dsimp only
    | intro _

/-- The meaning `execUopLut` keeps the form and answers a next state. -/
theorem execUopLut_formed {cq : List Instr} {cp : Prop} (ch : Fin 144) (s : State) (fm : Formed cq cp s) : OutFormed cq cp (execUopLut ch s) := by
  unfold execUopLut
  try dsimp only
  repeat' first
    | with_reducible assumption
    | with_reducible apply OutFormed.ofNext
    | with_reducible apply withUop_formed
    | simp only [formed_upd]
    | split
    | dsimp only
    | intro _

/-- The meaning `execUopQnt4` keeps the form and answers a next state. -/
theorem execUopQnt4_formed {cq : List Instr} {cp : Prop} (ch : Fin 144) (s : State) (fm : Formed cq cp s) : OutFormed cq cp (execUopQnt4 ch s) := by
  unfold execUopQnt4
  try dsimp only
  repeat' first
    | with_reducible assumption
    | with_reducible apply OutFormed.ofNext
    | with_reducible apply withUop_formed
    | simp only [formed_upd]
    | split
    | dsimp only
    | intro _

/-- The meaning `execUopQnt8` keeps the form and answers a next state. -/
theorem execUopQnt8_formed {cq : List Instr} {cp : Prop} (ch : Fin 144) (s : State) (fm : Formed cq cp s) : OutFormed cq cp (execUopQnt8 ch s) := by
  unfold execUopQnt8
  try dsimp only
  repeat' first
    | with_reducible assumption
    | with_reducible apply OutFormed.ofNext
    | with_reducible apply withUop_formed
    | simp only [formed_upd]
    | split
    | dsimp only
    | intro _

/-- The meaning `execUopCmp` keeps the form and answers a next state. -/
theorem execUopCmp_formed {cq : List Instr} {cp : Prop} (ch : Fin 144) (s : State) (fm : Formed cq cp s) : OutFormed cq cp (execUopCmp ch s) := by
  unfold execUopCmp
  try dsimp only
  repeat' first
    | with_reducible assumption
    | with_reducible apply OutFormed.ofNext
    | with_reducible apply withUop_formed
    | simp only [formed_upd]
    | split
    | dsimp only
    | intro _

/-- The meaning `execUopRmaxR` keeps the form and answers a next state. -/
theorem execUopRmaxR_formed {cq : List Instr} {cp : Prop} (ch : Fin 144) (s : State) (fm : Formed cq cp s) : OutFormed cq cp (execUopRmaxR ch s) := by
  unfold execUopRmaxR
  try dsimp only
  repeat' first
    | with_reducible assumption
    | with_reducible apply OutFormed.ofNext
    | with_reducible apply withUop_formed
    | simp only [formed_upd]
    | split
    | dsimp only
    | intro _

/-- The meaning `execUopRminR` keeps the form and answers a next state. -/
theorem execUopRminR_formed {cq : List Instr} {cp : Prop} (ch : Fin 144) (s : State) (fm : Formed cq cp s) : OutFormed cq cp (execUopRminR ch s) := by
  unfold execUopRminR
  try dsimp only
  repeat' first
    | with_reducible assumption
    | with_reducible apply OutFormed.ofNext
    | with_reducible apply withUop_formed
    | simp only [formed_upd]
    | split
    | dsimp only
    | intro _

/-- The meaning `execUopRmaxC` keeps the form and answers a next state. -/
theorem execUopRmaxC_formed {cq : List Instr} {cp : Prop} (ch : Fin 144) (s : State) (fm : Formed cq cp s) : OutFormed cq cp (execUopRmaxC ch s) := by
  unfold execUopRmaxC
  try dsimp only
  repeat' first
    | with_reducible assumption
    | with_reducible apply OutFormed.ofNext
    | with_reducible apply withUop_formed
    | simp only [formed_upd]
    | split
    | dsimp only
    | intro _

/-- The meaning `execUopRminC` keeps the form and answers a next state. -/
theorem execUopRminC_formed {cq : List Instr} {cp : Prop} (ch : Fin 144) (s : State) (fm : Formed cq cp s) : OutFormed cq cp (execUopRminC ch s) := by
  unfold execUopRminC
  try dsimp only
  repeat' first
    | with_reducible assumption
    | with_reducible apply OutFormed.ofNext
    | with_reducible apply withUop_formed
    | simp only [formed_upd]
    | split
    | dsimp only
    | intro _

/-- The meaning `execUopTmax` keeps the form and answers a next state. -/
theorem execUopTmax_formed {cq : List Instr} {cp : Prop} (ch : Fin 144) (s : State) (fm : Formed cq cp s) : OutFormed cq cp (execUopTmax ch s) := by
  unfold execUopTmax
  try dsimp only
  repeat' first
    | with_reducible assumption
    | with_reducible apply OutFormed.ofNext
    | with_reducible apply withUop_formed
    | simp only [formed_upd]
    | split
    | dsimp only
    | intro _

/-- The meaning `execUopTmin` keeps the form and answers a next state. -/
theorem execUopTmin_formed {cq : List Instr} {cp : Prop} (ch : Fin 144) (s : State) (fm : Formed cq cp s) : OutFormed cq cp (execUopTmin ch s) := by
  unfold execUopTmin
  try dsimp only
  repeat' first
    | with_reducible assumption
    | with_reducible apply OutFormed.ofNext
    | with_reducible apply withUop_formed
    | simp only [formed_upd]
    | split
    | dsimp only
    | intro _

/-- `stoWord` keeps the form. -/
theorem stoWord_formed {cq : List Instr} {cp : Prop} (s : State) (a : Nat) (bs : List (Byte × Byte)) (fl : WFlags) (h : Formed cq cp s) :
    Formed cq cp (stoWord s a bs fl) := by
  unfold stoWord
  split
  · exact writeMem_formed _ _ _ _ h
  · split
    · exact h
    · split
      · exact h
      · next k hk =>
        have h1 := partialCheck_formed s a k a 0 h
        exact ⟨h1.pending, fun i => Memory.wf_setBytes (h1.mem i), h1.host, h1.chms, h1.cairns, h1.rings⟩

/-- `stoRowAt` keeps the form. -/
theorem stoRowAt_formed {cq : List Instr} {cp : Prop} (s : State) (a : Nat) (bs : List (Byte × Byte)) (fl : WFlags) (fm : Formed cq cp s) : Formed cq
    cp (stoRowAt s a bs fl) := by
  unfold stoRowAt
  try dsimp only
  repeat' first
    | with_reducible assumption
    | with_reducible apply Formed.foldl
    | with_reducible apply Formed.foldlFst
    | with_reducible apply stoWord_formed
    | simp only [formed_upd]
    | split
    | dsimp only
    | intro _

/-- `stoRow` keeps the form. -/
theorem stoRow_formed {cq : List Instr} {cp : Prop} (f : Fls) (r : FRun) (u : DWord) (n : Nat) (s : State) (row : Nat) (fm : Formed cq cp s) : Formed
    cq cp (stoRow f r u n s row) := by
  unfold stoRow
  try dsimp only
  repeat' first
    | with_reducible assumption
    | with_reducible apply watchWrite_formed
    | with_reducible apply stoRowAt_formed
    | simp only [formed_upd]
    | split
    | dsimp only
    | intro _

/-- `noteStores` keeps the form. -/
theorem noteStores_formed {cq : List Instr} {cp : Prop} (s : State) (ph : Nat) (rows : List (Nat × List Byte × TileFlags)) (fm : Formed cq cp s) :
    Formed cq cp (noteStores s ph rows) := by
  unfold noteStores
  try dsimp only
  repeat' first
    | with_reducible assumption
    | with_reducible apply updJob_formed
    | simp only [formed_upd]
    | split
    | dsimp only
    | intro _

/-- The meaning `storeUop` keeps the form and answers a next state. -/
theorem storeUop_formed {cq : List Instr} {cp : Prop} (op n : Nat) (ch : Fin 144) (s : State) (fm : Formed cq cp s) : OutFormed cq cp (storeUop op n
    ch s) := by
  unfold storeUop
  try dsimp only
  repeat' first
    | with_reducible assumption
    | with_reducible apply OutFormed.ofNext
    | with_reducible apply Formed.foldl
    | with_reducible apply Formed.foldlFst
    | with_reducible apply updFl_formed
    | with_reducible apply stoRow_formed
    | with_reducible apply noteStores_formed
    | simp only [formed_upd]
    | split
    | dsimp only
    | intro _

/-- The meaning `execUopSto4` keeps the form and answers a next state. -/
theorem execUopSto4_formed {cq : List Instr} {cp : Prop} (ch : Fin 144) (s : State) (fm : Formed cq cp s) : OutFormed cq cp (execUopSto4 ch s) := by
  unfold execUopSto4
  try dsimp only
  repeat' first
    | with_reducible assumption
    | with_reducible apply OutFormed.ofNext
    | with_reducible apply storeUop_formed
    | simp only [formed_upd]
    | split
    | dsimp only
    | intro _

/-- The meaning `execUopSto8` keeps the form and answers a next state. -/
theorem execUopSto8_formed {cq : List Instr} {cp : Prop} (ch : Fin 144) (s : State) (fm : Formed cq cp s) : OutFormed cq cp (execUopSto8 ch s) := by
  unfold execUopSto8
  try dsimp only
  repeat' first
    | with_reducible assumption
    | with_reducible apply OutFormed.ofNext
    | with_reducible apply storeUop_formed
    | simp only [formed_upd]
    | split
    | dsimp only
    | intro _

/-- The meaning `execFlowstoneLaunch` keeps the form and answers a next state. -/
theorem execFlowstoneLaunch_formed {cq : List Instr} {cp : Prop} (ch : Fin 144) (s : State) (fm : Formed cq cp s) : OutFormed cq cp
    (execFlowstoneLaunch ch s) := by
  unfold execFlowstoneLaunch
  try dsimp only
  repeat' first
    | with_reducible assumption
    | with_reducible apply OutFormed.ofNext
    | with_reducible apply updFl_formed
    | with_reducible apply readMemWords_formed
    | simp only [formed_upd]
    | split
    | dsimp only
    | intro _

/-- The meaning `execTileIteration` keeps the form and answers a next state. -/
theorem execTileIteration_formed {cq : List Instr} {cp : Prop} (ch : Fin 144) (s : State) (fm : Formed cq cp s) : OutFormed cq cp (execTileIteration
    ch s) := by
  unfold execTileIteration
  try dsimp only
  repeat' first
    | with_reducible assumption
    | with_reducible apply OutFormed.ofNext
    | with_reducible apply updFl_formed
    | simp only [formed_upd]
    | split
    | dsimp only
    | intro _

/-- The meaning `execRunCompletion` keeps the form and answers a next state. -/
theorem execRunCompletion_formed {cq : List Instr} {cp : Prop} (ch : Fin 144) (s : State) (fm : Formed cq cp s) : OutFormed cq cp (execRunCompletion
    ch s) := by
  unfold execRunCompletion
  try dsimp only
  repeat' first
    | with_reducible assumption
    | with_reducible apply OutFormed.ofNext
    | with_reducible apply updFl_formed
    | with_reducible apply cairnSignalFor_formed
    | simp only [formed_upd]
    | split
    | dsimp only
    | intro _

/-- `doMove` keeps the form. -/
theorem doMove_formed {cq : List Instr} {cp : Prop} (s : State) (ph : Nat) (m : FMove) (n a : Nat) (fm : Formed cq cp s) : Formed cq cp (doMove s ph
    m n a) := by
  unfold doMove
  try dsimp only
  repeat' first
    | with_reducible assumption
    | with_reducible apply readBytes_formed
    | with_reducible apply updFl_formed
    | with_reducible apply watchWrite_formed
    | with_reducible apply writeMem_formed
    | simp only [formed_upd]
    | split
    | dsimp only
    | intro _

/-- The meaning `execRegisterMove` keeps the form and answers a next state. -/
theorem execRegisterMove_formed {cq : List Instr} {cp : Prop} (ch : Fin 144) (s : State) (fm : Formed cq cp s) : OutFormed cq cp (execRegisterMove ch
    s) := by
  unfold execRegisterMove
  try dsimp only
  repeat' first
    | with_reducible assumption
    | with_reducible apply OutFormed.ofNext
    | with_reducible apply doMove_formed
    | with_reducible apply updFl_formed
    | simp only [formed_upd]
    | split
    | dsimp only
    | intro _

/-- `updPad` keeps the form. -/
theorem updPad_formed {cq : List Instr} {cp : Prop} (s : State) (n : Nat) (f : Pad → Pad) (fm : Formed cq cp s) : Formed cq cp (updPad s n f) := by
  unfold updPad
  try dsimp only
  repeat' first
    | with_reducible assumption
    | simp only [formed_upd]
    | split
    | dsimp only
    | intro _

/-- `padWrite` keeps the form. -/
theorem padWrite_formed {cq : List Instr} {cp : Prop} (s : State) (n : Nat) (v : Word) (fm : Formed cq cp s) : Formed cq cp (padWrite s n v) := by
  unfold padWrite
  try dsimp only
  repeat' first
    | with_reducible assumption
    | with_reducible apply updPad_formed
    | simp only [formed_upd]
    | split
    | dsimp only
    | intro _

/-- The meaning `execPinMuxn` keeps the form and answers a next state. -/
theorem execPinMuxn_formed {cq : List Instr} {cp : Prop} (n : Fin 32) (v : Word) (s : State) (fm : Formed cq cp s) : OutFormed cq cp (execPinMuxn n v
    s) := by
  unfold execPinMuxn
  try dsimp only
  repeat' first
    | with_reducible assumption
    | with_reducible apply OutFormed.ofNext
    | with_reducible apply padWrite_formed
    | simp only [formed_upd]
    | split
    | dsimp only
    | intro _

/-- The meaning `execPinSwitchEnd` keeps the form and answers a next state. -/
theorem execPinSwitchEnd_formed {cq : List Instr} {cp : Prop} (n : Fin 32) (s : State) (fm : Formed cq cp s) : OutFormed cq cp (execPinSwitchEnd n s)
    := by
  unfold execPinSwitchEnd
  try dsimp only
  repeat' first
    | with_reducible assumption
    | with_reducible apply OutFormed.ofNext
    | with_reducible apply updPad_formed
    | simp only [formed_upd]
    | split
    | dsimp only
    | intro _

/-- The meaning `execGpioInputChange` keeps the form and answers a next state. -/
theorem execGpioInputChange_formed {cq : List Instr} {cp : Prop} (n : Fin 32) (level : Bool) (s : State) (fm : Formed cq cp s) : OutFormed cq cp
    (execGpioInputChange n level s) := by
  unfold execGpioInputChange
  try dsimp only
  repeat' first
    | with_reducible assumption
    | with_reducible apply OutFormed.ofNext
    | with_reducible apply updPad_formed
    | simp only [formed_upd]
    | split
    | dsimp only
    | intro _

/-- The meaning `execPinSet` keeps the form and answers a next state. -/
theorem execPinSet_formed {cq : List Instr} {cp : Prop} (pair : Fin 176) (s : State) (fm : Formed cq cp s) : OutFormed cq cp (execPinSet pair s) := by
  unfold execPinSet
  try dsimp only
  repeat' first
    | with_reducible assumption
    | with_reducible apply OutFormed.ofNext
    | with_reducible apply withNci_formed
    | with_reducible apply padWrite_formed
    | simp only [formed_upd]
    | split
    | dsimp only
    | intro _

/-- The meaning `execGpioSet` keeps the form and answers a next state. -/
theorem execGpioSet_formed {cq : List Instr} {cp : Prop} (pair : Fin 176) (s : State) (fm : Formed cq cp s) : OutFormed cq cp (execGpioSet pair s) :=
    by
  unfold execGpioSet
  try dsimp only
  repeat' first
    | with_reducible assumption
    | with_reducible apply OutFormed.ofNext
    | with_reducible apply withNci_formed
    | simp only [formed_upd]
    | split
    | dsimp only
    | intro _

/-- `putPulseCfg` keeps the form. -/
theorem putPulseCfg_formed {cq : List Instr} {cp : Prop} (s : State) (p : Nat) (c : PulseCfg) (fm : Formed cq cp s) : Formed cq cp (putPulseCfg s p
    c) := by
  unfold putPulseCfg
  try dsimp only
  repeat' first
    | with_reducible assumption
    | with_reducible apply setPulse_formed
    | simp only [formed_upd]
    | split
    | dsimp only
    | intro _

/-- `lanternWrite64` keeps the form. -/
theorem lanternWrite64_formed {cq : List Instr} {cp : Prop} (s : State) (a : Nat) (v : DWord) (fm : Formed cq cp s) : Formed cq cp (lanternWrite64 s
    a v) := by
  unfold lanternWrite64
  try dsimp only
  repeat' first
    | with_reducible assumption
    | with_reducible apply Formed.iteWr
    | with_reducible apply putPulseCfg_formed
    | with_reducible apply wroteBy_formed
    | with_reducible apply regWrite64_formed
    | simp only [formed_upd]
    | split
    | dsimp only
    | intro _

/-- `pulseWrite` keeps the form. -/
theorem pulseWrite_formed {cq : List Instr} {cp : Prop} (s : State) (o : Nat) (v : Word) (fm : Formed cq cp s) : Formed cq cp (pulseWrite s o v) := by
  unfold pulseWrite
  try dsimp only
  repeat' first
    | with_reducible assumption
    | with_reducible apply putPulseCfg_formed
    | simp only [formed_upd]
    | split
    | dsimp only
    | intro _

/-- `lvicWrite` keeps the form. -/
theorem lvicWrite_formed {cq : List Instr} {cp : Prop} (s : State) (o : Nat) (v : Word) (fm : Formed cq cp s) : Formed cq cp (lvicWrite s o v) := by
  unfold lvicWrite
  try dsimp only
  repeat' first
    | with_reducible assumption
    | simp only [formed_upd]
    | split
    | dsimp only
    | intro _

/-- `crpWrite` keeps the form. -/
theorem crpWrite_formed {cq : List Instr} {cp : Prop} (s : State) (o : Nat) (v : Word) (fm : Formed cq cp s) : Formed cq cp (crpWrite s o v) := by
  unfold crpWrite
  try dsimp only
  repeat' first
    | with_reducible assumption
    | with_reducible apply crpResetCtl_formed
    | with_reducible apply crpClksel_formed
    | with_reducible apply crpClkout_formed
    | with_reducible apply crpWdt_formed
    | simp only [formed_upd]
    | split
    | dsimp only
    | intro _

/-- `pinWrite` keeps the form. -/
theorem pinWrite_formed {cq : List Instr} {cp : Prop} (s : State) (o : Nat) (v : Word) (fm : Formed cq cp s) : Formed cq cp (pinWrite s o v) := by
  unfold pinWrite
  try dsimp only
  repeat' first
    | with_reducible assumption
    | with_reducible apply padWrite_formed
    | simp only [formed_upd]
    | split
    | dsimp only
    | intro _

/-- `errWrite` keeps the form. -/
theorem errWrite_formed {cq : List Instr} {cp : Prop} (s : State) (o : Nat) (v : Word) (fm : Formed cq cp s) : Formed cq cp (errWrite s o v) := by
  unfold errWrite
  try dsimp only
  repeat' first
    | with_reducible assumption
    | with_reducible apply moveEntries_formed
    | with_reducible apply errInj_formed
    | simp only [formed_upd]
    | split
    | dsimp only
    | intro _

/-- `lanternWrite32` keeps the form. -/
theorem lanternWrite32_formed {cq : List Instr} {cp : Prop} (s : State) (a : Nat) (v : Word) (fm : Formed cq cp s) : Formed cq cp (lanternWrite32 s a
    v) := by
  unfold lanternWrite32
  try dsimp only
  repeat' first
    | with_reducible assumption
    | with_reducible apply Formed.iteWr
    | with_reducible apply lvicWrite_formed
    | with_reducible apply pulseWrite_formed
    | with_reducible apply crpWrite_formed
    | with_reducible apply pinWrite_formed
    | with_reducible apply errWrite_formed
    | with_reducible apply wroteBy_formed
    | with_reducible apply regWrite32_formed
    | simp only [formed_upd]
    | split
    | dsimp only
    | intro _

/-- `lanternPut` keeps the form. -/
theorem lanternPut_formed {cq : List Instr} {cp : Prop} (s : State) (a : Nat) (v : Word) (fm : Formed cq cp s) : Formed cq cp (lanternPut s a v) := by
  unfold lanternPut
  try dsimp only
  repeat' first
    | with_reducible assumption
    | with_reducible apply lanternExc_formed
    | with_reducible apply lanternWrite32_formed
    | simp only [formed_upd]
    | split
    | dsimp only
    | intro _

/-- The meaning `lanternWrite` keeps the form or stops at a busy block. -/
theorem lanternWrite_formed {cq : List Instr} {cp : Prop} (s : State) (a : Nat) (v : Word) (fm : Formed cq cp s) : OutFormedOrBusy cq cp
    (lanternWrite s a v) := by
  unfold lanternWrite
  try dsimp only
  repeat' first
    | with_reducible assumption
    | with_reducible apply OutFormedOrBusy.ofNext
    | with_reducible apply crpBlkRst_formed
    | with_reducible apply lanternWrite64_formed
    | with_reducible apply lanternPut_formed
    | simp only [formed_upd]
    | split
    | dsimp only
    | intro _

/-- `lanternClears` keeps the form. -/
theorem lanternClears_formed {cq : List Instr} {cp : Prop} (s : State) (a : Nat) (fm : Formed cq cp s) : Formed cq cp (lanternClears s a) := by
  unfold lanternClears
  try dsimp only
  repeat' first
    | with_reducible assumption
    | with_reducible apply readClears_formed
    | simp only [formed_upd]
    | split
    | dsimp only
    | intro _

/-- `lanternRead` keeps the form. -/
theorem lanternRead_formed {cq : List Instr} {cp : Prop} (s : State) (a : Nat) (fm : Formed cq cp s) : Formed cq cp (lanternRead s a) := by
  unfold lanternRead
  try dsimp only
  repeat' first
    | with_reducible assumption
    | with_reducible apply emit_formed
    | with_reducible apply lanternClears_formed
    | with_reducible apply lanternExc_formed
    | simp only [formed_upd]
    | split
    | dsimp only
    | intro _

/-- The meaning `lanternAccess` keeps the form or stops at a busy block. -/
theorem lanternAccess_formed {cq : List Instr} {cp : Prop} (s : State) (a size : Nat) (op : RegOp) (fm : Formed cq cp s) : OutFormedOrBusy cq cp
    (lanternAccess s a size op) := by
  unfold lanternAccess
  try dsimp only
  repeat' first
    | with_reducible assumption
    | with_reducible apply OutFormedOrBusy.ofNext
    | with_reducible apply lanternExc_formed
    | with_reducible apply lanternWrite_formed
    | with_reducible apply lanternRead_formed
    | simp only [formed_upd]
    | split
    | dsimp only
    | intro _

/-- `chamberWrite` keeps the form. -/
theorem chamberWrite_formed {cq : List Instr} {cp : Prop} (s : State) (ch : Fin 144) (addr size : Nat) (v : Word) (fm : Formed cq cp s) : Formed cq
    cp (chamberWrite s ch addr size v) := by
  unfold chamberWrite
  try dsimp only
  repeat' first
    | with_reducible assumption
    | with_reducible apply Formed.iteWr
    | with_reducible apply chmRefused_formed
    | with_reducible apply wroteBy_formed
    | with_reducible apply csrWrite_formed
    | simp only [formed_upd]
    | split
    | dsimp only
    | intro _

/-- `leqCons` keeps the form. -/
theorem leqCons_formed {cq : List Instr} {cp : Prop} (s : State) (v : Word) (fm : Formed cq cp s) : Formed cq cp (leqCons s v) := by
  unfold leqCons
  try dsimp only
  repeat' first
    | with_reducible assumption
    | simp only [formed_upd]
    | split
    | dsimp only
    | intro _

/-- `hostWrite32` keeps the form. -/
theorem hostWrite32_formed {cq : List Instr} {cp : Prop} (s : State) (off : Nat) (v : Word) (h : Formed cq cp s) : Formed cq cp (hostWrite32 s off v)
    := by
  unfold hostWrite32
  refine Formed.ite (fun _ => ?_) (fun _ => Formed.ite (fun _ => Formed.ite (fun _ => doorbellWrite_formed _ _ _ _ h) (fun _ => h)) (fun _ =>
    Formed.ite (fun _ => h) (fun _ => Formed.ite (fun _ => leqCons_formed _ _ h) (fun _ =>
      Formed.ite (fun _ => Formed.ite (fun _ => formed_upd.2 h) (fun _ => h)) (fun _ => barDropped_formed _ _ _ _ h)))))
  have hm := mbxWrite_formed s .host (off / 0x1000) (off % 0x1000) v h
  split
  · next t ht => rw [ht] at hm; exact hm
  · next t ht => rw [ht] at hm; exact hm
  · exact barDropped_formed _ _ _ _ h

/-- `hostRegWrite` keeps the form. -/
theorem hostRegWrite_formed {cq : List Instr} {cp : Prop} (off size : Nat) (v : DWord) (s : State) (h : Formed cq cp s) : Formed cq cp (hostRegWrite
    off size v s) := by
  unfold hostRegWrite
  dsimp only
  repeat' split
  all_goals first
    | exact hostWrite32_formed _ _ _ h
    | exact doorbellWrite_formed _ _ _ _ h
    | exact barDropped_formed _ _ _ _ h
    | exact hostWrite32_formed _ _ _ (hostWrite32_formed _ _ _ h)

/-- `hostRead32` keeps the form. -/
theorem hostRead32_formed {cq : List Instr} {cp : Prop} (s : State) (off : Nat) {v : Word} {t : State} (h : Formed cq cp s)
    (hr : hostRead32 s off = some (v, t)) : Formed cq cp t := by
  unfold hostRead32 at hr
  dsimp only at hr
  repeat' split at hr
  all_goals simp only [Option.map_eq_some_iff, Option.some.injEq, Prod.mk.injEq, reduceCtorEq] at hr
  all_goals first
    | (obtain ⟨_, _, _, rfl⟩ := hr; exact h)
    | (obtain ⟨_, rfl⟩ := hr; first | exact h | exact draw_formed _ h | exact formed_upd.2 h)

/-- `hostRegRead` keeps the form. -/
theorem hostRegRead_formed {cq : List Instr} {cp : Prop} (off size : Nat) (s : State) (h : Formed cq cp s) : Formed cq cp (hostRegRead off size s) := by
  unfold hostRegRead
  split
  · split
    · next v t ht => exact emit_formed _ _ (hostRead32_formed _ _ h ht)
    · exact emit_formed _ _ h
  · split
    · split
      · next lo t ht =>
        split
        · next hi u hu => exact emit_formed _ _ (hostRead32_formed _ _ (hostRead32_formed _ _ h ht) hu)
        · exact emit_formed _ _ h
      · exact emit_formed _ _ h
    · exact emit_formed _ _ h

/-- `writeBacksDue` keeps the form. -/
theorem writeBacksDue_formed {cq : List Instr} {cp : Prop} (s : State) (fm : Formed cq cp s) : Formed cq cp (writeBacksDue s) := by
  unfold writeBacksDue
  try dsimp only
  repeat' first
    | with_reducible assumption
    | with_reducible apply Formed.foldl
    | with_reducible apply Formed.foldlFst
    | with_reducible apply ringWriteBack_formed
    | simp only [formed_upd]
    | split
    | dsimp only
    | intro _

/-- `configWrite` keeps the form. -/
theorem configWrite_formed {cq : List Instr} {cp : Prop} (s : State) (n : Nat) (v : DWord) (fm : Formed cq cp s) : Formed cq cp (configWrite s n v)
    := by
  unfold configWrite
  try dsimp only
  repeat' first
    | with_reducible assumption
    | with_reducible apply writeBacksDue_formed
    | with_reducible apply releaseHeld_formed
    | with_reducible apply advisory_formed
    | simp only [formed_upd]
    | split
    | dsimp only
    | intro _

/-- The meaning `execRegisterWrite` keeps the form or stops at a busy block. -/
theorem execRegisterWrite_formed {cq : List Instr} {cp : Prop} (who : Agent) (addr size : Nat) (op : RegOp) (s : State) (fm : Formed cq cp s) :
    OutFormedOrBusy cq cp (execRegisterWrite who addr size op s) := by
  unfold execRegisterWrite
  try dsimp only
  repeat' first
    | with_reducible assumption
    | with_reducible apply OutFormedOrBusy.ofNext
    | with_reducible apply chamberWrite_formed
    | with_reducible apply lanternAccess_formed
    | with_reducible apply hostDoor_formed
    | with_reducible apply hostRegWrite_formed
    | with_reducible apply hostRegRead_formed
    | with_reducible apply configWrite_formed
    | with_reducible apply emit_formed
    | simp only [formed_upd]
    | split
    | dsimp only
    | intro _

/-- The meaning `execDebugChallenge` keeps the form and answers a next state. -/
theorem execDebugChallenge_formed {cq : List Instr} {cp : Prop} (pair : Fin 176) (s : State) (fm : Formed cq cp s) : OutFormed cq cp
    (execDebugChallenge pair s) := by
  unfold execDebugChallenge
  try dsimp only
  repeat' first
    | with_reducible assumption
    | with_reducible apply OutFormed.ofNext
    | with_reducible apply withNci_formed
    | with_reducible apply draw_formed
    | simp only [formed_upd]
    | split
    | dsimp only
    | intro _

/-- The meaning `execDebugUnlock` keeps the form and answers a next state. -/
theorem execDebugUnlock_formed {cq : List Instr} {cp : Prop} (pair : Fin 176) (s : State) (fm : Formed cq cp s) : OutFormed cq cp (execDebugUnlock
    pair s) := by
  unfold execDebugUnlock
  try dsimp only
  repeat' first
    | with_reducible assumption
    | with_reducible apply OutFormed.ofNext
    | with_reducible apply withNci_formed
    | with_reducible apply readBytes_formed
    | simp only [formed_upd]
    | split
    | dsimp only
    | intro _

/-- The meaning `execSecStatus` keeps the form and answers a next state. -/
theorem execSecStatus_formed {cq : List Instr} {cp : Prop} (pair : Fin 176) (s : State) (fm : Formed cq cp s) : OutFormed cq cp (execSecStatus pair
    s) := by
  unfold execSecStatus
  try dsimp only
  repeat' first
    | with_reducible assumption
    | with_reducible apply OutFormed.ofNext
    | with_reducible apply withNci_formed
    | split
    | dsimp only
    | intro _

/-- The meaning `execSecCommitVersion` keeps the form and answers a next state. -/
theorem execSecCommitVersion_formed {cq : List Instr} {cp : Prop} (pair : Fin 176) (s : State) (fm : Formed cq cp s) : OutFormed cq cp
    (execSecCommitVersion pair s) := by
  unfold execSecCommitVersion
  try dsimp only
  repeat' first
    | with_reducible assumption
    | with_reducible apply OutFormed.ofNext
    | with_reducible apply withNci_formed
    | simp only [formed_upd]
    | split
    | dsimp only
    | intro _

end Sys2Proof.Machine
end

