-- ==== Sys2Proof/Laws/Nci.lean ====
section
/-!
SUPPORT. What a command of the Nerzon Command Interface does, said once: an asked command whose checks pass acts and is answered; one whose
checks fail is answered and changes nothing else.
-/
namespace Sys2Proof.Machine

/-- The parts of an asked request. -/
theorem asks_parts {op : Nat} {masks : List Nat} {pair : Fin 176} {s : State} (h : asks op masks pair s = true) :
    takesRequest s pair.val = true ∧ tf (reqWords s pair.val) 0 31 16 = op ∧ knownOp op = true ∧
    staleEpoch s pair.val op (tf (reqWords s pair.val) 0 15 8) = false ∧ reservedBits masks (reqWords s pair.val) = false ∧
    sessionCtx s pair.val = none ∧ s.sts.internal = false := by
  simp only [asks, Bool.and_eq_true, decide_eq_true_eq, Bool.not_eq_true', Option.isNone_iff_eq_none] at h
  obtain ⟨⟨⟨⟨⟨⟨a, b⟩, c⟩, d⟩, e⟩, f⟩, g⟩ := h
  exact ⟨a, b, c, d, e, f, g⟩

/-- The code of an asked command whose checks pass is its own. -/
theorem nciCode_acts {op : Nat} {masks : List Nat} {ws : List Word} {r : NciRes} (hr : reservedBits masks ws = false) (hb : r.bad = false)
    (hd : r.denied = false) (hy : r.busy = false) (hn : r.nores = false) : nciCode op none masks ws r = r.code := by
  simp [nciCode, hr, hb, hd, hy, hn]

/-- An asked command whose checks pass takes effect and its reply is held. -/
theorem withNciPick_acts {op : Nat} {pick : List Word → Bool} {masks : List Nat} {pair : Fin 176} {s : State} {body : List Word → State → NciRes}
    (h : asks op masks pair s = true) (hp : pick (reqWords s pair.val) = true) (hb : (body (reqWords s pair.val) s).bad = false)
    (hd : (body (reqWords s pair.val) s).denied = false) (hy : (body (reqWords s pair.val) s).busy = false)
    (hn : (body (reqWords s pair.val) s).nores = false) (hc : codeActs (body (reqWords s pair.val) s).code = true) :
    withNciPick op pick masks pair s body =
      .next ((body (reqWords s pair.val) s).after (body (reqWords s pair.val) s).code
        (replied s pair (body (reqWords s pair.val) s).code (body (reqWords s pair.val) s).words (body (reqWords s pair.val) s).st)) := by
  obtain ⟨a, b, c, d, e, f, g⟩ := asks_parts h
  simp only [withNciPick, a, b, c, d, f, g, hp, nciCode_acts e hb hd hy hn, hc, replied, Bool.not_true, Bool.false_eq_true, if_false, ne_eq,
    not_true_eq_false, decide_false, Bool.or_self, Bool.and_false, if_true]

/-- The same for a command with an opcode of its own. -/
theorem withNci_acts {op : Nat} {masks : List Nat} {pair : Fin 176} {s : State} {body : List Word → State → NciRes}
    (h : asks op masks pair s = true) (hb : (body (reqWords s pair.val) s).bad = false)
    (hd : (body (reqWords s pair.val) s).denied = false) (hy : (body (reqWords s pair.val) s).busy = false)
    (hn : (body (reqWords s pair.val) s).nores = false) (hc : codeActs (body (reqWords s pair.val) s).code = true) :
    withNci op masks pair s body =
      .next ((body (reqWords s pair.val) s).after (body (reqWords s pair.val) s).code
        (replied s pair (body (reqWords s pair.val) s).code (body (reqWords s pair.val) s).words (body (reqWords s pair.val) s).st)) :=
  withNciPick_acts h rfl hb hd hy hn hc

end Sys2Proof.Machine
end

