-- ==== Sys2Proof/Laws/State.lean ====
section
/-!
SUPPORT. The state's updates, field by field: an update of one table leaves every other field alone.
-/
namespace Sys2Proof.Machine

/-! ### setChm -/

@[simp] theorem setChm_pending (s : State) (ph : Nat) (c : Chamber) : (setChm s ph c).pending = s.pending := rfl
@[simp] theorem setChm_free (s : State) (ph : Nat) (c : Chamber) : (setChm s ph c).free = s.free := rfl
@[simp] theorem setChm_out (s : State) (ph : Nat) (c : Chamber) : (setChm s ph c).out = s.out := rfl
@[simp] theorem setChm_hostMem (s : State) (ph : Nat) (c : Chamber) : (setChm s ph c).hostMem = s.hostMem := rfl
@[simp] theorem setChm_mem (s : State) (ph : Nat) (c : Chamber) : (setChm s ph c).mem = s.mem := rfl
@[simp] theorem setChm_wflags (s : State) (ph : Nat) (c : Chamber) : (setChm s ph c).wflags = s.wflags := rfl
@[simp] theorem setChm_memErr (s : State) (ph : Nat) (c : Chamber) : (setChm s ph c).memErr = s.memErr := rfl
@[simp] theorem setChm_siph (s : State) (ph : Nat) (c : Chamber) : (setChm s ph c).siph = s.siph := rfl
@[simp] theorem setChm_cairns (s : State) (ph : Nat) (c : Chamber) : (setChm s ph c).cairns = s.cairns := rfl
@[simp] theorem setChm_lvic (s : State) (ph : Nat) (c : Chamber) : (setChm s ph c).lvic = s.lvic := rfl
@[simp] theorem setChm_rings (s : State) (ph : Nat) (c : Chamber) : (setChm s ph c).rings = s.rings := rfl
@[simp] theorem setChm_pairs (s : State) (ph : Nat) (c : Chamber) : (setChm s ph c).pairs = s.pairs := rfl
@[simp] theorem setChm_nciQ (s : State) (ph : Nat) (c : Chamber) : (setChm s ph c).nciQ = s.nciQ := rfl
@[simp] theorem setChm_nci (s : State) (ph : Nat) (c : Chamber) : (setChm s ph c).nci = s.nci := rfl
@[simp] theorem setChm_leq (s : State) (ph : Nat) (c : Chamber) : (setChm s ph c).leq = s.leq := rfl
@[simp] theorem setChm_sts (s : State) (ph : Nat) (c : Chamber) : (setChm s ph c).sts = s.sts := rfl
@[simp] theorem setChm_pcie (s : State) (ph : Nat) (c : Chamber) : (setChm s ph c).pcie = s.pcie := rfl
@[simp] theorem setChm_latch (s : State) (ph : Nat) (c : Chamber) : (setChm s ph c).latch = s.latch := rfl
@[simp] theorem setChm_stage (s : State) (ph : Nat) (c : Chamber) : (setChm s ph c).stage = s.stage := rfl
@[simp] theorem setChm_ctxs (s : State) (ph : Nat) (c : Chamber) : (setChm s ph c).ctxs = s.ctxs := rfl
@[simp] theorem setChm_tmpls (s : State) (ph : Nat) (c : Chamber) : (setChm s ph c).tmpls = s.tmpls := rfl
@[simp] theorem setChm_chains (s : State) (ph : Nat) (c : Chamber) : (setChm s ph c).chains = s.chains := rfl
@[simp] theorem setChm_sched (s : State) (ph : Nat) (c : Chamber) : (setChm s ph c).sched = s.sched := rfl
@[simp] theorem setChm_units (s : State) (ph : Nat) (c : Chamber) : (setChm s ph c).units = s.units := rfl
@[simp] theorem setChm_gated (s : State) (ph : Nat) (c : Chamber) : (setChm s ph c).gated = s.gated := rfl
@[simp] theorem setChm_ports (s : State) (ph : Nat) (c : Chamber) : (setChm s ph c).ports = s.ports := rfl
@[simp] theorem setChm_lports (s : State) (ph : Nat) (c : Chamber) : (setChm s ph c).lports = s.lports := rfl
@[simp] theorem setChm_flows (s : State) (ph : Nat) (c : Chamber) : (setChm s ph c).flows = s.flows := rfl
@[simp] theorem setChm_released (s : State) (ph : Nat) (c : Chamber) : (setChm s ph c).released = s.released := rfl
@[simp] theorem setChm_dec (s : State) (ph : Nat) (c : Chamber) : (setChm s ph c).dec = s.dec := rfl
@[simp] theorem setChm_estreams (s : State) (ph : Nat) (c : Chamber) : (setChm s ph c).estreams = s.estreams := rfl
@[simp] theorem setChm_echs (s : State) (ph : Nat) (c : Chamber) : (setChm s ph c).echs = s.echs := rfl
@[simp] theorem setChm_time (s : State) (ph : Nat) (c : Chamber) : (setChm s ph c).time = s.time := rfl
@[simp] theorem setChm_emx (s : State) (ph : Nat) (c : Chamber) : (setChm s ph c).emx = s.emx := rfl
@[simp] theorem setChm_crp (s : State) (ph : Nat) (c : Chamber) : (setChm s ph c).crp = s.crp := rfl
@[simp] theorem setChm_sec (s : State) (ph : Nat) (c : Chamber) : (setChm s ph c).sec = s.sec := rfl
@[simp] theorem setChm_pin (s : State) (ph : Nat) (c : Chamber) : (setChm s ph c).pin = s.pin := rfl
@[simp] theorem setChm_err (s : State) (ph : Nat) (c : Chamber) : (setChm s ph c).err = s.err := rfl

/-! ### updChm -/

@[simp] theorem updChm_pending (s : State) (ph : Nat) (f : Chamber → Chamber) : (updChm s ph f).pending = s.pending := rfl
@[simp] theorem updChm_free (s : State) (ph : Nat) (f : Chamber → Chamber) : (updChm s ph f).free = s.free := rfl
@[simp] theorem updChm_out (s : State) (ph : Nat) (f : Chamber → Chamber) : (updChm s ph f).out = s.out := rfl
@[simp] theorem updChm_hostMem (s : State) (ph : Nat) (f : Chamber → Chamber) : (updChm s ph f).hostMem = s.hostMem := rfl
@[simp] theorem updChm_mem (s : State) (ph : Nat) (f : Chamber → Chamber) : (updChm s ph f).mem = s.mem := rfl
@[simp] theorem updChm_wflags (s : State) (ph : Nat) (f : Chamber → Chamber) : (updChm s ph f).wflags = s.wflags := rfl
@[simp] theorem updChm_memErr (s : State) (ph : Nat) (f : Chamber → Chamber) : (updChm s ph f).memErr = s.memErr := rfl
@[simp] theorem updChm_siph (s : State) (ph : Nat) (f : Chamber → Chamber) : (updChm s ph f).siph = s.siph := rfl
@[simp] theorem updChm_cairns (s : State) (ph : Nat) (f : Chamber → Chamber) : (updChm s ph f).cairns = s.cairns := rfl
@[simp] theorem updChm_lvic (s : State) (ph : Nat) (f : Chamber → Chamber) : (updChm s ph f).lvic = s.lvic := rfl
@[simp] theorem updChm_rings (s : State) (ph : Nat) (f : Chamber → Chamber) : (updChm s ph f).rings = s.rings := rfl
@[simp] theorem updChm_pairs (s : State) (ph : Nat) (f : Chamber → Chamber) : (updChm s ph f).pairs = s.pairs := rfl
@[simp] theorem updChm_nciQ (s : State) (ph : Nat) (f : Chamber → Chamber) : (updChm s ph f).nciQ = s.nciQ := rfl
@[simp] theorem updChm_nci (s : State) (ph : Nat) (f : Chamber → Chamber) : (updChm s ph f).nci = s.nci := rfl
@[simp] theorem updChm_leq (s : State) (ph : Nat) (f : Chamber → Chamber) : (updChm s ph f).leq = s.leq := rfl
@[simp] theorem updChm_sts (s : State) (ph : Nat) (f : Chamber → Chamber) : (updChm s ph f).sts = s.sts := rfl
@[simp] theorem updChm_pcie (s : State) (ph : Nat) (f : Chamber → Chamber) : (updChm s ph f).pcie = s.pcie := rfl
@[simp] theorem updChm_latch (s : State) (ph : Nat) (f : Chamber → Chamber) : (updChm s ph f).latch = s.latch := rfl
@[simp] theorem updChm_stage (s : State) (ph : Nat) (f : Chamber → Chamber) : (updChm s ph f).stage = s.stage := rfl
@[simp] theorem updChm_ctxs (s : State) (ph : Nat) (f : Chamber → Chamber) : (updChm s ph f).ctxs = s.ctxs := rfl
@[simp] theorem updChm_tmpls (s : State) (ph : Nat) (f : Chamber → Chamber) : (updChm s ph f).tmpls = s.tmpls := rfl
@[simp] theorem updChm_chains (s : State) (ph : Nat) (f : Chamber → Chamber) : (updChm s ph f).chains = s.chains := rfl
@[simp] theorem updChm_sched (s : State) (ph : Nat) (f : Chamber → Chamber) : (updChm s ph f).sched = s.sched := rfl
@[simp] theorem updChm_units (s : State) (ph : Nat) (f : Chamber → Chamber) : (updChm s ph f).units = s.units := rfl
@[simp] theorem updChm_gated (s : State) (ph : Nat) (f : Chamber → Chamber) : (updChm s ph f).gated = s.gated := rfl
@[simp] theorem updChm_ports (s : State) (ph : Nat) (f : Chamber → Chamber) : (updChm s ph f).ports = s.ports := rfl
@[simp] theorem updChm_lports (s : State) (ph : Nat) (f : Chamber → Chamber) : (updChm s ph f).lports = s.lports := rfl
@[simp] theorem updChm_flows (s : State) (ph : Nat) (f : Chamber → Chamber) : (updChm s ph f).flows = s.flows := rfl
@[simp] theorem updChm_released (s : State) (ph : Nat) (f : Chamber → Chamber) : (updChm s ph f).released = s.released := rfl
@[simp] theorem updChm_dec (s : State) (ph : Nat) (f : Chamber → Chamber) : (updChm s ph f).dec = s.dec := rfl
@[simp] theorem updChm_estreams (s : State) (ph : Nat) (f : Chamber → Chamber) : (updChm s ph f).estreams = s.estreams := rfl
@[simp] theorem updChm_echs (s : State) (ph : Nat) (f : Chamber → Chamber) : (updChm s ph f).echs = s.echs := rfl
@[simp] theorem updChm_time (s : State) (ph : Nat) (f : Chamber → Chamber) : (updChm s ph f).time = s.time := rfl
@[simp] theorem updChm_emx (s : State) (ph : Nat) (f : Chamber → Chamber) : (updChm s ph f).emx = s.emx := rfl
@[simp] theorem updChm_crp (s : State) (ph : Nat) (f : Chamber → Chamber) : (updChm s ph f).crp = s.crp := rfl
@[simp] theorem updChm_sec (s : State) (ph : Nat) (f : Chamber → Chamber) : (updChm s ph f).sec = s.sec := rfl
@[simp] theorem updChm_pin (s : State) (ph : Nat) (f : Chamber → Chamber) : (updChm s ph f).pin = s.pin := rfl
@[simp] theorem updChm_err (s : State) (ph : Nat) (f : Chamber → Chamber) : (updChm s ph f).err = s.err := rfl

/-! ### updCore -/

@[simp] theorem updCore_pending (s : State) (ph : Nat) (f : Core → Core) : (updCore s ph f).pending = s.pending := rfl
@[simp] theorem updCore_free (s : State) (ph : Nat) (f : Core → Core) : (updCore s ph f).free = s.free := rfl
@[simp] theorem updCore_out (s : State) (ph : Nat) (f : Core → Core) : (updCore s ph f).out = s.out := rfl
@[simp] theorem updCore_hostMem (s : State) (ph : Nat) (f : Core → Core) : (updCore s ph f).hostMem = s.hostMem := rfl
@[simp] theorem updCore_mem (s : State) (ph : Nat) (f : Core → Core) : (updCore s ph f).mem = s.mem := rfl
@[simp] theorem updCore_wflags (s : State) (ph : Nat) (f : Core → Core) : (updCore s ph f).wflags = s.wflags := rfl
@[simp] theorem updCore_memErr (s : State) (ph : Nat) (f : Core → Core) : (updCore s ph f).memErr = s.memErr := rfl
@[simp] theorem updCore_siph (s : State) (ph : Nat) (f : Core → Core) : (updCore s ph f).siph = s.siph := rfl
@[simp] theorem updCore_cairns (s : State) (ph : Nat) (f : Core → Core) : (updCore s ph f).cairns = s.cairns := rfl
@[simp] theorem updCore_lvic (s : State) (ph : Nat) (f : Core → Core) : (updCore s ph f).lvic = s.lvic := rfl
@[simp] theorem updCore_rings (s : State) (ph : Nat) (f : Core → Core) : (updCore s ph f).rings = s.rings := rfl
@[simp] theorem updCore_pairs (s : State) (ph : Nat) (f : Core → Core) : (updCore s ph f).pairs = s.pairs := rfl
@[simp] theorem updCore_nciQ (s : State) (ph : Nat) (f : Core → Core) : (updCore s ph f).nciQ = s.nciQ := rfl
@[simp] theorem updCore_nci (s : State) (ph : Nat) (f : Core → Core) : (updCore s ph f).nci = s.nci := rfl
@[simp] theorem updCore_leq (s : State) (ph : Nat) (f : Core → Core) : (updCore s ph f).leq = s.leq := rfl
@[simp] theorem updCore_sts (s : State) (ph : Nat) (f : Core → Core) : (updCore s ph f).sts = s.sts := rfl
@[simp] theorem updCore_pcie (s : State) (ph : Nat) (f : Core → Core) : (updCore s ph f).pcie = s.pcie := rfl
@[simp] theorem updCore_latch (s : State) (ph : Nat) (f : Core → Core) : (updCore s ph f).latch = s.latch := rfl
@[simp] theorem updCore_stage (s : State) (ph : Nat) (f : Core → Core) : (updCore s ph f).stage = s.stage := rfl
@[simp] theorem updCore_ctxs (s : State) (ph : Nat) (f : Core → Core) : (updCore s ph f).ctxs = s.ctxs := rfl
@[simp] theorem updCore_tmpls (s : State) (ph : Nat) (f : Core → Core) : (updCore s ph f).tmpls = s.tmpls := rfl
@[simp] theorem updCore_chains (s : State) (ph : Nat) (f : Core → Core) : (updCore s ph f).chains = s.chains := rfl
@[simp] theorem updCore_sched (s : State) (ph : Nat) (f : Core → Core) : (updCore s ph f).sched = s.sched := rfl
@[simp] theorem updCore_units (s : State) (ph : Nat) (f : Core → Core) : (updCore s ph f).units = s.units := rfl
@[simp] theorem updCore_gated (s : State) (ph : Nat) (f : Core → Core) : (updCore s ph f).gated = s.gated := rfl
@[simp] theorem updCore_ports (s : State) (ph : Nat) (f : Core → Core) : (updCore s ph f).ports = s.ports := rfl
@[simp] theorem updCore_lports (s : State) (ph : Nat) (f : Core → Core) : (updCore s ph f).lports = s.lports := rfl
@[simp] theorem updCore_flows (s : State) (ph : Nat) (f : Core → Core) : (updCore s ph f).flows = s.flows := rfl
@[simp] theorem updCore_released (s : State) (ph : Nat) (f : Core → Core) : (updCore s ph f).released = s.released := rfl
@[simp] theorem updCore_dec (s : State) (ph : Nat) (f : Core → Core) : (updCore s ph f).dec = s.dec := rfl
@[simp] theorem updCore_estreams (s : State) (ph : Nat) (f : Core → Core) : (updCore s ph f).estreams = s.estreams := rfl
@[simp] theorem updCore_echs (s : State) (ph : Nat) (f : Core → Core) : (updCore s ph f).echs = s.echs := rfl
@[simp] theorem updCore_time (s : State) (ph : Nat) (f : Core → Core) : (updCore s ph f).time = s.time := rfl
@[simp] theorem updCore_emx (s : State) (ph : Nat) (f : Core → Core) : (updCore s ph f).emx = s.emx := rfl
@[simp] theorem updCore_crp (s : State) (ph : Nat) (f : Core → Core) : (updCore s ph f).crp = s.crp := rfl
@[simp] theorem updCore_sec (s : State) (ph : Nat) (f : Core → Core) : (updCore s ph f).sec = s.sec := rfl
@[simp] theorem updCore_pin (s : State) (ph : Nat) (f : Core → Core) : (updCore s ph f).pin = s.pin := rfl
@[simp] theorem updCore_err (s : State) (ph : Nat) (f : Core → Core) : (updCore s ph f).err = s.err := rfl

/-! ### updAr -/

@[simp] theorem updAr_pending (s : State) (ph : Nat) (f : Arrays → Arrays) : (updAr s ph f).pending = s.pending := rfl
@[simp] theorem updAr_free (s : State) (ph : Nat) (f : Arrays → Arrays) : (updAr s ph f).free = s.free := rfl
@[simp] theorem updAr_out (s : State) (ph : Nat) (f : Arrays → Arrays) : (updAr s ph f).out = s.out := rfl
@[simp] theorem updAr_hostMem (s : State) (ph : Nat) (f : Arrays → Arrays) : (updAr s ph f).hostMem = s.hostMem := rfl
@[simp] theorem updAr_mem (s : State) (ph : Nat) (f : Arrays → Arrays) : (updAr s ph f).mem = s.mem := rfl
@[simp] theorem updAr_wflags (s : State) (ph : Nat) (f : Arrays → Arrays) : (updAr s ph f).wflags = s.wflags := rfl
@[simp] theorem updAr_memErr (s : State) (ph : Nat) (f : Arrays → Arrays) : (updAr s ph f).memErr = s.memErr := rfl
@[simp] theorem updAr_siph (s : State) (ph : Nat) (f : Arrays → Arrays) : (updAr s ph f).siph = s.siph := rfl
@[simp] theorem updAr_cairns (s : State) (ph : Nat) (f : Arrays → Arrays) : (updAr s ph f).cairns = s.cairns := rfl
@[simp] theorem updAr_lvic (s : State) (ph : Nat) (f : Arrays → Arrays) : (updAr s ph f).lvic = s.lvic := rfl
@[simp] theorem updAr_rings (s : State) (ph : Nat) (f : Arrays → Arrays) : (updAr s ph f).rings = s.rings := rfl
@[simp] theorem updAr_pairs (s : State) (ph : Nat) (f : Arrays → Arrays) : (updAr s ph f).pairs = s.pairs := rfl
@[simp] theorem updAr_nciQ (s : State) (ph : Nat) (f : Arrays → Arrays) : (updAr s ph f).nciQ = s.nciQ := rfl
@[simp] theorem updAr_nci (s : State) (ph : Nat) (f : Arrays → Arrays) : (updAr s ph f).nci = s.nci := rfl
@[simp] theorem updAr_leq (s : State) (ph : Nat) (f : Arrays → Arrays) : (updAr s ph f).leq = s.leq := rfl
@[simp] theorem updAr_sts (s : State) (ph : Nat) (f : Arrays → Arrays) : (updAr s ph f).sts = s.sts := rfl
@[simp] theorem updAr_pcie (s : State) (ph : Nat) (f : Arrays → Arrays) : (updAr s ph f).pcie = s.pcie := rfl
@[simp] theorem updAr_latch (s : State) (ph : Nat) (f : Arrays → Arrays) : (updAr s ph f).latch = s.latch := rfl
@[simp] theorem updAr_stage (s : State) (ph : Nat) (f : Arrays → Arrays) : (updAr s ph f).stage = s.stage := rfl
@[simp] theorem updAr_ctxs (s : State) (ph : Nat) (f : Arrays → Arrays) : (updAr s ph f).ctxs = s.ctxs := rfl
@[simp] theorem updAr_tmpls (s : State) (ph : Nat) (f : Arrays → Arrays) : (updAr s ph f).tmpls = s.tmpls := rfl
@[simp] theorem updAr_chains (s : State) (ph : Nat) (f : Arrays → Arrays) : (updAr s ph f).chains = s.chains := rfl
@[simp] theorem updAr_sched (s : State) (ph : Nat) (f : Arrays → Arrays) : (updAr s ph f).sched = s.sched := rfl
@[simp] theorem updAr_units (s : State) (ph : Nat) (f : Arrays → Arrays) : (updAr s ph f).units = s.units := rfl
@[simp] theorem updAr_gated (s : State) (ph : Nat) (f : Arrays → Arrays) : (updAr s ph f).gated = s.gated := rfl
@[simp] theorem updAr_ports (s : State) (ph : Nat) (f : Arrays → Arrays) : (updAr s ph f).ports = s.ports := rfl
@[simp] theorem updAr_lports (s : State) (ph : Nat) (f : Arrays → Arrays) : (updAr s ph f).lports = s.lports := rfl
@[simp] theorem updAr_flows (s : State) (ph : Nat) (f : Arrays → Arrays) : (updAr s ph f).flows = s.flows := rfl
@[simp] theorem updAr_released (s : State) (ph : Nat) (f : Arrays → Arrays) : (updAr s ph f).released = s.released := rfl
@[simp] theorem updAr_dec (s : State) (ph : Nat) (f : Arrays → Arrays) : (updAr s ph f).dec = s.dec := rfl
@[simp] theorem updAr_estreams (s : State) (ph : Nat) (f : Arrays → Arrays) : (updAr s ph f).estreams = s.estreams := rfl
@[simp] theorem updAr_echs (s : State) (ph : Nat) (f : Arrays → Arrays) : (updAr s ph f).echs = s.echs := rfl
@[simp] theorem updAr_time (s : State) (ph : Nat) (f : Arrays → Arrays) : (updAr s ph f).time = s.time := rfl
@[simp] theorem updAr_emx (s : State) (ph : Nat) (f : Arrays → Arrays) : (updAr s ph f).emx = s.emx := rfl
@[simp] theorem updAr_crp (s : State) (ph : Nat) (f : Arrays → Arrays) : (updAr s ph f).crp = s.crp := rfl
@[simp] theorem updAr_sec (s : State) (ph : Nat) (f : Arrays → Arrays) : (updAr s ph f).sec = s.sec := rfl
@[simp] theorem updAr_pin (s : State) (ph : Nat) (f : Arrays → Arrays) : (updAr s ph f).pin = s.pin := rfl
@[simp] theorem updAr_err (s : State) (ph : Nat) (f : Arrays → Arrays) : (updAr s ph f).err = s.err := rfl

/-! ### updFl -/

@[simp] theorem updFl_pending (s : State) (ph : Nat) (f : Fls → Fls) : (updFl s ph f).pending = s.pending := rfl
@[simp] theorem updFl_free (s : State) (ph : Nat) (f : Fls → Fls) : (updFl s ph f).free = s.free := rfl
@[simp] theorem updFl_out (s : State) (ph : Nat) (f : Fls → Fls) : (updFl s ph f).out = s.out := rfl
@[simp] theorem updFl_hostMem (s : State) (ph : Nat) (f : Fls → Fls) : (updFl s ph f).hostMem = s.hostMem := rfl
@[simp] theorem updFl_mem (s : State) (ph : Nat) (f : Fls → Fls) : (updFl s ph f).mem = s.mem := rfl
@[simp] theorem updFl_wflags (s : State) (ph : Nat) (f : Fls → Fls) : (updFl s ph f).wflags = s.wflags := rfl
@[simp] theorem updFl_memErr (s : State) (ph : Nat) (f : Fls → Fls) : (updFl s ph f).memErr = s.memErr := rfl
@[simp] theorem updFl_siph (s : State) (ph : Nat) (f : Fls → Fls) : (updFl s ph f).siph = s.siph := rfl
@[simp] theorem updFl_cairns (s : State) (ph : Nat) (f : Fls → Fls) : (updFl s ph f).cairns = s.cairns := rfl
@[simp] theorem updFl_lvic (s : State) (ph : Nat) (f : Fls → Fls) : (updFl s ph f).lvic = s.lvic := rfl
@[simp] theorem updFl_rings (s : State) (ph : Nat) (f : Fls → Fls) : (updFl s ph f).rings = s.rings := rfl
@[simp] theorem updFl_pairs (s : State) (ph : Nat) (f : Fls → Fls) : (updFl s ph f).pairs = s.pairs := rfl
@[simp] theorem updFl_nciQ (s : State) (ph : Nat) (f : Fls → Fls) : (updFl s ph f).nciQ = s.nciQ := rfl
@[simp] theorem updFl_nci (s : State) (ph : Nat) (f : Fls → Fls) : (updFl s ph f).nci = s.nci := rfl
@[simp] theorem updFl_leq (s : State) (ph : Nat) (f : Fls → Fls) : (updFl s ph f).leq = s.leq := rfl
@[simp] theorem updFl_sts (s : State) (ph : Nat) (f : Fls → Fls) : (updFl s ph f).sts = s.sts := rfl
@[simp] theorem updFl_pcie (s : State) (ph : Nat) (f : Fls → Fls) : (updFl s ph f).pcie = s.pcie := rfl
@[simp] theorem updFl_latch (s : State) (ph : Nat) (f : Fls → Fls) : (updFl s ph f).latch = s.latch := rfl
@[simp] theorem updFl_stage (s : State) (ph : Nat) (f : Fls → Fls) : (updFl s ph f).stage = s.stage := rfl
@[simp] theorem updFl_ctxs (s : State) (ph : Nat) (f : Fls → Fls) : (updFl s ph f).ctxs = s.ctxs := rfl
@[simp] theorem updFl_tmpls (s : State) (ph : Nat) (f : Fls → Fls) : (updFl s ph f).tmpls = s.tmpls := rfl
@[simp] theorem updFl_chains (s : State) (ph : Nat) (f : Fls → Fls) : (updFl s ph f).chains = s.chains := rfl
@[simp] theorem updFl_sched (s : State) (ph : Nat) (f : Fls → Fls) : (updFl s ph f).sched = s.sched := rfl
@[simp] theorem updFl_units (s : State) (ph : Nat) (f : Fls → Fls) : (updFl s ph f).units = s.units := rfl
@[simp] theorem updFl_gated (s : State) (ph : Nat) (f : Fls → Fls) : (updFl s ph f).gated = s.gated := rfl
@[simp] theorem updFl_ports (s : State) (ph : Nat) (f : Fls → Fls) : (updFl s ph f).ports = s.ports := rfl
@[simp] theorem updFl_lports (s : State) (ph : Nat) (f : Fls → Fls) : (updFl s ph f).lports = s.lports := rfl
@[simp] theorem updFl_flows (s : State) (ph : Nat) (f : Fls → Fls) : (updFl s ph f).flows = s.flows := rfl
@[simp] theorem updFl_released (s : State) (ph : Nat) (f : Fls → Fls) : (updFl s ph f).released = s.released := rfl
@[simp] theorem updFl_dec (s : State) (ph : Nat) (f : Fls → Fls) : (updFl s ph f).dec = s.dec := rfl
@[simp] theorem updFl_estreams (s : State) (ph : Nat) (f : Fls → Fls) : (updFl s ph f).estreams = s.estreams := rfl
@[simp] theorem updFl_echs (s : State) (ph : Nat) (f : Fls → Fls) : (updFl s ph f).echs = s.echs := rfl
@[simp] theorem updFl_time (s : State) (ph : Nat) (f : Fls → Fls) : (updFl s ph f).time = s.time := rfl
@[simp] theorem updFl_emx (s : State) (ph : Nat) (f : Fls → Fls) : (updFl s ph f).emx = s.emx := rfl
@[simp] theorem updFl_crp (s : State) (ph : Nat) (f : Fls → Fls) : (updFl s ph f).crp = s.crp := rfl
@[simp] theorem updFl_sec (s : State) (ph : Nat) (f : Fls → Fls) : (updFl s ph f).sec = s.sec := rfl
@[simp] theorem updFl_pin (s : State) (ph : Nat) (f : Fls → Fls) : (updFl s ph f).pin = s.pin := rfl
@[simp] theorem updFl_err (s : State) (ph : Nat) (f : Fls → Fls) : (updFl s ph f).err = s.err := rfl

/-! ### updSiph -/

@[simp] theorem updSiph_pending (s : State) (q : Nat) (f : Siphon → Siphon) : (updSiph s q f).pending = s.pending := rfl
@[simp] theorem updSiph_free (s : State) (q : Nat) (f : Siphon → Siphon) : (updSiph s q f).free = s.free := rfl
@[simp] theorem updSiph_out (s : State) (q : Nat) (f : Siphon → Siphon) : (updSiph s q f).out = s.out := rfl
@[simp] theorem updSiph_hostMem (s : State) (q : Nat) (f : Siphon → Siphon) : (updSiph s q f).hostMem = s.hostMem := rfl
@[simp] theorem updSiph_mem (s : State) (q : Nat) (f : Siphon → Siphon) : (updSiph s q f).mem = s.mem := rfl
@[simp] theorem updSiph_wflags (s : State) (q : Nat) (f : Siphon → Siphon) : (updSiph s q f).wflags = s.wflags := rfl
@[simp] theorem updSiph_memErr (s : State) (q : Nat) (f : Siphon → Siphon) : (updSiph s q f).memErr = s.memErr := rfl
@[simp] theorem updSiph_chms (s : State) (q : Nat) (f : Siphon → Siphon) : (updSiph s q f).chms = s.chms := rfl
@[simp] theorem updSiph_cairns (s : State) (q : Nat) (f : Siphon → Siphon) : (updSiph s q f).cairns = s.cairns := rfl
@[simp] theorem updSiph_lvic (s : State) (q : Nat) (f : Siphon → Siphon) : (updSiph s q f).lvic = s.lvic := rfl
@[simp] theorem updSiph_rings (s : State) (q : Nat) (f : Siphon → Siphon) : (updSiph s q f).rings = s.rings := rfl
@[simp] theorem updSiph_pairs (s : State) (q : Nat) (f : Siphon → Siphon) : (updSiph s q f).pairs = s.pairs := rfl
@[simp] theorem updSiph_nciQ (s : State) (q : Nat) (f : Siphon → Siphon) : (updSiph s q f).nciQ = s.nciQ := rfl
@[simp] theorem updSiph_nci (s : State) (q : Nat) (f : Siphon → Siphon) : (updSiph s q f).nci = s.nci := rfl
@[simp] theorem updSiph_leq (s : State) (q : Nat) (f : Siphon → Siphon) : (updSiph s q f).leq = s.leq := rfl
@[simp] theorem updSiph_sts (s : State) (q : Nat) (f : Siphon → Siphon) : (updSiph s q f).sts = s.sts := rfl
@[simp] theorem updSiph_pcie (s : State) (q : Nat) (f : Siphon → Siphon) : (updSiph s q f).pcie = s.pcie := rfl
@[simp] theorem updSiph_latch (s : State) (q : Nat) (f : Siphon → Siphon) : (updSiph s q f).latch = s.latch := rfl
@[simp] theorem updSiph_stage (s : State) (q : Nat) (f : Siphon → Siphon) : (updSiph s q f).stage = s.stage := rfl
@[simp] theorem updSiph_ctxs (s : State) (q : Nat) (f : Siphon → Siphon) : (updSiph s q f).ctxs = s.ctxs := rfl
@[simp] theorem updSiph_tmpls (s : State) (q : Nat) (f : Siphon → Siphon) : (updSiph s q f).tmpls = s.tmpls := rfl
@[simp] theorem updSiph_chains (s : State) (q : Nat) (f : Siphon → Siphon) : (updSiph s q f).chains = s.chains := rfl
@[simp] theorem updSiph_sched (s : State) (q : Nat) (f : Siphon → Siphon) : (updSiph s q f).sched = s.sched := rfl
@[simp] theorem updSiph_units (s : State) (q : Nat) (f : Siphon → Siphon) : (updSiph s q f).units = s.units := rfl
@[simp] theorem updSiph_gated (s : State) (q : Nat) (f : Siphon → Siphon) : (updSiph s q f).gated = s.gated := rfl
@[simp] theorem updSiph_ports (s : State) (q : Nat) (f : Siphon → Siphon) : (updSiph s q f).ports = s.ports := rfl
@[simp] theorem updSiph_lports (s : State) (q : Nat) (f : Siphon → Siphon) : (updSiph s q f).lports = s.lports := rfl
@[simp] theorem updSiph_flows (s : State) (q : Nat) (f : Siphon → Siphon) : (updSiph s q f).flows = s.flows := rfl
@[simp] theorem updSiph_released (s : State) (q : Nat) (f : Siphon → Siphon) : (updSiph s q f).released = s.released := rfl
@[simp] theorem updSiph_dec (s : State) (q : Nat) (f : Siphon → Siphon) : (updSiph s q f).dec = s.dec := rfl
@[simp] theorem updSiph_estreams (s : State) (q : Nat) (f : Siphon → Siphon) : (updSiph s q f).estreams = s.estreams := rfl
@[simp] theorem updSiph_echs (s : State) (q : Nat) (f : Siphon → Siphon) : (updSiph s q f).echs = s.echs := rfl
@[simp] theorem updSiph_time (s : State) (q : Nat) (f : Siphon → Siphon) : (updSiph s q f).time = s.time := rfl
@[simp] theorem updSiph_emx (s : State) (q : Nat) (f : Siphon → Siphon) : (updSiph s q f).emx = s.emx := rfl
@[simp] theorem updSiph_crp (s : State) (q : Nat) (f : Siphon → Siphon) : (updSiph s q f).crp = s.crp := rfl
@[simp] theorem updSiph_sec (s : State) (q : Nat) (f : Siphon → Siphon) : (updSiph s q f).sec = s.sec := rfl
@[simp] theorem updSiph_pin (s : State) (q : Nat) (f : Siphon → Siphon) : (updSiph s q f).pin = s.pin := rfl
@[simp] theorem updSiph_err (s : State) (q : Nat) (f : Siphon → Siphon) : (updSiph s q f).err = s.err := rfl

/-! ### setCairn -/

@[simp] theorem setCairn_pending (s : State) (n : Nat) (c : Cairn) : (setCairn s n c).pending = s.pending := rfl
@[simp] theorem setCairn_free (s : State) (n : Nat) (c : Cairn) : (setCairn s n c).free = s.free := rfl
@[simp] theorem setCairn_out (s : State) (n : Nat) (c : Cairn) : (setCairn s n c).out = s.out := rfl
@[simp] theorem setCairn_hostMem (s : State) (n : Nat) (c : Cairn) : (setCairn s n c).hostMem = s.hostMem := rfl
@[simp] theorem setCairn_mem (s : State) (n : Nat) (c : Cairn) : (setCairn s n c).mem = s.mem := rfl
@[simp] theorem setCairn_wflags (s : State) (n : Nat) (c : Cairn) : (setCairn s n c).wflags = s.wflags := rfl
@[simp] theorem setCairn_memErr (s : State) (n : Nat) (c : Cairn) : (setCairn s n c).memErr = s.memErr := rfl
@[simp] theorem setCairn_chms (s : State) (n : Nat) (c : Cairn) : (setCairn s n c).chms = s.chms := rfl
@[simp] theorem setCairn_siph (s : State) (n : Nat) (c : Cairn) : (setCairn s n c).siph = s.siph := rfl
@[simp] theorem setCairn_lvic (s : State) (n : Nat) (c : Cairn) : (setCairn s n c).lvic = s.lvic := rfl
@[simp] theorem setCairn_rings (s : State) (n : Nat) (c : Cairn) : (setCairn s n c).rings = s.rings := rfl
@[simp] theorem setCairn_pairs (s : State) (n : Nat) (c : Cairn) : (setCairn s n c).pairs = s.pairs := rfl
@[simp] theorem setCairn_nciQ (s : State) (n : Nat) (c : Cairn) : (setCairn s n c).nciQ = s.nciQ := rfl
@[simp] theorem setCairn_nci (s : State) (n : Nat) (c : Cairn) : (setCairn s n c).nci = s.nci := rfl
@[simp] theorem setCairn_leq (s : State) (n : Nat) (c : Cairn) : (setCairn s n c).leq = s.leq := rfl
@[simp] theorem setCairn_sts (s : State) (n : Nat) (c : Cairn) : (setCairn s n c).sts = s.sts := rfl
@[simp] theorem setCairn_pcie (s : State) (n : Nat) (c : Cairn) : (setCairn s n c).pcie = s.pcie := rfl
@[simp] theorem setCairn_latch (s : State) (n : Nat) (c : Cairn) : (setCairn s n c).latch = s.latch := rfl
@[simp] theorem setCairn_stage (s : State) (n : Nat) (c : Cairn) : (setCairn s n c).stage = s.stage := rfl
@[simp] theorem setCairn_ctxs (s : State) (n : Nat) (c : Cairn) : (setCairn s n c).ctxs = s.ctxs := rfl
@[simp] theorem setCairn_tmpls (s : State) (n : Nat) (c : Cairn) : (setCairn s n c).tmpls = s.tmpls := rfl
@[simp] theorem setCairn_chains (s : State) (n : Nat) (c : Cairn) : (setCairn s n c).chains = s.chains := rfl
@[simp] theorem setCairn_sched (s : State) (n : Nat) (c : Cairn) : (setCairn s n c).sched = s.sched := rfl
@[simp] theorem setCairn_units (s : State) (n : Nat) (c : Cairn) : (setCairn s n c).units = s.units := rfl
@[simp] theorem setCairn_gated (s : State) (n : Nat) (c : Cairn) : (setCairn s n c).gated = s.gated := rfl
@[simp] theorem setCairn_ports (s : State) (n : Nat) (c : Cairn) : (setCairn s n c).ports = s.ports := rfl
@[simp] theorem setCairn_lports (s : State) (n : Nat) (c : Cairn) : (setCairn s n c).lports = s.lports := rfl
@[simp] theorem setCairn_flows (s : State) (n : Nat) (c : Cairn) : (setCairn s n c).flows = s.flows := rfl
@[simp] theorem setCairn_released (s : State) (n : Nat) (c : Cairn) : (setCairn s n c).released = s.released := rfl
@[simp] theorem setCairn_dec (s : State) (n : Nat) (c : Cairn) : (setCairn s n c).dec = s.dec := rfl
@[simp] theorem setCairn_estreams (s : State) (n : Nat) (c : Cairn) : (setCairn s n c).estreams = s.estreams := rfl
@[simp] theorem setCairn_echs (s : State) (n : Nat) (c : Cairn) : (setCairn s n c).echs = s.echs := rfl
@[simp] theorem setCairn_time (s : State) (n : Nat) (c : Cairn) : (setCairn s n c).time = s.time := rfl
@[simp] theorem setCairn_emx (s : State) (n : Nat) (c : Cairn) : (setCairn s n c).emx = s.emx := rfl
@[simp] theorem setCairn_crp (s : State) (n : Nat) (c : Cairn) : (setCairn s n c).crp = s.crp := rfl
@[simp] theorem setCairn_sec (s : State) (n : Nat) (c : Cairn) : (setCairn s n c).sec = s.sec := rfl
@[simp] theorem setCairn_pin (s : State) (n : Nat) (c : Cairn) : (setCairn s n c).pin = s.pin := rfl
@[simp] theorem setCairn_err (s : State) (n : Nat) (c : Cairn) : (setCairn s n c).err = s.err := rfl

/-! ### setRing -/

@[simp] theorem setRing_pending (s : State) (n : Nat) (r : Ring) : (setRing s n r).pending = s.pending := rfl
@[simp] theorem setRing_free (s : State) (n : Nat) (r : Ring) : (setRing s n r).free = s.free := rfl
@[simp] theorem setRing_out (s : State) (n : Nat) (r : Ring) : (setRing s n r).out = s.out := rfl
@[simp] theorem setRing_hostMem (s : State) (n : Nat) (r : Ring) : (setRing s n r).hostMem = s.hostMem := rfl
@[simp] theorem setRing_mem (s : State) (n : Nat) (r : Ring) : (setRing s n r).mem = s.mem := rfl
@[simp] theorem setRing_wflags (s : State) (n : Nat) (r : Ring) : (setRing s n r).wflags = s.wflags := rfl
@[simp] theorem setRing_memErr (s : State) (n : Nat) (r : Ring) : (setRing s n r).memErr = s.memErr := rfl
@[simp] theorem setRing_chms (s : State) (n : Nat) (r : Ring) : (setRing s n r).chms = s.chms := rfl
@[simp] theorem setRing_siph (s : State) (n : Nat) (r : Ring) : (setRing s n r).siph = s.siph := rfl
@[simp] theorem setRing_cairns (s : State) (n : Nat) (r : Ring) : (setRing s n r).cairns = s.cairns := rfl
@[simp] theorem setRing_lvic (s : State) (n : Nat) (r : Ring) : (setRing s n r).lvic = s.lvic := rfl
@[simp] theorem setRing_pairs (s : State) (n : Nat) (r : Ring) : (setRing s n r).pairs = s.pairs := rfl
@[simp] theorem setRing_nciQ (s : State) (n : Nat) (r : Ring) : (setRing s n r).nciQ = s.nciQ := rfl
@[simp] theorem setRing_nci (s : State) (n : Nat) (r : Ring) : (setRing s n r).nci = s.nci := rfl
@[simp] theorem setRing_leq (s : State) (n : Nat) (r : Ring) : (setRing s n r).leq = s.leq := rfl
@[simp] theorem setRing_sts (s : State) (n : Nat) (r : Ring) : (setRing s n r).sts = s.sts := rfl
@[simp] theorem setRing_pcie (s : State) (n : Nat) (r : Ring) : (setRing s n r).pcie = s.pcie := rfl
@[simp] theorem setRing_latch (s : State) (n : Nat) (r : Ring) : (setRing s n r).latch = s.latch := rfl
@[simp] theorem setRing_stage (s : State) (n : Nat) (r : Ring) : (setRing s n r).stage = s.stage := rfl
@[simp] theorem setRing_ctxs (s : State) (n : Nat) (r : Ring) : (setRing s n r).ctxs = s.ctxs := rfl
@[simp] theorem setRing_tmpls (s : State) (n : Nat) (r : Ring) : (setRing s n r).tmpls = s.tmpls := rfl
@[simp] theorem setRing_chains (s : State) (n : Nat) (r : Ring) : (setRing s n r).chains = s.chains := rfl
@[simp] theorem setRing_sched (s : State) (n : Nat) (r : Ring) : (setRing s n r).sched = s.sched := rfl
@[simp] theorem setRing_units (s : State) (n : Nat) (r : Ring) : (setRing s n r).units = s.units := rfl
@[simp] theorem setRing_gated (s : State) (n : Nat) (r : Ring) : (setRing s n r).gated = s.gated := rfl
@[simp] theorem setRing_ports (s : State) (n : Nat) (r : Ring) : (setRing s n r).ports = s.ports := rfl
@[simp] theorem setRing_lports (s : State) (n : Nat) (r : Ring) : (setRing s n r).lports = s.lports := rfl
@[simp] theorem setRing_flows (s : State) (n : Nat) (r : Ring) : (setRing s n r).flows = s.flows := rfl
@[simp] theorem setRing_released (s : State) (n : Nat) (r : Ring) : (setRing s n r).released = s.released := rfl
@[simp] theorem setRing_dec (s : State) (n : Nat) (r : Ring) : (setRing s n r).dec = s.dec := rfl
@[simp] theorem setRing_estreams (s : State) (n : Nat) (r : Ring) : (setRing s n r).estreams = s.estreams := rfl
@[simp] theorem setRing_echs (s : State) (n : Nat) (r : Ring) : (setRing s n r).echs = s.echs := rfl
@[simp] theorem setRing_time (s : State) (n : Nat) (r : Ring) : (setRing s n r).time = s.time := rfl
@[simp] theorem setRing_emx (s : State) (n : Nat) (r : Ring) : (setRing s n r).emx = s.emx := rfl
@[simp] theorem setRing_crp (s : State) (n : Nat) (r : Ring) : (setRing s n r).crp = s.crp := rfl
@[simp] theorem setRing_sec (s : State) (n : Nat) (r : Ring) : (setRing s n r).sec = s.sec := rfl
@[simp] theorem setRing_pin (s : State) (n : Nat) (r : Ring) : (setRing s n r).pin = s.pin := rfl
@[simp] theorem setRing_err (s : State) (n : Nat) (r : Ring) : (setRing s n r).err = s.err := rfl

/-! ### updPair -/

@[simp] theorem updPair_pending (s : State) (k : Nat) (f : Pair → Pair) : (updPair s k f).pending = s.pending := rfl
@[simp] theorem updPair_free (s : State) (k : Nat) (f : Pair → Pair) : (updPair s k f).free = s.free := rfl
@[simp] theorem updPair_out (s : State) (k : Nat) (f : Pair → Pair) : (updPair s k f).out = s.out := rfl
@[simp] theorem updPair_hostMem (s : State) (k : Nat) (f : Pair → Pair) : (updPair s k f).hostMem = s.hostMem := rfl
@[simp] theorem updPair_mem (s : State) (k : Nat) (f : Pair → Pair) : (updPair s k f).mem = s.mem := rfl
@[simp] theorem updPair_wflags (s : State) (k : Nat) (f : Pair → Pair) : (updPair s k f).wflags = s.wflags := rfl
@[simp] theorem updPair_memErr (s : State) (k : Nat) (f : Pair → Pair) : (updPair s k f).memErr = s.memErr := rfl
@[simp] theorem updPair_chms (s : State) (k : Nat) (f : Pair → Pair) : (updPair s k f).chms = s.chms := rfl
@[simp] theorem updPair_siph (s : State) (k : Nat) (f : Pair → Pair) : (updPair s k f).siph = s.siph := rfl
@[simp] theorem updPair_cairns (s : State) (k : Nat) (f : Pair → Pair) : (updPair s k f).cairns = s.cairns := rfl
@[simp] theorem updPair_lvic (s : State) (k : Nat) (f : Pair → Pair) : (updPair s k f).lvic = s.lvic := rfl
@[simp] theorem updPair_rings (s : State) (k : Nat) (f : Pair → Pair) : (updPair s k f).rings = s.rings := rfl
@[simp] theorem updPair_nciQ (s : State) (k : Nat) (f : Pair → Pair) : (updPair s k f).nciQ = s.nciQ := rfl
@[simp] theorem updPair_nci (s : State) (k : Nat) (f : Pair → Pair) : (updPair s k f).nci = s.nci := rfl
@[simp] theorem updPair_leq (s : State) (k : Nat) (f : Pair → Pair) : (updPair s k f).leq = s.leq := rfl
@[simp] theorem updPair_sts (s : State) (k : Nat) (f : Pair → Pair) : (updPair s k f).sts = s.sts := rfl
@[simp] theorem updPair_pcie (s : State) (k : Nat) (f : Pair → Pair) : (updPair s k f).pcie = s.pcie := rfl
@[simp] theorem updPair_latch (s : State) (k : Nat) (f : Pair → Pair) : (updPair s k f).latch = s.latch := rfl
@[simp] theorem updPair_stage (s : State) (k : Nat) (f : Pair → Pair) : (updPair s k f).stage = s.stage := rfl
@[simp] theorem updPair_ctxs (s : State) (k : Nat) (f : Pair → Pair) : (updPair s k f).ctxs = s.ctxs := rfl
@[simp] theorem updPair_tmpls (s : State) (k : Nat) (f : Pair → Pair) : (updPair s k f).tmpls = s.tmpls := rfl
@[simp] theorem updPair_chains (s : State) (k : Nat) (f : Pair → Pair) : (updPair s k f).chains = s.chains := rfl
@[simp] theorem updPair_sched (s : State) (k : Nat) (f : Pair → Pair) : (updPair s k f).sched = s.sched := rfl
@[simp] theorem updPair_units (s : State) (k : Nat) (f : Pair → Pair) : (updPair s k f).units = s.units := rfl
@[simp] theorem updPair_gated (s : State) (k : Nat) (f : Pair → Pair) : (updPair s k f).gated = s.gated := rfl
@[simp] theorem updPair_ports (s : State) (k : Nat) (f : Pair → Pair) : (updPair s k f).ports = s.ports := rfl
@[simp] theorem updPair_lports (s : State) (k : Nat) (f : Pair → Pair) : (updPair s k f).lports = s.lports := rfl
@[simp] theorem updPair_flows (s : State) (k : Nat) (f : Pair → Pair) : (updPair s k f).flows = s.flows := rfl
@[simp] theorem updPair_released (s : State) (k : Nat) (f : Pair → Pair) : (updPair s k f).released = s.released := rfl
@[simp] theorem updPair_dec (s : State) (k : Nat) (f : Pair → Pair) : (updPair s k f).dec = s.dec := rfl
@[simp] theorem updPair_estreams (s : State) (k : Nat) (f : Pair → Pair) : (updPair s k f).estreams = s.estreams := rfl
@[simp] theorem updPair_echs (s : State) (k : Nat) (f : Pair → Pair) : (updPair s k f).echs = s.echs := rfl
@[simp] theorem updPair_time (s : State) (k : Nat) (f : Pair → Pair) : (updPair s k f).time = s.time := rfl
@[simp] theorem updPair_emx (s : State) (k : Nat) (f : Pair → Pair) : (updPair s k f).emx = s.emx := rfl
@[simp] theorem updPair_crp (s : State) (k : Nat) (f : Pair → Pair) : (updPair s k f).crp = s.crp := rfl
@[simp] theorem updPair_sec (s : State) (k : Nat) (f : Pair → Pair) : (updPair s k f).sec = s.sec := rfl
@[simp] theorem updPair_pin (s : State) (k : Nat) (f : Pair → Pair) : (updPair s k f).pin = s.pin := rfl
@[simp] theorem updPair_err (s : State) (k : Nat) (f : Pair → Pair) : (updPair s k f).err = s.err := rfl

/-! ### updCtx -/

@[simp] theorem updCtx_pending (s : State) (k : Nat) (f : Ctx → Ctx) : (updCtx s k f).pending = s.pending := rfl
@[simp] theorem updCtx_free (s : State) (k : Nat) (f : Ctx → Ctx) : (updCtx s k f).free = s.free := rfl
@[simp] theorem updCtx_out (s : State) (k : Nat) (f : Ctx → Ctx) : (updCtx s k f).out = s.out := rfl
@[simp] theorem updCtx_hostMem (s : State) (k : Nat) (f : Ctx → Ctx) : (updCtx s k f).hostMem = s.hostMem := rfl
@[simp] theorem updCtx_mem (s : State) (k : Nat) (f : Ctx → Ctx) : (updCtx s k f).mem = s.mem := rfl
@[simp] theorem updCtx_wflags (s : State) (k : Nat) (f : Ctx → Ctx) : (updCtx s k f).wflags = s.wflags := rfl
@[simp] theorem updCtx_memErr (s : State) (k : Nat) (f : Ctx → Ctx) : (updCtx s k f).memErr = s.memErr := rfl
@[simp] theorem updCtx_chms (s : State) (k : Nat) (f : Ctx → Ctx) : (updCtx s k f).chms = s.chms := rfl
@[simp] theorem updCtx_siph (s : State) (k : Nat) (f : Ctx → Ctx) : (updCtx s k f).siph = s.siph := rfl
@[simp] theorem updCtx_cairns (s : State) (k : Nat) (f : Ctx → Ctx) : (updCtx s k f).cairns = s.cairns := rfl
@[simp] theorem updCtx_lvic (s : State) (k : Nat) (f : Ctx → Ctx) : (updCtx s k f).lvic = s.lvic := rfl
@[simp] theorem updCtx_rings (s : State) (k : Nat) (f : Ctx → Ctx) : (updCtx s k f).rings = s.rings := rfl
@[simp] theorem updCtx_pairs (s : State) (k : Nat) (f : Ctx → Ctx) : (updCtx s k f).pairs = s.pairs := rfl
@[simp] theorem updCtx_nciQ (s : State) (k : Nat) (f : Ctx → Ctx) : (updCtx s k f).nciQ = s.nciQ := rfl
@[simp] theorem updCtx_nci (s : State) (k : Nat) (f : Ctx → Ctx) : (updCtx s k f).nci = s.nci := rfl
@[simp] theorem updCtx_leq (s : State) (k : Nat) (f : Ctx → Ctx) : (updCtx s k f).leq = s.leq := rfl
@[simp] theorem updCtx_sts (s : State) (k : Nat) (f : Ctx → Ctx) : (updCtx s k f).sts = s.sts := rfl
@[simp] theorem updCtx_pcie (s : State) (k : Nat) (f : Ctx → Ctx) : (updCtx s k f).pcie = s.pcie := rfl
@[simp] theorem updCtx_latch (s : State) (k : Nat) (f : Ctx → Ctx) : (updCtx s k f).latch = s.latch := rfl
@[simp] theorem updCtx_stage (s : State) (k : Nat) (f : Ctx → Ctx) : (updCtx s k f).stage = s.stage := rfl
@[simp] theorem updCtx_tmpls (s : State) (k : Nat) (f : Ctx → Ctx) : (updCtx s k f).tmpls = s.tmpls := rfl
@[simp] theorem updCtx_chains (s : State) (k : Nat) (f : Ctx → Ctx) : (updCtx s k f).chains = s.chains := rfl
@[simp] theorem updCtx_sched (s : State) (k : Nat) (f : Ctx → Ctx) : (updCtx s k f).sched = s.sched := rfl
@[simp] theorem updCtx_units (s : State) (k : Nat) (f : Ctx → Ctx) : (updCtx s k f).units = s.units := rfl
@[simp] theorem updCtx_gated (s : State) (k : Nat) (f : Ctx → Ctx) : (updCtx s k f).gated = s.gated := rfl
@[simp] theorem updCtx_ports (s : State) (k : Nat) (f : Ctx → Ctx) : (updCtx s k f).ports = s.ports := rfl
@[simp] theorem updCtx_lports (s : State) (k : Nat) (f : Ctx → Ctx) : (updCtx s k f).lports = s.lports := rfl
@[simp] theorem updCtx_flows (s : State) (k : Nat) (f : Ctx → Ctx) : (updCtx s k f).flows = s.flows := rfl
@[simp] theorem updCtx_released (s : State) (k : Nat) (f : Ctx → Ctx) : (updCtx s k f).released = s.released := rfl
@[simp] theorem updCtx_dec (s : State) (k : Nat) (f : Ctx → Ctx) : (updCtx s k f).dec = s.dec := rfl
@[simp] theorem updCtx_estreams (s : State) (k : Nat) (f : Ctx → Ctx) : (updCtx s k f).estreams = s.estreams := rfl
@[simp] theorem updCtx_echs (s : State) (k : Nat) (f : Ctx → Ctx) : (updCtx s k f).echs = s.echs := rfl
@[simp] theorem updCtx_time (s : State) (k : Nat) (f : Ctx → Ctx) : (updCtx s k f).time = s.time := rfl
@[simp] theorem updCtx_emx (s : State) (k : Nat) (f : Ctx → Ctx) : (updCtx s k f).emx = s.emx := rfl
@[simp] theorem updCtx_crp (s : State) (k : Nat) (f : Ctx → Ctx) : (updCtx s k f).crp = s.crp := rfl
@[simp] theorem updCtx_sec (s : State) (k : Nat) (f : Ctx → Ctx) : (updCtx s k f).sec = s.sec := rfl
@[simp] theorem updCtx_pin (s : State) (k : Nat) (f : Ctx → Ctx) : (updCtx s k f).pin = s.pin := rfl
@[simp] theorem updCtx_err (s : State) (k : Nat) (f : Ctx → Ctx) : (updCtx s k f).err = s.err := rfl

/-! ### updFlow -/

@[simp] theorem updFlow_pending (s : State) (k : Nat) (f : Flow → Flow) : (updFlow s k f).pending = s.pending := rfl
@[simp] theorem updFlow_free (s : State) (k : Nat) (f : Flow → Flow) : (updFlow s k f).free = s.free := rfl
@[simp] theorem updFlow_out (s : State) (k : Nat) (f : Flow → Flow) : (updFlow s k f).out = s.out := rfl
@[simp] theorem updFlow_hostMem (s : State) (k : Nat) (f : Flow → Flow) : (updFlow s k f).hostMem = s.hostMem := rfl
@[simp] theorem updFlow_mem (s : State) (k : Nat) (f : Flow → Flow) : (updFlow s k f).mem = s.mem := rfl
@[simp] theorem updFlow_wflags (s : State) (k : Nat) (f : Flow → Flow) : (updFlow s k f).wflags = s.wflags := rfl
@[simp] theorem updFlow_memErr (s : State) (k : Nat) (f : Flow → Flow) : (updFlow s k f).memErr = s.memErr := rfl
@[simp] theorem updFlow_chms (s : State) (k : Nat) (f : Flow → Flow) : (updFlow s k f).chms = s.chms := rfl
@[simp] theorem updFlow_siph (s : State) (k : Nat) (f : Flow → Flow) : (updFlow s k f).siph = s.siph := rfl
@[simp] theorem updFlow_cairns (s : State) (k : Nat) (f : Flow → Flow) : (updFlow s k f).cairns = s.cairns := rfl
@[simp] theorem updFlow_lvic (s : State) (k : Nat) (f : Flow → Flow) : (updFlow s k f).lvic = s.lvic := rfl
@[simp] theorem updFlow_rings (s : State) (k : Nat) (f : Flow → Flow) : (updFlow s k f).rings = s.rings := rfl
@[simp] theorem updFlow_pairs (s : State) (k : Nat) (f : Flow → Flow) : (updFlow s k f).pairs = s.pairs := rfl
@[simp] theorem updFlow_nciQ (s : State) (k : Nat) (f : Flow → Flow) : (updFlow s k f).nciQ = s.nciQ := rfl
@[simp] theorem updFlow_nci (s : State) (k : Nat) (f : Flow → Flow) : (updFlow s k f).nci = s.nci := rfl
@[simp] theorem updFlow_leq (s : State) (k : Nat) (f : Flow → Flow) : (updFlow s k f).leq = s.leq := rfl
@[simp] theorem updFlow_sts (s : State) (k : Nat) (f : Flow → Flow) : (updFlow s k f).sts = s.sts := rfl
@[simp] theorem updFlow_pcie (s : State) (k : Nat) (f : Flow → Flow) : (updFlow s k f).pcie = s.pcie := rfl
@[simp] theorem updFlow_latch (s : State) (k : Nat) (f : Flow → Flow) : (updFlow s k f).latch = s.latch := rfl
@[simp] theorem updFlow_stage (s : State) (k : Nat) (f : Flow → Flow) : (updFlow s k f).stage = s.stage := rfl
@[simp] theorem updFlow_ctxs (s : State) (k : Nat) (f : Flow → Flow) : (updFlow s k f).ctxs = s.ctxs := rfl
@[simp] theorem updFlow_tmpls (s : State) (k : Nat) (f : Flow → Flow) : (updFlow s k f).tmpls = s.tmpls := rfl
@[simp] theorem updFlow_chains (s : State) (k : Nat) (f : Flow → Flow) : (updFlow s k f).chains = s.chains := rfl
@[simp] theorem updFlow_sched (s : State) (k : Nat) (f : Flow → Flow) : (updFlow s k f).sched = s.sched := rfl
@[simp] theorem updFlow_units (s : State) (k : Nat) (f : Flow → Flow) : (updFlow s k f).units = s.units := rfl
@[simp] theorem updFlow_gated (s : State) (k : Nat) (f : Flow → Flow) : (updFlow s k f).gated = s.gated := rfl
@[simp] theorem updFlow_ports (s : State) (k : Nat) (f : Flow → Flow) : (updFlow s k f).ports = s.ports := rfl
@[simp] theorem updFlow_lports (s : State) (k : Nat) (f : Flow → Flow) : (updFlow s k f).lports = s.lports := rfl
@[simp] theorem updFlow_released (s : State) (k : Nat) (f : Flow → Flow) : (updFlow s k f).released = s.released := rfl
@[simp] theorem updFlow_dec (s : State) (k : Nat) (f : Flow → Flow) : (updFlow s k f).dec = s.dec := rfl
@[simp] theorem updFlow_estreams (s : State) (k : Nat) (f : Flow → Flow) : (updFlow s k f).estreams = s.estreams := rfl
@[simp] theorem updFlow_echs (s : State) (k : Nat) (f : Flow → Flow) : (updFlow s k f).echs = s.echs := rfl
@[simp] theorem updFlow_time (s : State) (k : Nat) (f : Flow → Flow) : (updFlow s k f).time = s.time := rfl
@[simp] theorem updFlow_emx (s : State) (k : Nat) (f : Flow → Flow) : (updFlow s k f).emx = s.emx := rfl
@[simp] theorem updFlow_crp (s : State) (k : Nat) (f : Flow → Flow) : (updFlow s k f).crp = s.crp := rfl
@[simp] theorem updFlow_sec (s : State) (k : Nat) (f : Flow → Flow) : (updFlow s k f).sec = s.sec := rfl
@[simp] theorem updFlow_pin (s : State) (k : Nat) (f : Flow → Flow) : (updFlow s k f).pin = s.pin := rfl
@[simp] theorem updFlow_err (s : State) (k : Nat) (f : Flow → Flow) : (updFlow s k f).err = s.err := rfl

/-! ### updUnit -/

@[simp] theorem updUnit_pending (s : State) (u : Nat) (f : UnitSt → UnitSt) : (updUnit s u f).pending = s.pending := rfl
@[simp] theorem updUnit_free (s : State) (u : Nat) (f : UnitSt → UnitSt) : (updUnit s u f).free = s.free := rfl
@[simp] theorem updUnit_out (s : State) (u : Nat) (f : UnitSt → UnitSt) : (updUnit s u f).out = s.out := rfl
@[simp] theorem updUnit_hostMem (s : State) (u : Nat) (f : UnitSt → UnitSt) : (updUnit s u f).hostMem = s.hostMem := rfl
@[simp] theorem updUnit_mem (s : State) (u : Nat) (f : UnitSt → UnitSt) : (updUnit s u f).mem = s.mem := rfl
@[simp] theorem updUnit_wflags (s : State) (u : Nat) (f : UnitSt → UnitSt) : (updUnit s u f).wflags = s.wflags := rfl
@[simp] theorem updUnit_memErr (s : State) (u : Nat) (f : UnitSt → UnitSt) : (updUnit s u f).memErr = s.memErr := rfl
@[simp] theorem updUnit_chms (s : State) (u : Nat) (f : UnitSt → UnitSt) : (updUnit s u f).chms = s.chms := rfl
@[simp] theorem updUnit_siph (s : State) (u : Nat) (f : UnitSt → UnitSt) : (updUnit s u f).siph = s.siph := rfl
@[simp] theorem updUnit_cairns (s : State) (u : Nat) (f : UnitSt → UnitSt) : (updUnit s u f).cairns = s.cairns := rfl
@[simp] theorem updUnit_lvic (s : State) (u : Nat) (f : UnitSt → UnitSt) : (updUnit s u f).lvic = s.lvic := rfl
@[simp] theorem updUnit_rings (s : State) (u : Nat) (f : UnitSt → UnitSt) : (updUnit s u f).rings = s.rings := rfl
@[simp] theorem updUnit_pairs (s : State) (u : Nat) (f : UnitSt → UnitSt) : (updUnit s u f).pairs = s.pairs := rfl
@[simp] theorem updUnit_nciQ (s : State) (u : Nat) (f : UnitSt → UnitSt) : (updUnit s u f).nciQ = s.nciQ := rfl
@[simp] theorem updUnit_nci (s : State) (u : Nat) (f : UnitSt → UnitSt) : (updUnit s u f).nci = s.nci := rfl
@[simp] theorem updUnit_leq (s : State) (u : Nat) (f : UnitSt → UnitSt) : (updUnit s u f).leq = s.leq := rfl
@[simp] theorem updUnit_sts (s : State) (u : Nat) (f : UnitSt → UnitSt) : (updUnit s u f).sts = s.sts := rfl
@[simp] theorem updUnit_pcie (s : State) (u : Nat) (f : UnitSt → UnitSt) : (updUnit s u f).pcie = s.pcie := rfl
@[simp] theorem updUnit_latch (s : State) (u : Nat) (f : UnitSt → UnitSt) : (updUnit s u f).latch = s.latch := rfl
@[simp] theorem updUnit_stage (s : State) (u : Nat) (f : UnitSt → UnitSt) : (updUnit s u f).stage = s.stage := rfl
@[simp] theorem updUnit_ctxs (s : State) (u : Nat) (f : UnitSt → UnitSt) : (updUnit s u f).ctxs = s.ctxs := rfl
@[simp] theorem updUnit_tmpls (s : State) (u : Nat) (f : UnitSt → UnitSt) : (updUnit s u f).tmpls = s.tmpls := rfl
@[simp] theorem updUnit_chains (s : State) (u : Nat) (f : UnitSt → UnitSt) : (updUnit s u f).chains = s.chains := rfl
@[simp] theorem updUnit_sched (s : State) (u : Nat) (f : UnitSt → UnitSt) : (updUnit s u f).sched = s.sched := rfl
@[simp] theorem updUnit_gated (s : State) (u : Nat) (f : UnitSt → UnitSt) : (updUnit s u f).gated = s.gated := rfl
@[simp] theorem updUnit_ports (s : State) (u : Nat) (f : UnitSt → UnitSt) : (updUnit s u f).ports = s.ports := rfl
@[simp] theorem updUnit_lports (s : State) (u : Nat) (f : UnitSt → UnitSt) : (updUnit s u f).lports = s.lports := rfl
@[simp] theorem updUnit_flows (s : State) (u : Nat) (f : UnitSt → UnitSt) : (updUnit s u f).flows = s.flows := rfl
@[simp] theorem updUnit_released (s : State) (u : Nat) (f : UnitSt → UnitSt) : (updUnit s u f).released = s.released := rfl
@[simp] theorem updUnit_dec (s : State) (u : Nat) (f : UnitSt → UnitSt) : (updUnit s u f).dec = s.dec := rfl
@[simp] theorem updUnit_estreams (s : State) (u : Nat) (f : UnitSt → UnitSt) : (updUnit s u f).estreams = s.estreams := rfl
@[simp] theorem updUnit_echs (s : State) (u : Nat) (f : UnitSt → UnitSt) : (updUnit s u f).echs = s.echs := rfl
@[simp] theorem updUnit_time (s : State) (u : Nat) (f : UnitSt → UnitSt) : (updUnit s u f).time = s.time := rfl
@[simp] theorem updUnit_emx (s : State) (u : Nat) (f : UnitSt → UnitSt) : (updUnit s u f).emx = s.emx := rfl
@[simp] theorem updUnit_crp (s : State) (u : Nat) (f : UnitSt → UnitSt) : (updUnit s u f).crp = s.crp := rfl
@[simp] theorem updUnit_sec (s : State) (u : Nat) (f : UnitSt → UnitSt) : (updUnit s u f).sec = s.sec := rfl
@[simp] theorem updUnit_pin (s : State) (u : Nat) (f : UnitSt → UnitSt) : (updUnit s u f).pin = s.pin := rfl
@[simp] theorem updUnit_err (s : State) (u : Nat) (f : UnitSt → UnitSt) : (updUnit s u f).err = s.err := rfl

/-! ### draw -/

@[simp] theorem draw_pending (s : State) : (draw s ).pending = s.pending := rfl
@[simp] theorem draw_out (s : State) : (draw s ).out = s.out := rfl
@[simp] theorem draw_hostMem (s : State) : (draw s ).hostMem = s.hostMem := rfl
@[simp] theorem draw_mem (s : State) : (draw s ).mem = s.mem := rfl
@[simp] theorem draw_wflags (s : State) : (draw s ).wflags = s.wflags := rfl
@[simp] theorem draw_memErr (s : State) : (draw s ).memErr = s.memErr := rfl
@[simp] theorem draw_chms (s : State) : (draw s ).chms = s.chms := rfl
@[simp] theorem draw_siph (s : State) : (draw s ).siph = s.siph := rfl
@[simp] theorem draw_cairns (s : State) : (draw s ).cairns = s.cairns := rfl
@[simp] theorem draw_lvic (s : State) : (draw s ).lvic = s.lvic := rfl
@[simp] theorem draw_rings (s : State) : (draw s ).rings = s.rings := rfl
@[simp] theorem draw_pairs (s : State) : (draw s ).pairs = s.pairs := rfl
@[simp] theorem draw_nciQ (s : State) : (draw s ).nciQ = s.nciQ := rfl
@[simp] theorem draw_nci (s : State) : (draw s ).nci = s.nci := rfl
@[simp] theorem draw_leq (s : State) : (draw s ).leq = s.leq := rfl
@[simp] theorem draw_sts (s : State) : (draw s ).sts = s.sts := rfl
@[simp] theorem draw_pcie (s : State) : (draw s ).pcie = s.pcie := rfl
@[simp] theorem draw_latch (s : State) : (draw s ).latch = s.latch := rfl
@[simp] theorem draw_stage (s : State) : (draw s ).stage = s.stage := rfl
@[simp] theorem draw_ctxs (s : State) : (draw s ).ctxs = s.ctxs := rfl
@[simp] theorem draw_tmpls (s : State) : (draw s ).tmpls = s.tmpls := rfl
@[simp] theorem draw_chains (s : State) : (draw s ).chains = s.chains := rfl
@[simp] theorem draw_sched (s : State) : (draw s ).sched = s.sched := rfl
@[simp] theorem draw_units (s : State) : (draw s ).units = s.units := rfl
@[simp] theorem draw_gated (s : State) : (draw s ).gated = s.gated := rfl
@[simp] theorem draw_ports (s : State) : (draw s ).ports = s.ports := rfl
@[simp] theorem draw_lports (s : State) : (draw s ).lports = s.lports := rfl
@[simp] theorem draw_flows (s : State) : (draw s ).flows = s.flows := rfl
@[simp] theorem draw_released (s : State) : (draw s ).released = s.released := rfl
@[simp] theorem draw_dec (s : State) : (draw s ).dec = s.dec := rfl
@[simp] theorem draw_estreams (s : State) : (draw s ).estreams = s.estreams := rfl
@[simp] theorem draw_echs (s : State) : (draw s ).echs = s.echs := rfl
@[simp] theorem draw_time (s : State) : (draw s ).time = s.time := rfl
@[simp] theorem draw_emx (s : State) : (draw s ).emx = s.emx := rfl
@[simp] theorem draw_crp (s : State) : (draw s ).crp = s.crp := rfl
@[simp] theorem draw_sec (s : State) : (draw s ).sec = s.sec := rfl
@[simp] theorem draw_pin (s : State) : (draw s ).pin = s.pin := rfl
@[simp] theorem draw_err (s : State) : (draw s ).err = s.err := rfl

/-! ### emit -/

@[simp] theorem emit_pending (s : State) (o : Output) : (emit s o).pending = s.pending := rfl
@[simp] theorem emit_free (s : State) (o : Output) : (emit s o).free = s.free := rfl
@[simp] theorem emit_hostMem (s : State) (o : Output) : (emit s o).hostMem = s.hostMem := rfl
@[simp] theorem emit_mem (s : State) (o : Output) : (emit s o).mem = s.mem := rfl
@[simp] theorem emit_wflags (s : State) (o : Output) : (emit s o).wflags = s.wflags := rfl
@[simp] theorem emit_memErr (s : State) (o : Output) : (emit s o).memErr = s.memErr := rfl
@[simp] theorem emit_chms (s : State) (o : Output) : (emit s o).chms = s.chms := rfl
@[simp] theorem emit_siph (s : State) (o : Output) : (emit s o).siph = s.siph := rfl
@[simp] theorem emit_cairns (s : State) (o : Output) : (emit s o).cairns = s.cairns := rfl
@[simp] theorem emit_lvic (s : State) (o : Output) : (emit s o).lvic = s.lvic := rfl
@[simp] theorem emit_rings (s : State) (o : Output) : (emit s o).rings = s.rings := rfl
@[simp] theorem emit_pairs (s : State) (o : Output) : (emit s o).pairs = s.pairs := rfl
@[simp] theorem emit_nciQ (s : State) (o : Output) : (emit s o).nciQ = s.nciQ := rfl
@[simp] theorem emit_nci (s : State) (o : Output) : (emit s o).nci = s.nci := rfl
@[simp] theorem emit_leq (s : State) (o : Output) : (emit s o).leq = s.leq := rfl
@[simp] theorem emit_sts (s : State) (o : Output) : (emit s o).sts = s.sts := rfl
@[simp] theorem emit_pcie (s : State) (o : Output) : (emit s o).pcie = s.pcie := rfl
@[simp] theorem emit_latch (s : State) (o : Output) : (emit s o).latch = s.latch := rfl
@[simp] theorem emit_stage (s : State) (o : Output) : (emit s o).stage = s.stage := rfl
@[simp] theorem emit_ctxs (s : State) (o : Output) : (emit s o).ctxs = s.ctxs := rfl
@[simp] theorem emit_tmpls (s : State) (o : Output) : (emit s o).tmpls = s.tmpls := rfl
@[simp] theorem emit_chains (s : State) (o : Output) : (emit s o).chains = s.chains := rfl
@[simp] theorem emit_sched (s : State) (o : Output) : (emit s o).sched = s.sched := rfl
@[simp] theorem emit_units (s : State) (o : Output) : (emit s o).units = s.units := rfl
@[simp] theorem emit_gated (s : State) (o : Output) : (emit s o).gated = s.gated := rfl
@[simp] theorem emit_ports (s : State) (o : Output) : (emit s o).ports = s.ports := rfl
@[simp] theorem emit_lports (s : State) (o : Output) : (emit s o).lports = s.lports := rfl
@[simp] theorem emit_flows (s : State) (o : Output) : (emit s o).flows = s.flows := rfl
@[simp] theorem emit_released (s : State) (o : Output) : (emit s o).released = s.released := rfl
@[simp] theorem emit_dec (s : State) (o : Output) : (emit s o).dec = s.dec := rfl
@[simp] theorem emit_estreams (s : State) (o : Output) : (emit s o).estreams = s.estreams := rfl
@[simp] theorem emit_echs (s : State) (o : Output) : (emit s o).echs = s.echs := rfl
@[simp] theorem emit_time (s : State) (o : Output) : (emit s o).time = s.time := rfl
@[simp] theorem emit_emx (s : State) (o : Output) : (emit s o).emx = s.emx := rfl
@[simp] theorem emit_crp (s : State) (o : Output) : (emit s o).crp = s.crp := rfl
@[simp] theorem emit_sec (s : State) (o : Output) : (emit s o).sec = s.sec := rfl
@[simp] theorem emit_pin (s : State) (o : Output) : (emit s o).pin = s.pin := rfl
@[simp] theorem emit_err (s : State) (o : Output) : (emit s o).err = s.err := rfl

/-! ### raiseLantern -/

@[simp] theorem raiseLantern_pending (s : State) (n : Nat) : (raiseLantern s n).pending = s.pending := rfl
@[simp] theorem raiseLantern_free (s : State) (n : Nat) : (raiseLantern s n).free = s.free := rfl
@[simp] theorem raiseLantern_out (s : State) (n : Nat) : (raiseLantern s n).out = s.out := rfl
@[simp] theorem raiseLantern_hostMem (s : State) (n : Nat) : (raiseLantern s n).hostMem = s.hostMem := rfl
@[simp] theorem raiseLantern_mem (s : State) (n : Nat) : (raiseLantern s n).mem = s.mem := rfl
@[simp] theorem raiseLantern_wflags (s : State) (n : Nat) : (raiseLantern s n).wflags = s.wflags := rfl
@[simp] theorem raiseLantern_memErr (s : State) (n : Nat) : (raiseLantern s n).memErr = s.memErr := rfl
@[simp] theorem raiseLantern_chms (s : State) (n : Nat) : (raiseLantern s n).chms = s.chms := rfl
@[simp] theorem raiseLantern_siph (s : State) (n : Nat) : (raiseLantern s n).siph = s.siph := rfl
@[simp] theorem raiseLantern_cairns (s : State) (n : Nat) : (raiseLantern s n).cairns = s.cairns := rfl
@[simp] theorem raiseLantern_rings (s : State) (n : Nat) : (raiseLantern s n).rings = s.rings := rfl
@[simp] theorem raiseLantern_pairs (s : State) (n : Nat) : (raiseLantern s n).pairs = s.pairs := rfl
@[simp] theorem raiseLantern_nciQ (s : State) (n : Nat) : (raiseLantern s n).nciQ = s.nciQ := rfl
@[simp] theorem raiseLantern_nci (s : State) (n : Nat) : (raiseLantern s n).nci = s.nci := rfl
@[simp] theorem raiseLantern_leq (s : State) (n : Nat) : (raiseLantern s n).leq = s.leq := rfl
@[simp] theorem raiseLantern_sts (s : State) (n : Nat) : (raiseLantern s n).sts = s.sts := rfl
@[simp] theorem raiseLantern_pcie (s : State) (n : Nat) : (raiseLantern s n).pcie = s.pcie := rfl
@[simp] theorem raiseLantern_latch (s : State) (n : Nat) : (raiseLantern s n).latch = s.latch := rfl
@[simp] theorem raiseLantern_stage (s : State) (n : Nat) : (raiseLantern s n).stage = s.stage := rfl
@[simp] theorem raiseLantern_ctxs (s : State) (n : Nat) : (raiseLantern s n).ctxs = s.ctxs := rfl
@[simp] theorem raiseLantern_tmpls (s : State) (n : Nat) : (raiseLantern s n).tmpls = s.tmpls := rfl
@[simp] theorem raiseLantern_chains (s : State) (n : Nat) : (raiseLantern s n).chains = s.chains := rfl
@[simp] theorem raiseLantern_sched (s : State) (n : Nat) : (raiseLantern s n).sched = s.sched := rfl
@[simp] theorem raiseLantern_units (s : State) (n : Nat) : (raiseLantern s n).units = s.units := rfl
@[simp] theorem raiseLantern_gated (s : State) (n : Nat) : (raiseLantern s n).gated = s.gated := rfl
@[simp] theorem raiseLantern_ports (s : State) (n : Nat) : (raiseLantern s n).ports = s.ports := rfl
@[simp] theorem raiseLantern_lports (s : State) (n : Nat) : (raiseLantern s n).lports = s.lports := rfl
@[simp] theorem raiseLantern_flows (s : State) (n : Nat) : (raiseLantern s n).flows = s.flows := rfl
@[simp] theorem raiseLantern_released (s : State) (n : Nat) : (raiseLantern s n).released = s.released := rfl
@[simp] theorem raiseLantern_dec (s : State) (n : Nat) : (raiseLantern s n).dec = s.dec := rfl
@[simp] theorem raiseLantern_estreams (s : State) (n : Nat) : (raiseLantern s n).estreams = s.estreams := rfl
@[simp] theorem raiseLantern_echs (s : State) (n : Nat) : (raiseLantern s n).echs = s.echs := rfl
@[simp] theorem raiseLantern_time (s : State) (n : Nat) : (raiseLantern s n).time = s.time := rfl
@[simp] theorem raiseLantern_emx (s : State) (n : Nat) : (raiseLantern s n).emx = s.emx := rfl
@[simp] theorem raiseLantern_crp (s : State) (n : Nat) : (raiseLantern s n).crp = s.crp := rfl
@[simp] theorem raiseLantern_sec (s : State) (n : Nat) : (raiseLantern s n).sec = s.sec := rfl
@[simp] theorem raiseLantern_pin (s : State) (n : Nat) : (raiseLantern s n).pin = s.pin := rfl
@[simp] theorem raiseLantern_err (s : State) (n : Nat) : (raiseLantern s n).err = s.err := rfl

/-! ### raiseChm -/

@[simp] theorem raiseChm_pending (s : State) (ph n : Nat) : (raiseChm s ph n).pending = s.pending := rfl
@[simp] theorem raiseChm_free (s : State) (ph n : Nat) : (raiseChm s ph n).free = s.free := rfl
@[simp] theorem raiseChm_out (s : State) (ph n : Nat) : (raiseChm s ph n).out = s.out := rfl
@[simp] theorem raiseChm_hostMem (s : State) (ph n : Nat) : (raiseChm s ph n).hostMem = s.hostMem := rfl
@[simp] theorem raiseChm_mem (s : State) (ph n : Nat) : (raiseChm s ph n).mem = s.mem := rfl
@[simp] theorem raiseChm_wflags (s : State) (ph n : Nat) : (raiseChm s ph n).wflags = s.wflags := rfl
@[simp] theorem raiseChm_memErr (s : State) (ph n : Nat) : (raiseChm s ph n).memErr = s.memErr := rfl
@[simp] theorem raiseChm_siph (s : State) (ph n : Nat) : (raiseChm s ph n).siph = s.siph := rfl
@[simp] theorem raiseChm_cairns (s : State) (ph n : Nat) : (raiseChm s ph n).cairns = s.cairns := rfl
@[simp] theorem raiseChm_lvic (s : State) (ph n : Nat) : (raiseChm s ph n).lvic = s.lvic := rfl
@[simp] theorem raiseChm_rings (s : State) (ph n : Nat) : (raiseChm s ph n).rings = s.rings := rfl
@[simp] theorem raiseChm_pairs (s : State) (ph n : Nat) : (raiseChm s ph n).pairs = s.pairs := rfl
@[simp] theorem raiseChm_nciQ (s : State) (ph n : Nat) : (raiseChm s ph n).nciQ = s.nciQ := rfl
@[simp] theorem raiseChm_nci (s : State) (ph n : Nat) : (raiseChm s ph n).nci = s.nci := rfl
@[simp] theorem raiseChm_leq (s : State) (ph n : Nat) : (raiseChm s ph n).leq = s.leq := rfl
@[simp] theorem raiseChm_sts (s : State) (ph n : Nat) : (raiseChm s ph n).sts = s.sts := rfl
@[simp] theorem raiseChm_pcie (s : State) (ph n : Nat) : (raiseChm s ph n).pcie = s.pcie := rfl
@[simp] theorem raiseChm_latch (s : State) (ph n : Nat) : (raiseChm s ph n).latch = s.latch := rfl
@[simp] theorem raiseChm_stage (s : State) (ph n : Nat) : (raiseChm s ph n).stage = s.stage := rfl
@[simp] theorem raiseChm_ctxs (s : State) (ph n : Nat) : (raiseChm s ph n).ctxs = s.ctxs := rfl
@[simp] theorem raiseChm_tmpls (s : State) (ph n : Nat) : (raiseChm s ph n).tmpls = s.tmpls := rfl
@[simp] theorem raiseChm_chains (s : State) (ph n : Nat) : (raiseChm s ph n).chains = s.chains := rfl
@[simp] theorem raiseChm_sched (s : State) (ph n : Nat) : (raiseChm s ph n).sched = s.sched := rfl
@[simp] theorem raiseChm_units (s : State) (ph n : Nat) : (raiseChm s ph n).units = s.units := rfl
@[simp] theorem raiseChm_gated (s : State) (ph n : Nat) : (raiseChm s ph n).gated = s.gated := rfl
@[simp] theorem raiseChm_ports (s : State) (ph n : Nat) : (raiseChm s ph n).ports = s.ports := rfl
@[simp] theorem raiseChm_lports (s : State) (ph n : Nat) : (raiseChm s ph n).lports = s.lports := rfl
@[simp] theorem raiseChm_flows (s : State) (ph n : Nat) : (raiseChm s ph n).flows = s.flows := rfl
@[simp] theorem raiseChm_released (s : State) (ph n : Nat) : (raiseChm s ph n).released = s.released := rfl
@[simp] theorem raiseChm_dec (s : State) (ph n : Nat) : (raiseChm s ph n).dec = s.dec := rfl
@[simp] theorem raiseChm_estreams (s : State) (ph n : Nat) : (raiseChm s ph n).estreams = s.estreams := rfl
@[simp] theorem raiseChm_echs (s : State) (ph n : Nat) : (raiseChm s ph n).echs = s.echs := rfl
@[simp] theorem raiseChm_time (s : State) (ph n : Nat) : (raiseChm s ph n).time = s.time := rfl
@[simp] theorem raiseChm_emx (s : State) (ph n : Nat) : (raiseChm s ph n).emx = s.emx := rfl
@[simp] theorem raiseChm_crp (s : State) (ph n : Nat) : (raiseChm s ph n).crp = s.crp := rfl
@[simp] theorem raiseChm_sec (s : State) (ph n : Nat) : (raiseChm s ph n).sec = s.sec := rfl
@[simp] theorem raiseChm_pin (s : State) (ph n : Nat) : (raiseChm s ph n).pin = s.pin := rfl
@[simp] theorem raiseChm_err (s : State) (ph n : Nat) : (raiseChm s ph n).err = s.err := rfl

/-! ### setFlags -/

@[simp] theorem setFlags_pending (s : State) (k : Nat) (f : WFlags) : (setFlags s k f).pending = s.pending := rfl
@[simp] theorem setFlags_free (s : State) (k : Nat) (f : WFlags) : (setFlags s k f).free = s.free := rfl
@[simp] theorem setFlags_out (s : State) (k : Nat) (f : WFlags) : (setFlags s k f).out = s.out := rfl
@[simp] theorem setFlags_hostMem (s : State) (k : Nat) (f : WFlags) : (setFlags s k f).hostMem = s.hostMem := rfl
@[simp] theorem setFlags_mem (s : State) (k : Nat) (f : WFlags) : (setFlags s k f).mem = s.mem := rfl
@[simp] theorem setFlags_memErr (s : State) (k : Nat) (f : WFlags) : (setFlags s k f).memErr = s.memErr := rfl
@[simp] theorem setFlags_chms (s : State) (k : Nat) (f : WFlags) : (setFlags s k f).chms = s.chms := rfl
@[simp] theorem setFlags_siph (s : State) (k : Nat) (f : WFlags) : (setFlags s k f).siph = s.siph := rfl
@[simp] theorem setFlags_cairns (s : State) (k : Nat) (f : WFlags) : (setFlags s k f).cairns = s.cairns := rfl
@[simp] theorem setFlags_lvic (s : State) (k : Nat) (f : WFlags) : (setFlags s k f).lvic = s.lvic := rfl
@[simp] theorem setFlags_rings (s : State) (k : Nat) (f : WFlags) : (setFlags s k f).rings = s.rings := rfl
@[simp] theorem setFlags_pairs (s : State) (k : Nat) (f : WFlags) : (setFlags s k f).pairs = s.pairs := rfl
@[simp] theorem setFlags_nciQ (s : State) (k : Nat) (f : WFlags) : (setFlags s k f).nciQ = s.nciQ := rfl
@[simp] theorem setFlags_nci (s : State) (k : Nat) (f : WFlags) : (setFlags s k f).nci = s.nci := rfl
@[simp] theorem setFlags_leq (s : State) (k : Nat) (f : WFlags) : (setFlags s k f).leq = s.leq := rfl
@[simp] theorem setFlags_sts (s : State) (k : Nat) (f : WFlags) : (setFlags s k f).sts = s.sts := rfl
@[simp] theorem setFlags_pcie (s : State) (k : Nat) (f : WFlags) : (setFlags s k f).pcie = s.pcie := rfl
@[simp] theorem setFlags_latch (s : State) (k : Nat) (f : WFlags) : (setFlags s k f).latch = s.latch := rfl
@[simp] theorem setFlags_stage (s : State) (k : Nat) (f : WFlags) : (setFlags s k f).stage = s.stage := rfl
@[simp] theorem setFlags_ctxs (s : State) (k : Nat) (f : WFlags) : (setFlags s k f).ctxs = s.ctxs := rfl
@[simp] theorem setFlags_tmpls (s : State) (k : Nat) (f : WFlags) : (setFlags s k f).tmpls = s.tmpls := rfl
@[simp] theorem setFlags_chains (s : State) (k : Nat) (f : WFlags) : (setFlags s k f).chains = s.chains := rfl
@[simp] theorem setFlags_sched (s : State) (k : Nat) (f : WFlags) : (setFlags s k f).sched = s.sched := rfl
@[simp] theorem setFlags_units (s : State) (k : Nat) (f : WFlags) : (setFlags s k f).units = s.units := rfl
@[simp] theorem setFlags_gated (s : State) (k : Nat) (f : WFlags) : (setFlags s k f).gated = s.gated := rfl
@[simp] theorem setFlags_ports (s : State) (k : Nat) (f : WFlags) : (setFlags s k f).ports = s.ports := rfl
@[simp] theorem setFlags_lports (s : State) (k : Nat) (f : WFlags) : (setFlags s k f).lports = s.lports := rfl
@[simp] theorem setFlags_flows (s : State) (k : Nat) (f : WFlags) : (setFlags s k f).flows = s.flows := rfl
@[simp] theorem setFlags_released (s : State) (k : Nat) (f : WFlags) : (setFlags s k f).released = s.released := rfl
@[simp] theorem setFlags_dec (s : State) (k : Nat) (f : WFlags) : (setFlags s k f).dec = s.dec := rfl
@[simp] theorem setFlags_estreams (s : State) (k : Nat) (f : WFlags) : (setFlags s k f).estreams = s.estreams := rfl
@[simp] theorem setFlags_echs (s : State) (k : Nat) (f : WFlags) : (setFlags s k f).echs = s.echs := rfl
@[simp] theorem setFlags_time (s : State) (k : Nat) (f : WFlags) : (setFlags s k f).time = s.time := rfl
@[simp] theorem setFlags_emx (s : State) (k : Nat) (f : WFlags) : (setFlags s k f).emx = s.emx := rfl
@[simp] theorem setFlags_crp (s : State) (k : Nat) (f : WFlags) : (setFlags s k f).crp = s.crp := rfl
@[simp] theorem setFlags_sec (s : State) (k : Nat) (f : WFlags) : (setFlags s k f).sec = s.sec := rfl
@[simp] theorem setFlags_pin (s : State) (k : Nat) (f : WFlags) : (setFlags s k f).pin = s.pin := rfl
@[simp] theorem setFlags_err (s : State) (k : Nat) (f : WFlags) : (setFlags s k f).err = s.err := rfl

/-! ### updLink -/

@[simp] theorem updLink_pending (s : State) (l : Nat) (f : ELink → ELink) : (updLink s l f).pending = s.pending := rfl
@[simp] theorem updLink_free (s : State) (l : Nat) (f : ELink → ELink) : (updLink s l f).free = s.free := rfl
@[simp] theorem updLink_out (s : State) (l : Nat) (f : ELink → ELink) : (updLink s l f).out = s.out := rfl
@[simp] theorem updLink_hostMem (s : State) (l : Nat) (f : ELink → ELink) : (updLink s l f).hostMem = s.hostMem := rfl
@[simp] theorem updLink_mem (s : State) (l : Nat) (f : ELink → ELink) : (updLink s l f).mem = s.mem := rfl
@[simp] theorem updLink_wflags (s : State) (l : Nat) (f : ELink → ELink) : (updLink s l f).wflags = s.wflags := rfl
@[simp] theorem updLink_memErr (s : State) (l : Nat) (f : ELink → ELink) : (updLink s l f).memErr = s.memErr := rfl
@[simp] theorem updLink_chms (s : State) (l : Nat) (f : ELink → ELink) : (updLink s l f).chms = s.chms := rfl
@[simp] theorem updLink_siph (s : State) (l : Nat) (f : ELink → ELink) : (updLink s l f).siph = s.siph := rfl
@[simp] theorem updLink_cairns (s : State) (l : Nat) (f : ELink → ELink) : (updLink s l f).cairns = s.cairns := rfl
@[simp] theorem updLink_lvic (s : State) (l : Nat) (f : ELink → ELink) : (updLink s l f).lvic = s.lvic := rfl
@[simp] theorem updLink_rings (s : State) (l : Nat) (f : ELink → ELink) : (updLink s l f).rings = s.rings := rfl
@[simp] theorem updLink_pairs (s : State) (l : Nat) (f : ELink → ELink) : (updLink s l f).pairs = s.pairs := rfl
@[simp] theorem updLink_nciQ (s : State) (l : Nat) (f : ELink → ELink) : (updLink s l f).nciQ = s.nciQ := rfl
@[simp] theorem updLink_nci (s : State) (l : Nat) (f : ELink → ELink) : (updLink s l f).nci = s.nci := rfl
@[simp] theorem updLink_leq (s : State) (l : Nat) (f : ELink → ELink) : (updLink s l f).leq = s.leq := rfl
@[simp] theorem updLink_sts (s : State) (l : Nat) (f : ELink → ELink) : (updLink s l f).sts = s.sts := rfl
@[simp] theorem updLink_pcie (s : State) (l : Nat) (f : ELink → ELink) : (updLink s l f).pcie = s.pcie := rfl
@[simp] theorem updLink_latch (s : State) (l : Nat) (f : ELink → ELink) : (updLink s l f).latch = s.latch := rfl
@[simp] theorem updLink_stage (s : State) (l : Nat) (f : ELink → ELink) : (updLink s l f).stage = s.stage := rfl
@[simp] theorem updLink_ctxs (s : State) (l : Nat) (f : ELink → ELink) : (updLink s l f).ctxs = s.ctxs := rfl
@[simp] theorem updLink_tmpls (s : State) (l : Nat) (f : ELink → ELink) : (updLink s l f).tmpls = s.tmpls := rfl
@[simp] theorem updLink_chains (s : State) (l : Nat) (f : ELink → ELink) : (updLink s l f).chains = s.chains := rfl
@[simp] theorem updLink_sched (s : State) (l : Nat) (f : ELink → ELink) : (updLink s l f).sched = s.sched := rfl
@[simp] theorem updLink_units (s : State) (l : Nat) (f : ELink → ELink) : (updLink s l f).units = s.units := rfl
@[simp] theorem updLink_gated (s : State) (l : Nat) (f : ELink → ELink) : (updLink s l f).gated = s.gated := rfl
@[simp] theorem updLink_ports (s : State) (l : Nat) (f : ELink → ELink) : (updLink s l f).ports = s.ports := rfl
@[simp] theorem updLink_lports (s : State) (l : Nat) (f : ELink → ELink) : (updLink s l f).lports = s.lports := rfl
@[simp] theorem updLink_flows (s : State) (l : Nat) (f : ELink → ELink) : (updLink s l f).flows = s.flows := rfl
@[simp] theorem updLink_released (s : State) (l : Nat) (f : ELink → ELink) : (updLink s l f).released = s.released := rfl
@[simp] theorem updLink_dec (s : State) (l : Nat) (f : ELink → ELink) : (updLink s l f).dec = s.dec := rfl
@[simp] theorem updLink_estreams (s : State) (l : Nat) (f : ELink → ELink) : (updLink s l f).estreams = s.estreams := rfl
@[simp] theorem updLink_echs (s : State) (l : Nat) (f : ELink → ELink) : (updLink s l f).echs = s.echs := rfl
@[simp] theorem updLink_time (s : State) (l : Nat) (f : ELink → ELink) : (updLink s l f).time = s.time := rfl
@[simp] theorem updLink_crp (s : State) (l : Nat) (f : ELink → ELink) : (updLink s l f).crp = s.crp := rfl
@[simp] theorem updLink_sec (s : State) (l : Nat) (f : ELink → ELink) : (updLink s l f).sec = s.sec := rfl
@[simp] theorem updLink_pin (s : State) (l : Nat) (f : ELink → ELink) : (updLink s l f).pin = s.pin := rfl
@[simp] theorem updLink_err (s : State) (l : Nat) (f : ELink → ELink) : (updLink s l f).err = s.err := rfl

end Sys2Proof.Machine
end

