-- ==== Sys2Proof/WellFormed.lean ====
section
/-!
DEFINITION. Well-formedness of commands: what their operand types leave open and the spec's encodings do not. An ill-formed command stands
for nothing that can happen at the device's boundary; the machine is total on it all the same.
-/
namespace Sys2Proof

/-- An X-position operation stands in an X position (R93). -/
def Pos.isX : Pos → Bool
  | .x0 => true
  | .x1 => true
  | .m => false
  | .a => false
  | .f => false
  | .c => false

/-- A received frame's fields (R211). -/
def frameWf (f : Frame) : Bool :=
  (match f.vlan with | some v => decide (v < 4096) | none => true) &&
  match f.body with
  | .ecpri m => decide (m.length ≤ 9600)
  | .ptp _ => true
  | .esmc _ => true
  | .pause => true
  | .other => true

/-- A symbol decision names one of the four levels (R279). -/
def SymDec.wf (d : SymDec) : Bool := decide (d.level = 3 ∨ d.level = 1 ∨ d.level = -1 ∨ d.level = -3)

/-- A preamble measurement is over 16 symbols, with an 8-bit code (R280). -/
def PreambleMeas.wf (m : PreambleMeas) : Bool := decide (m.bits.length = 16) && decide (m.code < 256)

/-- Agents on the device's own fabric. -/
def busAgent : Agent → Bool
  | .chamber _ => true
  | .lantern => true
  | .host => false
  | .pciConfig => false

/-- A binding is written by the Lantern, or by a chamber in its own window (R23, R349). -/
def ownWindow (who : Agent) (ch : Fin 144) : Bool :=
  match who with
  | .chamber c => decide (c = ch)
  | .lantern => true
  | .host => false
  | .pciConfig => false

/-- Who reaches a mailbox pair (R22, R23, R317). -/
def pairAgent (who : Agent) (p : Fin 176) : Bool :=
  match who with
  | .chamber c => decide (p.val = 32 + c.val)
  | .lantern => true
  | .host => decide (p.val < 32)
  | .pciConfig => false

/-- A BAR2 access lies in the window of 1 GiB and moves at least one byte (R311, R315). -/
def bar2Wf (off : Nat) (a : Bar2Op) : Bool :=
  match a with
  | .read n => decide (0 < n) && decide (off + n ≤ 2 ^ 30)
  | .write d => decide (0 < d.length) && decide (off + d.length ≤ 2 ^ 30)

/-- A register address: in BAR0, in the device address space, or one of the configuration fields the model numbers. -/
def registerWf (who : Agent) (a : Nat) : Bool :=
  match who with
  | .chamber _ => decide (a < 2 ^ 40)
  | .lantern => decide (a < 2 ^ 40)
  | .host => decide (a < 2 ^ 24)
  | .pciConfig => decide (a < 18)

/-- Is the command well-formed? -/
def Instr.wf (i : Instr) : Bool :=
  match i with
  | .nop _ _ _ => true
  | .add _ p _ => p.isX
  | .sub _ p _ => p.isX
  | .and_ _ p _ => p.isX
  | .or_ _ p _ => p.isX
  | .xor_ _ p _ => p.isX
  | .shl _ p _ => p.isX
  | .shr _ p _ => p.isX
  | .sra _ p _ => p.isX
  | .constL _ p _ => p.isX
  | .constH _ p _ => p.isX
  | .cmpEq _ p _ => p.isX
  | .cmpNe _ p _ => p.isX
  | .cmpLt _ p _ => p.isX
  | .cmpLe _ p _ => p.isX
  | .cmpGt _ p _ => p.isX
  | .cmpGe _ p _ => p.isX
  | .cmpLtu _ p _ => p.isX
  | .cmpGeu _ p _ => p.isX
  | .mul _ p _ => p.isX
  | .gets _ _ => true
  | .sets _ _ => true
  | .ld _ _ => true
  | .st _ _ => true
  | .siphRun _ _ => true
  | .siphPoll _ _ => true
  | .fence _ _ => true
  | .aldw _ _ => true
  | .aswp _ _ => true
  | .acfg _ _ => true
  | .stream _ _ => true
  | .flRun _ _ => true
  | .flLdt _ _ => true
  | .flStt _ _ => true
  | .flLdb _ _ => true
  | .flStb _ _ => true
  | .flLdm _ _ => true
  | .flStm _ _ => true
  | .br _ _ => true
  | .call _ _ => true
  | .jmp _ _ => true
  | .callr _ _ => true
  | .loopBr _ _ => true
  | .loopBrN _ _ => true
  | .cnSig _ _ => true
  | .cnAdd _ _ => true
  | .cnWait _ _ => true
  | .cnTry _ _ => true
  | .cnSigr _ _ => true
  | .cnAddr _ _ => true
  | .cnWaitr _ _ => true
  | .cnTryr _ _ => true
  | .iret _ _ => true
  | .exret _ _ => true
  | .jobEnd _ _ => true
  | .break_ _ _ => true
  | .loadCompletion _ => true
  | .aldwComplete _ => true
  | .aswpTakesEffect _ => true
  | .acfgTakesEffect _ => true
  | .streamBlockStart _ _ => true
  | .sumpAddition _ _ => true
  | .driplineTake _ => true
  | .interruptDelivery _ => true
  | .streamHold _ => true
  | .interruptEntry _ => true
  | .flowstoneLaunch _ => true
  | .tileIteration _ => true
  | .registerMove _ => true
  | .uopAdd _ => true
  | .uopSub _ => true
  | .uopMac _ => true
  | .uopShv _ => true
  | .uopSra _ => true
  | .uopMin _ => true
  | .uopMax _ => true
  | .uopAnd _ => true
  | .uopOr _ => true
  | .uopXor _ => true
  | .uopSel _ => true
  | .uopCmp _ => true
  | .uopLut _ => true
  | .uopQnt4 _ => true
  | .uopQnt8 _ => true
  | .uopSto4 _ => true
  | .uopSto8 _ => true
  | .uopRmaxR _ => true
  | .uopRminR _ => true
  | .uopRmaxC _ => true
  | .uopRminC _ => true
  | .uopTmax _ => true
  | .uopTmin _ => true
  | .runCompletion _ => true
  | .flowstoneFault _ => true
  | .chainStart _ => true
  | .descriptorFetch _ => true
  | .gather _ => true
  | .block _ => true
  | .fill _ => true
  | .link _ => true
  | .descriptorComplete _ => true
  | .patrolScrub => true
  | .slotTick => true
  | .symbolTick => true
  | .jobStart _ => true
  | .deadlineFence _ => true
  | .fenceTimeout u _ => decide (u.toNat / 4096 < 4)
  | .chmParity _ => true
  | .faultFence _ => true
  | .decParity _ => true
  | .fabric _ _ => true
  | .fhParity _ _ => true
  | .compareFire _ => true
  | .pulseEdge _ => true
  | .ppsInEdge => true
  | .sourceLost _ => true
  | .domainLocked _ => true
  | .frameReceive _ _ f => frameWf f
  | .windowOpen _ _ => true
  | .windowClose _ _ => true
  | .squeezeConversion => true
  | .grantRead _ => true
  | .cplaneSend _ => true
  | .uplaneSend _ => true
  | .linkDown _ => true
  | .linkUp _ => true
  | .preambleDetection _ m _ => m.wf
  | .syncMiss _ => true
  | .syncWordFound _ m => decide (0 < m.count)
  | .lengthField _ ds => ds.all SymDec.wf
  | .capture _ m _ => m.wf
  | .packetEnd _ ds _ => ds.all SymDec.wf
  | .flitReceive _ bs => decide (bs.length = 256)
  | .linkRetrain _ => true
  | .retrainEnd _ _ => true
  | .reroute _ => true
  | .noResponse _ => true
  | .linkRetry _ _ => true
  | .decSubmit _ _ => true
  | .decodeTaskStart => true
  | .decodeTaskEnd _ => true
  | .encodeTaskStart => true
  | .encodeTaskEnd _ => true
  | .timedBarrierOpen _ => true
  | .cnAddn who _ _ => busAgent who
  | .vicEoi => true
  | .vicBindk who ch k _ => decide (16 ≤ k.val) && ownWindow who ch
  | .mbxReqPost who p => pairAgent who p
  | .mbxRspPost who p => pairAgent who p
  | .mbxReqAck who p _ => pairAgent who p
  | .mbxRspAck who p _ => pairAgent who p
  | .replyPost => true
  | .doorbell _ _ _ => true
  | .ringPushGo _ _ => true
  | .waitingRecordWritten _ => true
  | .bar2Access off a => bar2Wf off a
  | .pcieConventionalReset => true
  | .heldMsiSend _ => true
  | .registerWrite who a _ _ => registerWf who a
  | .chmCtlHaltReq _ _ => true
  | .chmCtlStep _ => true
  | .sessionOpen _ => true
  | .sessionClose _ => true
  | .nciInfo _ => true
  | .ringSet _ => true
  | .ringClear _ => true
  | .ringStatus _ => true
  | .cairnSet _ => true
  | .cairnGet _ => true
  | .memPartSet _ => true
  | .memPartGet _ => true
  | .memImageBind _ => true
  | .placeSetChambers _ => true
  | .placeMapGet _ => true
  | .placeReport _ => true
  | .memBar2Set _ => true
  | .ctxSet _ => true
  | .ctxClear _ => true
  | .tmplSet _ => true
  | .tmplClear _ => true
  | .surveyStage _ => true
  | .surveyCommit _ => true
  | .surveyCommitCancel _ => true
  | .schedStatus _ => true
  | .cfgCommit _ => true
  | .detSet _ => true
  | .fhPortSet _ => true
  | .fhPortStatus _ => true
  | .fhFlowSet _ => true
  | .fhFlowArm _ => true
  | .fhFlowStop _ => true
  | .fhFlowStatus _ => true
  | .chainSet _ => true
  | .chainClear _ => true
  | .chainStatus _ => true
  | .harqFlush _ => true
  | .ldpcOffsetsSet _ => true
  | .decStatus _ => true
  | .echoStreamSet _ => true
  | .echoChSet _ => true
  | .echoChDisable _ => true
  | .echoChStatus _ => true
  | .echoStreamStatus _ => true
  | .timeDomainSet _ => true
  | .timeDomainAdj _ => true
  | .timeSwitch _ => true
  | .timeTickSet _ => true
  | .timePulseSet _ => true
  | .timeCmpGrant _ => true
  | .timeStatus _ => true
  | .synceSet _ => true
  | .emxJoin _ _ => true
  | .emxLinkStatus _ => true
  | .emxTunnelSet _ => true
  | .emxDoorbell _ => true
  | .emxStatus _ far => decide (far.length = 6)
  | .crpStatus _ => true
  | .clkoutSet _ => true
  | .reset _ => true
  | .resetTakesEffect => true
  | .powerSet _ => true
  | .debugChallenge _ => true
  | .debugUnlock _ => true
  | .secStatus _ => true
  | .secCommitVersion _ => true
  | .pinSet _ => true
  | .gpioSet _ => true
  | .faultLogRead _ => true
  | .faultUnitGet _ => true
  | .faultUnitSet _ => true
  | .telemetryGet _ => true
  | .faultInject _ => true
  | .faultTrace _ => true
  | .mctpMessage _ _ _ => true
  | .headlampRelease _ => true
  | .stsHeartbeat => true
  | .crpBlkRst _ => true
  | .blockResetDone => true
  | .crpResetCtl _ => true
  | .crpClkseld _ _ => true
  | .clockSwitchDone _ => true
  | .crpWdt _ => true
  | .watchdogExpiry => true
  | .errInj _ => true
  | .pinMuxn _ _ => true
  | .pinSwitchEnd _ => true
  | .porstN _ => true
  | .oscillatorCountEnd => true
  | .sysRstN _ => true
  | .clockStop _ => true
  | .referenceReturn => true
  | .pllLockLoss _ => true
  | .lockstepMismatch => true
  | .overtemp _ => true
  | .overtempRecovery => true
  | .tjAboveTwarn _ => true
  | .limiterAct _ _ => true
  | .bootImageCheck _ _ => true
  | .nerzonReady _ => true
  | .storeCompletion _ => true
  | .limiterRelease => true
  | .adaptiveVoltageLoop _ => true
  | .otpProgramPulseEnd => true
  | .linkNoPartner _ => true
  | .gpioInputChange _ _ => true
  | .ptpMessageSend => true
  | .esmcSend => true

end Sys2Proof
end

