-- ==== Sys2Proof/Tests/Slice0.lean ====
section
/-!
SUPPORT. Tests: WellFormed refuses an ill-formed command of each kind, the fields of the spec's example bundles decode, a few meanings give the
values the spec gives, and every statement with hypotheses has states and operands that meet them (a witness for each clause).
-/
namespace Sys2Proof.Tests
open Sys2Proof.Machine

-- A kernel decision waits for every earlier theorem; in order, one thread suffices.
set_option Elab.async false

/-! ### Small states and bundles -/

/-- The lowest bit of a position (R124). -/
def lowBit : Pos → Nat
  | .x0 => 16 | .x1 => 56 | .m => 96 | .a => 144 | .f => 192 | .c => 224

/-- A bundle with one position present. -/
def one (p : Pos) (f : Nat) : Bundle := BitVec.ofNat 256 (0x40 + 2 ^ posCode p + 2 ^ lowBit p * f)

/-- A bundle with two positions present. -/
def two (p q : Pos) (f g : Nat) : Bundle := BitVec.ofNat 256 (0x40 + 2 ^ posCode p + 2 ^ posCode q + 2 ^ lowBit p * f + 2 ^ lowBit q * g)

/-- A context that may reach 512 KiB of each pocket, a cistern share and 16 MiB of HBM. -/
def ctxA : Ctx := { isSet := true, pkUnits := 32, csUnits := 4, hbm := [(0, 8)] }

/-- A processor that runs a job of context 1 from the start of pocket 0. -/
def coreA : Core := { active := true, ctx := 1, pc := 0x1100000000#40, excBase := 0x1100001000#40, ie := true, jobTag := 7 }

/-- Nerzon runs and chamber 0, which carries logical chamber 0, is as given. -/
def stChm (h : Chamber) : State :=
  { State.reset with sts := { State.reset.sts with state := 3 }, chms := [(0, { h with logical := some 0 })], ctxs := [(1, ctxA)],
                     cairns := [(5, { typ := 1, v := 3, ctx := 1 })] }

/-- The same with a processor alone. -/
def stCore (c : Core) : State := stChm { core := c }

/-- The same with registers 1 and 2. -/
def stRegs (x y : DWord) : State := stCore { coreA with g := [(1, x), (2, y)] }

/-- Chamber 0. -/
def c0 : Fin 144 := 0

/-- Does an outcome go on? -/
def goesOn (o : Host.Outcome State Fault Refusal) : Bool :=
  match o with
  | .next _ => true
  | _ => false

/-- The clocks run in these states, whatever stands in the chamber. -/
theorem witness_clocks : ∀ h, noClock (stChm h) 0 = false ∧ noClock (stChm h) 1 = false ∧ noClock (stChm h) 2 = false := fun _ => ⟨rfl, rfl, rfl⟩

/-! ### Witnesses: operations of a bundle -/

/-- An X field: opcode, rd, ra, rb. -/
def xr (op rd ra rb : Nat) : Nat := 2 ^ 4 * op + 2 ^ 11 * rd + 2 ^ 18 * ra + 2 ^ 25 * rb

theorem witness_x_arithmetic :
    ∀ x ∈ [(BOp.add, 0x01), (.sub, 0x02), (.and_, 0x03), (.or_, 0x04), (.xor_, 0x05), (.shl, 0x06), (.shr, 0x07), (.sra, 0x08), (.mul, 0x20)],
      issuesAlone x.1 (stRegs 0xFFFFFFFFFFFFFFFF 64) c0 .x0 (one .x0 (xr x.2 3 1 2)) = true := by decide +kernel

theorem witness_x_constants :
    issuesAlone .nop (stRegs 0 0) c0 .x1 (one .x1 0) = true ∧ issuesAlone .constL (stRegs 0 0) c0 .x0 (one .x0 (xr 0x09 3 0 0 + 2 ^ 18 * 0xFFFFF)) = true ∧
    (issuesAlone .constH (stRegs 0 0) c0 .x0 (one .x0 (xr 0x0A 3 0 0 + 2 ^ 18 * 0x80000)) = true ∧ bitAt (xr 0x0A 3 0 0 + 2 ^ 18 * 0x80000) 10 = false) ∧
    (issuesAlone .constH (stRegs 0 0) c0 .x0 (one .x0 (xr 0x0A 3 0 0 + 2 ^ 18 * 0x80000 + 2 ^ 10)) = true ∧
      bitAt (xr 0x0A 3 0 0 + 2 ^ 18 * 0x80000 + 2 ^ 10) 10 = true) := by decide +kernel

theorem witness_x_compares :
    ∀ x ∈ [(BOp.cmpEq, 0x10), (.cmpNe, 0x11), (.cmpLt, 0x12), (.cmpLe, 0x13), (.cmpGt, 0x14), (.cmpGe, 0x15), (.cmpLtu, 0x16), (.cmpGeu, 0x17)],
      issuesAlone x.1 (stRegs 0x8000000000000000 0) c0 .x1 (one .x1 (2 ^ 4 * x.2 + 2 ^ 11 * 1 + 2 ^ 15 * 15 + 2 ^ 19 * 1 + 2 ^ 26 * 2)) = true := by
  decide +kernel

/-- A GETS of a special register into r3. -/
def getsF (n : Nat) : Nat := 2 ^ 4 * 0x30 + 2 ^ 11 * 3 + 2 ^ 18 * n
/-- A SETS of a special register from r1. -/
def setsF (n : Nat) : Nat := 2 ^ 4 * 0x31 + 2 ^ 11 * n + 2 ^ 18 * 1

theorem witness_special_registers :
    (∀ n ∈ [0, 12], issuesAlone .gets (stRegs 1 2) c0 .x1 (one .x1 (getsF n)) = true ∧ fld (posField (one .x1 (getsF n)) .x1) 21 18 = n ∧ n ≤ 12) ∧
    (∀ n ∈ [13, 15], issuesAlone .gets (stRegs 1 2) c0 .x1 (one .x1 (getsF n)) = true ∧ fld (posField (one .x1 (getsF n)) .x1) 21 18 = n ∧ 12 < n) ∧
    (∀ n ∈ [1, 7], issuesAlone .sets (stRegs 1 2) c0 .x1 (one .x1 (setsF n)) = true ∧ fld (posField (one .x1 (setsF n)) .x1) 14 11 = n ∧ 1 ≤ n ∧ n ≤ 7) ∧
    (∀ n ∈ [0, 8], issuesAlone .sets (stRegs 1 2) c0 .x1 (one .x1 (setsF n)) = true ∧ fld (posField (one .x1 (setsF n)) .x1) 14 11 = n ∧
      ¬(1 ≤ n ∧ n ≤ 7)) := by decide +kernel

/-- An LD (code 1) or ST (code 2) of 8 bytes at r1 into or from r2. -/
def memF (op : Nat) : Nat := 2 ^ 4 * op + 2 ^ 10 * 3 + 2 ^ 14 * 2 + 2 ^ 21 * 1

/-- Chamber 0 waits for its access at the address. -/
def stOut (op a : Nat) (store : Bool) : State :=
  stCore { coreA with g := [(1, BitVec.ofNat 64 a)], issue := some { word := one .m (memF op), done := [.m], acc := some { store := store, addr := a, size := 8 } } }

/-- The last 8 bytes the context may reach of the own pocket, a place in HBM, a byte range outside the reach. -/
def aOwn : Nat := 0x110007FFF8
def aHbm : Nat := 0x8

theorem witness_loads :
    (let s := stRegs (BitVec.ofNat 64 aOwn) 0
     let b := one .m (memF 1)
     issuesAlone .ld s c0 .m b = true ∧ accessExc s c0 (memF 1) false = [] ∧ isCsr (accAddr (coreOf s 0) (memF 1)) = false ∧
     inOwnPocket s 0 aOwn 8 = true ∧ chmMay s 0 aOwn 8 false = true ∧ (readBytes s aOwn 8).2.1.poison = false ∧
     (readBytes { s with wflags := [((pocketKey 0 + 0x7FFF8) / 8, { poison := true, missing := false })] } aOwn 8).2.1.poison = true) ∧
    (let s := stRegs (BitVec.ofNat 64 aHbm) 0
     let b := one .m (memF 1)
     issuesAlone .ld s c0 .m b = true ∧ accessExc s c0 (memF 1) false = [] ∧ isCsr aHbm = false ∧ inOwnPocket s 0 aHbm 8 = false) ∧
    (let s := stOut 1 aHbm false
     accessOut .ld false s c0 (one .m (memF 1)) = true ∧ accessExc s c0 (memF 1) true = [] ∧ chmMay s 0 aHbm 8 false = true ∧
     (readBytes s aHbm 8).2.1.poison = false) := by decide +kernel

theorem witness_stores :
    (let s := stRegs (BitVec.ofNat 64 aOwn) 0
     issuesAlone .st s c0 .m (one .m (memF 2)) = true ∧ accessExc s c0 (memF 2) false = [] ∧ isCsr aOwn = false ∧
     inOwnPocket s 0 aOwn 8 = true ∧ chmMay s 0 aOwn 8 true = true) ∧
    (let s := stRegs (BitVec.ofNat 64 aOwn) 0
     let s := { s with ctxs := [(1, { ctxA with pkUnits := 4 }), (2, { isSet := true, pkUnits := 60, pkOff := 4 })] }
     issuesAlone .st s c0 .m (one .m (memF 2)) = true ∧ accessExc s c0 (memF 2) false = [] ∧ inOwnPocket s 0 aOwn 8 = true ∧
     chmMay s 0 aOwn 8 true = false) ∧
    (let s := stRegs (BitVec.ofNat 64 aHbm) 0
     issuesAlone .st s c0 .m (one .m (memF 2)) = true ∧ accessExc s c0 (memF 2) false = [] ∧ inOwnPocket s 0 aHbm 8 = false) ∧
    (let s := stOut 2 aHbm true
     accessOut .st true s c0 (one .m (memF 2)) = true ∧ accessExc s c0 (memF 2) true = [] ∧ chmMay s 0 aHbm 8 true = true) := by decide +kernel

theorem witness_siphon_operations :
    (let s := stRegs 0xFFFFFFFFE0 0
     issuesAlone .siphRun s c0 .m (one .m (2 ^ 4 * 0x08 + 2 ^ 21)) = true ∧ siphQueued (siphOf s 0) < 4 ∧
     issuesAlone .siphPoll s c0 .m (one .m (2 ^ 4 * 0x09 + 2 ^ 14 * 3)) = true ∧
     (readReg (coreOf s 0) 1).toNat < 2 ^ 40) ∧
    (let s := stRegs 0 0
     issuesAlone .fence s c0 .m (one .m (2 ^ 4 * 0x10 + 2 ^ 10 * 7)) = true ∧ siphBusy s 0 = false ∧ flsBusy (chmOf s 0).fl = false ∧
     arrReads (chmOf s 0).ar = false) := by decide +kernel

/-- r1 with the rows and the address of a STREAM's activations, r2 with its pitch. -/
def stStream (rows : Nat) : State := stRegs (BitVec.ofNat 64 (2 ^ 48 * rows + 0x1100000000)) (BitVec.ofNat 64 (2 ^ 32 * 16))

/-- A STREAM of array 0 from r1 and r2, with or without final. -/
def streamF (final : Nat) : Nat := 2 ^ 4 * 4 + 2 ^ 8 + 2 ^ 17 * final + 2 ^ 20 + 2 ^ 27 * 2

theorem witness_array_operations :
    (let s := stRegs 0x1100000000 0
     issuesAlone .aswp s c0 .a (one .a (2 ^ 4 * 2)) = true ∧ anyHeld (chmOf s 0).ar = false ∧ (chmOf s 0).ar.aq.length < 4 ∧
     (∀ m ∈ [0, 7], issuesAlone .acfg s c0 .a (one .a (2 ^ 4 * 3 + 2 ^ 8 * m)) = true ∧ bitAt (2 ^ 4 * 3 + 2 ^ 8 * m) 12 = false) ∧
     issuesAlone .acfg s c0 .a (one .a (2 ^ 4 * 3 + 2 ^ 8 * 4 + 2 ^ 12)) = true ∧ asignOk 4 = true) ∧
    (let s := stRegs 0x1100000000 0
     let h := (readMemWords s 0x1100000000 8).1
     issuesAlone .aldw s c0 .a (one .a (2 ^ 4 + 2 ^ 8)) = true ∧ ownPlane s 0 0x1100000000 32 = true ∧ badHead h = false ∧
     ownPlane s 0 0x1100000000 (recordBytes (headOfWords h)) = true) ∧
    (∀ x ∈ [(512, 0), (513, 1), (513, 0)],
      let s := stStream x.1
      let o := streamOperands s 0 (streamF x.2)
      let t := (ahead (chmOf s 0).ar).act
      issuesAlone .stream s c0 .a (one .a (streamF x.2)) = true ∧ o.amask ≠ 0 ∧ o.rows = x.1 ∧ o.rskind ≠ 3 ∧ t.wfmt = modeWfmt o.mode ∧
      (∀ p ∈ streamPlanes o t, ownPlane s 0 p.1 p.2 = true)) := by decide +kernel

theorem witness_flowstone_operations :
    ∀ x ∈ [(BOp.flRun, 1, 32), (.flLdt, 2, 4096), (.flStt, 3, 4096), (.flLdb, 4, 128), (.flStb, 5, 128), (.flLdm, 6, 128), (.flStm, 7, 128)],
      let a := 0x1100080000 - x.2.2
      let s := stRegs (BitVec.ofNat 64 a) 0
      let f := 2 ^ 4 * x.2.1 + 2 ^ 12
      issuesAlone x.1 s c0 .f (one .f f) = true ∧ fAddr (coreOf s 0) f = a ∧ mappedRange a x.2.2 = true ∧ (chmOf s 0).fl.fq.length < 4 ∧
      chmMay s 0 a x.2.2 false = true ∧ chmMay s 0 a x.2.2 true = true := by decide +kernel

/-- A C field of an operation with register 1 at [15:9] and register 2 at [22:16]. -/
def cF (op : Nat) : Nat := 2 ^ 4 * op + 2 ^ 9 * 1 + 2 ^ 16 * 2

theorem witness_control_flow :
    (∀ x ∈ [(BOp.br, 2 ^ 4 * 1 + 2 ^ 9 * 0x80000), (.call, 2 ^ 4 * 2 + 2 ^ 9 * 3 + 2 ^ 16 * 0x8000)], issuesAlone x.1 (stRegs 0 0) c0 .c (one .c x.2) = true) ∧
    (∀ x ∈ [(BOp.jmp, 2 ^ 4 * 3 + 2 ^ 9), (.callr, cF 4)],
      issuesAlone x.1 (stRegs 0xFFFFFFFFE0 0xFFFFFFFFE0) c0 .c (one .c x.2) = true ∧ (0xFFFFFFFFE0 : DWord).toNat < 2 ^ 40 ∧ (0xFFFFFFFFE0 : DWord).toNat % 32 = 0) ∧
    (∀ n ∈ [2 ^ 40, 16],
      issuesAlone .jmp (stRegs (BitVec.ofNat 64 n) 0) c0 .c (one .c (2 ^ 4 * 3 + 2 ^ 9)) = true ∧
      issuesAlone .callr (stRegs 0 (BitVec.ofNat 64 n)) c0 .c (one .c (cF 4)) = true ∧ ¬(n < 2 ^ 40 ∧ n % 32 = 0)) ∧
    (∀ n ∈ [0, 1],
      issuesAlone .loopBr (stCore { coreA with lc := BitVec.ofNat 64 n, ec := 1 }) c0 .c (one .c (2 ^ 4 * 5 + 2 ^ 9)) = true ∧
      issuesAlone .loopBrN (stCore { coreA with lc := BitVec.ofNat 64 n, ec := 1 }) c0 .c (one .c (2 ^ 4 * 6 + 2 ^ 9)) = true) ∧
    (∀ k ∈ [false, true],
      issuesAlone .iret (stCore { coreA with ibank := k, xbank := k }) c0 .c (one .c (2 ^ 4 * 0x18)) = true ∧
      issuesAlone .exret (stCore { coreA with ibank := k, xbank := k }) c0 .c (one .c (2 ^ 4 * 0x19)) = true) ∧
    (let s := stRegs 0 0
     issuesAlone .jobEnd s c0 .c (one .c (2 ^ 4 * 0x1A)) = true ∧ arrWork (chmOf s 0).ar = false ∧ flsBusy (chmOf s 0).fl = false ∧ siphBusy s 0 = false ∧
     issuesAlone .break_ s c0 .c (one .c (2 ^ 4 * 0x1B)) = true) := by decide +kernel

theorem witness_cairn_operations :
    (∀ x ∈ [(BOp.cnSig, 0x08), (.cnAdd, 0x09), (.cnWait, 0x0A), (.cnTry, 0x0B)],
      issuesAlone x.1 (stRegs 5 1) c0 .c (one .c (2 ^ 4 * x.2 + 2 ^ 9 * 5)) = true) ∧
    (∀ x ∈ [(BOp.cnSigr, 2 ^ 4 * 0x0C + 2 ^ 9), (.cnAddr, cF 0x0D), (.cnWaitr, cF 0x0E), (.cnTryr, 2 ^ 4 * 0x0F + 2 ^ 9 + 2 ^ 16)],
      issuesAlone x.1 (stRegs 5 1) c0 .c (one .c x.2) = true) ∧
    (cairnOf (stRegs 5 1) 5).typ = 1 ∧ (cairnOf (stRegs 5 1) 5).ctx = (coreOf (stRegs 5 1) 0).ctx ∧ (coreOf (stRegs 5 1) 0).waitCairn = none ∧
    (coreOf (stRegs 5 1) 0).grant = none ∧ (coreOf (cairnWait (stRegs 5 1) 5 0 1) 0).grant.isSome = true ∧
    (let s := { stRegs 5 1 with cairns := [(5, { typ := 1, ctx := 1 })] }
     issuesAlone .cnWait s c0 .c (one .c (2 ^ 4 * 0x0A + 2 ^ 9 * 5)) = true ∧ (coreOf (cairnWait s 5 0 1) 0).grant.isSome = false) ∧
    (issuesAlone .cnSig (stRegs 0 0) c0 .c (one .c (2 ^ 4 * 0x08 + 2 ^ 9 * 65535)) = true ∧ (cairnOf (stRegs 0 0) 65535).typ = 0) ∧
    noClock (stRegs 5 1) 1 = false ∧ tablesOk (stRegs 5 1) ∧ (cairnOf (stRegs 5 1) 5).faulted = false ∧ (cairnOf (stRegs 5 1) 5).v ≠ 0 := by
  unfold tablesOk; decide +kernel

/-! ### Witnesses: arrays and flowstone -/

/-- A STREAM of array 0 with the number of rows. -/
def opS (rows : Nat) : StreamOp := { amask := 1, rows := rows, pitch := 16, abase := 0x1100000000 }

theorem witness_array_work :
    (let s := stChm { core := coreA, ar := { filling := some (0x1100000000, []) } }
     (chmOf s 0).ar.filling = some (0x1100000000, [])) ∧
    (let s := stChm { core := coreA, ar := { aq := [.aswp] } }
     (chmOf s 0).ar.aq = [.aswp] ∧ (chmOf s 0).ar.filling = none ∧ arraysIdle (chmOf s 0).ar = true) ∧
    (let s := stChm { core := coreA, ar := { aq := [.acfg 7 false] } }
     (chmOf s 0).ar.aq = [.acfg 7 false] ∧ arraysIdle (chmOf s 0).ar = true) ∧
    (let s := stChm { core := coreA, ar := { aq := [.aswp], arr := [(3, { run := some { op := opS 9 } })] } }
     (chmOf s 0).ar.aq = [.aswp] ∧ arraysIdle (chmOf s 0).ar = false) ∧
    (∀ e ∈ [(0, 0x80#32), (8, 0x80#32), (0, 0x8080#32)],
      let row := e.1
      let w := e.2
      let s := stChm { core := coreA, ar := { act := { omap0 := w }, arr := [(3, { run := some { op := opS 9, row := row } })] } }
      let x := Tab.get {} (chmOf s 0).ar.arr 3
      (chmOf s 0).core.entering = none ∧ (chmOf s 0).isolated = false ∧ x.run = some { op := opS 9, row := row } ∧
      ({ op := opS 9, row := row } : StreamRun).held = false ∧ noClock s 0 = false ∧ (∀ j, j < 8 → rowTaken x (opS 9) (row + j) = false) ∧ undefinedPass (chmOf s 0).ar.act (opS 9) = decide (w = 0x8080#32)) ∧
    (let f : FlyRow := { op := opS 1, m := 0, x := [], ax := [], rs := 0, flags := {} }
     let s := stChm { core := coreA, ar := { arr := [(0, { fly := [f] })] } }
     (Tab.get {} (chmOf s 0).ar.arr 0).fly = [f] ∧ undefinedPass (chmOf s 0).ar.act f.op = false) ∧
    (let f : FlyRow := { op := opS 513, m := 512, x := [], ax := [], rs := 0, flags := {} }
     let s := stChm { core := coreA, ar := { arr := [(0, { fly := [f] })] } }
     (Tab.get {} (chmOf s 0).ar.arr 0).fly = [f] ∧ undefinedPass (chmOf s 0).ar.act f.op = true) ∧
    (chmOf (stCore { coreA with entering := some 0x1100000000#40 }) 0).core.entering ≠ none := by decide +kernel

theorem witness_dripline :
    let t : FinTile := { base := 0, nrows := 32, slot := 0, tag := 7 }
    let s := stChm { core := coreA, fl := { dl := List.replicate 7 {} }, ar := { lastArr := 1, arr := [(0, { fin := [t] }), (1, { fin := [t] })] } }
    (chmOf s 0).fl.dl.length < 8 ∧
    (takeOrder (chmOf s 0).ar.lastArr).find? (fun k => !(Tab.get {} (chmOf s 0).ar.arr k).fin.isEmpty) = some 0 ∧
    (Tab.get {} (chmOf s 0).ar.arr 0).fin = [t] := by decide +kernel

/-- A micro-operation: opcode, operand a, operand b, men with mask register 0. -/
def uop (op a b : Nat) (men : Bool) : DWord :=
  BitVec.ofNat 64 (2 ^ 58 * op + 2 ^ 50 * a + 2 ^ 45 * b + (if men then 2 ^ 39 else 0))

/-- A record of one micro-operation as words: header of one iteration with src = 1. -/
def recWords (u : DWord) : List Byte :=
  leBytes (2 ^ 16 + 2 ^ 8 + 1) 4 ++ List.replicate 28 0#8 ++ leBytes u.toNat 8

/-- Chamber 0 with a launch or a move queued, and a record at the start of its pocket. -/
def stFl (f : Fls) : State :=
  { stChm { core := coreA, fl := f } with mem := Memory.setBytes [] (pocketKey 0) (recWords (uop 1 0x1B 0x1B false)) }

/-- A run of one micro-operation at its start. -/
def runA (u : DWord) (it : Bool) : FRun :=
  { count := 1, src1 := true, cen := true, cairn := 5, obase := 0x1100000000, pitch := 32, astride := 0, tstride := 0, uops := [u], inIter := it }

theorem witness_flowstone_launch :
    (let s := stFl { fq := [.run 0x1100000000] }
     let r := readMemWords s 0x1100000000 8
     let w := readMemWords r.2.2 0x1100000020 2
     let run := runOf 0x1100000000 r.1 (uopsOf w.1 1)
     noClock s 0 = false ∧ noClock s 1 = false ∧
     (chmOf s 0).fl.run = none ∧ (chmOf s 0).fl.faultPend = false ∧ (chmOf s 0).fl.fq = [.run 0x1100000000] ∧ ownPlane s 0 0x1100000000 40 = true ∧
     tf r.1 0 5 0 = 1 ∧ badRecord r.1 = false ∧ (∀ k, k < run.uops.length → badUop run.src1 (run.uops.getD k 0) = false)) ∧
    (let s := stFl { fq := [.run 0x1100000010] }
     (chmOf s 0).fl.run = none ∧ (chmOf s 0).fl.faultPend = false ∧ (chmOf s 0).fl.fq = [.run 0x1100000010]) ∧
    (let r := runA (uop 1 0 0 false) false
     (chmOf (stFl { run := some r }) 0).fl.run = some r ∧ r.n < r.count ∧ r.src1 = true ∧
     (chmOf (stFl { run := some { r with n := 1 } }) 0).fl.run = some { r with n := 1 } ∧ r.count ≤ 1) ∧
    (chmOf (stFl { fq := [.move .stm 7 0x1100000000] }) 0).fl.fq = [.move .stm 7 0x1100000000] ∧
    (let s := stFl { faultPend := true }
     (chmOf s 0).fl.faultPend = true ∧ canIssue (chmOf s 0) = true ∧ noClock s 0 = false ∧ (coreOf s 0).issue = none ∧ fetchExcs s 0 = []) := by
  decide +kernel

/-- Chamber 0 at a micro-operation. -/
def stUop (u : DWord) (f : Fls) : State := stFl { f with run := some (runA u true) }

theorem witness_flowstone_elements :
    ∀ op ∈ [0x01, 0x02, 0x03, 0x04, 0x05, 0x06, 0x07, 0x08, 0x09, 0x0A, 0x0B, 0x0C, 0x0D, 0x10, 0x11, 0x12, 0x13, 0x18, 0x19, 0x1A, 0x1B, 0x1C, 0x1D],
      let u := uop op 0x1B 0x1B true
      curUop (chmOf (stUop u {}) 0).fl = some (runA u true, u) ∧ uOp u = op := by decide +kernel

theorem witness_lut :
    (let f := (chmOf (stUop (uop 0x0D 0x1B 0 false + 2 ^ 14 * 31) {}) 0).fl
     let u := uop 0x0D 0x1B 0 false + 2 ^ 14 * 31
     curUop f = some (runA u true, u) ∧ ∀ i, i < 1024 → masked f u i = false → 0 ≤ opVal f u (uA u) i ∧ opVal f u (uA u) i < 32) ∧
    (let u := uop 0x0D 0x1B 0 false + 2 ^ 14 * 32
     let f := (chmOf (stUop u {}) 0).fl
     curUop f = some (runA u true, u) ∧
     (List.range 1024).find? (fun i => !masked f u i && !(decide (0 ≤ opVal f u (uA u) i) && decide (opVal f u (uA u) i < 32))) = some 0) := by
  decide +kernel

theorem witness_stores_of_tiles :
    (∀ x ∈ [(0x12, 4), (0x13, 8)],
      let u := uop x.1 0x1B 0 false
      let s := stUop u {}
      let f := (chmOf s 0).fl
      (stoRows f (runA u true) u).length = 32 ∧ ∀ row ∈ stoRows f (runA u true) u, stoBad s 0 x.2 (stoAddr f (runA u true) row) = false) ∧
    (let u := uop 0x13 0x1B 0 false
     let s := stFl { run := some { runA u true with obase := 0x11000FFFE0 } }
     let f := (chmOf s 0).fl
     curUop f = some ({ runA u true with obase := 0x11000FFFE0 }, u) ∧
     (stoRows f { runA u true with obase := 0x11000FFFE0 } u).find? (fun k => stoBad s 0 8 (stoAddr f { runA u true with obase := 0x11000FFFE0 } k)) = some 1) := by
  decide +kernel

/-! ### Witnesses: a bundle as a whole, exceptions, registers, frames -/

/-- ADD r3 := r1 + r2 under predicate 1. -/
def offF : Nat := xr 0x01 3 1 2 + 1

/-- CONST.L r4 := 1 beside it. -/
def pairB : Bundle := two .x0 .x1 offF (xr 0x09 4 0 0 + 2 ^ 18 * 1)

theorem witness_predicate_off :
    (let b := one .x0 offF
     let s := stRegs 1 2
     present b .x0 = true ∧ opOf b .x0 = some .add ∧ readPred (coreOf s 0) (fld (posField b .x0) 3 0) = false ∧ atIssue s c0 b = true ∧
     lastNamed s c0 b .x0 = true ∧ allPos.filter (present b) = [.x0]) ∧
    (let s := stRegs 1 2
     present pairB .x0 = true ∧ opOf pairB .x0 = some .add ∧ readPred (coreOf s 0) (fld (posField pairB .x0) 3 0) = false ∧
     atIssue s c0 pairB = true ∧ (coreOf s 0).issue = none ∧ present pairB .x1 = true) := by decide +kernel

/-- ADD r3 := r1 + r2 and CONST.L r4 := 1, the first named. -/
def bothB : Bundle := two .x0 .x1 (xr 0x01 3 1 2) (xr 0x09 4 0 0 + 2 ^ 18 * 1)

/-- The effects of its positions. -/
def bothL : Pos → List Eff
  | .x0 => [.reg 3 3]
  | .x1 => [.reg 4 1]
  | _ => []

/-- Chamber 0 with x0 of the bundle named. -/
def stBoth : State := stCore { coreA with g := [(1, 1), (2, 2)], issue := some { word := bothB, done := [.x0] } }

theorem witness_bundle_together :
    (present bothB .x1 = true ∧ opOf bothB .x1 = some .constL ∧ atIssue stBoth c0 bothB = true ∧ lastNamed stBoth c0 bothB .x1 = true) ∧
    (let s := stRegs 1 2
     present bothB .x0 = true ∧ opOf bothB .x0 = some .add ∧ atIssue s c0 bothB = true ∧ namedWith (coreOf s 0) bothB .x0 = some [.x0] ∧
     lastNamed s c0 bothB .x0 = false) ∧
    (let s := stRegs 1 2
     let b := one .x0 (xr 0x01 3 1 2 + 2 ^ 32)
     present b .x0 = true ∧ opOf b .x0 = some .add ∧ illegalPos b = some 0 ∧ canIssue (chmOf s 0) = true ∧ noClock s 0 = false ∧ (coreOf s 0).issue = none ∧ fetchExcs s 0 = []) := by
  decide +kernel

theorem witness_bundle_effects : ∀ q : Pos, evalPos stBoth c0 bothB q false = (effs (bothL q), stBoth) := by
  intro q; cases q <;> decide +kernel

theorem witness_exceptions :
    (let s := stRegs 0 0
     let b := one .x1 (getsF 13)
     present b .x1 = true ∧ opOf b .x1 = some .gets ∧ atIssue s c0 b = true ∧ lastNamed s c0 b .x1 = true ∧
     pickExc (evalBundle s c0 b allPos).1.excs = some (2, 1, 0)) ∧
    pickExc [(4, 3, 0), (2, 1, 0), (2, 3, 0)] = some (2, 1, 0) ∧
    (coreOf (stRegs 0 0) 0).xbank = false ∧ (coreOf (stCore { coreA with xbank := true }) 0).xbank = true ∧ (stRegs 0 0).err.hw.length < 256 := by
  decide +kernel

theorem witness_tables : tablesOk (stRegs 1 2) ∧ tablesOk (stCore { coreA with xbank := true }) ∧ memoryOk (stRegs 1 2) := by
  unfold tablesOk memoryOk; decide +kernel

theorem witness_interrupt_bank : (stCore coreA).chms.length = 1 ∧ (coreOf (stCore coreA) 0).ibank = false ∧ (coreOf (stCore coreA) 0).xbank = false := by
  decide +kernel

theorem witness_register_names :
    (let c : Core := { coreA with g := [(1, 1), (31, 2)], ib := [(24, 3)], xb := [(28, 4)], l := [(0, 5), (63, 6)], ibank := true, xbank := true, rrb := 63 }
     Tab.wf 0 c.g = true ∧ Tab.wf 0 c.ib = true ∧ Tab.wf 0 c.xb = true ∧ Tab.wf 0 c.l = true) ∧
    regCode 0x1F ∧ regCode 0x40 ∧ regCode 0x7F := by unfold regCode; decide +kernel

theorem witness_loop_branches :
    tablesOk (stCore { coreA with lc := 1, ec := 255, rrb := 63 }) ∧
    issuesAlone .loopBr (stCore { coreA with lc := 1, ec := 255, rrb := 63 }) c0 .c (one .c (2 ^ 4 * 5 + 2 ^ 9 * 0x80000)) = true ∧
    issuesAlone .loopBrN (stCore { coreA with lc := 0xFFFFFFFFFFFFFFFF }) c0 .c (one .c (2 ^ 4 * 6 + 2 ^ 9)) = true ∧
    issuesAlone .loopBr (stCore coreA) c0 .c (one .c (2 ^ 4 * 5 + 2 ^ 9)) = true ∧ (coreOf (stCore coreA) 0).lc = 0 ∧
    tablesOk (stCore coreA) := by unfold tablesOk; decide +kernel

theorem witness_frame_x :
    tablesOk (stRegs 1 2) ∧
    (∀ x ∈ [(BOp.sub, xr 0x02 0 1 2), (.cmpEq, 2 ^ 4 * 0x10 + 2 ^ 15 * 8 + 2 ^ 19), (.gets, getsF 12), (.sets, setsF 4)],
      isXOp x.1 = true ∧ issuesAlone x.1 (stRegs 1 2) c0 .x1 (one .x1 x.2) = true ∧
      (evalOp x.1 (stRegs 1 2) c0 (posCode .x1) (posField (one .x1 x.2) .x1) false).1.excs = [] ∧
      goesOn (exec (opCmd x.1 c0 .x1 (one .x1 x.2)) (stRegs 1 2)) = true) := by unfold tablesOk; decide +kernel

theorem witness_frame_access :
    (let s := stRegs (BitVec.ofNat 64 aOwn) 7
     memoryOk s ∧ tablesOk s ∧ issuesAlone .st s c0 .m (one .m (memF 2)) = true ∧ accessExc s c0 (memF 2) false = [] ∧ inOwnPocket s 0 aOwn 8 = true ∧
     goesOn (exec (.st c0 (one .m (memF 2))) s) = true ∧ isCsr aOwn = false ∧
     hitCtxs (writeMem (advancePc s 0) aOwn (stData (coreOf s 0) (memF 2)) noFlags) aOwn 8 = [] ∧ chmMay s 0 aOwn 8 true = true ∧ storeKey s aOwn ≠ none ∧
     isMemory (aOwn - 1) = true ∧ latentUe s (aOwn - 1) = false ∧ isMemory (aOwn + 8) = true ∧ latentUe s (aOwn + 8) = false ∧
     issuesAlone .ld s c0 .m (one .m (memF 1)) = true ∧ accessExc s c0 (memF 1) false = [] ∧ goesOn (exec (.ld c0 (one .m (memF 1))) s) = true ∧
     chmMay s 0 aOwn 8 false = true ∧ (readBytes s aOwn 8).2.1.poison = false ∧ latentUe s aOwn = false) ∧
    (let s := stOut 2 aHbm true
     memoryOk s ∧ tablesOk s ∧ accessOut .st true s c0 (one .m (memF 2)) = true ∧ accessExc s c0 (memF 2) true = [] ∧
     goesOn (exec (.storeCompletion c0) s) = true ∧ isCsr aHbm = false ∧ chmMay s 0 aHbm 8 true = true ∧ storeKey s aHbm ≠ none ∧
     hitCtxs (writeMem (advancePc s 0) aHbm (stData (coreOf s 0) (memF 2)) noFlags) aHbm 8 = []) ∧
    (let s := stOut 1 aHbm false
     tablesOk s ∧ accessOut .ld false s c0 (one .m (memF 1)) = true ∧ accessExc s c0 (memF 1) true = [] ∧
     goesOn (exec (.loadCompletion c0) s) = true ∧ chmMay s 0 aHbm 8 false = true ∧ (readBytes s aHbm 8).2.1.poison = false) := by
  unfold tablesOk memoryOk; decide +kernel

/-! ### Witnesses: siphons, interrupts, cairns, memory -/

/-- A chain of context 1 at a descriptor. -/
def chainA (burst : List (Nat × List Word)) (pend : List PendDesc) : Chain := { tag := 7, ctx := some 1, next := 0x2000, burst := burst, pend := pend, ended := false }

/-- Siphon 0 as given. -/
def stSiph (x : Siphon) : State := { stCore coreA with siph := [(0, x)] }

theorem witness_siphon_chain :
    (∀ a ∈ [0xFFFFE0, 0x8],
      let s := stSiph { queue := [(a, 7, some 1)] }
      (siphOf s 0).chain = none ∧ (siphOf s 0).queue = [(a, 7, some 1)]) ∧
    (let s := stSiph { chain := some (chainA [] []) }
     (siphOf s 0).chain = some (chainA [] []) ∧ addrFault s (checkerOf s 0 (chainA [] [])) 0x2000 32 false = none) ∧
    (let c := { chainA [] [] with next := 0xFFFFF0 }
     let s := stSiph { chain := some c }
     (siphOf s 0).chain = some c ∧ addrFault s (checkerOf s 0 c) 0xFFFFF0 32 false = some 4) ∧
    (let d : List Word := [0x40000000, 0x3000, 0, 0, 0, 0, 0, 0]
     let s := stSiph { chain := some (chainA [(0x2000, d)] []) }
     headDesc (siphOf s 0) = some (chainA [(0x2000, d)] [], 0x2000, d) ∧ tf d 0 31 28 = 4 ∧ kindFault d = false) ∧
    (∀ x ∈ [(0, some 5), (0, none), (1, none)],
      let p : PendDesc := { id := 0, cairn := x.2, outstanding := x.1, last := false }
      (siphOf (stSiph { chain := some (chainA [] [p]) }) 0).chain = some (chainA [] [p])) := by decide +kernel

/-- GATHER, BLOCK, FILL of two rows of 64 bytes to HBM, from the source address given, and one of a wrong form. -/
def gatherD (src : Nat) : List Word := [0x10000000, BitVec.ofNat 32 src, 0x1000, 0, 0x2000, 0x20040, 0, 0x400000]
def blockD (src : Nat) : List Word := [0x20000000, BitVec.ofNat 32 src, 0x1000, 0, 64, 0x20000, 64, 0x400000]
def fillD (dst : Nat) : List Word := [0x30000000, 0x12345678, BitVec.ofNat 32 dst, 0, 64, 0x20000, 0, 0x400000]

/-- Siphon 0 at a descriptor. -/
def stDesc (d : List Word) : State := stSiph { chain := some (chainA [(0x2000, d)] []) }

/-- What a descriptor's clause asks. -/
def descOk (kind : Nat) (d : List Word) : Bool :=
  let s := stDesc d
  decide (headDesc (siphOf s 0) = some (chainA [(0x2000, d)] [], 0x2000, d)) && decide (tf d 0 31 28 = kind) && !kindFault d && !devFault s d

/-- The plan of a descriptor. -/
def planD (d : List Word) : Plan :=
  let s := stDesc d
  let k := checkerOf s 0 (chainA [(0x2000, d)] [])
  if tf d 0 31 28 = 1 then planGather k d s 0 2 else planBlock k d s 0 2

theorem witness_siphon_rows :
    (∀ x ∈ [(1, gatherD 0), (2, blockD 0), (3, fillD 0x1000)], descOk x.1 x.2 = true ∧ selfOverlap (planD x.2).rows = false ∧ (planD x.2).fault = none) ∧
    (∀ x ∈ [(1, gatherD 0x1000), (2, blockD 0x1000)], descOk x.1 x.2 = true ∧ selfOverlap (planD x.2).rows = true ∧ (planD x.2).fault = none) ∧
    (let d : List Word := [0x20000000, 0xFFFFC0, 0xFFFFC0, 0, 64, 0x20000, 64, 0x400000]
     descOk 2 d = true ∧ selfOverlap (planD d).rows = true ∧ (planD d).fault.isSome = true) ∧
    (∀ x ∈ [(1, gatherD 0xFFFFE0), (2, blockD 0xFFFFC0), (3, fillD 0xFFFFC0)],
      descOk x.1 x.2 = true ∧ selfOverlap (planD x.2).rows = false ∧ (planD x.2).fault.isSome = true) ∧
    (let d : List Word := [0x20000000, 0, 0x1000, 0, 12, 0x10000, 0, 0]
     headDesc (siphOf (stDesc d) 0) = some (chainA [(0x2000, d)] [], 0x2000, d) ∧ tf d 0 31 28 = 2 ∧ kindFault d = true) ∧
    (let d : List Word := [0x20800000, 0, 0x1000, 0, 64, 0x10000, 0, 1]
     headDesc (siphOf (stDesc d) 0) = some (chainA [(0x2000, d)] [], 0x2000, d) ∧ kindFault d = false ∧ devFault (stDesc d) d = true) := by decide +kernel

/-- A GATHER of at most 32 rows is one tile, whatever is read ahead. -/
theorem gather_one_tile (k : Checker) (d : List Word) (q id n : Nat) (s : State) :
    (gatherTiles k d q id n 1 0 [] s).rows = (planGather k d s 0 (min 32 n)).rows ∧
    (gatherTiles k d q id n 1 0 [] s).fault = (planGather k d s 0 (min 32 n)).fault := by
  simp only [gatherTiles, putTiles, Nat.mul_zero, Nat.sub_zero, List.length_nil, Nat.zero_sub, List.take_zero, List.foldl_nil]
  cases (planGather k d s 0 (min 32 n)).fault <;> simp

theorem witness_gathers :
    let g (src : Nat) : Plan := planGather (checkerOf (stDesc (gatherD src)) 0 (chainA [(0x2000, gatherD src)] [])) (gatherD src) (draw (stDesc (gatherD src))) 0 2
    (g 0).fault = none ∧ (g 0).rows.length = 2 ∧ (g 0xFFFFE0).fault.isSome = true ∧ siphStopped (stDesc (gatherD 0)) 0 = false ∧ ({} : Siphon).chain = none := by
  decide +kernel

theorem witness_moves_apart :
    ∀ d ∈ [blockD 0, fillD 0x1000],
      let s := stDesc d
      let b := planBlock (checkerOf s 0 (chainA [(0x2000, d)] [])) d s 0 2
      let moved := moveRows b.st 0 0 (some 1) b.rows
      selfOverlap b.rows = false ∧ clashing moved 0 b.rows = [] ∧ ∀ r ∈ localDests moved b.rows, hitCtxs moved r.1 r.2 = [] := by decide +kernel

theorem witness_block_rows :
    (planD (blockD 0)).rows.length = 2 ∧ (planD (fillD 0xFFFFC0)).rows.length = 1 ∧ (planD (fillD 0xFFFFC0)).fault = some (4, 1, 0x1000000) := by
  decide +kernel

theorem witness_arbitration :
    (let v : Vic := { pend := 2 ^ 255 + 8, en := 2 ^ 255 + 8, prio := [(3, 5), (255, 5)], bp := 1, stack := [(9, 3)] }
     arbitrate v 256 = some (3, 2) ∧ eligible v 255 = true) ∧
    (let v : Vic := { pend := 8 }
     ∀ m, m < 64 → eligible v m = false) ∧
    (let v : Vic := { pend := 2 ^ 63, en := 2 ^ 63 }
     v.stack = [] ∧ eligible v 63 = true) := by decide +kernel

theorem witness_interrupts :
    (∀ c ∈ [some (0, 0), some (255, 7), none],
      let s := { stCore coreA with lvic := { chosen := c } }
      s.lvic.chosen = c) ∧
    (∀ x ∈ [(some (63, 1), true), (some (63, 1), false), (none, true)],
      let s := stChm { core := { coreA with ie := x.2 }, vic := { chosen := x.1, vbase := 0x1100002000 } }
      (chmOf s 0).vic.chosen = x.1 ∧ acceptsIrq (chmOf s 0).core = x.2) ∧
    (let s := stCore { coreA with entering := some 0x1100003F80 }
     (coreOf s 0).entering = some 0x1100003F80 ∧ allHeld (chmOf s 0).ar = true ∧ accOut (coreOf s 0) = false) ∧
    (let s := stCore coreA
     ((0x80000006 : Word).getLsbD 31 = true ∧ (cairnOf s 6).typ = 0) ∧
     ((0x80000005 : Word).getLsbD 31 = true ∧ (cairnOf s 5).typ ≠ 0 ∧ (cairnOf s 5).ctx = (coreOf s 0).ctx) ∧ (0x00000006 : Word).getLsbD 31 = false) := by
  decide +kernel

theorem witness_halting :
    (let s := { stCore { coreA with haltReq := true } with sec := { State.reset.sec with scope := 1 } }
     s.sec.scope.getLsbD 0 = true ∧ (coreOf s 0).haltReq = true ∧ accOut (coreOf s 0) = false) ∧ (stCore coreA).sec.scope.getLsbD 0 = false := by
  decide +kernel

/-- Cairn 5 as given. -/
def stCairn (c : Cairn) : State := { stCore coreA with cairns := [(5, c)] }

theorem witness_cairn_effects :
    (∀ c ∈ [({ typ := 1, v := 0xFFFFFFFF, ctx := 1 } : Cairn), { typ := 2, v := 2, target := 4, ctx := 1 }, { typ := 2, v := 3, target := 4, ctx := 1 },
             { typ := 3, v := 1, ctx := 1 }, { typ := 1, faulted := true }],
      let s := stCairn c
      Tab.wf {} s.chms = true ∧ Tab.wf {} s.cairns = true ∧ Tab.wf {} s.rings = true ∧ cairnOf s 5 = c ∧ c.waiters = [] ∧ c.timed = false) ∧
    (cairnOf (stCairn { typ := 1 }) 6).typ = 0 ∧
    (∀ v ∈ [0, 1],
      let s := stCairn { typ := 1, v := BitVec.ofNat 32 v, ctx := 1, waiters := [] }
      (cairnOf s 5).typ = 1 ∧ (cairnOf s 5).faulted = false ∧ (cairnOf s 5).v = BitVec.ofNat 32 v) := by decide +kernel

theorem witness_timed_adds :
    ∀ late ∈ [true, false],
      let s := stCairn { typ := 2, v := 3, target := 4, timed := true, t := if late then 4 else 10, ctx := 1, waiters := [0] }
      let s := { s with time := { s.time with free := 2 ^ 32 * 5 } }
      let c := cairnOf s 5
      c.typ = 2 ∧ c.v.toNat < c.target ∧ c.target ≤ c.v.toNat + (1#32).toNat ∧ c.timed = true ∧
      if late then c.t.toNat < now s else now s < c.t.toNat := by decide +kernel

theorem witness_cairn_commands :
    (let s := stCairn { typ := 2, timed := true, v := 4, target := 4, ctx := 1 }
     let c := cairnOf s 5
     c.typ = 2 ∧ c.timed = true ∧ c.faulted = false ∧ c.t.toNat ≤ now s ∧ c.target ≤ c.v.toNat ∧ c.ctx = (coreOf s 0).ctx) ∧
    (let s := stCairn { typ := 2, timed := true, t := 1, ctx := 2 }
     noClock s 1 = false ∧ now s < (cairnOf s 5).t.toNat ∧ (cairnOf s 5).ctx ≠ (coreOf s 0).ctx) := by decide +kernel

theorem witness_word_reads :
    (let s := stCore coreA
     memoryOk s ∧ tablesOk s ∧ Tab.wf noFlags s.wflags = true ∧ Tab.wf .none_ s.memErr = true ∧ isMemory 0x1100100000 = true ∧
     storeKey s 0x1100100000 = none ∧ isMemory 0x0BFFFFFFF8 = true ∧ storeKey s 0x0BFFFFFFF8 = some 0x0BFFFFFFF8 ∧
     Tab.get .none_ s.memErr (eccKey 0x0BFFFFFFF8) = .none_) ∧
    (let s := { stCore coreA with memErr := [(eccKey 0x38, .ue), (eccKey (pocketKey 0 + 8), .ue)] }
     memoryOk s ∧ tablesOk s ∧ Tab.wf .none_ s.memErr = true ∧ storeKey s 0x38 = some 0x38 ∧ Tab.get .none_ s.memErr (eccKey 0x38) = .ue ∧
     storeKey s 0x1100000008 = some (pocketKey 0 + 8) ∧ Tab.get .none_ s.memErr (eccKey (pocketKey 0 + 8)) = .ue ∧
     latentUe s 0x1F = false ∧ latentUe s 0x40 = false ∧ latentUe s 0x1100000010 = false) := by unfold memoryOk tablesOk; decide +kernel

/-! ### Witnesses: the address map, jobs, faults, time -/

theorem witness_address_map :
    spaceOf 0x0BFFFFFFFF = .hbm ∧ spaceOf 0x0C00000000 = .unmapped ∧ spaceOf 0x1003FFFFFF = .cistern 15 ∧ spaceOf 0x1004000000 = .unmapped ∧
    spaceOf 0x1107FFFFFF = .pocket 127 ∧ spaceOf 0x12017FFFFF = .basin ∧ spaceOf 0x1810FFFFFF = .csr ∧ spaceOf 0x18FF00FFFF = .ownCsr ∧
    spaceOf (2 ^ 40) = .unmapped := by decide +kernel

theorem witness_datapath_formats :
    (64 ≤ 64 ∧ (-(2 ^ 63) : Int) ≤ -(2 ^ 63) ∧ (-(2 ^ 63) : Int) < 2 ^ 63) ∧ 0 < 1 ∧ (∀ x ∈ [0, 15], x < 2 ^ 4) ∧ (∀ x ∈ [0, 255], x < 2 ^ 8) ∧
    (packElems 4 [15, 0, 7]).length = 2 ∧ (List.replicate 32 15).length = 32 := by decide +kernel

/-- A survey entry of template 3 and context 1, and its job on chamber 0. -/
def entryA : Entry := { tmpl := 3, chain := 0, chv := false, aslot := 0, dig := false, dline := 1000, dring := 0, cring := 0, ctx := 1 }
def jobA : Job := { tag := 9, aslot := 0, idx := 0, e := entryA, chms := [(0, 0)], tick := 0, deadline := 1000, ended := [], finished := false, exc := none, stores := [], cparm := 0 }

/-- Chamber 0 with a job released on it, device time as given. -/
def stJob (c : Core) (fin : Bool) (ns : Nat) : State :=
  let s := stChm { core := c, startTag := some 9 }
  { s with sched := { s.sched with jobs := [{ jobA with finished := fin }] }, time := { s.time with free := 2 ^ 32 * ns } }

theorem witness_job_start :
    tablesOk (stJob { coreA with active := false } false 0) ∧ tablesOk (stJob coreA false 0) ∧
    (∀ a ∈ [false, true],
      let s := stJob { coreA with active := a } false 0
      (chmOf s 0).startTag = some 9 ∧ jobOf s 9 = some jobA ∧ (numbered jobA.chms).find? (fun c => decide (c.2.2 = 0)) = some (0, 0, 0) ∧
      (coreOf s 0).active = a ∧ (chmOf s 0).logical = some 0) := by unfold tablesOk; decide +kernel

/-- Domain A LOCKED and active, ticks of scs 1, device time as given in domain A. -/
def stTick (ticking : Bool) (sym ns : Nat) : State :=
  let s := stCore coreA
  { s with time := { s.time with active := some .a, da := { cnt := 2 ^ 32 * ns, state := 2, source := 1 }, tick := some (1, 0), ticking := ticking,
                                 nextTick := 500000, nextSym := sym, slot := 500000 } }

theorem witness_ticks :
    tickDue (stTick true 0 500000) = true ∧ tickDue (stTick false 0 500000) = true ∧ now (stTick true 0 499999) < (stTick true 0 499999).time.nextTick ∧
    ((stCore coreA).time.ticking = false ∧ (stCore coreA).time.tick = none) ∧
    (let s := stTick true 13 964282
     s.time.ticking = true ∧ s.time.nextSym < 14 ∧ s.time.slot.toNat + s.time.nextSym * tSym (tickScs s) ≤ now s) ∧
    14 ≤ (stTick true 14 964282).time.nextSym := by decide +kernel

theorem witness_air_times :
    let t := (stTick true 0 0).time
    (2 : Nat) < 3 ∧ 12 % 14 ≠ 13 ∧ 27 % 14 = 13 ∧ ∀ n ∈ [14 * gridBias 2 + 12, 14 * gridBias 2 + 27], 0 ≤ (Int.ofNat (n / 14) - Int.ofNat (gridBias 2)) * Int.ofNat (slotLen 2) + toffOf t := by
  decide +kernel

theorem witness_fault_response :
    (let s := { stCore coreA with err := { hw := [{ sev := 2, inj := false, cls := 6, unit := 0, detail := 0, addr := 0, time := 0, count := 1, seq := 0 }] } }
     unitFault s 0 = some (6, 0) ∧ unitFault s 143 = none) ∧
    (let s := stJob coreA false 1000
     let s := { s with sched := { s.sched with cleaning := [{ tag := 9, at_ := 0, chms := [0] }] } }
     s.sched.cleaning.find? (fun c => decide (c.tag = 9)) = some { tag := 9, at_ := 0, chms := [0] } ∧ 0 + 1000 ≤ now s ∧
     partOf { tag := 9, at_ := 0, chms := [0] } 0 = true ∧ partOf { tag := 9, at_ := 0, chms := [0] } 0x1000 = true ∧ retired s 0 = false ∧
     retired s 0x1000 = false ∧ retired s (decUnit 19) = false ∧ retired s 0x100F = false) ∧
    (let s := { stCore coreA with units := [(decUnit 19, { state := 3 }), (0x100F, { state := 3 })] }
     retired s (decUnit 19) = true ∧ retired s 0x100F = true) ∧
    (let s := { stCore coreA with memErr := [(eccKey 0x38, .ue), (eccKey 0x1100000008, .ce)] }
     memoryOk s ∧ Tab.wf .none_ s.memErr = true ∧ Tab.wf noFlags s.wflags = true ∧ Tab.get .none_ s.memErr (eccKey 0x38) = .ue) ∧
    (∀ f ∈ [false, true],
      let s := stJob coreA f 1000
      let j := { jobA with finished := f }
      jobOf s 9 = some j ∧ j.deadline ≤ now s ∧ tickFirst s j.deadline = false ∧ dueUpTo s j = [j] ∧ s.sched.jobs.Nodup ∧
      ∀ x ∈ s.sched.jobs, x ≠ j → dueBefore x j = false ∧ x.tag ≠ 9) ∧
    now (stJob coreA false 999) < jobA.deadline ∧ jobOf (stJob coreA false 0) 8 = none := by unfold memoryOk; decide +kernel

/-- Domain A as given and active, domain B LOCKED, auto set, Nerzon running. -/
def stDom (m : Domain) (act : Option Dom) : State :=
  let s := stCore coreA
  { s with time := { s.time with active := act, auto := true, da := m, db := { state := 2, source := 1, cnt := 7 } } }

theorem witness_time_domains :
    (∀ x ∈ [(2, 15000000000), (1, 16000000000)],
      let m := domOf (stDom { source := x.1, state := 1, good := some 0, last := x.2 } (some .a)).time .a
      m.good = some 0 ∧ m.source ≠ 0 ∧ m.state = 1 ∧ (m.source = 2 → 15 ≤ (m.last - 0) / 1000000000) ∧ (m.source ≠ 2 → 0 + 16000000000 ≤ m.last)) ∧
    (let s := stDom { source := 2, state := 2 } (some .a)
     let s := { s with time := { s.time with clk := 4000000000 } }
     silent s (domOf s.time .a) = true ∧ (domOf s.time .a).state = 2 ∧ s.time.auto = true ∧ (domOf s.time .b).state = 2) ∧
    (stDom {} none).sts.state = 3 ∧ (stDom {} (some .a)).time.active = some (otherDom .b) := by decide +kernel

/-- Compare 15 and pulse output 3 as given, device time in ns. -/
def stCmp (c : Cmp) (p : Pulse) (ns : Nat) : State :=
  let s := stCore coreA
  { s with time := { s.time with free := 2 ^ 32 * ns, cmps := [(15, c)], pulses := [(3, p)] } }

theorem witness_compares_and_pulses :
    (let s := stCmp { en := true, tgt := 100 } {} 100
     (cmpOf s 15).en = true ∧ 0 ≤ cmpDiff s (cmpOf s 15) ∧ tickFirst s (now s) = false ∧ (∀ i, i < 16 → i ≠ 15 → cmpDue s i = false) ∧ Tab.wf {} s.time.cmps = true ∧ (cmpOf s 15).irq = false ∧ (cmpOf s 15).csig = false ∧
     (cmpOf s 15).retPend = false ∧ (cmpOf s 0).en = false) ∧
    (let s := stCmp {} { cfg := { start := 100, period := 100, width := 20, en := true } } 100
     (pulseOf s 3).high = false ∧ riseOf (pulseOf s 3).cfg (pulseOf s 3).next = some 100 ∧ 100 ≤ now s) ∧
    (∀ p ∈ [none, some ({ start := 500, width := 20 } : PulseCfg)],
      let s := stCmp {} { cfg := { start := 100, period := 100, width := 20, en := true }, high := true, pend := p } 120
      (pulseOf s 3).high = true ∧ 100 + 0 * 100 + 20 ≤ now s ∧ (pulseOf s 3).pend = p) := by decide +kernel

/-! ### Witnesses: fronthaul, echo bank, DEC, Emaux, host -/

/-- Symbol n of the grid that starts at device time 0, at 30 kHz. -/
def sy (n : Nat) : Nat := 14 * gridBias 1 + n

/-- An ingest flow of one stream of 2 PRBs at 30 kHz on logical port 0, armed from symbol 0: 9-bit mantissas, W 10 µs, L 30 µs. -/
def flowA : Flow :=
  { state := 2, armSym := sy 0, nextRel := sy 0, nextSend := sy 0, nextC := gridBias 1,
    cfg := { ctx := 1, ports := 1, scs := 1, w := 9, n := 1, nprb := 2, eaxc := [(none, 0x301)], win := 10000, lmax := 30000, cairn := 5 } }

/-- Flow 5 as given, logical port 0 up, device time in ns. -/
def stFlow (f : Flow) (ns : Nat) : State :=
  let s := stCore coreA
  { s with flows := [(5, f)], ports := [(0, { mode := 1 })], lports := [(0, { link := true })], time := { s.time with free := 2 ^ 32 * ns } }

/-- A U-plane message of frame 0, slot 0, symbol 0 as R213 and R214 lay it out: one section of PRB 0 (or 2, outside the flow's
two), exponent 2, 24 mantissas of -256 in 9 bits. -/
def ecpriA (bad : Bool) : List Byte :=
  [0x10, 0, 0, 40, 0x03, 0x01, 9, 0x80, 0x10, 0, 0, 0, 0, 0, if bad then 2 else 0, 1, 2] ++
    (List.replicate 3 [0x80#8, 0x40, 0x20, 0x10, 8, 4, 2, 1, 0]).flatten

/-- A frame without a tag. -/
def frameA (b : FrameBody) : Frame := { vlan := none, body := b }

theorem witness_ingest_frames :
    (let s := stFlow flowA 0
     Tab.wf {} s.lports = true ∧ Tab.wf {} s.flows = true ∧ hears s 0 = true ∧ hears s 31 = false ∧ noClock s 1 = false ∧
     (∀ bad ∈ [false, true], (ecpriOf (ecpriA bad)).mtype = 0 ∧ findFlow s 0 none (ecpriOf (ecpriA bad)) = some (5, 0)) ∧
     takesInput (flowOf s 5) = true ∧ (flowOf s 5).state ≠ 3 ∧ haltCause (flowOf s 5).cfg false (ecpriA false) = none ∧
     (haltCause (flowOf s 5).cfg false (ecpriA true)).isSome = true ∧ (flowOf s 5).cfg.kind = 0 ∧ (flowOf s 5).deadSym ≤ sy 0) ∧
    (∀ ts, ts < 5 → symbolNamed (stFlow flowA 0).time 1 (ecpriOf (ecpriA false)) ts = sy 0) ∧
    (∀ b ∈ [FrameBody.ecpri (ecpriA false), .ptp { domain := 0, selected := true, ref := none }, .esmc 3, .pause, .other], (frameA b).body = b) ∧
    (ecpriOf (0x10#8 :: 2 :: (ecpriA false).drop 2)).mtype = 2 ∧ (ecpriOf (0x10#8 :: 5 :: (ecpriA false).drop 2)).mtype = 5 ∧
    findFlow (stFlow {} 0) 0 none (ecpriOf (ecpriA false)) = none ∧ findFlow (stFlow { flowA with state := 3 } 0) 0 none (ecpriOf (ecpriA false)) = some (5, 0) ∧
    sy 0 < ({ flowA with deadSym := sy 1 } : Flow).deadSym := by decide +kernel

theorem witness_ingest_symbols :
    (let s := stFlow flowA 0
     let f := flowOf s 5
     Tab.wf 0 f.cnt = true ∧ Tab.wf {} f.syms = true ∧ airEnd s.time 1 (sy 0) = 35714 ∧ (0 : Nat) + tSym 1 < airEnd s.time 1 (sy 1) ∧ airEnd s.time 1 (sy 0) ≤ 0 + tSym 1 ∧
     f.nextRel ≤ sy 0 ∧ serves f (sy 0) = true ∧ serves { flowA with armSym := sy 1 } (sy 0) = false ∧ 0 < openTime s.time f (sy 0) + f.cfg.win ∧ basinFull s 5 (sy 0) = false) ∧
    (let s := stFlow flowA 35715
     let f := flowOf s 5
     f.nextRel < sy 1 ∧ serves f (sy 1) = true ∧ airEnd s.time 1 (sy 1) ≤ 35715 + tSym 1 ∧ 35715 < openTime s.time f (sy 1) + f.cfg.win ∧ basinFull s 5 (sy 1) = false ∧
     releaseTime s.time f f.nextRel = none) ∧
    (let s := stFlow flowA 65714
     let f := flowOf s 5
     keysOf s 5 = [5] ∧ f.cfg.kind = 0 ∧ serves f (sy 0) = true ∧ f.nextRel ≤ sy 0 ∧ airEnd s.time 1 (sy 0) + f.cfg.lmax = 65714 ∧ 65714 ≤ now s ∧
     (Tab.get {} f.syms (sy 0)).opened = none ∧ Tab.wf {} f.syms = true) ∧
    (∀ ns ∈ [75713, 75714],
      let s := stFlow { flowA with syms := [(sy 0, { opened := some 65714 })] } ns
      let f := flowOf s 5
      f.nextRel = sy 0 ∧ serves f (sy 0) = true ∧ (Tab.get {} f.syms (sy 0)).opened ≠ none ∧ (Tab.get {} f.syms (sy 0)).done = none ∧ openTime s.time f (sy 0) + f.cfg.win = 75714 ∧
      now s = ns) ∧
    (let r : Released := { flow := 5, sym := sy 0, closed := true, tOpen := 65714, tRel := 75714, seq := 1, bufIx := 0, prbs := [] }
     let s := { stFlow flowA 0 with released := [{ r with sym := sy 1, tRel := 75715 }, r] }
     firstReleased s.released = some r ∧ noClock s 1 = false ∧ goesOn (exec .squeezeConversion s) = true) := by decide +kernel

/-- An egress flow of slot 1, with the grant of slot 0 as given. -/
def flowE (kind : Nat) (late bad : Bool) : Flow :=
  { flowA with cfg := { flowA.cfg with kind := kind, tcp := 100000, tadv := 50000 }, 
               grants := [{ slot := gridBias 1, late := late, cparm := 0, regions := [] }], syms := if bad then [(sy 0, { bad := true })] else [] }

theorem witness_egress :
    (∀ k ∈ [0, 1],
      let s := stFlow { flowE k false false with grants := [] } 0
      let f := flowOf s 5
      s.sts.state = 3 ∧ noClock s 2 = false ∧ keysOf s 5 = [5] ∧ f.cfg.kind ≤ 1 ∧ runsSlot f (grantSlot f) = true ∧ grantSlot f = gridBias 1 ∧
      cplaneTime s.time f (grantSlot f) ≤ now s + 20000 ∧ dueKey s 5 (grantDue s) = some 5) ∧
    (let s := stFlow (flowE 1 false false) 379999
     runsSlot (flowOf s 5) (grantSlot (flowOf s 5)) = true ∧ now s + 20000 < cplaneTime s.time (flowOf s 5) (grantSlot (flowOf s 5)) ∧
     dueKey s 5 (grantDue s) = none) := by decide +kernel

theorem witness_cplane :
    (∀ k ∈ [0, 1], ∀ late ∈ [false, true],
      let s := stFlow (flowE k late false) 400000
      let f := flowOf s 5
      noClock s 1 = false ∧ keysOf s 5 = [5] ∧ f.cfg.kind = k ∧ (grantOf f f.nextC).map (·.late) = some late ∧ runsSlot f f.nextC = true ∧
      cplaneTime s.time f f.nextC ≤ now s ∧ dueKey s 5 (cplaneDue s) = some 5) ∧
    (let s := stFlow { flowE 1 false false with nextC := gridBias 1 + 1, grants := [{ slot := gridBias 1 + 1, late := false, cparm := 0, regions := [] }] } 399999
     let f := flowOf s 5
     (grantOf f f.nextC).isSome = true ∧ runsSlot f f.nextC = true ∧ now s < cplaneTime s.time f f.nextC ∧ dueKey s 5 (cplaneDue s) = none) := by decide +kernel

theorem witness_uplane :
    (∀ late ∈ [false, true], ∀ bad ∈ [false, true],
      let s := stFlow (flowE 1 late bad) 0
      let f := flowOf s 5
      keysOf s 5 = [5] ∧ f.cfg.kind = 1 ∧ serves f f.nextSend = true ∧ airStart s.time 1 f.nextSend ≤ now s + f.cfg.tadv ∧ (Tab.get {} f.syms f.nextSend).bad = bad ∧
      (grantOf f (f.nextSend / 14)).map (·.late) = some late ∧ dueKey s 5 (uplaneDue s) = some 5 ∧
      (cairnTry s 5 1).1 = 0 ∧ (cairnTry { s with cairns := [] } 5 1).1 = 3) ∧
    (let s := stFlow { flowE 1 false false with nextSend := sy 2 } 0
     serves (flowOf s 5) (sy 2) = true ∧ now s + (flowOf s 5).cfg.tadv < airStart s.time 1 (sy 2) ∧ dueKey s 5 (uplaneDue s) = none) := by decide +kernel

theorem witness_links :
    (let s := { stCore coreA with ports := [(7, { mode := 3 })], lports := [(0, { link := true })] }
     Tab.wf {} s.lports = true ∧ flowsOn s 0 = [] ∧ (lportOf s 0).link = true ∧ flowsOn s 31 = [] ∧ (lportOf s 31).link = false ∧
     subPort (portOf s (31 / 4)).mode (31 % 4) = true ∧ subPort (portOf s (3 / 4)).mode (3 % 4) = false ∧ s.err.hw.length < 256 ∧ Tab.wf 0 s.err.cnt = true) ∧
    (flowOf (stFlow flowA 0) 5).state ≠ 0 := by decide +kernel

/-- Echo channel 4095 as given, at 38400 baud of 307200 samples/s: 8 samples a symbol; its stream holds 1000 samples, the last 100 in one packet. -/
def stEch (h : Ech) : State :=
  { stCore coreA with
    echs := [(4095, { h with cfg := { h.cfg with rate := 4 } })],
    estreams := [(0, { isSet := true, fs := 307200, pos := 1000, segs := [{ start := 900, ts := 5000, samples := List.replicate 100 (1, -1) }] })] }

/-- A preamble of sixteen good bits, of a power code. -/
def meas (code : Nat) : PreambleMeas := { bits := preambleBits {}, code := code }

/-- A symbol of 2-FSK, bit 0 or 1. -/
def symA (bit : Bool) : SymDec := { level := if bit then -1 else 1, conf1 := 7, conf2 := 0 }

theorem witness_echo_detection :
    (let s := stEch { state := 1, cfg := { margin := 0 } }
     let h := echOf s 4095
     Tab.wf {} s.echs = true ∧ noClock s 1 = false ∧ h.state = 1 ∧ ∀ n ∈ [0, 254], detects s h n (meas 0) 999 = true) ∧
    (let s := stEch { state := 2, noise := 100, code := 60, at_ := 700 }
     let h := echOf s 4095
     h.state = 2 ∧ noiseNow s h = 100 ∧ threshold h 100 = 0 ∧ h.code ≤ (meas 60).code ∧ threshold h (noiseNow s h) < Int.ofNat (meas 1).code) ∧
    (let s := stEch { state := 2, noise := 100, code := 60, at_ := 700, cfg := { floor := 254 } }
     let h := echOf s 4095
     h.state = 2 ∧ (meas 59).code < h.code ∧ h.at_ < 999 ∧ detects s h (noiseNow s h) (meas 59) 999 = true) ∧
    matching {} (List.replicate 16 true) = 8 ∧ matching {} [] < ({} : EchCfg).qmin := by decide +kernel

theorem witness_echo_looks :
    (let s := stEch { state := 2, at_ := 423 }
     let h := echOf s 4095
     h.state = 2 ∧ passed s h (h.at_ + 1) (h.cfg.plen + 8) 1000 = true ∧ h.disPend = false ∧ h.pend = none ∧ Tab.wf 0 h.cnt = true ∧
     inLook s h 999 = true ∧ passed s h (h.at_ + 1) (h.cfg.plen + 8) 999 = false) ∧
    (let s := stEch { state := 2, at_ := 424 }
     let h := echOf s 4095
     let e := estreamOf s h.cfg.stream
     passed s h (h.at_ + 1) (h.cfg.plen + 8) e.pos = false ∧ (segAt e 900).isSome = true ∧ (segAt e 999).isSome = true ∧ segAt e 1000 = none ∧
     syncDiff h.cfg 0 ≤ h.cfg.swerr ∧ h.cfg.swerr < syncDiff h.cfg 1 ∧ inLook s h 999 = true ∧ inLook s h 424 = false) := by decide +kernel

theorem witness_echo_lengths :
    (let s := stEch { state := 3, at_ := 935, cfg := { lmode := 1, len := 1 } }
     let h := echOf s 4095
     let bytes (x : List Bool) : List Byte := bytesOfBits h.cfg.bitord (bodyBits h.cfg ((x.map symA).flatMap (softBits h.cfg.lev)) false) 1
     h.state = 3 ∧ h.need = 0 ∧ dueBy s h 1000 = true ∧ lengthSoft h.cfg ≤ 8 ∧
     bytes (List.replicate 7 false ++ [true]) = [1] ∧ bytes (List.replicate 6 false ++ [true, false]) = [2] ∧ bytes (List.replicate 8 false) = [0]) ∧
    (let s := stEch { state := 3, need := 1, at_ := 935 }
     let h := echOf s 4095
     h.need ≠ 0 ∧ ((List.replicate 8 (symA true)).flatMap (softBits h.cfg.lev)).length = bodySoft h ∧ dueBy s h 1000 = true ∧ dueBy s h 999 = false) := by
  decide +kernel

theorem witness_echo_captures :
    ∀ d ∈ [false, true],
      let s := stEch { state := 3, need := 9, at_ := 800, disPend := d, rssi := 100, cfg := { capm := 6, margin := 0, floor := 254 }, noise := 200 }
      let h := echOf s 4095
      h.state = 3 ∧ detects s h h.noise (meas 94) 999 = true ∧ h.at_ < 999 ∧ h.cfg.capm ≠ 0 ∧ h.cfg.capm + 94 ≤ h.rssi ∧ h.rssi < h.cfg.capm + 95 ∧
      dueBy s h 1000 = false ∧ h.disPend = d ∧ h.pend = none := by decide +kernel

/-- A queued DEC task of a kind (1 decode, 2 encode), and one queued or running. -/
def taskA (op d : Nat) : Task := { ctx := 1, tag := 9, deadline := d, addr := 0, words := [BitVec.ofNat 32 (2 ^ 28 * op)] }
def stDec (q : List Task) (r : Tab (Option RunTask)) : State := let s := stCore coreA; { s with dec := { s.dec with queue := q, run := r } }

theorem witness_dec_tasks :
    nextTask (stDec [taskA 1 20, taskA 2 5, taskA 1 10] []) 1 = some (0, taskA 1 20) ∧ nextTask (stDec [taskA 1 20, taskA 2 5] []) 2 = some (1, taskA 2 5) ∧
    nextTask (stDec [taskA 1 20] [(3, some { task := taskA 1 7 })]) 1 = none ∧ noClock (stDec [] []) 1 = false ∧
    freePair (stDec [] []) = some 0 ∧ freePlace (stDec [] []) 16 4 0 = some 16 ∧
    (let run := (List.range 16).map fun i => (i, some { task := taskA 1 0 : RunTask })
     freePair (stDec [] run) = some 32 ∧ freePair (stDec [] (run ++ (List.range 16).map fun i => (32 + i, some { task := taskA 1 0 }))) = none ∧
     Tab.wf none run = true) ∧
    freePlace (stDec [] ((List.range 4).map fun i => (16 + i, some { task := taskA 2 0 }))) 16 4 0 = none ∧ Tab.get none (stDec [] []).dec.run 19 = none ∧
    Tab.get none (stDec [] [(15, some { task := taskA 1 0 })]).dec.run 15 = some { task := taskA 1 0 } ∧
    Tab.get none (stDec [] [(19, some { task := taskA 2 0 })]).dec.run (16 + 3) = some { task := taskA 2 0 } ∧
    (let s := { stCore coreA with chains := [(255, { isSet := true, ctx := 1 })] }
     csrGranted s 0 (0x1806000000 + 0x1000 * (coreOf s 0).ctx + 4) = true ∧
     csrGranted (stCore { coreA with ctx := 63 }) 0 (0x1806000000 + 0x1000 * 63 + 4) = false) := by
  decide +kernel

/-- Emaux link 5 as given, the time clock in ns. -/
def stLink (x : ELink) (ns : Nat) : State :=
  let s := stCore coreA
  { s with emx := { s.emx with links := [(5, x)], joined := true }, time := { s.time with clk := ns } }

/-- A flit of a sequence number, and one that holds an ack packet for device 1. -/
def flitA (seq : BitVec 12) : Flit := { seq := seq, ack := 0, nak := false, cred := List.replicate 6 0, slots := List.replicate 244 0 }
def flitB (seq : BitVec 12) : Flit := { flitA seq with slots := padTo 244 (packetBytes 1 1 (.ack 3)) }

/-- A remote write of tag 3 in flight, sent at time 0. -/
def remoteA : Remote := { tag := 3, dev := 1, addr := 0, siphon := none, desc := 0, dest := none, tile := [], bad := false, sent := 0 }

theorem witness_flits :
    (∀ f ∈ [flitA 0, flitB 1, { flitA 4095 with nak := true, cred := List.replicate 6 15 }],
      f.slots.length = 244 ∧ f.cred.length = 6 ∧ (∀ c ∈ f.cred, c < 16) ∧ flitOf (flitBytes f) = some f) ∧
    flitOf (List.replicate 256 0) = none ∧
    (let s := stLink { state := 2 } 0
     Tab.wf {} s.emx.links = true ∧ (elinkOf s 5).state = 2 ∧ (elinkOf (stLink { state := 1 } 0) 5).state < 2 ∧
     (flitB 1).seq = (elinkOf (takeAck s 5 (flitB 1)) 5).rxSeq + 1 ∧ (flitB 2).seq ≠ (elinkOf (takeAck s 5 (flitB 2)) 5).rxSeq + 1 ∧
     (flitB 2).seq ≠ (elinkOf (takeAck s 5 (flitB 2)) 5).rxSeq ∧ emptyFlit (flitB 2) = false ∧
     (flitA 0).seq = (elinkOf (takeAck s 5 (flitA 0)) 5).rxSeq ∧ emptyFlit (flitA 0) = true) := by decide +kernel

theorem witness_links_train :
    ((elinkOf (stLink { state := 2, nakRun := 16 } 0) 5).nakRun = 16 ∧ (elinkOf (stLink { state := 2, nakRun := 15 } 0) 5).retry = []) ∧
    (let s := stLink { state := 3, retry := [(flitA 1, none)], ackAt := 5 } 10005
     (elinkOf s 5).retry ≠ [] ∧ 5 + 10000 ≤ s.time.clk ∧ s.sts.state = 3) ∧ (stLink {} 10004).time.clk < 5 + 10000 ∧
    (∀ fl ∈ [0#4, 12#4, 3#4, 15#4],
      let s := stLink { state := 1, failed := 12 } 0
      (elinkOf s 5).state = 1 ∧ s.sts.state = 3 ∧ (unitOf s (0x6000 + 5)).state = 0 ∧ (unitOf { s with units := [(0x6005, { state := 1 })] } (0x6000 + 5)).state ≠ 0) ∧
    trainedState 0b1111 = 0 ∧ trainedState 0 ≠ 0 ∧
    (let s := stLink {} 0
     s.emx.joined = true ∧ s.sts.state = 3 ∧ s.emx.devid = 0 ∧ (elinkOf s 5).state = 0 ∧ (elinkOf s 5).retry = [] ∧ (elinkOf (stLink { state := 2 } 0) 5).state ≠ 0 ∧
     (63 : Nat) ≠ s.emx.devid ∧ State.reset.emx.joined = false) ∧
    (let s := stLink {} 1000000
     let s := { s with emx := { s.emx with remote := [remoteA] } }
     remoteOf s 3 = some remoteA ∧ remoteA.sent + 1000000 ≤ s.time.clk) ∧ (stLink {} 999999).time.clk < remoteA.sent + 1000000 ∧
    (∀ ns ∈ [999999999, 1000000000],
      let s := stLink { state := 1 } ns
      (elinkOf s 5).state = 1 ∧ (elinkOf s 5).found = false ∧ s.sts.readyAt + 1000000000 = 1000000000 ∧ s.time.clk = ns) ∧
    (∀ ns ∈ [9999999999, 10000000000],
      let s := stLink { off := true } ns
      (elinkOf s 5).off = true ∧ (elinkOf s 5).offAt + 10000000000 = 10000000000 ∧ s.time.clk = ns) := by decide +kernel

/-- Ring 16383 of context 1 as given, in host memory, and Bus Master Enable. -/
def stRing (r : Ring) (bme : Bool) : State :=
  let s := stCore coreA
  { s with rings := [(16383, { r with isSet := true, ctx := 1, lsize := 1, inHost := true })], pcie := { s.pcie with bme := bme } }

theorem witness_host :
    (reachesPair .host 31 = true ∧ reachesPair .host 32 = false ∧ reachesPair (.chamber 143) 175 = true ∧ reachesPair (.chamber 0) 33 = false ∧
      reachesPair .lantern 175 = true ∧ reachesPair .pciConfig 0 = false) ∧
    (let s := { stCore coreA with nci := some { pair := 1, code := 0, words := [] } }
     noClock s 2 = false ∧ replyWaits s { pair := 1, code := 0, words := [] } = false ∧ s.emx.tunIn.contains 1 = false ∧ (mboxOf s 1 false).full = false ∧
     (mboxOf { s with pairs := [(1, { rsp := { full := true } })] } 1 false).full = true) ∧
    (let r : Ring := { waiting := [([1, 2, 3, 4], true)], p := 1 }
     let s := stRing r true
     (ringOf s 16383).waiting = [([1, 2, 3, 4], true)] ∧ 1 ≤ ringFree (ringOf s 16383) ∧ ringHeld s (ringOf s 16383) = false ∧
     ringHeld (stRing r false) (ringOf s 16383) = true ∧ ringFree (ringOf (stRing { r with p := 2 } true) 16383) = 0 ∧ (ringOf (stRing {} true) 16383).waiting = []) ∧
    (let s := stCore coreA
     let s := { s with sec := { s.sec with bootcfg := 4 }, pcie := { s.pcie with bar2Open := true, bar2Base := 0x0BC0000000 } }
     bar2Ok s (s.pcie.bar2Base + 0x1FFFFFF8) 8 = true ∧ bar2Ok s (s.pcie.bar2Base + 0x20000000) 8 = false) ∧
    (let s := stCore coreA
     let s := { s with pcie := { s.pcie with bme := true, msiEn := true, msiHeld := 0x80000000 } }
     s.pcie.msiHeld.getLsbD 31 = true ∧ s.pcie.bme = true ∧ s.pcie.msiEn = true ∧ s.pcie.msiMask.getLsbD 31 = false) ∧
    (stCore coreA).pcie.bme = false := by decide +kernel

theorem witness_pushes :
    (let s := { stCore coreA with rings := [(3, { isSet := true, ctx := 1 })] }
     mayPush s 0 3 = true ∧ mayPush s 0 4 = false ∧ mayPush { s with rings := [(3, { isSet := true, ctx := 1, hostWrites := true })] } 0 3 = false) ∧
    (isSender .host 31 true = true ∧ isSender (.chamber 0) 32 true = true ∧ (stCore coreA).pcie.d3 = false ∧ (mboxOf (stCore coreA) 31 true).full = false ∧
     (mboxOf { stCore coreA with pairs := [(32, { req := { full := true } })] } 32 true).full = true) ∧
    (let s := stCore coreA
     let s := { s with sec := { s.sec with bootcfg := 4 }, pcie := { s.pcie with bar2Open := true, bar2Base := 0x0B80000000 } }
     bar2Ok s (s.pcie.bar2Base + 0) 1 = true ∧ hitCtxs (writeMem s (s.pcie.bar2Base + 0) [7] noFlags) (s.pcie.bar2Base + 0) 1 = []) := by decide +kernel

/-! ### Witnesses: the Nerzon commands -/

/-- Nerzon takes pair 0's request: the opcode in word 0 with epoch 1 (epoch 0 for SESSION_OPEN) and tag 7, the other words by number. -/
def stNci (op : Nat) (ws : List (Nat × Nat)) : State :=
  let s := stCore coreA
  let w0 := 2 ^ 16 * op + 2 ^ 8 * (if op = 0 then 0 else 1) + 7
  { s with nciQ := [0], pairs := [(0, { isOpen := true, epoch := 1, req := { full := true, w := (0, BitVec.ofNat 32 w0) :: ws.map fun e => (e.1, BitVec.ofNat 32 e.2) } })] }

theorem witness_nci_checks :
    (let s := stNci 0x0606 []
     takesRequest s 0 = true ∧ staleEpoch s 0 0x0606 1 = false ∧ staleEpoch s 0 0x0606 2 = true ∧ knownOp 0x0606 = true ∧ knownOp 0x0608 = false) ∧
    reservedBits [0x11F] [0, 0x20] = true ∧ reservedBits [0x11F] [0, 0x11F] = false ∧ systemOnly 0x0100 = true ∧ systemOnly 0x0101 = false ∧
    codeActs 6 = true ∧ codeActs 1 = false ∧ (stNci 0x0606 []).sts.internal = false ∧
    (let s := stNci 0x0606 []
     let s := { s with sts := { s.sts with internal := true } }
     takesRequest s 0 = true ∧ staleEpoch s 0 0x0606 1 = false ∧ s.sts.internal = true) := by decide +kernel

theorem witness_nci_sessions :
    asks 0x0000 [0x80003F1F] 0 (stNci 0 [(1, 31)]) = true ∧ asks 0x0000 [0x80003F1F] 0 (stNci 0 [(1, 0x80003F00)]) = true ∧
    asks 0x0001 [] 0 (stNci 1 []) = true ∧ asks 0x0002 [] 0 (stNci 2 []) = true := by decide +kernel

theorem witness_nci_rings :
    (∀ h ∈ [0, 1],
      let s := stNci 0x0003 [(1, 2 ^ 16 * 16383 + 2 ^ 8 + h), (4, 20)]
      let s := { s with ctxs := [(1, { ctxA with hbm := [(0, 64)] })] }
      asks 0x0003 [0x3FFF3F03, 0xFFFFFFFF, 0xFFFFFFFF, 0x1F, 0xFFFFFFFF, 0xFFFFFFFF, 0x11F] 0 s = true ∧ badRing s (ringOfWords (reqWords s 0)) = false ∧
      ringNamed s 16383 = false ∧
      (let t := setRing s 16383 (ringOfWords (reqWords s 0))
       ringHeld t (ringOf t 16383) = decide (h = 1))) ∧
    (∀ op ∈ [4, 5],
      let s := { stNci op [(1, 2 ^ 16 * 16383)] with rings := [(16383, { isSet := true })] }
      asks op [0x3FFF0000] 0 s = true ∧ (ringOf s 16383).isSet = true ∧ ringNamed s 16383 = false) := by decide +kernel

theorem witness_nci_cairns :
    (let s := stNci 0x0006 [(1, 2 ^ 16 * 65535 + 2 ^ 8 + 0x21), (2, 5), (3, 3), (4, 1000)]
     let c := cairnOfWords (cairnOf s 65535) (reqWords s 0)
     asks 0x0006 [0xFFFF3F33, 0xFFFFFFFF, 0x00FF3FFF, 0xFFFFFFFF, 0xFFFFFFFF] 0 s = true ∧ (ctxOf s c.ctx).isSet = true ∧ c.typ = 2 ∧ c.target ≠ 0 ∧
     c.timed = true ∧ now s ≤ c.t.toNat ∧ timedPending s 65535 < 16 ∧ cairnNamed s 65535 = false) ∧
    (asks 0x0007 [0xFFFF0000] 0 (stNci 7 [(1, 2 ^ 16 * 5)]) = true ∧ (cairnOf (stNci 7 []) 5).typ ≠ 0) := by decide +kernel

theorem witness_nci_memory :
    (let s := stNci 0x0100 [(1, 2), (2, 2 ^ 16 * 8 + 56), (3, 2 ^ 16 * 4 + 60), (4, 8), (5, 2 ^ 16 * 8 + 8)]
     let c := { ctxOf s 2 with pkUnits := 8, pkOff := 56, csUnits := 4, csOff := 60, hbm := hbmOfWords (reqWords s 0) }
     asks 0x0100 ([0x3F, 0xFFFFFFFF, 0xFFFFFFFF, 0xF] ++ List.replicate 8 0x7FFF7FFF) 0 s = true ∧ partBad c (tf (reqWords s 0) 4 3 0) = false ∧
     ctxInTables s 2 = false ∧ partShort s 2 c = false) ∧
    asks 0x0101 [0x3F] 0 (stNci 0x0101 [(1, 63)]) = true ∧
    (∀ used ∈ [false, true],
      let s := stNci 0x0102 [(1, 1), (2, 0x1000), (4, 0x7FFE0), (5, 32)]
      let s := if used then { s with sched := { s.sched with committed := some { scs := 1, hp := 1, entries := [entryA] } },
                                     tmpls := [(3, { isSet := true, ctx := 1, entry := 0x7FFE0, clen := 1, hbase := 0xFFFFFFFF })] } else s
      asks 0x0102 [0x3F, 0xFFFFFFFF, 0xFF, 0xFFFFFFFF, 0xFFFFFFFF] 0 s = true ∧ imageBad (ctxOf s 1) (imageOfWords (reqWords s 0)) = false ∧
      codeInUse s 1 0x7FFE0 32 = used) ∧
    (let s := stNci 0x0103 [(1, 1), (5, 0x80000000)]
     asks 0x0103 [0x3F, 0xFFFFFFFF, 0xFFFFFFFF, 0xFFFFFFFF, 0xFFFFFFFF] 0 s = true ∧ chsetOfWords (reqWords s 0) ≠ 0 ∧ (ctxOf s 1).isSet = true ∧
     ctxInTables s 1 = false) ∧
    asks 0x0104 [0xF] 0 (stNci 0x0104 [(1, 15)]) = true ∧
    (let s := { stNci 0x0105 [(1, 2 ^ 16 * 9 + 1), (2, 0xBFFFFFF8 ), (3, 0xB), (4, 8)] with tmpls := [(9, { isSet := true, ctx := 1 })] }
     asks 0x0105 [0xFFFF003F, 0xFFFFFFFF, 0xFF, 0xFFFFFFFF] 0 s = true ∧ (tmplOf s 9).isSet = true ∧ (tmplOf s 9).ctx = 1 ∧
     (reportBytes (tmplOf s 9) 9).length ≤ 8 ∧ 0xBBFFFFFF8 + 8 ≤ 0x0C00000000) ∧
    asks 0x0106 [0xFFFFFFFF, 0x800000FF] 0 (stNci 0x0106 [(1, 0xC0000000), (2, 0x8000000B)]) = true := by decide +kernel

theorem witness_nci_contexts :
    (let s := { stNci 0x0200 [(1, 1), (2, 16383)] with rings := [(16383, { isSet := true, ctx := 1 })] }
     asks 0x0200 [0x3F, 0x3FFF] 0 s = true ∧ (ringOf s 16383).isSet = true ∧ (ringOf s 16383).hostWrites = false ∧ (ringOf s 16383).ctx = 1) ∧
    (let s := stNci 0x0201 [(1, 1)]
     asks 0x0201 [0x3F] 0 s = true ∧ ctxInTables s 1 = false ∧ s.sched.jobs = []) ∧
    (let s := { stNci 0x0202 [(1, 2 ^ 16 * 1023 + 1), (2, 0x1000), (4, 64), (5, 1)] with
                mem := [(0x1000, 1), (0x1002, 1), (0x1003, 1), (0x1008, 255), (0x1009, 255), (0x100A, 255), (0x100B, 255), (0x100E, 1), (0x1010, 0), (0x1012, 5)] ++
                       (List.range 7).flatMap fun i => [(0x1016 + 4 * i, 255#8), (0x1017 + 4 * i, 255#8)] }
     let r := readMemWords s 0x1000 16
     let t := tmplOfWords (reqWords s 0) r.1
     asks 0x0202 [0x03FF003F, 0xFFFFFFFF, 0xFF, 0xFFFFFFFF, 0xFFFFFFFF, 0xFFFFFFFF] 0 s = true ∧ 64 ≤ t.len ∧ ctxMay s 1 none 0x1000 t.len false = true ∧
     headerBad (ctxOf s 1) t r.1 = false ∧ t.jcairns = [(5, 0)] ∧ (cairnOf s 5).typ ≠ 0 ∧ (cairnOf s 5).ctx = 1 ∧ tmplInTables s 1023 = false ∧
     (s.tmpls.filter fun e => e.2.isSet).length < 1024) ∧
    (let s := { stNci 0x0203 [(1, 2 ^ 16 * 1023)] with tmpls := [(1023, { isSet := true })] }
     asks 0x0203 [0x03FF0000] 0 s = true ∧ (tmplOf s 1023).isSet = true ∧ tmplInTables s 1023 = false) := by decide +kernel

theorem witness_nci_survey :
    (let s := { stNci 0x0204 [(1, 0x1000)] with
                mem := [(0x1000, 1), (0x1003, 1), (0x1004, 1), (0x1022, 3), (0x1024, 0xE8), (0x1025, 3), (0x102C, 1)],
                tmpls := [(3, { isSet := true, ctx := 1 })], rings := [(0, { isSet := true, ctx := 1 })], ctxs := [(1, { ctxA with chset := 1 })] }
     let s := { s with time := { s.time with da := { source := 2 } } }
     let r := readMemWords s 0x1000 8
     let b := readMemWords r.2.2 0x1020 4
     let es := entryWords b.1 1
     let t : Survey := { scs := tf r.1 0 25 24, hp := tf r.1 0 6 0, entries := es.map entryOfWords }
     asks 0x0204 [0xFFFFFFFF, 0xFF] 0 s = true ∧ tf r.1 1 14 0 = 1 ∧ surveyBad s r.1 es t = false ∧ timeConfigured s = true ∧ s.sched.armed = false ∧
     t.hp = 1 ∧ t.entries.length = 1 ∧ slotPlaceable s (slotEntries (some t) 0) = true) ∧
    (let s := stNci 0x0205 []
     let s := { s with sched := { s.sched with staged := some { scs := 1, hp := 1, entries := [] } } }
     asks 0x0205 [1] 0 s = true ∧ s.sched.staged ≠ none) ∧
    (let s := stTick true 0 500000
     let s := { stNci 0x0205 [(1, 1)] with sched := { s.sched with armed := true, staged := some { scs := 1, hp := 1, entries := [] } }, time := s.time }
     asks 0x0205 [1] 0 s = true ∧ (nextHyper s).2 = some 10000000 ∧ now s + 20000 ≤ 10000000) ∧
    asks 0x0206 [] 0 (stNci 0x0206 []) = true ∧ asks 0x0208 [1] 0 (stNci 0x0208 [(1, 1)]) = true ∧
    (let s := { stNci 0x0207 [(1, 1)] with chains := [(255, { isSet := true, ctx := 1, staged := some {} })] }
     asks 0x0207 [0x3F] 0 s = true ∧ ∃ c ∈ s.chains, c.2.ctx = 1 ∧ c.2.staged ≠ none) := by decide +kernel

theorem witness_nci_chains :
    (∀ old ∈ [false, true],
      let s := stNci 0x0400 [(1, 2 ^ 16 * 255 + 2 ^ 8), (2, 2 ^ 16 * 5 + 3), (3, 1), (7, 2 ^ 16 * 16), (8, 25)]
      let s := { s with flows := [(5, flowA)], tmpls := [(3, { isSet := true, ctx := 1 })], rings := [(0, { isSet := true, ctx := 1 })],
                        chains := if old then [(255, { isSet := true, ctx := 1, tmpl := 3 })] else [],
                        sched := if old then { s.sched with staged := some { scs := 1, hp := 1, entries := [entryA] } } else s.sched }
      asks 0x0400 [0x00FF3F03, 0x007FFFFF, 0x3FFF001F, 0xFFFFFFFF, 0xFF, 0xFFFFFFFF, 0xFFFF00FF, 0x1F] 0 s = true ∧
      chainFields s 1 5 3 0 (chainCfgOfWords (reqWords s 0)) = false ∧ (flowOf s 5).cfg.ctx = 1 ∧ (chainOf s 255).isSet = old ∧ chainInTables s 255 = old) ∧
    (∀ x ∈ [(0x0401, [(1, 255)], [0xFF]), (0x0402, [(1, 255)], [0xFF]), (0x0403, [(1, 255), (2, 2 ^ 16 * 16)], [0xFF, 0xFFFFFFFF])],
      let s := { stNci x.1 x.2.1 with chains := [(255, { isSet := true, ctx := 1, cfg := { nhbuf := 16 } })] }
      asks x.1 x.2.2 0 s = true ∧ (chainOf s 255).isSet = true ∧ tmplInTables s (chainOf s 255).tmpl = false ∧ (chainOf s 255).cfg.nhbuf = 16) ∧
    (let s := { stNci 0x0404 [(1, 2 ^ 16 + 1), (2, 0x1000)] with mem := [(0x1002, 1)] }
     asks 0x0404 [0x1003F, 0xFFFFFFFF, 0xFF] 0 s = true ∧ ctxMay s 1 none 0x1000 96 false = true ∧ offsetsBad 1 (readBytes s 0x1000 96).1 = false) ∧
    asks 0x0405 [] 0 (stNci 0x0405 []) = true := by decide +kernel

theorem witness_nci_ports :
    (let s := stNci 0x0300 [(1, 0x237), (2, 9000)]
     asks 0x0300 [0x337, 0xFFFF, 0xFFFFFFFF, 0xFFFF, 0xFFFFFFFF, 0xFFFF, 0xFFFFFFFF, 0xFFFF, 0xFFFFFFFF, 0xFFFF] 0 s = true ∧ portInUse s 7 = false ∧
     Tab.wf {} s.ports = true ∧ Tab.wf {} s.lports = true ∧ (portOf s 7).mode ≠ 3 ∧ (portOf { s with ports := [(7, { mode := 3 })] } 7).mode = 3) ∧
    asks 0x0301 [0x1F] 0 (stNci 0x0301 [(1, 31)]) = true ∧
    (∀ st ∈ [1, 2, 3],
      let s := { stNci 0x0303 [(1, 5)] with flows := [(5, { flowA with state := st })] }
      let s := { s with time := { s.time with da := { source := 2 } } }
      asks 0x0303 [0x7F] 0 s = true ∧ (flowOf s 5).state = st ∧ timeConfigured s = true) ∧
    (∀ d ∈ [0, 1], asks 0x0304 [0x17F] 0 { stNci 0x0304 [(1, 2 ^ 8 * d + 5)] with flows := [(5, { flowA with state := if d = 1 then 1 else 2 })] } = true) ∧
    asks 0x0305 [0x7F] 0 (stNci 0x0305 [(1, 127)]) = true := by decide +kernel

/-- Flow 127 is to take 16 streams of 2 PRBs; their table stands at 0x1000. -/
def stFlowSet : State :=
  { stNci 0x0302 [(1, 2 ^ 16 * 127 + 2 ^ 8), (2, 1), (3, 2 ^ 25 + 2 ^ 20 * 9 + 2), (4, 16), (5, 0x1000), (7, 10000), (8, 30000), (9, 2 ^ 16 * 5 + 28), (14, 1)] with
    mem := (List.range 16).flatMap (fun i => [(0x1008 + 4 * i, BitVec.ofNat 8 (i + 1)), (0x1009 + 4 * i, 3#8)]),
    rings := [(0, { isSet := true, ctx := 1 }), (1, { isSet := true, ctx := 1, hostWrites := true })] }

theorem witness_nci_flow_set :
    let s := stFlowSet
    let ws := reqWords s 0
    let r := readEaxc s 0x1000 16
    let c : FlowCfg := { flowOfWords ws with mac := r.1, eaxc := r.2.1 }
    asks 0x0302 [0x007F3F03, 0xFFFFFFFF, 0x07FFF9FF, 0x7FF, 0xFFFFFFFF, 0xFF, 0x3FFFF, 0x3FFFF, 0xFFFF00FF, 0xFFFFFFFF, 0xFF, 0x3FFFF, 0x3FFFF, 0x3FFF3FFF, 0xFF] 0 s =
      true ∧ mappedRange 0x1000 72 = true ∧ flowBad s 127 c 0 16 = false ∧ (flowOf s 127).state = 0 ∧ basinShare c ≠ 0 ∧ basinFits s 127 (basinShare c) ≠ [] ∧
      streamsOver s 127 c = false := by decide +kernel

/-- Input stream 15 of flow 5 at 307200 samples/s into 4 bins, a ring and 4 KiB of HBM for channel 4095. -/
def stEcho (op : Nat) (ws : List (Nat × Nat)) (st : Nat) : State :=
  { stNci op ws with flows := [(5, { flowA with cfg := { flowA.cfg with kind := 2 } })], estreams := [(15, { isSet := true, flow := 5, mlog := 2, fs := 307200 })],
                     rings := [(3, { isSet := true, ctx := 1 })], echs := if st = 0 then [] else [(4095, { state := st })] }

theorem witness_nci_echo :
    asks 0x0500 [0x007F1FCF, 0x003FFFFF, 0x00FFFFFF] 0 (stEcho 0x0500 [(1, 2 ^ 16 * 5 + 2 ^ 8 * 9 + 0x4F), (2, 2560000), (3, 1)] 0) = true ∧
    (∀ x ∈ [(5, 0), (6, 0), (6, 2)],
      let s := stEcho 0x0501 [(1, 2 ^ 16 * 4095 + 2 ^ 8), (3, 2 ^ 28 * 15 + 2 ^ 16 * 3 + 16), (4, x.1 + 2 ^ 16 * 8), (5, 1), (6, 2 ^ 16), (7, 2 ^ 16 * 3), (8, 0x1000), (9, 2 ^ 16 * 12)] x.2
      let c := echOfWords (reqWords s 0)
      asks 0x0501 [0x0FFF3F00, 0x00FFFFFF, 0xF1FFFEFF, 0xFFFFFFFF, 0xFFFFFFFF, 0xC3FFFFFF, 0x3FFF0000, 0xFFFFFFFF, 0x001F00FF] 0 s = true ∧
      echBad s 4095 c = false ∧ (ringOf s c.rring).ctx = c.ctx ∧ (echOf s 4095).state = x.2 ∧ tf (reqWords s 0) 4 7 0 = x.1) ∧
    (∀ x ∈ [(1, 0), (1, 1), (2, 0), (2, 1), (3, 0), (3, 1)],
      let s := stEcho 0x0502 [(1, 4095 + 2 ^ 16 * x.2)] x.1
      asks 0x0502 [0x00010FFF] 0 s = true ∧ (echOf s 4095).state = x.1 ∧ completeBy s (echOf s 4095) 0 = false ∧
      (x.1 = 3 → completeBy { s with estreams := [(0, { fs := 307200, pos := 2000 })] } { state := 3, need := 1 } 2000 = true)) ∧
    asks 0x0503 [0xFFF] 0 (stEcho 0x0503 [(1, 4095)] 1) = true ∧ asks 0x0504 [0xF] 0 (stEcho 0x0504 [(1, 15)] 0) = true := by decide +kernel

theorem witness_nci_domains :
    (∀ act ∈ [none, some Dom.b],
      let s := { stNci 0x0600 [(1, 2 ^ 4 * 2 + 1), (3, 10000)] with time := (stDom { source := 2 } act).time }
      let s := { s with time := { s.time with db := { state := 2, source := 2 } } }
      asks 0x0600 [0xFF1F0331, 0xFFFFFFFF, 0x3FFF, 0xFFFFFFFF, 0xFFFFFFFF] 0 s = true ∧ tf (reqWords s 0) 1 9 8 ≤ 1 ∧ tf (reqWords s 0) 3 13 0 ≤ 10000 ∧
      isActive s (domBit 1) = decide (act = some .b) ∧ tf (reqWords s 0) 1 5 4 = (domOf s.time (domBit 1)).source) ∧
    (∀ act ∈ [none, some Dom.a],
      let s := { stNci 0x0601 [(2, 100), (4, 10000001)] with time := (stDom { source := 2 } act).time }
      asks 0x0601 [1, 0xFFFFFFFF, 0xFFFFFFFF, 0xFFFFFFFF] 0 s = true ∧ (domOf s.time (domBit 0)).source = 2 ∧
      decide (clampRate (isActive s .a) 0 10000001 = 10000001) = decide (act = none)) ∧
    asks 0x0602 [3] 0 (stNci 0x0602 [(1, 1)]) = true ∧
    (let s := { stNci 0x0602 [(1, 2)] with time := (stDom { source := 2, state := 2, cnt := 9 } (some .a)).time }
     asks 0x0602 [3] 0 s = true ∧ s.time.active = some .a ∧ canSwitch s (otherDom .a) = true) ∧
    (let s := stNci 0x0603 [(1, 2), (2, 0xFFFFFFFF), (3, 0xFFFFFFFF)]
     asks 0x0603 [3, 0xFFFFFFFF, 0xFFFFFFFF] 0 s = true ∧ s.sched.committed = none ∧ s.sched.staged = none) := by decide +kernel

theorem witness_nci_time :
    (∀ h ∈ [false, true],
      let s := stNci 0x0604 [(1, 0x103), (4, 100), (5, 20)]
      let s := { s with time := { s.time with pulses := [(3, { high := h })] } }
      asks 0x0604 [0x303, 0xFFFFFFFF, 0xFFFFFFFF, 0xFFFFFFFF, 0xFFFFFFFF] 0 s = true ∧ pulseBad (pulseOfWords (reqWords s 0)) = false ∧ (pulseOf s 3).high = h) ∧
    (∀ g ∈ [0, 1],
      let s := stNci 0x0605 [(1, 2 ^ 16 * 15 + 2 ^ 8 * g + 1)]
      asks 0x0605 [0x000F013F] 0 s = true ∧ (ctxOf s 1).isSet = true ∧ (cmpOf s 15).en = false) ∧
    asks 0x0606 [] 0 (stNci 0x0606 []) = true ∧ asks 0x0607 [0x11F] 0 (stNci 0x0607 [(1, 0x11F)]) = true := by decide +kernel

/-- Device 0 of a joined 2 × 2 × 2 system of two devices. -/
def stJoined (op : Nat) (ws : List (Nat × Nat)) : State :=
  let s := stNci op ws
  { s with emx := { s.emx with joined := true, members := [0, 1] } }

theorem witness_nci_emaux :
    (let s := stNci 0x0700 []
     asks 0x0700 [0x30303, 0x3F] 0 s = true ∧ shapeOk (dimSize 0, dimSize 0, dimSize 0) = true ∧ inShape (2, 2, 2) 0 = true ∧ s.emx.joined = false) ∧
    asks 0x0701 [7] 0 (stNci 0x0701 [(1, 5)]) = true ∧
    (let s := stJoined 0x0702 [(1, 2 ^ 31 + 2 ^ 16 * 31 + 2 ^ 8 * 31 + 1)]
     asks 0x0702 [0x801F1F3F] 0 s = true ∧ s.emx.joined = true ∧ s.emx.members.contains 1 = true ∧ 1 ≠ s.emx.devid ∧ (pairOf s 31).isOpen = false) ∧
    (let s := { stNci 0x0703 [(1, 2 ^ 16 * 3 + 1), (2, 2)] with rings := [(3, { isSet := true, lsize := 2, hostWrites := true })] }
     asks 0x0703 [0x3FFF0001, 0xFFFFFFFF] 0 s = true ∧ doorbellOk (ringOf s 3) 2 = true) ∧
    (∀ d ∈ [0, 1], asks 0x0704 [0x3F] 0 (stJoined 0x0704 [(1, d)]) = true) := by decide +kernel

theorem witness_nci_board :
    (∀ op ∈ [0x0800, 0x0804, 0x0806, 0x0807, 0x0903], asks op [] 0 (stNci op []) = true) ∧
    (asks 0x0801 [0x800F03FF] 0 (stNci 0x0801 [(1, 0x800003FF)]) = true ∧ clkoutKHz 0 ≤ 200000 * (0x3FF + 1)) ∧
    (∀ l ∈ [1, 2], asks 0x0802 [3] 0 (stNci 0x0802 [(1, l)]) = true) ∧
    asks 0x0803 [0x00FF01FF, 0x03FF03FF] 0 (stNci 0x0803 [(1, 2 ^ 16 * 105 + 150), (2, 2 ^ 16 * 850 + 650)]) = true ∧
    (let s := stNci 0x0805 [(1, 15), (2, 0x1000)]
     let s := { s with sec := { s.sec with nonce := some 1 } }
     asks 0x0805 [0xF, 0xFFFFFFFF, 0xFF] 0 s = true ∧ s.sec.nonce = some 1 ∧ s.sec.bootcfg.getLsbD 5 = false) ∧
    ((stNci 0x0804 []).sec.bootcfg.getLsbD 5 = false ∧ (stNci 0x0804 []).sec.failures < 8 ∧ (stNci 0x0807 []).sec.imgRevoke.getLsbD 0 = false) ∧
    asks 0x0808 [0x3311F] 0 (stNci 0x0808 [(1, 0x0311)]) = false ∧ asks 0x0808 [0x3311F] 0 (stNci 0x0808 [(1, 0x3211F)]) = true ∧
    asks 0x0809 [0xFFFFFFFF, 0xFFFFFFFF, 0xFFFFFFFF] 0 (stNci 0x0809 [(1, 0xFFFFFFFF), (2, 1)]) = true := by decide +kernel

theorem witness_nci_faults :
    asks 0x0900 [0xFFFFFFFF, 0xFFFFFFFF, 0xFF, 0xFFF] 0 (stNci 0x0900 [(2, 0xBFFFFFE0), (3, 0xB), (4, 1)]) = true ∧
    asks 0x0901 [0xFFFF] 0 (stNci 0x0901 [(1, 0x8004)]) = true ∧ unitKnown 0x8004 = true ∧
    (∀ dis ∈ [0, 1],
      let s := { stNci 0x0902 [(1, 2 ^ 16 * dis + 143)] with units := [(0, { state := 2 })] }
      asks 0x0902 [0x1FFFF] 0 s = true ∧ unitKnown 143 = true ∧ (unitOf s 143).state = 0 ∧ (unitOf s 0).state = 2 ∧ carriesWork s 143 = false ∧
      carriesWork (stJob coreA false 0) 0 = true) ∧
    (let s := stNci 0x0904 [(1, 2 ^ 16 * 0x15)]
     let s := { s with sec := { s.sec with scope := 6 } }
     asks 0x0904 [0x1FFFFF] 0 s = true ∧ s.sec.scope.getLsbD 1 = true ∧ s.sec.scope.getLsbD 2 = true) ∧
    asks 0x0905 [0x1F, 0xFFFFFFFF, 0xFF] 0 (stNci 0x0905 [(1, 16)]) = true := by decide +kernel

/-! ### Witnesses: resets, power, boot, registers, the whole machine -/

/-- The oscillator has counted; CRP otherwise as given. -/
def stCrp (x : Crp) (ns : Nat) : State :=
  let s := stCore coreA
  { s with crp := { x with oscDone := true }, time := { s.time with free := 2 ^ 32 * ns, clk := ns } }

/-- Boot or run states of Nerzon, with a code. -/
def stSts (st code : Nat) : State := let s := stCrp {} 0; { s with sts := { s.sts with state := st, code := code } }

theorem witness_resets :
    (let s := stCrp {} 0
     s.sec.pulse = false ∧ levelHeld s.crp ≤ 1 ∧ s.crp.porstLow = false) ∧
    (State.reset.crp.porstLow = false ∧ State.reset.crp.oscDone = false ∧ State.reset.crp.stopRef = false ∧ State.reset.sts.state ≠ 3) ∧
    (stCrp { porstLow := true } 0).crp.porstLow = true ∧ (stCrp { sysLow := true } 0).crp.sysLow = true ∧ levelHeld (stCrp { sysLow := true } 0).crp = 2 ∧
    ((stCrp { stopRef := true, refHold := true } 0).crp.refHold = true) ∧ (stCrp { pllLock := 0x80 } 0).crp.pllLock.getLsbD 7 = true ∧
    (115 ≤ (115#8).toInt ∧ (114#8).toInt < 115 ∧ (255#8).toInt < 115) ∧ (stCrp { tempHold := true } 0).crp.tempHold = true ∧
    ((stCrp { resetPend := some (2, 0) } 1000000).crp.resetPend = some (2, 0) ∧ 0 + 1000000 ≤ now (stCrp {} 1000000) ∧ now (stCrp {} 999999) < 0 + 1000000) ∧
    ((stCrp { wdtEn := true, wdtPeriod := 10 } 10000000).crp.wdtEn = true ∧ 0 + 10 * 1000000 ≤ now (stCrp {} 10000000) ∧
      (stCrp { wdtEn := true } 0).crp.stopPll.getLsbD 2 = false) ∧ (stCrp {} 0).crp.wdtEn = false ∧
    (chmIdle (stCrp {} 0) 143 = true ∧ chmIdle (stCrp {} 0) 0 = false ∧ fld 0x80000F08 3 0 < 9 ∧ fld 0x80000F08 11 8 * 9 + fld 0x80000F08 3 0 = 143) := by
  decide +kernel

theorem witness_reset_events :
    (let s := stCrp { clksel := [(0, { sel := true })] } 0
     s.sts.state = 3 ∧ pllInUse s 0 = true ∧ pllInUse s 7 = true ∧ pllInUse s 1 = false ∧ s.sec.pulse = false ∧ levelHeld s.crp ≤ 2) ∧
    (stSts 2 0).sts.state ≠ 3 ∧ (stCrp { stopPll := 4, wdtEn := true } 0).crp.stopPll.getLsbD 2 = true ∧
    ((0x80001F00#32).getLsbD 31 = true ∧ (0x80001F00#32).getLsbD 12 = true ∧ (0x80000F09#32).getLsbD 12 = false ∧ 9 ≤ fld 0x80000F09 3 0 ∧
     (∀ n ∈ galleryChms 15, chmIdle (stCrp {} 0) n = true) ∧
     (∀ k, k < 4 → (siphOf (stCrp {} 0) (288 + 4 * 15 + k)).queue = [] ∧ (siphOf (stCrp {} 0) (288 + 4 * 15 + k)).chain = none) ∧
     ¬∀ n ∈ galleryChms 0, chmIdle (stCrp {} 0) n = true) := by decide +kernel

theorem witness_reset_levels :
    (stCrp {} 0).emx.tunIn = [] ∧ (∀ p ∈ [false, true], ({ State.reset.sec with pulse := p } : Sec).pulse = p) ∧ (0 : Nat) ≤ 2 ∧ (1 : Nat) < 3 := by decide +kernel

theorem witness_clocks_and_power :
    (∀ b ∈ [false, true],
      let s := stCrp { clksel := [(3, { busy := b, sel := true })] } 0
      Tab.wf {} s.crp.clksel = true ∧ (Tab.get {} s.crp.clksel 3).busy = b ∧ (0#32).getLsbD 0 ≠ (Tab.get {} s.crp.clksel 3).sel ∧ s.crp.stopRef = false ∧
      s.crp.stopPll.getLsbD 3 = false) ∧ (stCrp { stopPll := 8 } 0).crp.stopPll.getLsbD 3 = true ∧
    ((stCrp {} 0).crp.vmin ≤ (stCrp {} 0).crp.vmax ∧ (stCrp {} 0).crp.vmax < 1024 ∧ (stCrp {} 0).crp.vmax < (1023#10).toNat) ∧
    (min (stCrp { cap := 511 } 0).crp.cap 320 < (321#9).toNat ∧ 105 ≤ (105#8).toInt ∧ (stCrp { limiting := true, limSteps := 1 } 0).crp.limiting = true ∧
     ¬(min (stCrp { limiting := true, limSteps := 1 } 0).crp.cap 320 < (stCrp { limiting := true, limSteps := 1 } 0).crp.power.toNat ∨
       105 ≤ (stCrp { limiting := true, limSteps := 1 } 0).crp.tj.toInt) ∧ min (stCrp { power := 400 } 0).crp.cap 320 < (400#9).toNat ∧
     ¬(min (stCrp {} 0).crp.cap 320 < (320#9).toNat ∨ 105 ≤ (104#8).toInt) ∧ (stCrp {} 0).crp.limiting = false) ∧
    (10 ≤ fld 0xC000000A 15 0 ∧ fld 0xC000000A 15 0 ≤ 1000) ∧
    (let s := stCrp {} 0
     let s := { s with sec := { s.sec with pulse := true, secver := 4, imgSecver := 5 } }
     s.sec.pulse = true ∧ s.crp.otpReset = none ∧ s.sec.secver < s.sec.imgSecver) := by decide +kernel

theorem witness_boot_and_board :
    (pcieBoot (stSts 1 0x11) = false ∧ (stSts 1 0x11).sts.code = 0x11 ∧ (stSts 1 6).sts.state = 1 ∧ (stSts 2 0).sts.state = 2 ∧ (stSts 3 0).sts.state = 3 ∧
      noClock (stSts 3 0) 2 = false ∧ (stSts 4 0).sts.state ≠ 1) ∧
    (∀ p ∈ [({} : Pad), { busy := true }, { busy := true, held := some 1 }, { frozen := some true }],
      let s := stCore coreA
      let s := { s with pin := { s.pin with pads := if p = {} then [] else [(8, p)] } }
      Tab.wf {} s.pin.pads = true ∧ padOf s 8 = p) ∧ hasAlt 8 = true ∧ (1#32).getLsbD 0 = true ∧ (padOf (stCore coreA) 8).func = false ∧ (stCore coreA).pin.oe.getLsbD 8 = false ∧
    (let s := stSts 1 0x11
     let s := { s with sec := { s.sec with bootcfg := 3 } }
     pcieBoot s = true ∧ (pairOf s 0).req.full = false) ∧
    mapAtStart [0, 9, 10] 8 = some 0 ∧ mapAtStart [0, 9, 10] 0 = none ∧ mapAtStart [0, 9, 10] 17 = some 8 ∧ mapAtStart [0, 9, 10] 143 = none ∧
    mapAtStart [] 142 = some 127 ∧
    ((0x00050003#32).getLsbD 31 = false) ∧ unitKnown 0x7000 = true ∧ unitKnown 0x608F = false ∧
    (∀ r ∈ [0, 1, 2, 3],
      let s := { stCore coreA with units := if r = 0 then [] else [(5, { state := r })] }
      (unitOf s 5).state = r ∧ retired s 5 = decide (r = 3)) ∧ (0x1E5C#16) ≠ 0x1E5D#16 := by decide +kernel

/-- A 4-byte LD or ST between the address in r1 and r2 or r3, and chamber 0 waiting for it. -/
def memW (op : Nat) : Nat := memF op - 2 ^ 10
def stOutW (op a : Nat) (store : Bool) : State :=
  stCore { coreA with g := [(1, BitVec.ofNat 64 a)], issue := some { word := one .m (memW op), done := [.m], acc := some { store := store, addr := a, size := 4 } } }

theorem witness_registers :
    (∀ x ∈ [(0x1809000050, true), (0x1809000060, false), (0x18FF002000, true), (0x18FF001FF8, true)],
      let s := stRegs (BitVec.ofNat 64 x.1) 9
      issuesAlone .ld s c0 .m (one .m (memW 1)) = true ∧ issuesAlone .st s c0 .m (one .m (memW 2)) = true ∧ accessExc s c0 (memW 1) false = [] ∧
      accAddr (coreOf s 0) (memW 1) = x.1 ∧ isCsr x.1 = true ∧ csrGranted s 0 (unalias 0 x.1) = x.2) ∧
    (∀ a ∈ [0x1810090000, 0x181FFEFFFC],
      let s := stRegs (BitVec.ofNat 64 a) 9
      csrHole s 0 (unalias 0 a) = decide (a = 0x1810090000) ∧ issuesAlone .ld s c0 .m (one .m (memW 1)) = true) ∧
    csrHole (stCore coreA) 0 0x1809000050 = false ∧ csrHole (stCore coreA) 0 0x180D000000 = false ∧ csrGranted (stCore coreA) 0 0x180D000000 = false ∧
    (isMemory 0x1809000050 = false ∧ spaceOf 0x1809000050 = .csr ∧ spaceOf 0x0C00000000 ≠ .csr ∧ isMemory 0x0C00000000 = false ∧ isMemory 0x8 = true) ∧
    (csrRead (stCore coreA) 0 0x1809000050).isSome = true ∧ csrRead (stCore coreA) 0 (unalias 0 0x18FF001FF8) = none ∧
    (match csrWrite (stCore coreA) (.chamber c0) 0x1809000050 9 with | .ok _ => true | _ => false) = true ∧
    (let s := stOutW 1 0x1809000050 false
     accessOut .ld false s c0 (one .m (memW 1)) = true ∧ accessExc s c0 (memW 1) true = [] ∧ csrGranted s 0 0x1809000050 = true) ∧
    (accessOut .st true (stOutW 2 0x1809000050 true) c0 (one .m (memW 2)) = true) ∧ (0x1809000050 % 4 = 0) ∧
    (let s := { State.reset with pcie := { State.reset.pcie with d3 := true } }
     s.pcie.d3 = true ∧ State.reset.pcie.d3 = false) ∧ ¬((4 : Nat) = 4 ∧ 2 % 4 = 0) := by decide +kernel

/-- A running machine with memory, a ring and a waiting command. -/
def stRun : State :=
  { stCore coreA with pending := [.registerWrite .lantern 0x180B000100 4 (.write 5), .stsHeartbeat], mem := [(0x1000, 1), (0x1001, 2)], hostMem := [(8, 3)],
                      rings := [(3, { isSet := true })] }

theorem witness_whole_machine :
    memoryOk stRun ∧ tablesOk stRun ∧ goesOn (step stRun) = true := by unfold memoryOk tablesOk; decide +kernel

theorem witness_idle :
    (stCrp {} 0).pending = [] ∧ noClock (stCrp {} 0) 3 = false ∧ (stCrp {} 0).time.active = none ∧ goesOn (step (stCrp {} 0)) = true := by decide +kernel

theorem witness_undefined_reach :
    (let s := stChm { core := coreA }
     tablesOk s ∧ inReach s 1 0xFFFFFF = true ∧ inReach s 1 0x1000000 = false ∧ inReach s 1 0x1100080000 = true ∧ inReach s 1 0x1100180000 = false ∧
     ctxChms s 1 = [0] ∧ (ctxChms s 1).contains 1 = false) ∧
    undefinedPass {} (opS 512) = false ∧ undefinedPass {} (opS 513) = true ∧ undefinedPass { omap0 := 0x8080 } (opS 1) = true ∧
    jobA.strayed = false := by unfold tablesOk; decide +kernel

/-- Does an outcome stop at the block reset of a busy block? -/
def stopsBusy : Host.Outcome State Fault Refusal → Bool
  | .fault .blockResetBusy => true
  | _ => false

theorem witness_undefined_block_reset :
    chmIdle (stChm { core := coreA }) 0 = false ∧ stopsBusy (exec (.crpBlkRst 0x80000000) (stChm { core := coreA })) = true ∧
    stopsBusy (exec (.registerWrite .lantern 0x1803000008 4 (.write 0x80000000)) (stChm { core := coreA })) = true := by decide +kernel

/-! ### Ill-formed commands are refused by WellFormed, a term for each check -/

theorem test_wf_positions :
    Instr.wf (.add 0 .m 0) = false ∧ Instr.wf (.mul 0 .c 0) = false ∧ Instr.wf (.cmpEq 0 .a 0) = false ∧ Instr.wf (.mul 0 .x0 0) = true := by decide +kernel

theorem test_wf_frames :
    let f (v : Option Nat) (m : List Byte) : Frame := { vlan := v, body := .ecpri m }
    Instr.wf (.frameReceive 0 true (f none (ecpriA false))) = true ∧ Instr.wf (.frameReceive 0 true (f (some 4096) (ecpriA false))) = false ∧
    Instr.wf (.frameReceive 0 true (f none (List.replicate 9601 0))) = false := by decide +kernel

theorem test_wf_units_and_echoes :
    Instr.wf (.fenceTimeout 0x4000 7) = false ∧ Instr.wf (.fenceTimeout 0x3003 7) = true ∧ Instr.wf (.preambleDetection 0 (meas 256) 9) = false ∧
    Instr.wf (.preambleDetection 0 { meas 255 with bits := [] } 9) = false ∧ Instr.wf (.preambleDetection 0 (meas 255) 9) = true ∧
    Instr.wf (.capture 0 (meas 256) 9) = false ∧ Instr.wf (.syncWordFound 0 { word := 0, power := 9, count := 0, pos := 9 }) = false ∧
    Instr.wf (.lengthField 0 [{ symA true with level := 0 }]) = false ∧ Instr.wf (.packetEnd 0 [{ symA true with level := 2 }] 0) = false ∧
    Instr.wf (.packetEnd 0 [symA true] 0) = true := by decide +kernel

theorem test_wf_flits : Instr.wf (.flitReceive 0 (List.replicate 255 0)) = false ∧ Instr.wf (.flitReceive 0 (flitBytes (flitA 1))) = true := by decide +kernel

theorem test_wf_requesters :
    Instr.wf (.cnAddn .host 0 1) = false ∧ Instr.wf (.cnAddn .pciConfig 0 1) = false ∧ Instr.wf (.vicBindk .lantern 0 15 0) = false ∧
    Instr.wf (.vicBindk (.chamber 1) 0 16 0) = false ∧ Instr.wf (.vicBindk .host 0 16 0) = false ∧ Instr.wf (.mbxReqPost .host 32) = false ∧
    Instr.wf (.mbxRspPost (.chamber 0) 33) = false ∧ Instr.wf (.mbxReqAck .pciConfig 0 0) = false ∧ Instr.wf (.mbxRspAck .host 175 0) = false ∧
    Instr.wf (.bar2Access 0 (.read 0)) = false ∧ Instr.wf (.bar2Access (2 ^ 30) (.read 1)) = false ∧ Instr.wf (.bar2Access 0 (.write [])) = false ∧
    Instr.wf (.bar2Access (2 ^ 30) (.write [1])) = false ∧ Instr.wf (.registerWrite .host (2 ^ 24) 4 .read) = false ∧ Instr.wf (.registerWrite .lantern (2 ^ 40) 4 .read) = false ∧
    Instr.wf (.registerWrite (.chamber 0) (2 ^ 40) 4 .read) = false ∧ Instr.wf (.registerWrite .pciConfig 18 4 .read) = false ∧ Instr.wf (.emxStatus 0 []) = false := by
  decide +kernel

/-! ### The worked examples of the spec -/

/-- Bundle A of chapter 05's worked example, as its table of 64-bit words gives it. -/
def bundleA : Bundle := BitVec.ofNat 256 (0x00000B0A520A0045 + 2 ^ 64 * 0x80502C1800000000)

/-- Chapter 05's worked example: the fields of bundle A. -/
theorem test_bundle_a :
    allPos.filter (present bundleA) = [.x0, .m] ∧ opOf bundleA .x0 = some .mul ∧ opOf bundleA .m = some .ld ∧ illegalPos bundleA = none ∧
    posField bundleA .x0 = 0x0B0A520A ∧ posField bundleA .m = 0x80502C18 ∧ fld (posField bundleA .x0) 3 0 = 10 ∧ fld (posField bundleA .x0) 17 11 = 0x4A ∧
    fld (posField bundleA .x0) 24 18 = 0x42 ∧ fld (posField bundleA .x0) 31 25 = 5 ∧ accSize (posField bundleA .m) = 8 := by decide +kernel

/-- Chapter 05: LOOP.BR A at offset −1 is the C field 0x1FFFFE50; beside a CMP that writes p9 the bundle is illegal with pos 7 (R148). -/
theorem test_bundle_b :
    opOf (one .c 0x1FFFFE50) .c = some .loopBr ∧ illegalPos (one .c 0x1FFFFE50) = none ∧
    illegalPos (two .x1 .c (2 ^ 4 * 0x10 + 2 ^ 11 * 9 + 2 ^ 19 * 7 + 2 ^ 10) 0x1FFFFE50) = some 7 := by decide +kernel

/-- Chapter 00's worked example: logical chamber 37 on physical chamber 41 or 44. -/
theorem test_chamber_37 : pocketBase 37 = 0x1102500000 ∧ unalias 41 0x18FF000000 = 0x1810450000 ∧ windowOf 0x1810480000 = some (44, 0) := by decide +kernel

/-- Chapter 02's worked examples: requantisation (R43, R176), group contributions (R42) and the shared exponent (R39, R52). -/
theorem test_numeric_examples :
    (laneQnt 8 {} 0 0 1105 0x09C8 0, laneQnt 8 {} 0 0 (-1026) 0x09C8 0) = (plain 127, plain (-128)) ∧
    (contrib { skind := true, scale := [(0, 200), (1, 9)] } 0 1000, contrib { skind := true, scale := [(0, 200), (1, 9)] } 0 (-1000)) =
      ((390, false), (-391, false)) ∧
    (contrib { xref := 0x7F, scale := [(0, 0x7C)] } 0 1000, contrib { xref := 0x7F, scale := [(0, 0x7C)] } 0 (-1001)) = ((125, false), (-126, false)) ∧
    chooseExp [1000, -1013] (-8) 7 0 63 = 7 ∧ asr 300 7 = 2 ∧ asr (-300) 7 = -3 := by decide +kernel

/-- Chapter 03's worked example: row 5, column 9 in four passes. -/
theorem test_sump_example :
    let t (m e : Byte) : WeightTile := { skind := true, gsize := 1, scale := [(18, m), (19, e)] }
    let a := addColumn (t 200 9) true false 9 0 0 300
    let b := addColumn (t 200 9) false true 9 a.ga a.wa (-120)
    let c := addColumn (t 128 6) false false 9 b.ga b.wa (-45)
    let d := addColumn (t 128 6) false true 9 c.ga c.wa (-10)
    (a.ga, b.ga, b.wa, c.ga, d.wa) = (300, 0, 70, -45, -40) ∧ d.satd = false := by decide +kernel

/-- Chapter 06's worked example: micro-operation 2, ADD t2 := t2 + b0.R. -/
theorem test_micro_operation :
    let u : DWord := 0x0509000000000000
    (uOp u, uDst u, uA u, uB u) = (0x01, 2, 0x02, 0x08) ∧ badUop true u = false ∧ laneAdd {} 0 0 1065 40 0 = plain 1105 := by decide +kernel

/-- Chapter 08's worked examples: a symbol's air end, and the basin share of a flow at W = 20 µs and 40 µs. -/
theorem test_flow_shares :
    let c (w : Nat) : FlowCfg := { flowA.cfg with n := 16, nprb := 273, eaxc := (List.range 64).map fun i => (none, i), win := w }
    airEnd {} 1 4 = 178570 ∧ basinShare (c 20000) = 1380 * 1024 ∧ basinShare (c 40000) = 1860 * 1024 := by decide +kernel

/-- Chapter 13's worked example: bp = 4; source 1 of priority 0x35 pre-empts source 40 of group 5, one of priority 0x5F waits. -/
theorem test_preemption :
    let v (p : BitVec 8) : Vic := { bp := 4, pend := 2, en := 2, prio := [(1, p)], stack := [(40, 5)] }
    arbitrate (v 0x35) 64 = some (1, 3) ∧ arbitrate (v 0x5F) 64 = none := by decide +kernel

/-- Chapter 14's worked example: a compare across the wrap of bit 47. -/
theorem test_compare_wrap :
    (let s := stCmp {} {} 0x0001FFFFFFFFF000
     cmpDiff s { tgt := 0x0002000000001710 } = -10000) ∧ cmpDiff (stCmp {} {} 0x0002000000001710) { tgt := 0x0002000000001710 } = 0 := by decide +kernel

end Sys2Proof.Tests
end

section
/-!
PROOFS. What a read of a table gives after changes of many entries, and what an entry of the error log leaves alone.
-/
namespace Sys2Proof.Machine

/-! ### Tables -/

section
variable {α : Type} [DecidableEq α] {d : α}

/-- What a read gives after one entry has changed. -/
theorem Tab.get_upd {t : Tab α} {n m : Nat} {f : α → α} (w : Tab.wf d t = true) :
    Tab.get d (Tab.upd d t n f) m = if m = n then f (Tab.get d t n) else Tab.get d t m := Tab.get_put w

/-- The changed entry. -/
theorem Tab.get_upd_same {t : Tab α} {n : Nat} {f : α → α} (w : Tab.wf d t = true) : Tab.get d (Tab.upd d t n f) n = f (Tab.get d t n) :=
  Tab.get_put_same d t n _ w

/-- Changing each of a list of distinct keys once changes those entries and no other. -/
theorem Tab.get_foldl_upd (f : Nat → α → α) {ks : List Nat} {t : Tab α} (n : Nat) (hk : ks.Nodup) (w : Tab.wf d t = true) :
    Tab.get d (ks.foldl (fun u k => Tab.upd d u k (f k)) t) n = if n ∈ ks then f n (Tab.get d t n) else Tab.get d t n := by
  induction ks generalizing t with
  | nil => simp
  | cons k ks ih =>
    obtain ⟨hnot, hks⟩ := List.nodup_cons.1 hk
    rw [List.foldl_cons, ih hks (Tab.wf_upd w), Tab.get_upd w]
    by_cases hn : n = k
    · subst hn; simp [hnot]
    · simp [hn]

end

/-- Steps that each leave a key alone leave it alone together. -/
theorem Tab.get_foldl_other {α β : Type} {d : α} (g : Tab α → β → Tab α) (n : Nat) {l : List β} {t : Tab α}
    (h : ∀ t, ∀ x ∈ l, Tab.get d (g t x) n = Tab.get d t n) : Tab.get d (l.foldl g t) n = Tab.get d t n :=
  List.foldlRecOn (motive := fun u => Tab.get d u n = Tab.get d t n) l g rfl fun u hu x hx => (h u x hx).trans hu

/-! ### The error log -/

/-- An entry of the error log changes the error record and the Lantern's controller alone. -/
theorem logErr_changes (s : State) (cls sev u : Nat) (detail : Word) (addr : Nat) (inj : Bool) :
    ∃ e v, logErr s cls sev u detail addr inj = { s with err := e, lvic := v } := by
  unfold logErr raiseLantern
  dsimp only
  split
  · split <;> exact ⟨_, _, rfl⟩
  · split <;> exact ⟨_, _, rfl⟩

/-- The entry written anew from the cause of a reset changes those two alone (R412). -/
theorem lostEntry_changes (s : State) : ∃ e v, lostEntry s = { s with err := e, lvic := v } := by
  unfold lostEntry
  split
  case h_5 => exact ⟨_, _, rfl⟩
  all_goals exact logErr_changes _ _ _ _ _ _ _

@[simp] theorem lostEntry_mem (s : State) : (lostEntry s).mem = s.mem := by obtain ⟨e, v, h⟩ := lostEntry_changes s; rw [h]
@[simp] theorem lostEntry_wflags (s : State) : (lostEntry s).wflags = s.wflags := by obtain ⟨e, v, h⟩ := lostEntry_changes s; rw [h]
@[simp] theorem lostEntry_memErr (s : State) : (lostEntry s).memErr = s.memErr := by obtain ⟨e, v, h⟩ := lostEntry_changes s; rw [h]
@[simp] theorem lostEntry_sts (s : State) : (lostEntry s).sts = s.sts := by obtain ⟨e, v, h⟩ := lostEntry_changes s; rw [h]
@[simp] theorem lostEntry_crp (s : State) : (lostEntry s).crp = s.crp := by obtain ⟨e, v, h⟩ := lostEntry_changes s; rw [h]
@[simp] theorem lostEntry_chms (s : State) : (lostEntry s).chms = s.chms := by obtain ⟨e, v, h⟩ := lostEntry_changes s; rw [h]
@[simp] theorem lostEntry_units (s : State) : (lostEntry s).units = s.units := by obtain ⟨e, v, h⟩ := lostEntry_changes s; rw [h]

end Sys2Proof.Machine
end

section
/-!
PROOFS. The commands of the board: the boot ROM's image checks, Nerzon's start, pads, injected errors, management requests, headlamps.
-/
namespace Sys2Proof.Machine

/-! ### Boot (R401, R403, R404) -/

/-- The image of the primary slot is checked while flash is being read (R401, R403). -/
theorem flashCheck_primary {s : State} (img : List Byte) (hc : s.sts.code = 0x11) :
    flashCheck s false img = match imageCheck s.sec img with
      | 0 => imageAccepted s img
      | c => { s with sts := { s.sts with code := c } } := by
  simp only [flashCheck, hc]
  rfl

/-- The image of the secondary slot is checked once the primary has failed (R401, R403). -/
theorem flashCheck_secondary {s : State} (img : List Byte) (h1 : 1 ≤ s.sts.code) (h6 : s.sts.code ≤ 6) :
    flashCheck s true img = match imageCheck s.sec img with
      | 0 => imageAccepted s img
      | c => bootFailed s (c + 128) := by
  simp only [flashCheck, h1, h6]
  rfl

/-- An empty request mailbox names no image. -/
theorem hostCheck_empty {s : State} (h : (pairOf s 0).req.full = false) : hostCheck s = s := by simp [hostCheck, h]

/-! ### Nerzon's start (R3, R391, R416) -/

/-- The logical chamber that Nerzon's map at start gives a physical one (R3). -/
theorem get_mapChambers {bad : List Nat} {t : Tab Chamber} (w : Tab.wf {} t = true) {ph : Nat} (h : ph < 144) :
    (Tab.get {} (mapChambers bad t) ph).logical = mapAtStart bad ph := by
  unfold mapChambers
  rw [Tab.get_foldl_upd (fun k c => { c with logical := mapAtStart bad k }) ph List.nodup_range w, if_pos (List.mem_range.2 h)]

/-- A chamber that the repair map names is retired (R416). -/
theorem get_retiredUnits {bad : List Nat} {t : Tab UnitSt} {ph : Nat} (h : ph < 144) (w : Tab.wf {} t = true)
    (hp : ph ∈ bad ∨ Tab.get {} t ph = { state := 3 }) :
    Tab.get {} (bad.foldl (fun t ph => if ph < 144 then Tab.put {} t ph { state := 3 } else t) t) ph = { state := 3 } := by
  induction bad generalizing t with
  | nil => simpa using hp
  | cons k ks ih =>
    rw [List.foldl_cons]
    split
    · refine ih (Tab.wf_put w) ?_
      rw [Tab.get_put w]
      by_cases hk : ph = k
      · simp [hk]
      · simpa [hk] using hp
    · next hk =>
      have hne : ph ≠ k := fun e => hk (e ▸ h)
      exact ih w (by simpa [hne] using hp)

/-- The unit table at Nerzon's start has the chambers of the repair map retired (R416). -/
theorem get_unitsAtStart {s : State} {ph : Nat} (h : ph < 144) (hp : ph ∈ s.sec.repair) : Tab.get {} (unitsAtStart s) ph = { state := 3 } := by
  unfold unitsAtStart
  dsimp only
  rw [Tab.get_foldl_other]
  · exact get_retiredUnits h rfl (.inl hp)
  · intro t l _
    split
    · exact Tab.get_put_other _ _ _ (by omega)
    · rfl

/-- What Nerzon's start leaves: memory zero, the map and the unit table of the start, a new epoch, the watchdog running (R3, R391, R416). -/
theorem nerzonReady_starts (s : State) :
    let t := nerzonReady s
    t.sts.state = 3 ∧ t.sts.code = 0 ∧ t.mem = [] ∧ t.wflags = [] ∧ t.memErr = [] ∧ t.sts.epoch = s.sts.epoch + 1 ∧ t.crp.wdtEn = true ∧
    t.chms = mapChambers s.sec.repair s.chms ∧ t.units = unitsAtStart (draw s) := by
  simp [nerzonReady]

/-! ### Pads (R434 to R436, R438) -/

/-- A pad after it has changed. -/
theorem padOf_updPad_same {s : State} {n : Nat} {f : Pad → Pad} (w : Tab.wf {} s.pin.pads = true) :
    padOf (updPad s n f) n = f (padOf s n) := Tab.get_upd_same w

/-- The level on a GPIO pad after the pad has changed. -/
theorem liveLevel_updPad_same {s : State} {n : Nat} {f : Pad → Pad} (w : Tab.wf {} s.pin.pads = true) :
    liveLevel (updPad s n f) n = if s.pin.oe.getLsbD n then s.pin.out.getLsbD n else (f (padOf s n)).level := by
  rw [liveLevel, padOf_updPad_same w]
  rfl

/-- A write that asks for the other function, which the pad has, begins its switch (R435). -/
theorem startSwitch_begins {n : Nat} {live : Bool} {p : Pad} {v : Word} (h : v.getLsbD 0 ≠ p.func) (ha : v.getLsbD 0 = false ∨ hasAlt n = true) :
    startSwitch n live p v = { p with func := v.getLsbD 0, busy := true, frozen := if v.getLsbD 0 then some live else p.frozen } := by
  have hr : (v.getLsbD 0 && !hasAlt n) = false := by rcases ha with h0 | h0 <;> simp only [h0, Bool.false_and, Bool.not_true, Bool.and_false]
  simp only [startSwitch, decide_eq_false h, hr, Bool.or_self, Bool.false_eq_true, if_false]

/-- A write that asks for the pad's own function, or for one it has not, begins no switch (R434). -/
theorem startSwitch_rests {n : Nat} {live : Bool} {p : Pad} {v : Word} (h : v.getLsbD 0 = p.func ∨ hasAlt n = false ∧ v.getLsbD 0 = true) :
    startSwitch n live p v = p := by
  have hr : (decide (v.getLsbD 0 = p.func) || (v.getLsbD 0 && !hasAlt n)) = true := by
    rcases h with h0 | ⟨ha, h0⟩
    · rw [decide_eq_true h0, Bool.true_or]
    · rw [h0, ha, Bool.not_false, Bool.and_self, Bool.or_true]
  simp only [startSwitch, hr, if_true]

/-- The function part of a write to a pad at rest leaves no write held. -/
theorem startSwitch_held {n : Nat} {live : Bool} {p : Pad} {v : Word} : (startSwitch n live p v).held = p.held := by
  rw [startSwitch]
  split <;> rfl

/-- A write during a switch is held (R436). -/
theorem muxWrite_busy {n : Nat} {live : Bool} {v : Word} {p : Pad} (h : p.busy = true) :
    muxWrite n live v p = { p with held := some v, pull := fld v.toNat 5 4, drive := fld v.toNat 9 8 } := by simp [muxWrite, h]

/-- A pad with the pull and drive that a word of PIN_MUXn gives it (R438). -/
def settled (v : Word) (p : Pad) : Pad := { p with pull := fld v.toNat 5 4, drive := fld v.toNat 9 8 }

/-- A write to a pad at rest sets pull and drive and may begin a switch (R435, R438). -/
theorem muxWrite_idle {n : Nat} {live : Bool} {v : Word} {p : Pad} (h : p.busy = false) :
    muxWrite n live v p = startSwitch n live (settled v p) v := by simp [muxWrite, settled, h]

/-- A pad at rest has no switch to end. -/
theorem endSwitch_idle {n : Nat} {live : Bool} {p : Pad} (h : p.busy = false) : endSwitch n live p = p := by simp [endSwitch, h]

/-- A pad whose switch has ended and which holds no write: its input sees the pad again where its function is GPIO (R435). -/
def rested (p : Pad) : Pad := { p with busy := false, held := none, frozen := if p.func then p.frozen else none }

/-- A switch with no held write ends with the pad at rest (R435). -/
theorem endSwitch_free {n : Nat} {live : Bool} {p : Pad} (hb : p.busy = true) (hh : p.held = none) :
    endSwitch n live p = rested p := by simp [endSwitch, rested, hb, hh]

/-- A switch with a held write ends with that write applied (R436). -/
theorem endSwitch_held {n : Nat} {live : Bool} {p : Pad} {v : Word} (hb : p.busy = true) (hh : p.held = some v) :
    endSwitch n live p = startSwitch n live (rested p) v := by
  simp [endSwitch, rested, hb, hh]

/-- What a management request about a unit makes of the state: the unit table's answer, and the change it asks for (R422, R423). -/
def mctpAnswer (s : State) (u : Nat) : MctpReq → State
  | .query => mctpReply s u
  | .disable => if u = 0x7000 then mctpReply s u else mctpReply (updUnit s u (askUnit true 3)) u
  | .enable => if retired s u then mctpMismatch s u else if u = 0x7000 then mctpReply s u else mctpReply (updUnit s u (askUnit false 3)) u
  | .reportFailed => if (unitOf s u).state ≤ 1 then mctpMismatch s u else mctpReply s u

/-! ### Commands of the board -/

section
variable (s : State)

@[simp] theorem exec_bootImageCheck (b : Bool) (img : List Byte) : exec (.bootImageCheck b img) s =
    .next (if s.sts.state ≠ 1 then s else if pcieBoot s then hostCheck s else flashCheck s b img) := rfl
@[simp] theorem exec_nerzonReady (b : Bool) :
    exec (.nerzonReady b) s = .next (if s.sts.state ≠ 2 then s else if b then nerzonReady s else bootFailed s 0x09) := rfl
@[simp] theorem exec_pinMuxn (n : Fin 32) (v : Word) : exec (.pinMuxn n v) s = .next (updPad s n.val (muxWrite n.val (liveLevel s n.val) v)) := rfl
@[simp] theorem exec_pinSwitchEnd (n : Fin 32) : exec (.pinSwitchEnd n) s = .next (updPad s n.val (endSwitch n.val (liveLevel s n.val))) := rfl
@[simp] theorem exec_gpioInputChange (n : Fin 32) (l : Bool) :
    exec (.gpioInputChange n l) s = .next (updPad s n.val fun p => { p with level := l }) := rfl
@[simp] theorem exec_errInj (v : Word) : exec (.errInj v) s = .next (errInj s v) := rfl
@[simp] theorem exec_headlampRelease (k : Fin 17) : exec (.headlampRelease k) s = .next { s with err := { s.err with
    frozen := s.err.frozen.filter fun f => !(decide (f.1 = k.val) && decide (f.2 + 10000000000 ≤ s.time.clk)) } } := rfl

/-- The heartbeat counts while Nerzon runs and has its clock (R316). -/
theorem exec_stsHeartbeat (h : s.sts.state = 3) (hc : noClock s 2 = false) :
    exec .stsHeartbeat s = .next { s with sts := { s.sts with heartbeat := s.sts.heartbeat + 1 } } := by
  change execStsHeartbeat s = _
  simp [execStsHeartbeat, h, hc]

/-- A management request of the device's vendor about a known unit is answered while Nerzon runs (R422, R423). -/
theorem exec_mctpMessage (h : s.sts.state = 3) (hc : noClock s 2 = false) {u : BitVec 16} (hu : unitKnown u.toNat = true) (req : MctpReq) :
    exec (.mctpMessage 0x1E5D#16 req u) s = .next (mctpAnswer s u.toNat req) := by
  change execMctpMessage _ req u s = _
  cases req <;> simp [execMctpMessage, mctpAnswer, h, hc, hu]

/-- A management request of another vendor is not the device's. -/
theorem exec_mctpMessage_other {vid : BitVec 16} (h : vid ≠ 0x1E5D#16) (req : MctpReq) (u : BitVec 16) : exec (.mctpMessage vid req u) s = .next s := by
  change execMctpMessage _ req u s = _
  simp [execMctpMessage, h]

end

/-- A write to ERR_INJ without its go bit sets the class and unit alone (R415). -/
theorem errInj_sets {s : State} {v : Word} (h : v.getLsbD 31 = false) :
    errInj s v = { s with err := { s.err with injClass := fld v.toNat 20 16, injUnit := fld v.toNat 15 0 } } := by
  simp only [errInj, h, Bool.false_eq_true, if_false]

/-- A write to ERR_INJ with its go bit injects the error (R415). -/
theorem errInj_injects {s : State} {v : Word} (h : v.getLsbD 31 = true) :
    errInj s v = injectErr { s with err := { s.err with injClass := fld v.toNat 20 16, injUnit := fld v.toNat 15 0 } } (fld v.toNat 20 16) (fld v.toNat 15 0) := by
  simp only [errInj, h, if_true]

/-! ### What the commands of the board leave -/

/-- A device that boots from flash checks a flash image (R401). -/
theorem exec_bootImageCheck_flash {s : State} {b : Bool} {img : List Byte} (h : s.sts.state = 1) (hp : pcieBoot s = false) :
    exec (.bootImageCheck b img) s = .next (flashCheck s b img) := by simp [h, hp]

/-- The write that begins a pad's switch to its alternate function (R434, R435). -/
theorem exec_pinMuxn_switches {s : State} {n : Fin 32} {v : Word} (w : Tab.wf {} s.pin.pads = true) (hb : (padOf s n.val).busy = false)
    (hv : v.getLsbD 0 = true) (hf : (padOf s n.val).func = false) (ha : hasAlt n.val = true) :
    ∃ t, exec (.pinMuxn n v) s = .next t ∧
      padOf t n.val = { padOf s n.val with func := true, busy := true, frozen := some (liveLevel s n.val), pull := fld v.toNat 5 4, drive := fld v.toNat 9 8 } := by
  refine ⟨_, exec_pinMuxn s n v, ?_⟩
  have hne : v.getLsbD 0 ≠ (padOf s n.val).func := by rw [hv, hf]; decide
  rw [padOf_updPad_same w, muxWrite_idle hb, startSwitch_begins (p := settled v (padOf s n.val)) hne (.inr ha), hv]
  rfl

/-- The end of a switch with a held write: a write for the function the pad now has leaves it at rest, another begins a new switch (R436). -/
theorem exec_pinSwitchEnd_held {s : State} {n : Fin 32} {v : Word} (w : Tab.wf {} s.pin.pads = true) (hb : (padOf s n.val).busy = true)
    (hh : (padOf s n.val).held = some v) :
    ∃ t, exec (.pinSwitchEnd n) s = .next t ∧ (padOf t n.val).held = none ∧
      (v.getLsbD 0 = (padOf s n.val).func → (padOf t n.val).busy = false ∧ (padOf t n.val).func = (padOf s n.val).func) ∧
      (v.getLsbD 0 ≠ (padOf s n.val).func → v.getLsbD 0 = false ∨ hasAlt n.val = true →
        (padOf t n.val).busy = true ∧ (padOf t n.val).func = v.getLsbD 0) := by
  refine ⟨_, exec_pinSwitchEnd s n, ?_⟩
  rw [padOf_updPad_same w, endSwitch_held hb hh]
  refine ⟨?_, fun h => ?_, fun h ha => ?_⟩
  · exact startSwitch_held
  · rw [startSwitch_rests (p := rested (padOf s n.val)) (.inl h)]
    exact ⟨rfl, rfl⟩
  · rw [startSwitch_begins (p := rested (padOf s n.val)) h ha]
    exact ⟨rfl, rfl⟩

/-- Settles O54, command by command: the equations of the boot checks, of Nerzon's start, of the pads and of management requests. -/
theorem bootAndBoard : Obligations.BootAndBoard := by
  unfold Obligations.BootAndBoard
  intro s w
  refine ⟨fun img h1 hp hc => ?primary, fun img h1 hp hc hc' => ?secondary, fun b img h1 => ?notLoading, fun b img h1 hp => ?pcie,
    fun h2 => ⟨?starts, ?fails⟩, exec_stsHeartbeat s, fun n v => exec_pinMuxn_switches w, fun n v hb => ?heldWrite, fun n v hb h => ?restWrite,
    fun n v => exec_pinSwitchEnd_held w, fun n hb hh => ?switchEnd, fun n hb => ?noSwitch, fun n l => ?level, fun v => ?inject,
    fun u h3 hc hu => ⟨?query, fun hl => ?disable, fun hr hl => ?enable, fun he => ?failed, fun hr => ?enableRetired, fun he => ?failedNot⟩,
    fun vid req u h => exec_mctpMessage_other s h req u, fun k => ?release⟩
  case primary => exact (exec_bootImageCheck_flash h1 hp).trans (congrArg _ (flashCheck_primary img hc))
  case secondary => exact (exec_bootImageCheck_flash h1 hp).trans (congrArg _ (flashCheck_secondary img hc hc'))
  case notLoading => simp [h1]
  case pcie => exact ⟨by simp [h1, hp], hostCheck_empty⟩
  case starts =>
    obtain ⟨hstate, hcode, hmem, hflags, herr, hepoch, hwdt, hchms, hunits⟩ := nerzonReady_starts s
    refine ⟨nerzonReady s, by simp [h2], hstate, hcode, hmem, hflags, herr, hepoch, hwdt, fun wc ph h => ?_, fun ph h hp => ?_⟩
    · rw [chmOf, hchms, get_mapChambers wc h]
    · rw [unitOf, hunits, get_unitsAtStart (s := draw s) h hp]
  case fails => exact ⟨bootFailed s 9, by simp [h2], rfl, rfl⟩
  case heldWrite => exact ⟨_, exec_pinMuxn s n v, by rw [padOf_updPad_same w, muxWrite_busy hb]⟩
  case restWrite => exact ⟨_, exec_pinMuxn s n v, by rw [padOf_updPad_same w, muxWrite_idle hb, startSwitch_rests (p := settled v (padOf s n.val)) h]; rfl⟩
  case switchEnd =>
    refine ⟨_, exec_pinSwitchEnd s n, ?_⟩
    rw [gpioLevel, liveLevel_updPad_same w, padOf_updPad_same w, endSwitch_free hb hh]
    exact ⟨rfl, rfl, fun hf => by simp [rested, hf, liveLevel]⟩
  case noSwitch => exact ⟨_, exec_pinSwitchEnd s n, by rw [padOf_updPad_same w, endSwitch_idle hb]⟩
  case level =>
    refine ⟨_, exec_gpioInputChange s n l, ?_⟩
    rw [gpioLevel, liveLevel_updPad_same w, padOf_updPad_same w]
    exact ⟨rfl, fun hf ho => by simp only [hf, ho]; rfl, fun b hf => by simp only [hf]; rfl⟩
  case inject => exact ⟨_, exec_errInj s v, fun h => by rw [errInj_sets h]; exact ⟨rfl, rfl, rfl⟩, errInj_injects⟩
  case query => exact exec_mctpMessage s h3 hc hu .query
  case disable => simp [exec_mctpMessage s h3 hc hu, mctpAnswer, hl]
  case enable => simp [exec_mctpMessage s h3 hc hu, mctpAnswer, hl, hr]
  case failed => simp [exec_mctpMessage s h3 hc hu, mctpAnswer, Nat.not_le.2 he]
  case enableRetired => simp [exec_mctpMessage s h3 hc hu, mctpAnswer, hr]
  case failedNot => simp [exec_mctpMessage s h3 hc hu, mctpAnswer, he]
  case release =>
    refine ⟨_, exec_headlampRelease s k, fun f hf => ?_, fun f hf hk => ?_⟩
    · have hkeep := (List.mem_filter.1 hf).2
      simp only [Bool.not_eq_true', Bool.and_eq_false_iff, decide_eq_false_iff_not, Nat.not_le] at hkeep
      exact hkeep
    · exact List.mem_filter.2 ⟨hf, by simp [hk]⟩

end Sys2Proof.Machine
end

section
/-!
PROOFS. Registers as chambers, the Lantern, the host and the configuration space reach them.
-/
namespace Sys2Proof.Machine

/-! ### LD and ST of a register (R17, R20, R23, R105, R150) -/

section
variable {s : State} {ch : Fin 144} {f : Nat}

/-- The canonical address of the register that the LD or ST of a position field names (R18). -/
def accReg (s : State) (ch : Fin 144) (f : Nat) : Nat := unalias ch.val (accAddr (coreOf s ch.val) f)

/-- The word that the ST of a position field writes. -/
def accWord (s : State) (ch : Fin 144) (f : Nat) : Word := w32 (readReg (coreOf s ch.val) (fld f 20 14)).toNat

/-- An LD of a register that comes to issue. -/
theorem evLd_csr_issue (he : accessExc s ch f false = []) (hr : isCsr (accAddr (coreOf s ch.val) f) = true) :
    evLd s ch.val (posCode .m) f false =
      if csrHole s ch.val (accReg s ch f) then (raise 5 2 (accAddr (coreOf s ch.val) f), s)
      else if !csrGranted s ch.val (accReg s ch f) then (raise 6 2 (accAddr (coreOf s ch.val) f), s)
      else if (csrRead s ch.val (accReg s ch f)).isNone then (raise 5 2 (accAddr (coreOf s ch.val) f), s)
      else ({ out := some { store := false, addr := accAddr (coreOf s ch.val) f, size := accSize f } }, s) := by
  rw [accessExc] at he
  simp only [evLd, he, hr, if_true, Bool.false_eq_true, if_false]
  rfl

/-- An LD of a register whose access completes. -/
theorem evLd_csr_done (he : accessExc s ch f true = []) (hr : isCsr (accAddr (coreOf s ch.val) f) = true) :
    evLd s ch.val (posCode .m) f true = (effs (.csrLoad (fld f 20 14) (bitAt f 12) (accReg s ch f) :: postInc (coreOf s ch.val) f), s) := by
  rw [accessExc] at he
  simp only [evLd, he, hr, if_true]
  rfl

/-- An ST to an unmapped register address. -/
theorem evSt_csr_hole {fin : Bool} (he : accessExc s ch f fin = []) (hr : isCsr (accAddr (coreOf s ch.val) f) = true)
    (hh : csrHole s ch.val (accReg s ch f) = true) : evSt s ch (posCode .m) f fin = (raise 5 2 (accAddr (coreOf s ch.val) f), s) := by
  rw [accessExc] at he
  rw [accReg] at hh
  simp only [evSt, he, hr, hh, if_true]
  rfl

/-- An ST, as it comes to issue, to a register that the chamber is not granted. -/
theorem evSt_csr_denied (he : accessExc s ch f false = []) (hr : isCsr (accAddr (coreOf s ch.val) f) = true)
    (hh : csrHole s ch.val (accReg s ch f) = false) (hg : csrGranted s ch.val (accReg s ch f) = false) :
    evSt s ch (posCode .m) f false = (raise 6 2 (accAddr (coreOf s ch.val) f), s) := by
  rw [accessExc] at he
  rw [accReg] at hh hg
  simp only [evSt, he, hr, hh, hg, if_true, Bool.false_eq_true, if_false, Bool.not_false, Bool.and_self]
  rfl

/-- An ST, as it comes to issue, of a register whose write succeeds: its access goes out. -/
theorem evSt_csr_issue {t : State} (he : accessExc s ch f false = []) (hr : isCsr (accAddr (coreOf s ch.val) f) = true)
    (hh : csrHole s ch.val (accReg s ch f) = false) (hg : csrGranted s ch.val (accReg s ch f) = true)
    (hw : csrWrite s (.chamber ch) (accReg s ch f) (accWord s ch f) = .ok t) :
    evSt s ch (posCode .m) f false = ({ out := some { store := true, addr := accAddr (coreOf s ch.val) f, size := accSize f } }, s) := by
  rw [accessExc] at he
  rw [accReg] at hh hg
  rw [accReg, accWord] at hw
  simp [evSt, he, hr, hh, hg, hw]

/-- An ST of a register whose write succeeds as its access completes. -/
theorem evSt_csr_done {t : State} (he : accessExc s ch f true = []) (hr : isCsr (accAddr (coreOf s ch.val) f) = true)
    (hh : csrHole s ch.val (accReg s ch f) = false) (hw : csrWrite s (.chamber ch) (accReg s ch f) (accWord s ch f) = .ok t) :
    evSt s ch (posCode .m) f true = (effs (.csrStore (accReg s ch f) (accWord s ch f) :: postInc (coreOf s ch.val) f), s) := by
  rw [accessExc] at he
  rw [accReg] at hh
  rw [accReg, accWord] at hw
  simp [evSt, accReg, accWord, he, hr, hh, hw]

end

/-! ### Register commands -/

/-- A chamber's register write. -/
theorem exec_registerWrite_chamber (s : State) (ch : Fin 144) (x n : Nat) (w : DWord) :
    exec (.registerWrite (.chamber ch) x n (.write w)) s = .next (chamberWrite s ch x n (w32 w.toNat)) := rfl

/-- A register access of the host. -/
theorem exec_registerWrite_host (s : State) (x n : Nat) (op : RegOp) : exec (.registerWrite .host x n op) s =
    .next (hostDoor s (match op with | .write v => hostRegWrite x n v | .read => hostRegRead x n)) := rfl

/-- An access through a BAR acts outside D3hot (R311). -/
theorem hostDoor_awake {s : State} {f : State → State} (h : s.pcie.d3 = false) : hostDoor s f = f s := by
  simp only [hostDoor, h, Bool.false_eq_true, if_false]

/-- An access through a BAR in D3hot is an unsupported request (R311). -/
theorem hostDoor_asleep {s : State} {f : State → State} (h : s.pcie.d3 = true) : hostDoor s f = emit s .unsupported := by
  simp only [hostDoor, h, if_true]

/-- A chamber's aligned write of a mapped register that it is granted (R20, R23). -/
theorem chamberWrite_granted {s : State} {ch : Fin 144} {x : Nat} {v : Word} (hm : isMemory (unalias ch.val x) = false)
    (hs : spaceOf (unalias ch.val x) = .csr) (ha : unalias ch.val x % 4 = 0) (hh : csrHole s ch.val (unalias ch.val x) = false)
    (hg : csrGranted s ch.val (unalias ch.val x) = true) :
    chamberWrite s ch x 4 v = chmWrote ch x (csrWrite s (.chamber ch) (unalias ch.val x) v) := by
  simp [chamberWrite, wroteBy, hm, hs, ha, hh, hg]

/-- A chamber's aligned write of a mapped register that it is not granted (R23). -/
theorem chamberWrite_denied {s : State} {ch : Fin 144} {x : Nat} {v : Word} (hm : isMemory (unalias ch.val x) = false)
    (hs : spaceOf (unalias ch.val x) = .csr) (ha : unalias ch.val x % 4 = 0) (hh : csrHole s ch.val (unalias ch.val x) = false)
    (hg : csrGranted s ch.val (unalias ch.val x) = false) : chamberWrite s ch x 4 v = chmRefused s ch 6 x := by
  simp [chamberWrite, hm, hs, ha, hh, hg]

/-- A chamber's write of another width, unaligned or to an unmapped address (R17, R20). -/
theorem chamberWrite_misses {s : State} {ch : Fin 144} {x n : Nat} {v : Word} (hm : isMemory (unalias ch.val x) = false)
    (h : spaceOf (unalias ch.val x) ≠ .csr ∨ n ≠ 4 ∨ unalias ch.val x % 4 ≠ 0 ∨ csrHole s ch.val (unalias ch.val x) = true) :
    chamberWrite s ch x n v = chmRefused s ch 5 x := by
  have hc : (decide (spaceOf (unalias ch.val x) ≠ .csr) || decide (n ≠ 4) || decide (unalias ch.val x % 4 ≠ 0) ||
      csrHole s ch.val (unalias ch.val x)) = true := by
    simpa only [Bool.or_eq_true, decide_eq_true_eq, or_assoc] using h
  simp only [chamberWrite, hm, hc, Bool.false_eq_true, if_false, if_true]

/-- The Lantern's memory accesses are its program's (log entry 12). -/
theorem lanternAccess_memory {s : State} {x n : Nat} {op : RegOp} (h : isMemory x = true) : lanternAccess s x n op = .next s := by
  simp only [lanternAccess, h, if_true]

/-- A register access of the Lantern of another width, unaligned or at an unmapped address (R17, R20). -/
theorem lanternAccess_misses {s : State} {x n : Nat} {op : RegOp} (hm : isMemory x = false) (h : spaceOf x ≠ .csr ∨ n ≠ 4 ∨ x % 4 ≠ 0) :
    lanternAccess s x n op = .next (lanternExc s 5 x) := by
  have hc : (decide (spaceOf x ≠ .csr) || decide (n ≠ 4) || decide (x % 4 ≠ 0)) = true := by
    simpa only [Bool.or_eq_true, decide_eq_true_eq, or_assoc] using h
  simp only [lanternAccess, hm, hc, Bool.false_eq_true, if_false, if_true]

/-- A write by the Lantern of 32 aligned bits (R20). -/
theorem lanternAccess_write {s : State} {x : Nat} {w : DWord} (hs : spaceOf x = .csr) (ha : x % 4 = 0) :
    lanternAccess s x 4 (.write w) = lanternWrite s x (w32 w.toNat) := by simp [lanternAccess, isMemory, hs, ha]

/-- A read by the Lantern of 32 aligned bits (R20). -/
theorem lanternAccess_read {s : State} {x : Nat} (hs : spaceOf x = .csr) (ha : x % 4 = 0) :
    lanternAccess s x 4 .read = .next (lanternRead s x) := by simp [lanternAccess, isMemory, hs, ha]

/-- PIN_GPIO_OUT is a register of 32 bits, and no high word of another (R438). -/
theorem lanternReg64_gpioOut (s : State) : lanternReg64 s 0x180B000100 = none ∧ lanternReg64 s (0x180B000100 - 4) = none := by
  constructor <;> rfl

/-- A write of PIN_GPIO_OUT by the Lantern (R438). -/
theorem lanternWrite_gpioOut (s : State) (w : Word) : lanternWrite s 0x180B000100 w = .next { s with pin := { s.pin with out := w } } := by
  obtain ⟨h, h4⟩ := lanternReg64_gpioOut s
  simp [lanternWrite, h, h4, lanternPut, lanternReg32, pinReg, lanternWrite32, pinWrite]

/-- A read of PIN_GPIO_OUT by the Lantern (R438). -/
theorem lanternRead_gpioOut (s : State) : lanternRead s 0x180B000100 = emit s (.regData s.pin.out) := by
  obtain ⟨h, h4⟩ := lanternReg64_gpioOut s
  simp [lanternRead, h, h4, lanternReg32, pinReg, lanternClears, readClears, windowOf]

/-- A read of STS_HEARTBEAT by the host (R316). -/
theorem hostRegRead_heartbeat (s : State) : hostRegRead 0x200010 4 s = emit s (.barData (s.sts.heartbeat.zeroExtend 64)) := by
  have hr : hostRead32 s 0x200010 = some (s.sts.heartbeat, s) := rfl
  have hz : BitVec.ofNat 64 s.sts.heartbeat.toNat = s.sts.heartbeat.zeroExtend 64 := by simp
  simp only [hostRegRead, hr, hz]
  rfl

/-- An unaligned read through BAR0 is an unsupported request (R314). -/
theorem hostRegRead_unaligned {off : Nat} (h : off % 4 ≠ 0) (s : State) : hostRegRead off 4 s = emit s .unsupported := by
  simp [hostRegRead, h]

/-- Settles O55, requester by requester: LD and ST, a chamber's own register command, the Lantern, the host and the configuration space. -/
theorem registerAccess : Obligations.RegisterAccess := by
  unfold Obligations.RegisterAccess
  intro ch b s
  dsimp only
  refine ⟨fun hi he hr => ⟨fun hh => ?ldHole, fun hh hg => ?ldDenied, fun hh hg hn => ?ldUnlisted, fun hh hg hn => ?ldOut⟩,
    fun ho he hr => ?ldDone, fun hi he hr => ⟨fun hh => ?stHole, fun hh hg => ?stDenied, fun t hh hg hw => ?stOut⟩,
    fun t ho he hr hh hw => ?stDone,
    fun x n w hm => ⟨fun hs hn ha hh => ⟨fun hg => ?granted, fun hg => ?denied⟩, fun h => ?misses⟩,
    fun x n op hm => lanternAccess_memory hm, fun x n op hm h => lanternAccess_misses hm h,
    fun x w hs ha => ⟨lanternAccess_write hs ha, lanternAccess_read hs ha⟩,
    lanternWrite_gpioOut s, lanternRead_gpioOut s, fun x n w hd => ⟨?hostWrite, ?hostRead⟩, fun x n op hd => ?hostAsleep,
    hostRegRead_heartbeat s, hostRegRead_unaligned (by decide) s, fun n w => ⟨rfl, rfl⟩⟩
  case ldHole => exact issueOp_raises hi ((evLd_csr_issue he hr).trans (if_pos hh))
  case ldDenied => exact issueOp_raises hi ((evLd_csr_issue he hr).trans (by rw [accReg, hh, hg]; rfl))
  case ldUnlisted => exact issueOp_raises hi ((evLd_csr_issue he hr).trans (by rw [accReg, hh, hg, hn]; rfl))
  case ldOut =>
    refine issueOp_out hi ((evLd_csr_issue he hr).trans ?_)
    rw [accReg, hh, hg, Option.isNone_eq_false_iff.2 (Option.isSome_iff_ne_none.2 hn)]
    rfl
  case ldDone => exact completeAcc_alone ho (evLd_csr_done he hr)
  case stHole => exact issueOp_raises hi (evSt_csr_hole he hr hh)
  case stDenied => exact issueOp_raises hi (evSt_csr_denied he hr hh hg)
  case stOut => exact issueOp_out hi (evSt_csr_issue he hr hh hg hw)
  case stDone => exact completeAcc_alone ho (evSt_csr_done he hr hh hw)
  case granted => rw [exec_registerWrite_chamber, hn, chamberWrite_granted hm hs ha hh hg]
  case denied => rw [exec_registerWrite_chamber, hn, chamberWrite_denied hm hs ha hh hg]
  case misses => rw [exec_registerWrite_chamber, chamberWrite_misses hm h]
  case hostWrite => rw [exec_registerWrite_host, hostDoor_awake hd]
  case hostRead => rw [exec_registerWrite_host, hostDoor_awake hd]
  case hostAsleep => rw [exec_registerWrite_host, hostDoor_asleep hd]

end Sys2Proof.Machine
end

section
/-!
PROOFS. Every step keeps memory and the tables in canonical form: the dispatch over the commands, said once, and the statements about the form.
-/
namespace Sys2Proof.Machine

/-! ### Commands -/

/-- The commands that can end in the model's one stop: a write of CRP_BLK_RST, and a register write, which may be one (log entry 21). -/
def mayStop : Instr → Bool
  | .crpBlkRst _ | .registerWrite _ _ _ _ => true
  | _ => false

/-- A formed next state is one where a stop is allowed. -/
theorem OutFormed.orBusy {cq : List Instr} {cp : Prop} {o : Host.Outcome State Fault Refusal} (h : OutFormed cq cp o) : OutFormedOrBusy cq cp o := by
  cases o with
  | next t => exact h
  | fault f => exact h.elim
  | refused r => exact h

/-- Every other command answers a next state and keeps the form. -/
theorem exec_outFormed {cq : List Instr} {cp : Prop} {c : Instr} {s : State} (fm : Formed cq cp s) (h : mayStop c = false) :
    OutFormed cq cp (exec c s) := by
  cases c with
  | crpBlkRst => cases h
  | registerWrite => cases h
  | nop => exact execNop_formed _ _ _ _ fm
  | add => exact execAdd_formed _ _ _ _ fm
  | sub => exact execSub_formed _ _ _ _ fm
  | and_ => exact execAnd_formed _ _ _ _ fm
  | or_ => exact execOr_formed _ _ _ _ fm
  | xor_ => exact execXor_formed _ _ _ _ fm
  | shl => exact execShl_formed _ _ _ _ fm
  | shr => exact execShr_formed _ _ _ _ fm
  | sra => exact execSra_formed _ _ _ _ fm
  | constL => exact execConstL_formed _ _ _ _ fm
  | constH => exact execConstH_formed _ _ _ _ fm
  | cmpEq => exact execCmpEq_formed _ _ _ _ fm
  | cmpNe => exact execCmpNe_formed _ _ _ _ fm
  | cmpLt => exact execCmpLt_formed _ _ _ _ fm
  | cmpLe => exact execCmpLe_formed _ _ _ _ fm
  | cmpGt => exact execCmpGt_formed _ _ _ _ fm
  | cmpGe => exact execCmpGe_formed _ _ _ _ fm
  | cmpLtu => exact execCmpLtu_formed _ _ _ _ fm
  | cmpGeu => exact execCmpGeu_formed _ _ _ _ fm
  | mul => exact execMul_formed _ _ _ _ fm
  | gets => exact execGets_formed _ _ _ fm
  | sets => exact execSets_formed _ _ _ fm
  | ld => exact execLd_formed _ _ _ fm
  | st => exact execSt_formed _ _ _ fm
  | siphRun => exact execSiphRun_formed _ _ _ fm
  | siphPoll => exact execSiphPoll_formed _ _ _ fm
  | fence => exact execFence_formed _ _ _ fm
  | aldw => exact execAldw_formed _ _ _ fm
  | aswp => exact execAswp_formed _ _ _ fm
  | acfg => exact execAcfg_formed _ _ _ fm
  | stream => exact execStream_formed _ _ _ fm
  | flRun => exact execFlRun_formed _ _ _ fm
  | flLdt => exact execFlLdt_formed _ _ _ fm
  | flStt => exact execFlStt_formed _ _ _ fm
  | flLdb => exact execFlLdb_formed _ _ _ fm
  | flStb => exact execFlStb_formed _ _ _ fm
  | flLdm => exact execFlLdm_formed _ _ _ fm
  | flStm => exact execFlStm_formed _ _ _ fm
  | br => exact execBr_formed _ _ _ fm
  | call => exact execCall_formed _ _ _ fm
  | jmp => exact execJmp_formed _ _ _ fm
  | callr => exact execCallr_formed _ _ _ fm
  | loopBr => exact execLoopBr_formed _ _ _ fm
  | loopBrN => exact execLoopBrN_formed _ _ _ fm
  | cnSig => exact execCnSig_formed _ _ _ fm
  | cnAdd => exact execCnAdd_formed _ _ _ fm
  | cnWait => exact execCnWait_formed _ _ _ fm
  | cnTry => exact execCnTry_formed _ _ _ fm
  | cnSigr => exact execCnSigr_formed _ _ _ fm
  | cnAddr => exact execCnAddr_formed _ _ _ fm
  | cnWaitr => exact execCnWaitr_formed _ _ _ fm
  | cnTryr => exact execCnTryr_formed _ _ _ fm
  | iret => exact execIret_formed _ _ _ fm
  | exret => exact execExret_formed _ _ _ fm
  | jobEnd => exact execJobEnd_formed _ _ _ fm
  | break_ => exact execBreak_formed _ _ _ fm
  | loadCompletion => exact execLoadCompletion_formed _ _ fm
  | aldwComplete => exact execAldwComplete_formed _ _ fm
  | aswpTakesEffect => exact execAswpTakesEffect_formed _ _ fm
  | acfgTakesEffect => exact execAcfgTakesEffect_formed _ _ fm
  | streamBlockStart => exact execStreamBlockStart_formed _ _ _ fm
  | sumpAddition => exact execSumpAddition_formed _ _ _ fm
  | driplineTake => exact execDriplineTake_formed _ _ fm
  | interruptDelivery => exact execInterruptDelivery_formed _ _ fm
  | streamHold => exact execStreamHold_formed _ _ fm
  | interruptEntry => exact execInterruptEntry_formed _ _ fm
  | flowstoneLaunch => exact execFlowstoneLaunch_formed _ _ fm
  | tileIteration => exact execTileIteration_formed _ _ fm
  | registerMove => exact execRegisterMove_formed _ _ fm
  | uopAdd => exact execUopAdd_formed _ _ fm
  | uopSub => exact execUopSub_formed _ _ fm
  | uopMac => exact execUopMac_formed _ _ fm
  | uopShv => exact execUopShv_formed _ _ fm
  | uopSra => exact execUopSra_formed _ _ fm
  | uopMin => exact execUopMin_formed _ _ fm
  | uopMax => exact execUopMax_formed _ _ fm
  | uopAnd => exact execUopAnd_formed _ _ fm
  | uopOr => exact execUopOr_formed _ _ fm
  | uopXor => exact execUopXor_formed _ _ fm
  | uopSel => exact execUopSel_formed _ _ fm
  | uopCmp => exact execUopCmp_formed _ _ fm
  | uopLut => exact execUopLut_formed _ _ fm
  | uopQnt4 => exact execUopQnt4_formed _ _ fm
  | uopQnt8 => exact execUopQnt8_formed _ _ fm
  | uopSto4 => exact execUopSto4_formed _ _ fm
  | uopSto8 => exact execUopSto8_formed _ _ fm
  | uopRmaxR => exact execUopRmaxR_formed _ _ fm
  | uopRminR => exact execUopRminR_formed _ _ fm
  | uopRmaxC => exact execUopRmaxC_formed _ _ fm
  | uopRminC => exact execUopRminC_formed _ _ fm
  | uopTmax => exact execUopTmax_formed _ _ fm
  | uopTmin => exact execUopTmin_formed _ _ fm
  | runCompletion => exact execRunCompletion_formed _ _ fm
  | flowstoneFault => exact execFlowstoneFault_formed _ _ fm
  | chainStart => exact execChainStart_formed _ _ fm
  | descriptorFetch => exact execDescriptorFetch_formed _ _ fm
  | gather => exact execGather_formed _ _ fm
  | block => exact execBlock_formed _ _ fm
  | fill => exact execFill_formed _ _ fm
  | link => exact execLink_formed _ _ fm
  | descriptorComplete => exact execDescriptorComplete_formed _ _ fm
  | patrolScrub => exact execPatrolScrub_formed _ fm
  | slotTick => exact execSlotTick_formed _ fm
  | symbolTick => exact execSymbolTick_formed _ fm
  | jobStart => exact execJobStart_formed _ _ fm
  | deadlineFence => exact execDeadlineFence_formed _ _ fm
  | fenceTimeout => exact execFenceTimeout_formed _ _ _ fm
  | chmParity => exact execChmParity_formed _ _ fm
  | faultFence => exact execFaultFence_formed _ _ fm
  | decParity => exact execDecParity_formed _ _ fm
  | fabric => exact execFabric_formed _ _ _ fm
  | fhParity => exact execFhParity_formed _ _ _ fm
  | compareFire => exact execCompareFire_formed _ _ fm
  | pulseEdge => exact execPulseEdge_formed _ _ fm
  | ppsInEdge => exact execPpsInEdge_formed _ fm
  | sourceLost => exact execSourceLost_formed _ _ fm
  | domainLocked => exact execDomainLocked_formed _ _ fm
  | frameReceive => exact execFrameReceive_formed _ _ _ _ fm
  | windowOpen => exact execWindowOpen_formed _ _ _ fm
  | windowClose => exact execWindowClose_formed _ _ _ fm
  | squeezeConversion => exact execSqueezeConversion_formed _ fm
  | grantRead => exact execGrantRead_formed _ _ fm
  | cplaneSend => exact execCplaneSend_formed _ _ fm
  | uplaneSend => exact execUplaneSend_formed _ _ fm
  | linkDown => exact execLinkDown_formed _ _ fm
  | linkUp => exact execLinkUp_formed _ _ fm
  | preambleDetection => exact execPreambleDetection_formed _ _ _ _ fm
  | syncMiss => exact execSyncMiss_formed _ _ fm
  | syncWordFound => exact execSyncWordFound_formed _ _ _ fm
  | lengthField => exact execLengthField_formed _ _ _ fm
  | capture => exact execCapture_formed _ _ _ _ fm
  | packetEnd => exact execPacketEnd_formed _ _ _ _ fm
  | flitReceive => exact execFlitReceive_formed _ _ _ fm
  | linkRetrain => exact execLinkRetrain_formed _ _ fm
  | retrainEnd => exact execRetrainEnd_formed _ _ _ fm
  | reroute => exact execReroute_formed _ _ fm
  | noResponse => exact execNoResponse_formed _ _ fm
  | linkRetry => exact execLinkRetry_formed _ _ _ fm
  | decSubmit => exact execDecSubmit_formed _ _ _ fm
  | decodeTaskStart => exact execDecodeTaskStart_formed _ fm
  | decodeTaskEnd => exact execDecodeTaskEnd_formed _ _ fm
  | encodeTaskStart => exact execEncodeTaskStart_formed _ fm
  | encodeTaskEnd => exact execEncodeTaskEnd_formed _ _ fm
  | timedBarrierOpen => exact execTimedBarrierOpen_formed _ _ fm
  | cnAddn => exact execCnAddn_formed _ _ _ _ fm
  | vicEoi => exact execVicEoi_formed _ fm
  | vicBindk => exact execVicBindk_formed _ _ _ _ _ fm
  | mbxReqPost => exact execMbxReqPost_formed _ _ _ fm
  | mbxRspPost => exact execMbxRspPost_formed _ _ _ fm
  | mbxReqAck => exact execMbxReqAck_formed _ _ _ _ fm
  | mbxRspAck => exact execMbxRspAck_formed _ _ _ _ fm
  | replyPost => exact execReplyPost_formed _ fm
  | doorbell => exact execDoorbell_formed _ _ _ _ fm
  | ringPushGo => exact execRingPushGo_formed _ _ _ fm
  | waitingRecordWritten => exact execWaitingRecordWritten_formed _ _ fm
  | bar2Access => exact execBar2Access_formed _ _ _ fm
  | pcieConventionalReset => exact execPcieConventionalReset_formed _ fm
  | heldMsiSend => exact execHeldMsiSend_formed _ _ fm
  | chmCtlHaltReq => exact execChmCtlHaltReq_formed _ _ _ fm
  | chmCtlStep => exact execChmCtlStep_formed _ _ fm
  | sessionOpen => exact execSessionOpen_formed _ _ fm
  | sessionClose => exact execSessionClose_formed _ _ fm
  | nciInfo => exact execNciInfo_formed _ _ fm
  | ringSet => exact execRingSet_formed _ _ fm
  | ringClear => exact execRingClear_formed _ _ fm
  | ringStatus => exact execRingStatus_formed _ _ fm
  | cairnSet => exact execCairnSet_formed _ _ fm
  | cairnGet => exact execCairnGet_formed _ _ fm
  | memPartSet => exact execMemPartSet_formed _ _ fm
  | memPartGet => exact execMemPartGet_formed _ _ fm
  | memImageBind => exact execMemImageBind_formed _ _ fm
  | placeSetChambers => exact execPlaceSetChambers_formed _ _ fm
  | placeMapGet => exact execPlaceMapGet_formed _ _ fm
  | placeReport => exact execPlaceReport_formed _ _ fm
  | memBar2Set => exact execMemBar2Set_formed _ _ fm
  | ctxSet => exact execCtxSet_formed _ _ fm
  | ctxClear => exact execCtxClear_formed _ _ fm
  | tmplSet => exact execTmplSet_formed _ _ fm
  | tmplClear => exact execTmplClear_formed _ _ fm
  | surveyStage => exact execSurveyStage_formed _ _ fm
  | surveyCommit => exact execSurveyCommit_formed _ _ fm
  | surveyCommitCancel => exact execSurveyCommitCancel_formed _ _ fm
  | schedStatus => exact execSchedStatus_formed _ _ fm
  | cfgCommit => exact execCfgCommit_formed _ _ fm
  | detSet => exact execDetSet_formed _ _ fm
  | fhPortSet => exact execFhPortSet_formed _ _ fm
  | fhPortStatus => exact execFhPortStatus_formed _ _ fm
  | fhFlowSet => exact execFhFlowSet_formed _ _ fm
  | fhFlowArm => exact execFhFlowArm_formed _ _ fm
  | fhFlowStop => exact execFhFlowStop_formed _ _ fm
  | fhFlowStatus => exact execFhFlowStatus_formed _ _ fm
  | chainSet => exact execChainSet_formed _ _ fm
  | chainClear => exact execChainClear_formed _ _ fm
  | chainStatus => exact execChainStatus_formed _ _ fm
  | harqFlush => exact execHarqFlush_formed _ _ fm
  | ldpcOffsetsSet => exact execLdpcOffsetsSet_formed _ _ fm
  | decStatus => exact execDecStatus_formed _ _ fm
  | echoStreamSet => exact execEchoStreamSet_formed _ _ fm
  | echoChSet => exact execEchoChSet_formed _ _ fm
  | echoChDisable => exact execEchoChDisable_formed _ _ fm
  | echoChStatus => exact execEchoChStatus_formed _ _ fm
  | echoStreamStatus => exact execEchoStreamStatus_formed _ _ fm
  | timeDomainSet => exact execTimeDomainSet_formed _ _ fm
  | timeDomainAdj => exact execTimeDomainAdj_formed _ _ fm
  | timeSwitch => exact execTimeSwitch_formed _ _ fm
  | timeTickSet => exact execTimeTickSet_formed _ _ fm
  | timePulseSet => exact execTimePulseSet_formed _ _ fm
  | timeCmpGrant => exact execTimeCmpGrant_formed _ _ fm
  | timeStatus => exact execTimeStatus_formed _ _ fm
  | synceSet => exact execSynceSet_formed _ _ fm
  | emxJoin => exact execEmxJoin_formed _ _ _ fm
  | emxLinkStatus => exact execEmxLinkStatus_formed _ _ fm
  | emxTunnelSet => exact execEmxTunnelSet_formed _ _ fm
  | emxDoorbell => exact execEmxDoorbell_formed _ _ fm
  | emxStatus => exact execEmxStatus_formed _ _ _ fm
  | crpStatus => exact execCrpStatus_formed _ _ fm
  | clkoutSet => exact execClkoutSet_formed _ _ fm
  | reset => exact execReset_formed _ _ fm
  | resetTakesEffect => exact execResetTakesEffect_formed _ fm
  | powerSet => exact execPowerSet_formed _ _ fm
  | debugChallenge => exact execDebugChallenge_formed _ _ fm
  | debugUnlock => exact execDebugUnlock_formed _ _ fm
  | secStatus => exact execSecStatus_formed _ _ fm
  | secCommitVersion => exact execSecCommitVersion_formed _ _ fm
  | pinSet => exact execPinSet_formed _ _ fm
  | gpioSet => exact execGpioSet_formed _ _ fm
  | faultLogRead => exact execFaultLogRead_formed _ _ fm
  | faultUnitGet => exact execFaultUnitGet_formed _ _ fm
  | faultUnitSet => exact execFaultUnitSet_formed _ _ fm
  | telemetryGet => exact execTelemetryGet_formed _ _ fm
  | faultInject => exact execFaultInject_formed _ _ fm
  | faultTrace => exact execFaultTrace_formed _ _ fm
  | mctpMessage => exact execMctpMessage_formed _ _ _ _ fm
  | headlampRelease => exact execHeadlampRelease_formed _ _ fm
  | stsHeartbeat => exact execStsHeartbeat_formed _ fm
  | blockResetDone => exact execBlockResetDone_formed _ fm
  | crpResetCtl => exact execCrpResetCtl_formed _ _ fm
  | crpClkseld => exact execCrpClkseld_formed _ _ _ fm
  | clockSwitchDone => exact execClockSwitchDone_formed _ _ fm
  | crpWdt => exact execCrpWdt_formed _ _ fm
  | watchdogExpiry => exact execWatchdogExpiry_formed _ fm
  | errInj => exact execErrInj_formed _ _ fm
  | pinMuxn => exact execPinMuxn_formed _ _ _ fm
  | pinSwitchEnd => exact execPinSwitchEnd_formed _ _ fm
  | porstN => exact execPorstN_formed _ _ fm
  | oscillatorCountEnd => exact execOscillatorCountEnd_formed _ fm
  | sysRstN => exact execSysRstN_formed _ _ fm
  | clockStop => exact execClockStop_formed _ _ fm
  | referenceReturn => exact execReferenceReturn_formed _ fm
  | pllLockLoss => exact execPllLockLoss_formed _ _ fm
  | lockstepMismatch => exact execLockstepMismatch_formed _ fm
  | overtemp => exact execOvertemp_formed _ _ fm
  | overtempRecovery => exact execOvertempRecovery_formed _ fm
  | tjAboveTwarn => exact execTjAboveTwarn_formed _ _ fm
  | limiterAct => exact execLimiterAct_formed _ _ _ fm
  | bootImageCheck => exact execBootImageCheck_formed _ _ _ fm
  | nerzonReady => exact execNerzonReady_formed _ _ fm
  | storeCompletion => exact execStoreCompletion_formed _ _ fm
  | limiterRelease => exact execLimiterRelease_formed _ fm
  | adaptiveVoltageLoop => exact execAdaptiveVoltageLoop_formed _ _ fm
  | otpProgramPulseEnd => exact execOtpProgramPulseEnd_formed _ fm
  | linkNoPartner => exact execLinkNoPartner_formed _ _ fm
  | gpioInputChange => exact execGpioInputChange_formed _ _ _ fm
  | ptpMessageSend => exact execPtpMessageSend_formed _ fm
  | esmcSend => exact execEsmcSend_formed _ fm

/-- Every command keeps the form or ends in the stop at a busy block. -/
theorem exec_outFormedOrBusy {cq : List Instr} {cp : Prop} (c : Instr) {s : State} (fm : Formed cq cp s) : OutFormedOrBusy cq cp (exec c s) := by
  cases h : mayStop c with
  | false => exact (exec_outFormed fm h).orBusy
  | true =>
    unfold mayStop at h
    split at h
    · exact execCrpBlkRst_formed _ _ fm
    · exact execRegisterWrite_formed _ _ _ _ _ fm
    · cases h

/-! ### Steps -/

/-- A state whose memory and tables are canonical is formed, on its own queue. -/
theorem Formed.of_canonical {s : State} (hm : memoryOk s) (ht : tablesOk s) : Formed s.pending True s :=
  ⟨rfl, fun _ => hm.1, fun _ => hm.2, fun _ => ht.1, fun _ => ht.2.1, fun _ => ht.2.2⟩

/-- A formed state's memory and tables are canonical. -/
theorem Formed.canonical {cq : List Instr} {s : State} (h : Formed cq True s) : memoryOk s ∧ tablesOk s :=
  ⟨⟨h.mem trivial, h.host trivial⟩, h.chms trivial, h.cairns trivial, h.rings trivial⟩

/-- A step that answers a next state leaves the rest of the queue, and what was in canonical form still is. -/
theorem step_formed {cp : Prop} {s t : State} (fm : Formed s.pending cp s) (h : step s = .next t) : Formed s.pending.tail cp t := by
  unfold step at h
  split at h
  case h_1 hq =>
    cases h
    rw [hq] at fm ⊢
    exact idle_formed s fm
  case h_2 c r hq =>
    have hr : Formed r cp { s with pending := r } := ⟨rfl, fm.mem, fm.host, fm.chms, fm.cairns, fm.rings⟩
    have hx := exec_outFormedOrBusy c hr
    rw [h] at hx
    rw [hq]
    exact hx

/-- Settles O59: a canonical state is formed, and every step keeps the form. -/
theorem formKept : Obligations.FormKept := by
  unfold Obligations.FormKept
  intro s t hm ht h
  exact (step_formed (.of_canonical hm ht) h).canonical

/-- Settles O58: after a power-on reset memory and the three tables are empty, and an empty table is canonical. -/
theorem resetKeepsForm : Obligations.ResetKeepsForm := by
  unfold Obligations.ResetKeepsForm
  exact ⟨⟨rfl, rfl⟩, rfl, rfl, rfl⟩

end Sys2Proof.Machine
end

section
/-!
PROOFS. The device physical address map: each range of the map by its bounds.
-/
namespace Sys2Proof.Machine

/-! ### The ranges of the map (R16) -/

section
variable {a : Nat}

/-- HBM lies at the bottom of the map. -/
theorem spaceOf_hbm_iff : spaceOf a = .hbm ↔ a < 0x0C00000000 := by
  unfold spaceOf
  repeat' split
  all_goals
    simp only [reduceCtorEq, true_iff, false_iff]
    omega

/-- The 16 cisterns lie one behind the other, 4 MiB each. -/
theorem spaceOf_cistern_iff {g : Nat} :
    spaceOf a = .cistern g ↔ g < 16 ∧ 0x1000000000 + g * 0x400000 ≤ a ∧ a < 0x1000000000 + (g + 1) * 0x400000 := by
  unfold spaceOf
  repeat' split
  all_goals
    simp only [reduceCtorEq, Space.cistern.injEq, false_iff]
    omega

/-- The 128 pockets lie one behind the other, 1 MiB each. -/
theorem spaceOf_pocket_iff {c : Nat} :
    spaceOf a = .pocket c ↔ c < 128 ∧ 0x1100000000 + c * 0x100000 ≤ a ∧ a < 0x1100000000 + (c + 1) * 0x100000 := by
  unfold spaceOf
  repeat' split
  all_goals
    simp only [reduceCtorEq, Space.pocket.injEq, false_iff]
    omega

/-- The basin is 24 MiB. -/
theorem spaceOf_basin_iff : spaceOf a = .basin ↔ 0x1200000000 ≤ a ∧ a < 0x1201800000 := by
  unfold spaceOf
  repeat' split
  all_goals
    simp only [reduceCtorEq, true_iff, false_iff]
    omega

/-- The registers of the device. -/
theorem spaceOf_csr_iff : spaceOf a = .csr ↔ 0x1800000000 ≤ a ∧ a < 0x1811000000 := by
  unfold spaceOf
  repeat' split
  all_goals
    simp only [reduceCtorEq, true_iff, false_iff]
    omega

/-- A chamber's own registers. -/
theorem spaceOf_ownCsr_iff : spaceOf a = .ownCsr ↔ 0x18FF000000 ≤ a ∧ a < 0x18FF010000 := by
  unfold spaceOf
  repeat' split
  all_goals
    simp only [reduceCtorEq, true_iff, false_iff]
    omega

/-- The ranges are the whole map: every other address is unmapped. -/
theorem spaceOf_unmapped_iff :
    spaceOf a = .unmapped ↔
      ¬a < 0x0C00000000 ∧ ¬(0x1000000000 ≤ a ∧ a < 0x1004000000) ∧ ¬(0x1100000000 ≤ a ∧ a < 0x1108000000) ∧
      ¬(0x1200000000 ≤ a ∧ a < 0x1201800000) ∧ ¬(0x1800000000 ≤ a ∧ a < 0x1811000000) ∧ ¬(0x18FF000000 ≤ a ∧ a < 0x18FF010000) := by
  unfold spaceOf
  repeat' split
  all_goals
    simp only [reduceCtorEq, true_iff, false_iff]
    omega

end

/-- Settles O31, range by range; the table's last addresses are one below the model's bounds. -/
theorem addressMap : Obligations.AddressMap := by
  unfold Obligations.AddressMap
  intro a
  refine ⟨?hbm, fun g hg => ?cistern, fun c hc => ?pocket, ?basin, ?csr, ?ownCsr, ?unmapped, fun h => ?wide, fun g h => (spaceOf_cistern_iff.1 h).1,
    fun c h => (spaceOf_pocket_iff.1 h).1⟩
  case hbm => exact spaceOf_hbm_iff.trans (by omega)
  case cistern => simp [spaceOf_cistern_iff, hg]
  case pocket => simp [spaceOf_pocket_iff, hc]
  case basin => exact spaceOf_basin_iff.trans (by omega)
  case csr => exact spaceOf_csr_iff.trans (by omega)
  case ownCsr => exact spaceOf_ownCsr_iff.trans (by omega)
  case unmapped => exact spaceOf_unmapped_iff.trans (by omega)
  case wide => exact spaceOf_unmapped_iff.2 (by omega)

end Sys2Proof.Machine
end

section
/-!
PROOFS. What an entry of the error log leaves alone, field by field.
-/
namespace Sys2Proof.Machine

variable (s : State) (cls sev u : Nat) (detail : Word) (addr : Nat) (inj : Bool)

@[simp] theorem logErr_crp : (logErr s cls sev u detail addr inj).crp = s.crp := by
  obtain ⟨e, v, h⟩ := logErr_changes s cls sev u detail addr inj; rw [h]
@[simp] theorem logErr_sts : (logErr s cls sev u detail addr inj).sts = s.sts := by
  obtain ⟨e, v, h⟩ := logErr_changes s cls sev u detail addr inj; rw [h]
@[simp] theorem logErr_mem : (logErr s cls sev u detail addr inj).mem = s.mem := by
  obtain ⟨e, v, h⟩ := logErr_changes s cls sev u detail addr inj; rw [h]
@[simp] theorem logErr_wflags : (logErr s cls sev u detail addr inj).wflags = s.wflags := by
  obtain ⟨e, v, h⟩ := logErr_changes s cls sev u detail addr inj; rw [h]
@[simp] theorem logErr_memErr : (logErr s cls sev u detail addr inj).memErr = s.memErr := by
  obtain ⟨e, v, h⟩ := logErr_changes s cls sev u detail addr inj; rw [h]
@[simp] theorem logErr_sched : (logErr s cls sev u detail addr inj).sched = s.sched := by
  obtain ⟨e, v, h⟩ := logErr_changes s cls sev u detail addr inj; rw [h]

end Sys2Proof.Machine
end

section
/-!
PROOFS. Commands that reach cairns; clock switches, power, the watchdog and OTP.
-/
namespace Sys2Proof.Machine

/-! ### Cairns (R340, R341) -/

/-- A timed barrier past its release time whose count has reached its target opens (R340). -/
theorem settleTimed_opens {s : State} {n : Nat} (h2 : (cairnOf s n).typ = 2) (ht : (cairnOf s n).timed = true) (hf : (cairnOf s n).faulted = false)
    (hn : (cairnOf s n).t.toNat ≤ now s) (hv : (cairnOf s n).target ≤ (cairnOf s n).v.toNat) : settleTimed s n = barrierOpen s n false := by
  simp [settleTimed, h2, ht, hf, hn, hv]

/-- Before its release time, or short of its target, a barrier does not open by itself (R340). -/
theorem settleTimed_waits {s : State} {n : Nat} (h : now s < (cairnOf s n).t.toNat ∨ (cairnOf s n).v.toNat < (cairnOf s n).target) :
    settleTimed s n = s := by
  rcases h with h | h <;> simp [settleTimed, Nat.not_le.2 h]

/-- A write to CN_ADDn has its one meaning. -/
theorem exec_cnAddn (who : Agent) (k : Fin 65536) (n : Word) (s : State) : exec (.cnAddn who k n) s = execCnAddn who k n s := rfl

section
variable {s : State} (hc : noClock s 1 = false)
include hc

/-- TIMED_BARRIER_OPEN while the cairn network has its clock. -/
theorem exec_timedBarrierOpen (k : Fin 65536) : exec (.timedBarrierOpen k) s = .next (settleTimed s k.val) := by
  change execTimedBarrierOpen k s = _
  simp [execTimedBarrierOpen, hc]

/-- A write to CN_ADDn by a chamber while the cairn network has its clock. -/
theorem exec_cnAddn_chamber (ch : Fin 144) (k : Fin 65536) (n : Word) :
    exec (.cnAddn (.chamber ch) k n) s = .next (chmWrote ch (0x1809000008 + 16 * k.val)
      (if ownsCairn s (coreOf s ch.val) k.val then .ok (cairnAdd s k.val n) else .bus s)) := by
  simp [exec_cnAddn, execCnAddn, hc, wroteBy]

end

/-- A context owns a cairn that is set for it (R333). -/
theorem ownsCairn_iff {s : State} {c : Core} {n : Nat} : ownsCairn s c n = true ↔ (cairnOf s n).typ ≠ 0 ∧ (cairnOf s n).ctx = c.ctx := by
  simp [ownsCairn]

/-- Settles O29, command by command. -/
theorem cairnCommands : Obligations.CairnCommands := by
  unfold Obligations.CairnCommands
  intro k n ch s hc
  refine ⟨fun h2 ht hf hn hv => ?opens, fun h => ?waits, ?lantern, fun ht hx => ?owner, fun h => ?other, ?host⟩
  case opens => rw [exec_timedBarrierOpen hc, settleTimed_opens h2 ht hf hn hv]
  case waits => rw [exec_timedBarrierOpen hc, settleTimed_waits h]
  case lantern => simp [exec_cnAddn, execCnAddn, hc]
  case owner => rw [exec_cnAddn_chamber hc, if_pos (ownsCairn_iff.2 ⟨ht, hx⟩), chmWrote]
  case other =>
    have hno : ¬ownsCairn s (coreOf s ch.val) k.val = true := fun ho => h.elim (ownsCairn_iff.1 ho).1 fun hx => hx (ownsCairn_iff.1 ho).2
    rw [exec_cnAddn_chamber hc, if_neg hno, chmWrote]
  case host => simp [exec_cnAddn, execCnAddn, hc]

/-! ### Clock switches (R385) -/

/-- A write that changes sel starts a switch. -/
theorem crpClksel_starts {s : State} {d : Nat} {v : Word} (hb : (Tab.get {} s.crp.clksel d).busy = false)
    (hv : v.getLsbD 0 ≠ (Tab.get {} s.crp.clksel d).sel) :
    crpClksel s d v = { s with crp := { s.crp with clksel := Tab.put {} s.crp.clksel d { sel := v.getLsbD 0, busy := true } } } := by
  simp only [crpClksel, hb, hv, decide_false, Bool.or_self, Bool.false_eq_true, if_false]

/-- A write during a switch, or of the sel in force, changes nothing. -/
theorem crpClksel_ignored {s : State} {d : Nat} {v : Word} (h : (Tab.get {} s.crp.clksel d).busy = true ∨ v.getLsbD 0 = (Tab.get {} s.crp.clksel d).sel) :
    crpClksel s d v = s := by
  simp only [crpClksel, Bool.or_eq_true, decide_eq_true_eq, h, if_true]

/-- A switch ends while both clocks run. -/
theorem exec_clockSwitchDone_ends {s : State} {d : Fin 4} (hb : (Tab.get {} s.crp.clksel d.val).busy = true) (hr : s.crp.stopRef = false)
    (hp : s.crp.stopPll.getLsbD d.val = false) :
    exec (.clockSwitchDone d) s =
      .next { s with crp := { s.crp with clksel := Tab.put {} s.crp.clksel d.val { Tab.get {} s.crp.clksel d.val with busy := false } } } := by
  change execClockSwitchDone d s = _
  simp only [execClockSwitchDone, hb, hr, hp, Bool.not_false, Bool.and_self, if_true]

/-- A switch does not end while either clock is stopped. -/
theorem exec_clockSwitchDone_waits {s : State} {d : Fin 4} (h : s.crp.stopPll.getLsbD d.val = true ∨ s.crp.stopRef = true) :
    exec (.clockSwitchDone d) s = .next s := by
  change execClockSwitchDone d s = _
  rcases h with h | h <;> simp [execClockSwitchDone, h]

/-! ### The voltage loop (R397) -/

/-- The voltage that the loop sets for a need: the need itself within the window, and the window's end nearest to it outside. -/
def loopVolts (c : Crp) (need : Nat) : Nat := if c.vmax < need then c.vmax else max c.vmin need

/-- What the loop leaves: the voltage it sets, and vlimit where the window is too low. -/
theorem exec_adaptiveVoltageLoop (s : State) (need : BitVec 10) :
    ∃ t, exec (.adaptiveVoltageLoop need) s = .next t ∧ t.crp.vcore = BitVec.ofNat 10 (loopVolts s.crp need.toNat) ∧
      t.crp.vlimit = decide (s.crp.vmax < need.toNat) := ⟨_, rfl, rfl, rfl⟩

/-- The loop's voltage lies in a window that is not empty. -/
theorem loopVolts_window {c : Crp} (h : c.vmin ≤ c.vmax) (need : Nat) : c.vmin ≤ loopVolts c need ∧ loopVolts c need ≤ c.vmax := by
  unfold loopVolts
  split <;> omega

/-! ### Temperature and the limiter (R15, R398) -/

/-- A measurement of temperature sets Tj and the alarm, and changes nothing else of the clock and power block or the status words. -/
theorem measureTj_changes (s : State) (tj : BitVec 8) :
    (measureTj s tj).crp = { s.crp with tj := tj } ∧
    (measureTj s tj).sts = { s.sts with thermal := decide (Int.ofNat s.crp.twarn < tj.toInt) && decide (s.sts.state = 3) } := by
  unfold measureTj deviceEvent
  dsimp only
  split
  · simp [aboveTwarn]
  · exact ⟨rfl, rfl⟩

/-- The power block after a measurement of the limiter. -/
theorem measure_crp (s : State) (pw : BitVec 9) (tj : BitVec 8) : (measure s pw tj).crp = { s.crp with power := pw, tj := tj } :=
  (measureTj_changes _ tj).1

/-- The limiter's cause: power over 320 W or a lower cap, or Tj at 105 °C. -/
theorem limiterCause_iff {c : Crp} : limiterCause c = true ↔ min c.cap 320 < c.power.toNat ∨ 105 ≤ c.tj.toInt := by simp [limiterCause]

/-- The limiter with cause: one more sixteenth. -/
theorem exec_limiterAct_acts {s : State} {pw : BitVec 9} {tj : BitVec 8} (h : min s.crp.cap 320 < pw.toNat ∨ 105 ≤ tj.toInt) :
    ∃ t, exec (.limiterAct pw tj) s = .next t ∧
      t.crp = { s.crp with power := pw, tj := tj, limiting := true, limSteps := min 16 (s.crp.limSteps + 1) } := by
  have hc : limiterCause (measure s pw tj).crp = true := by rw [measure_crp]; exact limiterCause_iff.2 h
  change ∃ t, execLimiterAct pw tj s = .next t ∧ _
  simp only [execLimiterAct, hc, if_true]
  refine ⟨_, rfl, ?_⟩
  split
  · rw [measure_crp]
  · rw [logErr_crp, measure_crp]

/-- The limiter without cause: the measurement alone. -/
theorem exec_limiterAct_measures {s : State} {pw : BitVec 9} {tj : BitVec 8} (h : ¬(min s.crp.cap 320 < pw.toNat ∨ 105 ≤ tj.toInt)) :
    exec (.limiterAct pw tj) s = .next (measure s pw tj) := by
  have hc : limiterCause (measure s pw tj).crp = false := by rw [measure_crp]; exact Bool.eq_false_iff.2 fun hx => h (limiterCause_iff.1 hx)
  change execLimiterAct pw tj s = _
  simp only [execLimiterAct, hc, Bool.false_eq_true, if_false]

/-- Once the cause has passed, a limiter that acts gives one sixteenth back. -/
theorem exec_limiterRelease_gives {s : State} (hl : s.crp.limiting = true) (h : ¬(min s.crp.cap 320 < s.crp.power.toNat ∨ 105 ≤ s.crp.tj.toInt)) :
    ∃ t, exec .limiterRelease s = .next t ∧ t.crp.limSteps = s.crp.limSteps - 1 ∧ t.crp.limiting = decide (s.crp.limSteps - 1 ≠ 0) := by
  have hc : limiterCause s.crp = false := Bool.eq_false_iff.2 fun hx => h (limiterCause_iff.1 hx)
  change ∃ t, execLimiterRelease s = .next t ∧ _
  simp only [execLimiterRelease, hl, hc, Bool.not_true, Bool.or_self, Bool.false_eq_true, if_false]
  exact ⟨_, rfl, rfl, rfl⟩

/-- A limiter that does not act, or still has cause, gives nothing back. -/
theorem exec_limiterRelease_keeps {s : State} (h : s.crp.limiting = false ∨ min s.crp.cap 320 < s.crp.power.toNat ∨ 105 ≤ s.crp.tj.toInt) :
    exec .limiterRelease s = .next s := by
  change execLimiterRelease s = _
  rw [← limiterCause_iff] at h
  rcases h with h | h <;> simp [execLimiterRelease, h]

/-! ### OTP (R406) -/

section
variable {s : State} (hp : s.sec.pulse = true) (ho : s.crp.otpReset = none)
include hp ho

/-- A pulse programs a bit of the security version while that is short of the image's. -/
theorem exec_otpProgramPulseEnd_version (h : s.sec.secver < s.sec.imgSecver) :
    ∃ t, exec .otpProgramPulseEnd s = .next t ∧ t.sec.secver = s.sec.secver + 1 ∧ t.sec.revoked = s.sec.revoked := by
  change ∃ t, execOtpProgramPulseEnd s = .next t ∧ _
  simp only [execOtpProgramPulseEnd, hp, ho, h, Bool.not_true, Bool.false_eq_true, if_false, if_true]
  exact ⟨_, rfl, rfl, rfl⟩

/-- A pulse programs the first missing revocation once the security version is that of the image. -/
theorem exec_otpProgramPulseEnd_revocation {k : Nat} (h : s.sec.imgSecver ≤ s.sec.secver)
    (hk : (List.range 4).find? (fun i => (s.sec.imgRevoke &&& ~~~s.sec.revoked).getLsbD i) = some k) :
    ∃ t, exec .otpProgramPulseEnd s = .next t ∧ t.sec.secver = s.sec.secver ∧ t.sec.revoked = setBit s.sec.revoked k true := by
  change ∃ t, execOtpProgramPulseEnd s = .next t ∧ _
  simp only [execOtpProgramPulseEnd, hp, ho, hk, Nat.not_lt.2 h, Bool.not_true, Bool.false_eq_true, if_false]
  exact ⟨_, rfl, rfl, rfl⟩

end

/-- Settles O53, command by command. -/
theorem clocksAndPower : Obligations.ClocksAndPower := by
  unfold Obligations.ClocksAndPower
  intro s w
  refine ⟨fun d v hb hv => ?switch, fun d v h => ?ignored, fun d hb hr hp => ?done, fun d h => exec_clockSwitchDone_waits h, fun need hw hx => ?volts,
    fun pw tj => ⟨fun h => ?acts, fun h => ?measures⟩, ⟨exec_limiterRelease_gives, exec_limiterRelease_keeps⟩, fun tj => ?alarm, fun v => ?watchdog,
    exec_otpProgramPulseEnd_version, fun k hp ho h hk => exec_otpProgramPulseEnd_revocation hp ho h hk, fun hp => ?noPulse⟩
  case switch => exact ⟨_, rfl, by rw [crpClksel_starts hb hv]; exact Tab.get_put_same _ _ _ _ w⟩
  case ignored => exact congrArg _ (crpClksel_ignored h)
  case done => exact ⟨_, exec_clockSwitchDone_ends hb hr hp, Tab.get_put_same _ _ _ _ w⟩
  case volts =>
    obtain ⟨t, ht, hv, hl⟩ := exec_adaptiveVoltageLoop s need
    obtain ⟨hlo, hhi⟩ := loopVolts_window hw need.toNat
    have hn : t.crp.vcore.toNat = loopVolts s.crp need.toNat := by rw [hv, BitVec.toNat_ofNat, Nat.mod_eq_of_lt (by omega)]
    refine ⟨t, ht, by omega, by omega, fun h => ⟨?_, ?_⟩, fun h => ⟨?_, ?_⟩⟩
    · rw [hn, loopVolts, if_neg (by omega)]
    · rw [hl, decide_eq_false (by omega)]
    · rw [hn, loopVolts, if_pos h]
    · rw [hl, decide_eq_true h]
  case acts =>
    obtain ⟨t, ht, hc⟩ := exec_limiterAct_acts h
    exact ⟨t, ht, by rw [hc], by rw [hc], by rw [hc]⟩
  case measures => exact ⟨_, exec_limiterAct_measures h, by rw [measure_crp], by rw [measure_crp], by rw [measure_crp], by rw [measure_crp]⟩
  case alarm =>
    obtain ⟨hc, hs⟩ := measureTj_changes s tj
    exact ⟨_, rfl, by rw [hc], by rw [hs]⟩
  case watchdog =>
    refine ⟨crpWdt s v, rfl, rfl, fun h h' => if_pos ⟨h, h'⟩, fun h => if_neg (by omega), ?_⟩
    simp [crpWdt]
  case noPulse =>
    change execOtpProgramPulseEnd s = _
    simp [execOtpProgramPulseEnd, hp]

end Sys2Proof.Machine
end

section
/-!
PROOFS. The patrol scrub: what the scrub of one access does, and all of them together.
-/
namespace Sys2Proof.Machine

/-! ### Logged memory errors and rewritten words (R181, R185) -/

/-- A word that is marked POISON. -/
def poisonFlags : WFlags := { poison := true, missing := false }

/-- Counting an ECC error changes chambers alone (R209). -/
theorem countPocketEcc_changes (s : State) (k : Nat) (ue : Bool) : ∃ c, countPocketEcc s k ue = { s with chms := c } := by
  unfold countPocketEcc
  split <;> exact ⟨_, rfl⟩

/-- Marking a unit under a condition changes the unit table alone (R416). -/
theorem ite_markUnit_changes (b : Bool) (s : State) (u st cls : Nat) : ∃ x, (if b then markUnit s u st cls else s) = { s with units := x } := by
  cases b <;> exact ⟨_, rfl⟩

/-- A corrected error is counted and logged: memory, its flags and its latent errors stay (R181). -/
theorem correctedAt_changes (s : State) (k a : Nat) : ∃ e v c, correctedAt s k a = { draw s with err := e, lvic := v, chms := c } := by
  obtain ⟨e, v, hl⟩ := logErr_changes (draw s) (if decide (k < 0x0C00000000) then 3 else 1) 0 (memUnit k) (Config.syndrome s.free) a false
  obtain ⟨c, hc⟩ := countPocketEcc_changes { draw s with err := e, lvic := v } k false
  exact ⟨e, v, c, by rw [correctedAt, hl, hc]⟩

/-- An uncorrectable error is counted and logged and no longer latent: memory and its flags stay (R185). -/
theorem uncorrectableAt_changes (s : State) (k a : Nat) : ∃ e v c x,
    uncorrectableAt s k a = { draw s with err := e, lvic := v, chms := c, memErr := Tab.put .none_ s.memErr (eccKey k) .none_, units := x } := by
  obtain ⟨e, v, hl⟩ := logErr_changes (draw s) (if decide (k < 0x0C00000000) then 4 else 2) 1 (memUnit k) (Config.syndrome s.free) a false
  obtain ⟨c, hc⟩ := countPocketEcc_changes { draw s with err := e, lvic := v } k true
  obtain ⟨x, hx⟩ := ite_markUnit_changes _
    { draw s with err := e, lvic := v, chms := c, memErr := Tab.put .none_ s.memErr (eccKey k) .none_ } (memUnit k) 1 4
  refine ⟨e, v, c, x, ?_⟩
  rw [uncorrectableAt, hl, hc]
  exact hx

section
variable (s : State) (k a : Nat)

@[simp] theorem correctedAt_mem : (correctedAt s k a).mem = s.mem := by obtain ⟨e, v, c, h⟩ := correctedAt_changes s k a; rw [h]; rfl
@[simp] theorem correctedAt_wflags : (correctedAt s k a).wflags = s.wflags := by obtain ⟨e, v, c, h⟩ := correctedAt_changes s k a; rw [h]; rfl
@[simp] theorem correctedAt_memErr : (correctedAt s k a).memErr = s.memErr := by obtain ⟨e, v, c, h⟩ := correctedAt_changes s k a; rw [h]; rfl
@[simp] theorem correctedAt_sched : (correctedAt s k a).sched = s.sched := by obtain ⟨e, v, c, h⟩ := correctedAt_changes s k a; rw [h]; rfl
@[simp] theorem uncorrectableAt_mem : (uncorrectableAt s k a).mem = s.mem := by obtain ⟨e, v, c, x, h⟩ := uncorrectableAt_changes s k a; rw [h]; rfl
@[simp] theorem uncorrectableAt_wflags : (uncorrectableAt s k a).wflags = s.wflags := by
  obtain ⟨e, v, c, x, h⟩ := uncorrectableAt_changes s k a; rw [h]; rfl
@[simp] theorem uncorrectableAt_memErr : (uncorrectableAt s k a).memErr = Tab.put .none_ s.memErr (eccKey k) .none_ := by
  obtain ⟨e, v, c, x, h⟩ := uncorrectableAt_changes s k a; rw [h]
@[simp] theorem uncorrectableAt_sched : (uncorrectableAt s k a).sched = s.sched := by
  obtain ⟨e, v, c, x, h⟩ := uncorrectableAt_changes s k a; rw [h]; rfl

end

/-- Rewriting words leaves the latent errors alone. -/
@[simp] theorem poisonWords_memErr (n : Nat) (s : State) (k : Nat) : (poisonWords s k n).memErr = s.memErr := by
  induction n generalizing s k with
  | zero => rfl
  | succ n ih => rw [poisonWords, ih]; rfl

/-- Rewriting words keeps the canonical form of memory and of its flags. -/
theorem poisonWords_wf (n : Nat) {s : State} (k : Nat) (wm : Memory.wf s.mem = true) (wf : Tab.wf noFlags s.wflags = true) :
    Memory.wf (poisonWords s k n).mem = true ∧ Tab.wf noFlags (poisonWords s k n).wflags = true := by
  induction n generalizing s k with
  | zero => exact ⟨wm, wf⟩
  | succ n ih => exact ih (k + 8) (Memory.wf_setBytes wm) (Tab.wf_put wf)

/-- What a byte reads after zeros were written over a range. -/
theorem Memory.byte_setBytes_zeros {m : Memory} (w : m.wf = true) (k n x : Nat) :
    (m.setBytes k (List.replicate n 0#8)).byte x = if k ≤ x ∧ x < k + n then 0#8 else m.byte x := by
  split
  case isTrue h =>
    have hx := Memory.byte_setBytes m k (List.replicate n 0#8) w (i := x - k) (by simp; omega)
    rwa [Nat.add_sub_cancel' h.1, List.getElem_replicate] at hx
  case isFalse h => exact Memory.byte_setBytes_other _ _ _ (by simp; omega)

/-- Two choices of one value are a choice under either condition. -/
theorem ite_ite_same {α : Type} {p q r : Prop} [Decidable p] [Decidable q] [Decidable r] {x y : α} (h : p ∨ q ↔ r) :
    (if p then x else if q then x else y) = if r then x else y := by
  by_cases hp : p
  · rw [if_pos hp, if_pos (h.1 (.inl hp))]
  · rw [if_neg hp]
    exact ite_congr (propext ((or_iff_right hp).symm.trans h)) (fun _ => rfl) fun _ => rfl

/-- The bytes of rewritten words are zero, and no other byte changes. -/
theorem byte_poisonWords (n : Nat) {s : State} (k x : Nat) (w : Memory.wf s.mem = true) :
    Memory.byte (poisonWords s k n).mem x = if k ≤ x ∧ x < k + 8 * n then 0#8 else Memory.byte s.mem x := by
  induction n generalizing s k with
  | zero => exact (if_neg (by omega)).symm
  | succ n ih =>
    rw [poisonWords, ih (k + 8) (Memory.wf_setBytes w)]
    change (if _ then _ else Memory.byte (Memory.setBytes s.mem k _) x) = _
    rw [Memory.byte_setBytes_zeros w]
    exact ite_ite_same (by omega)

/-- Rewritten words are marked POISON, and no other word's flags change. -/
theorem flagsAt_poisonWords (n : Nat) {s : State} (k x : Nat) (hk : k % 8 = 0) (w : Tab.wf noFlags s.wflags = true) :
    flagsAt (poisonWords s k n) x = if k ≤ x ∧ x < k + 8 * n then poisonFlags else flagsAt s x := by
  induction n generalizing s k with
  | zero => exact (if_neg (by omega)).symm
  | succ n ih =>
    rw [poisonWords, ih (k + 8) (by omega) (Tab.wf_put w)]
    change (if _ then _ else Tab.get noFlags (Tab.put noFlags s.wflags (k / 8) poisonFlags) (x / 8)) = _
    rw [Tab.get_put w]
    exact ite_ite_same (by omega)

/-! ### One access of the scrub -/

/-- Does the scrub of a listed error rewrite the block that holds a byte? -/
def scrubPoisons (e : Nat × EccErr) (k : Nat) : Prop := e.1 * 8 < 0x0C00000000 ∧ e.2 = .ue ∧ k / 32 = e.1 / 4

/-- Does the scrub of a listed error clear the latent error of a key: its own, or that of the block it rewrites? -/
def scrubClears (e : Nat × EccErr) (n : Nat) : Prop := e.1 * 8 < 0x0C00000000 ∧ (e.2 = .ce ∧ n = e.1 ∨ e.2 = .ue ∧ n = e.1 / 4 * 4)

/-- What the scrub rests on: memory, its flags and its latent errors in canonical form. -/
structure ScrubForm (s : State) : Prop where
  mem : Memory.wf s.mem = true
  memErr : Tab.wf .none_ s.memErr = true
  wflags : Tab.wf noFlags s.wflags = true

/-- The key of the code unit that an HBM word lies in (R181). -/
theorem eccKey_hbm_word {n : Nat} (h : n * 8 < 0x0C00000000) : eccKey (n * 8) = n / 4 * 4 := by rw [eccKey, if_pos h]; omega

/-- The scrub of one access, by what it can meet: no error of HBM, a corrected one, an uncorrectable one, whose 32-byte block it rewrites. -/
theorem scrubOne_cases {P : State → Prop} (s : State) (e : Nat × EccErr) (hno : (e.1 * 8 < 0x0C00000000 → e.2 = .none_) → P s)
    (hce : e.1 * 8 < 0x0C00000000 → e.2 = .ce → ∀ t, t = correctedAt s (e.1 * 8) (e.1 * 8) → P { t with memErr := Tab.put .none_ t.memErr e.1 .none_ })
    (hue : e.1 * 8 < 0x0C00000000 → e.2 = .ue → P (poisonWords (uncorrectableAt s (e.1 * 8) (e.1 * 8)) (e.1 / 4 * 32) 4)) : P (scrubOne s e) := by
  unfold scrubOne
  split
  case isTrue h => exact hno fun hx => absurd hx (by omega)
  case isFalse h =>
    have hx : e.1 * 8 < 0x0C00000000 := Nat.not_le.1 h
    split
    · next he => exact hce hx he _ rfl
    · next he =>
      rw [rewriteUnit, if_pos hx, show e.1 * 8 / 32 * 32 = e.1 / 4 * 32 by omega]
      exact hue hx he
    · next he => exact hno fun _ => he

/-- The block that the scrub of an uncorrectable error rewrites. -/
theorem inBlock_iff_scrubPoisons {e : Nat × EccErr} (h : e.1 * 8 < 0x0C00000000) (he : e.2 = .ue) {k : Nat} :
    (e.1 / 4 * 32 ≤ k ∧ k < e.1 / 4 * 32 + 8 * 4) ↔ scrubPoisons e k := by
  simp only [scrubPoisons, h, he, true_and]
  omega

/-- The scrub of one access keeps the canonical form. -/
theorem scrubOne_form {s : State} (w : ScrubForm s) (e : Nat × EccErr) : ScrubForm (scrubOne s e) := by
  refine scrubOne_cases s e (fun _ => w) (fun _ _ t ht => ?_) fun _ _ => ?_
  · subst ht
    exact ⟨by simpa using w.mem, by simpa using Tab.wf_put w.memErr, by simpa using w.wflags⟩
  · obtain ⟨wm, wf⟩ := poisonWords_wf 4 (s := uncorrectableAt s (e.1 * 8) (e.1 * 8)) (e.1 / 4 * 32) (by simpa using w.mem) (by simpa using w.wflags)
    exact ⟨wm, by simpa using Tab.wf_put w.memErr, wf⟩

open Classical in
/-- The latent errors after the scrub of one access. -/
theorem get_memErr_scrubOne {s : State} (w : ScrubForm s) (e : Nat × EccErr) (n : Nat) :
    Tab.get .none_ (scrubOne s e).memErr n = if scrubClears e n then .none_ else Tab.get .none_ s.memErr n := by
  refine scrubOne_cases (P := fun t => Tab.get .none_ t.memErr n = _) s e (fun h => ?_) (fun h he t ht => ?_) fun h he => ?_
  · rw [if_neg]
    rintro ⟨hx, h1 | h1⟩ <;> simp [h hx] at h1
  · simp [ht, Tab.get_put w.memErr, scrubClears, h, he]
  · simp [Tab.get_put w.memErr, scrubClears, eccKey_hbm_word h, h, he]

open Classical in
/-- The bytes after the scrub of one access. -/
theorem byte_scrubOne {s : State} (w : ScrubForm s) (e : Nat × EccErr) (k : Nat) :
    Memory.byte (scrubOne s e).mem k = if scrubPoisons e k then 0#8 else Memory.byte s.mem k := by
  refine scrubOne_cases (P := fun t => Memory.byte t.mem k = _) s e (fun h => ?_) (fun h he t ht => ?_) fun h he => ?_
  · rw [if_neg fun hp => ?_]
    simpa [h hp.1] using hp.2.1
  · simp [ht, scrubPoisons, he]
  · rw [byte_poisonWords 4 _ _ (by simpa using w.mem), uncorrectableAt_mem]
    exact ite_congr (propext (inBlock_iff_scrubPoisons h he)) (fun _ => rfl) fun _ => rfl

open Classical in
/-- The flags of words after the scrub of one access. -/
theorem flagsAt_scrubOne {s : State} (w : ScrubForm s) (e : Nat × EccErr) (k : Nat) :
    flagsAt (scrubOne s e) k = if scrubPoisons e k then poisonFlags else flagsAt s k := by
  refine scrubOne_cases (P := fun t => flagsAt t k = _) s e (fun h => ?_) (fun h he t ht => ?_) fun h he => ?_
  · rw [if_neg fun hp => ?_]
    simpa [h hp.1] using hp.2.1
  · simp [ht, scrubPoisons, he, flagsAt]
  · rw [flagsAt_poisonWords 4 _ _ (by omega) (by simpa using w.wflags), flagsAt, flagsAt, uncorrectableAt_wflags]
    exact ite_congr (propext (inBlock_iff_scrubPoisons h he)) (fun _ => rfl) fun _ => rfl

/-- Without an uncorrectable error the scrub of one access leaves memory and its flags alone. -/
theorem scrubOne_keeps {s : State} {e : Nat × EccErr} (h : e.2 ≠ .ue) : (scrubOne s e).mem = s.mem ∧ (scrubOne s e).wflags = s.wflags :=
  scrubOne_cases (P := fun t => t.mem = s.mem ∧ t.wflags = s.wflags) s e (fun _ => ⟨rfl, rfl⟩) (fun _ _ t ht => by simp [ht]) fun _ he => absurd he h

/-! ### All of HBM -/

/-- A listed entry that is not the default reads as itself. -/
theorem Tab.mem_of_get_ne {α : Type} {d : α} {t : Tab α} {n : Nat} (h : Tab.get d t n ≠ d) : (n, Tab.get d t n) ∈ t := by
  induction t with
  | nil => exact absurd rfl h
  | cons e t ih =>
    obtain ⟨k, v⟩ := e
    by_cases hk : k = n
    · simp [Tab.get, hk]
    · simp only [Tab.get, hk, if_false] at h ⊢
      exact List.mem_cons_of_mem _ (ih h)

/-- What one step of a fold makes, and no step undoes, holds after the fold. -/
theorem foldl_makes {σ α : Type} {f : σ → α → σ} {I P : σ → Prop} {l : List α} {x : α} {s : σ} (hx : x ∈ l) (hs : I s)
    (hI : ∀ s y, I s → I (f s y)) (keeps : ∀ s y, I s → P s → P (f s y)) (makes : ∀ s, I s → P (f s x)) : P (l.foldl f s) := by
  obtain ⟨a, b, rfl⟩ := List.append_of_mem hx
  rw [List.foldl_append, List.foldl_cons]
  have ha : I (a.foldl f s) := List.foldlRecOn (motive := I) a f hs fun t ht y _ => hI t y ht
  exact (List.foldlRecOn (motive := fun t => I t ∧ P t) b f ⟨hI _ x ha, makes _ ha⟩ fun t ht y _ => ⟨hI t y ht.1, keeps t y ht.1 ht.2⟩).2

/-- The state that the patrol scrub leaves. -/
def scrubbed (s : State) : State := s.memErr.foldl scrubOne s

/-- The patrol scrub leaves a code unit of HBM without a latent error (R181). -/
theorem get_memErr_scrubbed {s : State} (w : ScrubForm s) {k : Nat} (h : k < 0x0C00000000) : Tab.get .none_ (scrubbed s).memErr (eccKey k) = .none_ := by
  have hk : eccKey k * 8 < 0x0C00000000 ∧ eccKey k / 4 * 4 = eccKey k := by rw [eccKey, if_pos h]; omega
  have keeps : ∀ t e, ScrubForm t → Tab.get .none_ t.memErr (eccKey k) = .none_ → Tab.get .none_ (scrubOne t e).memErr (eccKey k) = .none_ := by
    intro t e wt ht
    rw [get_memErr_scrubOne wt, ht, ite_self]
  by_cases hs : Tab.get .none_ s.memErr (eccKey k) = .none_
  · exact (List.foldlRecOn (motive := fun t => ScrubForm t ∧ Tab.get .none_ t.memErr (eccKey k) = .none_) s.memErr scrubOne ⟨w, hs⟩
      fun t ht e _ => ⟨scrubOne_form ht.1 e, keeps t e ht.1 ht.2⟩).2
  · refine foldl_makes (Tab.mem_of_get_ne hs) w (fun t e wt => scrubOne_form wt e) keeps fun t wt => ?_
    rw [get_memErr_scrubOne wt, if_pos]
    refine ⟨hk.1, ?_⟩
    cases hv : Tab.get EccErr.none_ s.memErr (eccKey k) with
    | none_ => exact absurd hv hs
    | ce => exact .inl ⟨rfl, rfl⟩
    | ue => exact .inr ⟨rfl, hk.2.symm⟩

/-- The patrol scrub leaves what was uncorrectable zero and marked POISON (R185). -/
theorem scrubbed_poisons {s : State} (w : ScrubForm s) {k : Nat} (h : k < 0x0C00000000) (hu : Tab.get .none_ s.memErr (eccKey k) = .ue) :
    Memory.byte (scrubbed s).mem k = 0#8 ∧ flagsAt (scrubbed s) k = poisonFlags := by
  have hm : (eccKey k, EccErr.ue) ∈ s.memErr := hu ▸ Tab.mem_of_get_ne (by rw [hu]; decide)
  have hp : scrubPoisons (eccKey k, .ue) k := by
    rw [eccKey, if_pos h]
    exact ⟨by dsimp only; omega, rfl, by dsimp only; omega⟩
  refine foldl_makes (P := fun t => Memory.byte t.mem k = 0#8 ∧ flagsAt t k = poisonFlags) hm w
    (fun t e wt => scrubOne_form wt e) (fun t e wt ht => ?_) fun t wt => ?_
  · rw [byte_scrubOne wt, flagsAt_scrubOne wt, ht.1, ht.2, ite_self, ite_self]
    exact ⟨rfl, rfl⟩
  · rw [byte_scrubOne wt, flagsAt_scrubOne wt, if_pos hp, if_pos hp]
    exact ⟨rfl, rfl⟩

/-- The patrol scrub touches no latent error outside HBM. -/
theorem get_memErr_scrubbed_outside {s : State} (w : ScrubForm s) {n : Nat} (h : 0x0C00000000 ≤ n * 8) :
    Tab.get .none_ (scrubbed s).memErr n = Tab.get .none_ s.memErr n := by
  refine (List.foldlRecOn (motive := fun t => ScrubForm t ∧ Tab.get .none_ t.memErr n = Tab.get .none_ s.memErr n) s.memErr scrubOne ⟨w, rfl⟩
    fun t ht e _ => ⟨scrubOne_form ht.1 e, ?_⟩).2
  rw [get_memErr_scrubOne ht.1, if_neg, ht.2]
  rintro ⟨hx, ⟨-, hn⟩ | ⟨-, hn⟩⟩ <;> omega

/-- Without an uncorrectable error the patrol scrub leaves memory and its flags alone. -/
theorem scrubbed_keeps {s : State} (h : ∀ e ∈ s.memErr, e.2 ≠ .ue) : (scrubbed s).mem = s.mem ∧ (scrubbed s).wflags = s.wflags := by
  refine List.foldlRecOn (motive := fun t => t.mem = s.mem ∧ t.wflags = s.wflags) s.memErr scrubOne ⟨rfl, rfl⟩ fun t ht e he => ?_
  obtain ⟨hm, hf⟩ := scrubOne_keeps (s := t) (h e he)
  exact ⟨hm.trans ht.1, hf.trans ht.2⟩

end Sys2Proof.Machine
end

section
/-!
PROOFS. Faults of units, deadlines, and what a fence does in a chamber.
-/
namespace Sys2Proof.Machine

/-! ### The order of fences (R25, R301) -/

/-- A fence comes before another by deadline, then air slot, then entry. -/
theorem dueBefore_iff {j x : Job} : dueBefore j x = true ↔
    j.deadline < x.deadline ∨ j.deadline = x.deadline ∧ (j.aslot < x.aslot ∨ j.aslot = x.aslot ∧ j.idx < x.idx) := by simp [dueBefore]

/-- Of two fences at most one comes before the other. -/
theorem dueBefore_asymm {j x : Job} (h : dueBefore j x = true) : dueBefore x j = false := by
  rw [Bool.eq_false_iff, ne_eq, dueBefore_iff]
  rw [dueBefore_iff] at h
  omega

/-- A fence that comes not before one comes not before any fence ahead of that. -/
theorem dueBefore_false_trans {j x y : Job} (hy : dueBefore y x = false) (hj : dueBefore j x = true) : dueBefore y j = false := by
  rw [Bool.eq_false_iff, ne_eq, dueBefore_iff] at hy ⊢
  rw [dueBefore_iff] at hj
  omega

/-- In the order of fences: none comes before one ahead of it. -/
abbrev DueOrdered (l : List Job) : Prop := l.Pairwise fun p q => dueBefore q p = false

/-- Inserting a job adds it and nothing else. -/
theorem insertDue_perm (j : Job) (l : List Job) : (insertDue j l).Perm (j :: l) := by
  induction l with
  | nil => exact .refl _
  | cons x xs ih =>
    rw [insertDue]
    split
    · exact .refl _
    · exact (ih.cons x).trans (.swap j x xs)

/-- Inserting a job keeps the order of fences. -/
theorem insertDue_ordered (j : Job) {l : List Job} (h : DueOrdered l) : DueOrdered (insertDue j l) := by
  induction l with
  | nil => exact List.pairwise_singleton _ _
  | cons x xs ih =>
    obtain ⟨hx, hxs⟩ := List.pairwise_cons.1 h
    rw [insertDue]
    split
    case isTrue hj =>
      refine List.pairwise_cons.2 ⟨fun y hy => ?_, h⟩
      rcases List.mem_cons.1 hy with rfl | hy
      · exact dueBefore_asymm hj
      · exact dueBefore_false_trans (hx y hy) hj
    case isFalse hj =>
      refine List.pairwise_cons.2 ⟨fun y hy => ?_, ih hxs⟩
      rcases List.mem_cons.1 ((insertDue_perm j xs).mem_iff.1 hy) with rfl | hy
      · exact Bool.eq_false_iff.2 hj
      · exact hx y hy

/-- The jobs due are those in flight whose deadline is reached. -/
theorem dueJobs_perm (s : State) (t : Nat) : (dueJobs s t).Perm (s.sched.jobs.filter fun j => decide (j.deadline ≤ t)) := by
  have h : ∀ l acc : List Job, (l.foldl (fun l j => insertDue j l) acc).Perm (l ++ acc) := by
    intro l
    induction l with
    | nil => exact fun acc => .refl _
    | cons j l ih => exact fun acc => (ih _).trans (((insertDue_perm j acc).append_left l).trans List.perm_middle)
  simpa [dueJobs] using h _ []

/-- The jobs due stand in the order of their fences. -/
theorem dueJobs_ordered (s : State) (t : Nat) : DueOrdered (dueJobs s t) :=
  List.foldlRecOn (motive := DueOrdered) _ _ .nil fun _ h j _ => insertDue_ordered j h

/-- The jobs whose fences act with a job's stand in the order of their fences. -/
theorem dueUpTo_ordered (s : State) (j : Job) : DueOrdered (dueUpTo s j) := (dueJobs_ordered s j.deadline).filter _

/-- The jobs whose fences act with a job's: those in flight that are due and come before it, or have its tag. -/
theorem mem_dueUpTo {s : State} {j x : Job} :
    x ∈ dueUpTo s j ↔ (x ∈ s.sched.jobs ∧ x.deadline ≤ j.deadline) ∧ (dueBefore x j = true ∨ x.tag = j.tag) := by
  simp [dueUpTo, (dueJobs_perm s j.deadline).mem_iff]

/-- A job in flight that comes before another is due with it. -/
theorem mem_dueUpTo_of_before {s : State} {j y : Job} (hy : y ∈ s.sched.jobs) (h : dueBefore y j = true) : y ∈ dueUpTo s j :=
  mem_dueUpTo.2 ⟨⟨hy, by rw [dueBefore_iff] at h; omega⟩, .inl h⟩

/-- A job in flight is due with itself. -/
theorem mem_dueUpTo_self {s : State} {j : Job} (h : j ∈ s.sched.jobs) : j ∈ dueUpTo s j := mem_dueUpTo.2 ⟨⟨h, Nat.le_refl _⟩, .inr rfl⟩

/-- The last of the fences that act with a job's is one of its tag. -/
theorem dueUpTo_last {s : State} {j : Job} (h : j ∈ s.sched.jobs) : ∃ l x, dueUpTo s j = l ++ [x] ∧ x.tag = j.tag := by
  have hj := mem_dueUpTo_self h
  have hl := (List.dropLast_concat_getLast (List.ne_nil_of_mem hj)).symm
  generalize (dueUpTo s j).dropLast = l, (dueUpTo s j).getLast _ = x at hl
  refine ⟨l, x, hl, ?_⟩
  have hx : x ∈ dueUpTo s j := by simp [hl]
  have ho := dueUpTo_ordered s j
  rw [hl] at hj ho
  rcases List.mem_append.1 hj with hjl | hjx
  · have hb := (List.pairwise_append.1 ho).2.2 j hjl x (by simp)
    exact (mem_dueUpTo.1 hx).2.resolve_left fun hbx => Bool.noConfusion (hb.symm.trans hbx)
  · rw [List.mem_singleton.1 hjx]

/-- A job that no other in flight precedes and whose tag no other has is due alone. -/
theorem dueUpTo_alone {s : State} {j : Job} (hj : j ∈ s.sched.jobs) (h : ∀ x ∈ s.sched.jobs, x ≠ j → dueBefore x j = false ∧ x.tag ≠ j.tag)
    (hn : s.sched.jobs.Nodup) : dueUpTo s j = [j] := by
  have hd : (dueUpTo s j).Nodup := ((dueJobs_perm s j.deadline).nodup_iff.2 (hn.filter _)).filter _
  refine List.perm_singleton.1 ((List.perm_ext_iff_of_nodup hd (List.pairwise_singleton _ j)).2 fun x => ?_)
  rw [List.mem_singleton]
  refine ⟨fun hx => ?_, fun hx => by rw [hx]; exact mem_dueUpTo_self hj⟩
  obtain ⟨⟨hxs, -⟩, hor⟩ := mem_dueUpTo.1 hx
  refine Classical.byContradiction fun hne => ?_
  obtain ⟨hb, ht⟩ := h x hxs hne
  rcases hor with h1 | h1
  · exact Bool.noConfusion (hb.symm.trans h1)
  · exact ht h1

/-! ### A record of Nerzon leaves the schedule alone -/

@[simp] theorem poisonWords_sched (n : Nat) (s : State) (k : Nat) : (poisonWords s k n).sched = s.sched := by
  induction n generalizing s k with
  | zero => rfl
  | succ n ih => rw [poisonWords, ih]; rfl

@[simp] theorem partialCheck_sched (s : State) (w k a len : Nat) : (partialCheck s w k a len).sched = s.sched := by
  unfold partialCheck
  extract_lets lo n ek
  split
  · rfl
  · split
    · rfl
    · exact correctedAt_sched _ _ _
    · exact (poisonWords_sched _ _ _).trans (uncorrectableAt_sched _ _ _)

@[simp] theorem writeInWord_sched (s : State) (w a : Nat) (data : List Byte) (f : WFlags) : (writeInWord s w a data f).sched = s.sched := by
  unfold writeInWord
  split
  · rfl
  · dsimp only
    split <;> simp

@[simp] theorem writeFrom_sched (n : Nat) (s : State) (w a : Nat) (data : List Byte) (f : WFlags) : (writeFrom s w a data f n).sched = s.sched := by
  induction n generalizing s w with
  | zero => rfl
  | succ n ih => rw [writeFrom, ih, writeInWord_sched]

@[simp] theorem writeMem_sched (s : State) (a : Nat) (data : List Byte) (f : WFlags) : (writeMem s a data f).sched = s.sched := by
  unfold writeMem
  split
  · rfl
  · exact writeFrom_sched _ _ _ _ _ _

@[simp] theorem sendFlit_sched (s : State) (l : Nat) (vc : Option Nat) (done : Option (Nat × Packet)) (slots : List Byte) :
    (sendFlit s l vc done slots).sched = s.sched := rfl

@[simp] theorem sendParts_sched (s : State) (l vc dev : Nat) (p : Packet) (xs : List (List Byte)) : (sendParts s l vc dev p xs).sched = s.sched := by
  induction xs generalizing s with
  | nil => rfl
  | cons x xs ih =>
    cases xs with
    | nil => rfl
    | cons y ys => rw [sendParts, ih, sendFlit_sched]

@[simp] theorem drainLink_sched (l : Nat) (ws kept : List (Nat × Nat × Packet)) (s : State) : (drainLink l ws kept s).sched = s.sched := by
  induction ws generalizing kept s with
  | nil => rfl
  | cons w ws ih =>
    rw [drainLink]
    split
    · rw [ih, sendWhole, sendParts_sched]
    · exact ih _ _

@[simp] theorem toRoot_sched (s : State) (p : Packet) : (toRoot s p).sched = s.sched := drainLink_sched _ _ _ _

@[simp] theorem msi_sched (s : State) (vec : Nat) : (msi s vec).sched = s.sched := by
  unfold msi
  split
  · exact toRoot_sched _ _
  · split <;> rfl

@[simp] theorem ringStore_sched (s : State) (r : Ring) (a : Nat) (bs : List Byte) : (ringStore s r a bs).sched = s.sched := by
  unfold ringStore
  split
  · exact toRoot_sched _ _
  · split
    · rfl
    · exact writeMem_sched _ _ _ _

@[simp] theorem ringWriteBack_sched (s : State) (n : Nat) : (ringWriteBack s n).sched = s.sched := ringStore_sched _ _ _ _

@[simp] theorem ringPlace_sched (s : State) (n : Nat) (ws : List Word) (compl : Bool) : (ringPlace s n ws compl).sched = s.sched := by
  unfold ringPlace
  dsimp only
  split <;> simp

@[simp] theorem ringNerzon_sched (s : State) (n : Nat) (ws : List Word) (compl : Bool) : (ringNerzon s n ws compl).sched = s.sched := by
  unfold ringNerzon
  dsimp only
  split
  · rfl
  · split
    · exact ringPlace_sched _ _ _ _
    · rfl

/-! ### Deadlines (R301, R302) -/

/-- No job in flight has a tag. -/
theorem jobOf_eq_none_iff {s : State} {tag : Word} : jobOf s tag = none ↔ ∀ j ∈ s.sched.jobs, j.tag ≠ tag := by simp [jobOf, List.find?_eq_none]

/-- The job of a tag is in flight and has it. -/
theorem jobOf_some {s : State} {tag : Word} {j : Job} (h : jobOf s tag = some j) : j ∈ s.sched.jobs ∧ j.tag = tag :=
  ⟨List.mem_of_find?_eq_some h, by simpa using List.find?_some h⟩

/-- A job taken out of flight is no longer there. -/
theorem jobOf_dropJob (s : State) (tag : Word) : jobOf (dropJob s tag) tag = none :=
  jobOf_eq_none_iff.2 fun j hj => by simpa using (List.mem_filter.1 hj).2

/-- What a fence leaves in flight: the jobs of other tags that its chambers and its tasks leave (R301). -/
theorem fenceJob_jobs (s : State) (j : Job) (outcome : Nat) (chm : Option Nat) (detail : Word) :
    ∃ s', (fenceJob s j outcome chm detail).sched.jobs = (dropJob s' j.tag).sched.jobs := by
  refine ⟨fenceDec (fenceSiphons (j.chms.foldl (fun st c => fenceChamber j.tag st c.2) s) j.tag) j.tag, ?_⟩
  unfold fenceJob
  dsimp only
  rw [ringNerzon_sched]
  by_cases hs : j.strayed = true <;> by_cases ho : outcome = 1 <;> simp [hs, ho, noteCleaning]

/-- A job whose deadline has acted is no longer in flight. -/
theorem jobOf_deadlineJob (s : State) (j : Job) : jobOf (deadlineJob s j) j.tag = none := by
  unfold deadlineJob
  split
  · exact jobOf_dropJob _ _
  · obtain ⟨s', h⟩ := fenceJob_jobs s j 1 none 0
    rw [jobOf, h]
    exact jobOf_dropJob s' j.tag

/-- DEADLINE_FENCE has its one meaning. -/
theorem exec_deadlineFence (tag : Word) (s : State) : exec (.deadlineFence tag) s = execDeadlineFence tag s := rfl

/-- At its deadline a job ends, with those whose fences come before its own, and is no longer in flight. -/
theorem jobOf_foldl_deadlineJob {s : State} {j : Job} (h : j ∈ s.sched.jobs) : jobOf ((dueUpTo s j).foldl deadlineJob s) j.tag = none := by
  obtain ⟨l, x, hl, hx⟩ := dueUpTo_last h
  rw [hl, List.foldl_append, ← hx]
  exact jobOf_deadlineJob _ x

/-! ### A fence in a chamber (R119, R120, R175) -/

/-- What every changed entry and the default have, every entry has. -/
theorem Tab.get_mapListed_of {α : Type} [DecidableEq α] {P : α → Prop} {d : α} {f : Nat → α → α} (hd : P d) (hf : ∀ k v, P (f k v))
    (t : Tab α) (n : Nat) : P (Tab.get d (Tab.mapListed d f t) n) := by
  induction t with
  | nil => exact hd
  | cons e t ih =>
    obtain ⟨k, v⟩ := e
    rw [Tab.mapListed]
    split
    · exact ih
    · rw [Tab.get]
      split
      · exact hf k v
      · exact ih

/-- No array runs or holds a row in flight after a fence. -/
theorem fenceArrays_idle (a : Arrays) (n : Nat) :
    (Tab.get {} (fenceArrays a).arr n).run = none ∧ (Tab.get {} (fenceArrays a).arr n).fly = [] :=
  Tab.get_mapListed_of (P := fun x => x.run = none ∧ x.fly = []) ⟨rfl, rfl⟩ (fun _ _ => ⟨rfl, rfl⟩) a.arr n

/-- After a fence no interrupt is active or chosen; what is enabled and bound stays. -/
theorem fenceVic_parts (v : Vic) (e : Bool) :
    (fenceVic v e).stack = [] ∧ (fenceVic v e).chosen = none ∧ (fenceVic v e).en = v.en ∧ (fenceVic v e).bind = v.bind := by
  unfold fenceVic
  cases hc : v.chosen with
  | none => dsimp only; split <;> simp [vicRaise, hc]
  | some c => dsimp only; split <;> simp [vicRaise, repend]

/-! ### Faults of units (R301, R411, R417, R418) -/

/-- FAULT_FENCE answers the error it finds (R417). -/
theorem exec_faultFence_acts {s : State} {ch : Fin 144} {cls t0 : Nat} (h : unitFault s ch.val = some (cls, t0)) :
    exec (.faultFence ch) s = .next (retireChamber (faultFenceOn s ch.val (faultCode cls ch.val)) ch.val cls t0) := by
  change execFaultFence ch s = _
  rw [execFaultFence, h]

/-- FAULT_FENCE without an error changes nothing. -/
theorem exec_faultFence_idle {s : State} {ch : Fin 144} (h : unitFault s ch.val = none) : exec (.faultFence ch) s = .next s := by
  change execFaultFence ch s = _
  rw [execFaultFence, h]

/-- FENCE_TIMEOUT logs and retires a part in service that has not ended its cleaning 1 µs after its fence (R301). -/
theorem exec_fenceTimeout_acts {s : State} {u : BitVec 16} {tag : Word} {c : Cleaning} (hc : s.sched.cleaning.find? (fun c => decide (c.tag = tag)) = some c)
    (ht : c.at_ + 1000 ≤ now s) (hp : partOf c u.toNat = true) (hr : retired s u.toNat = false) :
    exec (.fenceTimeout u tag) s =
      .next (retireUnit (logErr s 7 2 u.toNat (if u.toNat < 144 then causeWord (coreOf s u.toNat) else 0) 0 false) u.toNat 7) := by
  change execFenceTimeout u tag s = _
  simp [execFenceTimeout, hc, ht, hp, hr]

/-- A parity error of a DEC unit in service is logged and retires it (R411, R418). -/
theorem decParityErr_acts {s : State} {u : Nat} (h : retired s (decUnit u) = false) (inj : Bool) :
    decParityErr s u inj = retireDec (logErr s 9 2 (decUnit u) 0 0 inj) u 9 := by simp [decParityErr, h]

/-- A retired DEC unit has no more parity errors. -/
theorem decParityErr_retired {s : State} {u : Nat} (h : retired s (decUnit u) = true) (inj : Bool) : decParityErr s u inj = s := by simp [decParityErr, h]

/-- An error of the data fabric that a retry does not mend is logged and retires the gallery (R411, R418). -/
theorem fabricErr_acts {s : State} {g : Nat} (h : retired s (0x1000 + g) = false) (inj : Bool) :
    fabricErr s g false inj = retireGallery (logErr s 8 2 (0x1000 + g) 0 0 inj) g 8 true := by simp [fabricErr, h]

/-- A retired gallery has no more errors of the data fabric. -/
theorem fabricErr_retired {s : State} {g : Nat} (h : retired s (0x1000 + g) = true) (inj : Bool) : fabricErr s g false inj = s := by simp [fabricErr, h]

section
variable (s : State)

theorem exec_chmParity (ch : Fin 144) : exec (.chmParity ch) s = .next (logErr s 6 2 ch.val (causeWord (coreOf s ch.val)) 0 false) := rfl
theorem exec_decParity (u : Fin 20) : exec (.decParity u) s = .next (decParityErr s u.val false) := rfl
theorem exec_fabric (g : Fin 16) (retryOk : Bool) : exec (.fabric g retryOk) s = .next (fabricErr s g.val retryOk false) := rfl
theorem exec_patrolScrub : exec .patrolScrub s = .next (scrubbed s) := rfl

end

/-- Settles O36: faults of units command by command, the patrol scrub, deadlines by the order of fences, and what a fence does in a chamber. -/
theorem faultResponse : Obligations.FaultResponse := by
  unfold Obligations.FaultResponse
  refine ⟨fun s => ⟨fun ch cls t0 => exec_faultFence_acts, fun ch => exec_faultFence_idle, fun u tag c => exec_fenceTimeout_acts,
      exec_chmParity s, fun u h => ?decUnit, fun u h => ?decRetired, fun g => ?retried, fun g h => ?gallery, fun g h => ?galleryRetired,
      scrubbed s, exec_patrolScrub s, fun hm he hf => ?scrub⟩,
    fun tag s => ⟨fun j hj hd ht => ?deadline, fun j x y => ?order, fun j hj hd => ?early, fun hj => ?gone, fun j hf => ?finished, fun j hf => ?unfinished⟩,
    fun c => ?core, fun a => ?arrays, fun f => ?flowstone, fenceVic_parts⟩
  case decUnit => rw [exec_decParity, decParityErr_acts h]
  case decRetired => rw [exec_decParity, decParityErr_retired h]
  case retried => rw [exec_fabric, fabricErr, if_pos rfl]
  case gallery => rw [exec_fabric, fabricErr_acts h]
  case galleryRetired => rw [exec_fabric, fabricErr_retired h]
  case scrub =>
    have w : ScrubForm s := ⟨hm.1, he, hf⟩
    exact ⟨fun k hk => ⟨get_memErr_scrubbed w hk, scrubbed_poisons w hk⟩, fun n hn => get_memErr_scrubbed_outside w hn, scrubbed_keeps⟩
  case deadline =>
    obtain ⟨hmem, rfl⟩ := jobOf_some hj
    refine ⟨_, ?_, rfl, jobOf_foldl_deadlineJob hmem, fun ho hn => ?_⟩
    · simp [exec_deadlineFence, execDeadlineFence, hj, hd, ht]
    · rw [dueUpTo_alone hmem ho hn]
      rfl
  case order => exact ⟨dueUpTo_ordered s j, fun hx => (mem_dueUpTo.1 hx).1, mem_dueUpTo_of_before⟩
  case early => simp [exec_deadlineFence, execDeadlineFence, hj, Nat.not_le.2 hd]
  case gone => simp [exec_deadlineFence, execDeadlineFence, hj]
  case finished => rw [deadlineJob, if_pos hf]
  case unfinished => rw [deadlineJob, if_neg (by simp [hf])]
  case core => exact ⟨rfl, rfl, rfl, rfl, rfl, rfl, rfl, rfl, rfl, rfl, rfl, rfl, rfl, rfl⟩
  case flowstone => exact ⟨rfl, rfl, rfl, rfl, rfl, rfl, rfl, rfl, rfl⟩
  case arrays => exact ⟨rfl, rfl, rfl, rfl, rfl, rfl, rfl, rfl, fenceArrays_idle a⟩

end Sys2Proof.Machine
end

section
/-!
PROOFS. The arithmetic of the datapath (R28, R30) and packed elements (R34).
-/
namespace Sys2Proof.Machine

/-! ### Shifts (R28, R30) -/

/-- A power of two is positive. -/
theorem two_pow_pos (n : Nat) : (0 : Int) < 2 ^ n := Int.pow_pos (by decide)

/-- A greater exponent gives no lesser power of two. -/
theorem two_pow_mono {n m : Nat} (h : n ≤ m) : (2 : Int) ^ n ≤ 2 ^ m := by
  have hnat : 2 ^ n ≤ 2 ^ m := Nat.pow_le_pow_right (by decide) h
  exact_mod_cast hnat

section
variable (x : Int) (s : Nat)

/-- A right shift divides by a power of two. -/
theorem asr_eq_ediv : asr x s = x / 2 ^ s := by simp [asr]

/-- A left shift multiplies by a power of two. -/
theorem shl_eq_mul : shl x s = x * 2 ^ s := by simp [shl]

/-- A right shift gives the largest multiple that does not lie above the value: it rounds toward minus infinity. -/
theorem asr_floor : asr x s * 2 ^ s ≤ x ∧ x < (asr x s + 1) * 2 ^ s := by
  rw [asr_eq_ediv]
  exact ⟨Int.ediv_mul_le x (Int.ne_of_gt (two_pow_pos s)), Int.lt_ediv_add_one_mul_self x (two_pow_pos s)⟩

/-- Shifted left and back, a value is the same: the left shift has lost nothing. -/
theorem asr_shl : asr (shl x s) s = x := by
  rw [asr_eq_ediv, shl_eq_mul]
  exact Int.mul_ediv_cancel x (Int.ne_of_gt (two_pow_pos s))

variable {x s}

/-- A right shift by as many bits as the value has leaves its sign. -/
theorem asr_of_width_le {n : Nat} (h : n ≤ s) (hlo : -(2 ^ n) ≤ x) (hhi : x < 2 ^ n) : asr x s = if 0 ≤ x then 0 else -1 := by
  have hpow : (2 : Int) ^ n ≤ 2 ^ s := two_pow_mono h
  rw [asr_eq_ediv]
  split
  · next h0 => exact Int.ediv_eq_zero_of_lt h0 (Int.lt_of_lt_of_le hhi hpow)
  · next h0 => exact Int.ediv_eq_neg_one_of_neg_of_le (Int.not_le.1 h0) (by omega)

end

/-! ### Saturation (R30) -/

section
variable {x lo hi : Int}

/-- A clamped value lies in the range. -/
theorem clamp_mem (h : lo ≤ hi) : lo ≤ clamp x lo hi ∧ clamp x lo hi ≤ hi := by
  unfold clamp
  repeat' split
  all_goals omega

/-- A value in the range stays. -/
theorem clamp_of_mem (hlo : lo ≤ x) (hhi : x ≤ hi) : clamp x lo hi = x := by rw [clamp, if_neg (Int.not_lt.2 hlo), if_neg (Int.not_lt.2 hhi)]

/-- A value below the range becomes its least. -/
theorem clamp_of_lt (h : x < lo) : clamp x lo hi = lo := if_pos h

/-- A value above the range becomes its greatest. -/
theorem clamp_of_gt (h : lo ≤ hi) (hx : hi < x) : clamp x lo hi = hi := by rw [clamp, if_neg (by omega), if_pos hx]

end

/-- Saturation clamps to the signed range of n bits. -/
theorem sat_eq_clamp (x : Int) (n : Nat) : sat x n = clamp x (-(2 ^ (n - 1))) (2 ^ (n - 1) - 1) := by simp [sat]

/-- The signed range of a width is not empty. -/
theorem signedRange_nonempty (n : Nat) : -(2 ^ (n - 1) : Int) ≤ 2 ^ (n - 1) - 1 := by
  have hpos : (0 : Int) < 2 ^ (n - 1) := two_pow_pos (n - 1)
  omega

/-! ### Packed elements (R34) -/

section
variable {xs : List Nat}

/-- Eight-bit elements are bytes. -/
theorem packElems_bytes : packElems 8 xs = xs.map (BitVec.ofNat 8) := rfl

/-- Four-bit elements are packed two to a byte. -/
theorem packElems_nibbles : packElems 4 xs = packElems.go xs := rfl

/-- An eight-bit element is its byte. -/
theorem packedElem_bytes (bs : List Byte) (i : Nat) : packedElem bs 8 i = (bs.getD i 0#8).toNat := by
  have hlt : (bs.getD i 0#8).toNat < 2 ^ 8 := BitVec.isLt _
  rw [packedElem, Nat.mul_div_cancel i (by decide), Nat.mul_mod_left, Nat.shiftRight_zero, Nat.mod_eq_of_lt hlt]

/-- The first four-bit element is the low half of the first byte. -/
theorem packedElem_nibble_zero (b : Byte) (bs : List Byte) : packedElem (b :: bs) 4 0 = b.toNat % 16 := rfl

/-- The second four-bit element is the high half of the first byte. -/
theorem packedElem_nibble_one (b : Byte) (bs : List Byte) : packedElem (b :: bs) 4 1 = b.toNat / 16 % 16 := by
  change (b.toNat >>> 4) % 16 = _
  rw [Nat.shiftRight_eq_div_pow]

/-- The four-bit elements after the first byte are those of the other bytes. -/
theorem packedElem_nibble_cons (b : Byte) (bs : List Byte) (i : Nat) : packedElem (b :: bs) 4 (i + 2) = packedElem bs 4 i := by
  have hbyte : (i + 2) * 4 / 8 = i * 4 / 8 + 1 := by omega
  have hbit : (i + 2) * 4 % 8 = i * 4 % 8 := by omega
  rw [packedElem, hbyte, hbit, List.getD_cons_succ]
  rfl

/-- The byte of two four-bit elements. -/
theorem toNat_nibblePair {x y : Nat} (hx : x < 16) (hy : y < 16) : (BitVec.ofNat 8 (x % 16 + 16 * (y % 16))).toNat = x + 16 * y := by
  rw [BitVec.toNat_ofNat]
  omega

/-- An eight-bit element reads back as it was written. -/
theorem packedElem_packElems_bytes (hx : ∀ x ∈ xs, x < 2 ^ 8) {i : Nat} (h : i < xs.length) : packedElem (packElems 8 xs) 8 i = xs[i] := by
  have hlt : xs[i] < 2 ^ 8 := hx _ (List.getElem_mem h)
  rw [packElems_bytes, packedElem_bytes, List.getD_eq_getElem?_getD, List.getElem?_map, List.getElem?_eq_getElem h, Option.map_some, Option.getD_some,
    BitVec.toNat_ofNat, Nat.mod_eq_of_lt hlt]

/-- A four-bit element reads back as it was written. -/
theorem packedElem_packElems_nibbles (hx : ∀ x ∈ xs, x < 2 ^ 4) {i : Nat} (h : i < xs.length) : packedElem (packElems 4 xs) 4 i = xs[i] := by
  rw [packElems_nibbles]
  induction xs using packElems.go.induct generalizing i with
  | case1 => cases h
  | case2 x =>
    obtain rfl : i = 0 := by simpa using h
    have hx0 : x < 16 := hx x (by simp)
    rw [packElems.go, packedElem_nibble_zero, BitVec.toNat_ofNat, List.getElem_cons_zero]
    omega
  | case3 x y r ih =>
    have hx0 : x < 16 := hx x (by simp)
    have hy0 : y < 16 := hx y (by simp)
    rw [packElems.go]
    match i with
    | 0 =>
      rw [packedElem_nibble_zero, toNat_nibblePair hx0 hy0, List.getElem_cons_zero]
      omega
    | 1 =>
      rw [packedElem_nibble_one, toNat_nibblePair hx0 hy0, List.getElem_cons_succ, List.getElem_cons_zero]
      omega
    | i + 2 =>
      rw [packedElem_nibble_cons, ih (fun z hz => hx z (by simp [hz])) (by simpa using h), List.getElem_cons_succ, List.getElem_cons_succ]

/-- Four-bit elements take half a byte each. -/
theorem length_packElems_nibbles : (packElems 4 xs).length = (xs.length + 1) / 2 := by
  rw [packElems_nibbles]
  induction xs using packElems.go.induct with
  | case1 => rfl
  | case2 x => simp [packElems.go]
  | case3 x y r ih =>
    rw [packElems.go, List.length_cons, ih, List.length_cons, List.length_cons]
    omega

end

/-- Settles O32: shifts as division and multiplication by a power of two, saturation as a clamp, packed elements width by width. -/
theorem datapathFormats : Obligations.DatapathFormats := by
  unfold Obligations.DatapathFormats
  refine ⟨⟨asr_floor, fun x s h => asr_of_width_le (Nat.le_trans (by decide) h), asr_shl, fun x n _ => ?saturation⟩, fun b xs hb hx => ?packed⟩
  case saturation =>
    have hne := signedRange_nonempty n
    rw [sat_eq_clamp]
    obtain ⟨hlo, hhi⟩ := clamp_mem (x := x) hne
    exact ⟨hlo, hhi, clamp_of_mem, clamp_of_lt, clamp_of_gt hne⟩
  case packed =>
    obtain rfl | rfl := hb
    · exact ⟨fun i => packedElem_packElems_nibbles hx, fun h => by rw [length_packElems_nibbles, h]⟩
    · exact ⟨fun i => packedElem_packElems_bytes hx, fun h => by rw [packElems_bytes, List.length_map, h]⟩

end Sys2Proof.Machine
end

section
/-!
PROOFS. Queued array work, the blocks of a STREAM and the additions to the sumps.
-/
namespace Sys2Proof.Machine

/-! ### Queued array work (R68 to R70) -/

section
variable {s : State} {ch : Fin 144}

/-- The fill of a record completes in the shadow slot (R68). -/
theorem exec_aldwComplete_fills {a : Nat} {hd : List Word} (hc : noClock s 0 = false) (hf : (chmOf s ch.val).ar.filling = some (a, hd)) :
    let r := readBytes s a (recordBytes (headOfWords hd))
    exec (.aldwComplete ch) s =
      .next (updAr r.2.2.2 ch.val fun x => pumpAldw { x with filling := none, shadow := tileOfRecord hd r.1 r.2.1 }) := by
  change execAldwComplete ch s = _
  simp [execAldwComplete, hc, hf]

/-- A swap at the head of the queue exchanges the slots once no record fills and the arrays are idle (R69, R70). -/
theorem exec_aswpTakesEffect_swaps {q : List AOp} (hc : noClock s 0 = false) (hq : (chmOf s ch.val).ar.aq = .aswp :: q)
    (hf : (chmOf s ch.val).ar.filling = none) (hi : arraysIdle (chmOf s ch.val).ar = true) :
    exec (.aswpTakesEffect ch) s = .next (updAr s ch.val fun x => pumpAldw { x with aq := q, act := x.shadow, shadow := x.act }) := by
  change execAswpTakesEffect ch s = _
  simp [execAswpTakesEffect, hc, hq, hf, hi]

/-- A mode change at the head of the queue acts once the arrays are idle (R63, R70). -/
theorem exec_acfgTakesEffect_sets {m : Nat} {g : Bool} {q : List AOp} (hc : noClock s 0 = false) (hq : (chmOf s ch.val).ar.aq = .acfg m g :: q)
    (hi : arraysIdle (chmOf s ch.val).ar = true) :
    exec (.acfgTakesEffect ch) s = .next (updAr s ch.val fun x => pumpAldw { x with aq := q, mode := m, asign := g }) := by
  change execAcfgTakesEffect ch s = _
  simp [execAcfgTakesEffect, hc, hq, hi]

/-- No swap acts while an array works (R70). -/
theorem exec_aswpTakesEffect_waits (hi : arraysIdle (chmOf s ch.val).ar = false) : exec (.aswpTakesEffect ch) s = .next s := by
  change execAswpTakesEffect ch s = _
  simp only [execAswpTakesEffect, hi, Bool.and_false, Bool.false_and, Bool.false_eq_true, if_false]
  split <;> rfl

/-- No mode change acts while an array works (R70). -/
theorem exec_acfgTakesEffect_waits (hi : arraysIdle (chmOf s ch.val).ar = false) : exec (.acfgTakesEffect ch) s = .next s := by
  change execAcfgTakesEffect ch s = _
  simp only [execAcfgTakesEffect, hi, Bool.false_and, Bool.false_eq_true, if_false]
  split <;> rfl

end

/-! ### Blocks of a STREAM (R70, R74, R87, R114) -/

/-- The state once the next block of an array's STREAM has entered, before what an undefined result reaches. -/
def blockEntered (s : State) (ph a : Nat) (r : StreamRun) : State :=
  let n := min 8 (r.op.rows - r.row)
  let rs := readRows s (chmOf s ph).ar.act r.op a r.row n
  updAr rs.2 ph fun y =>
    let z := Tab.get {} y.arr a
    putArr y a { z with run := if r.op.rows ≤ r.row + n then none else some { r with row := r.row + n }, fly := z.fly ++ rs.1 }

section
variable {s : State} {ch : Fin 144} {a : Fin 4}

/-- A block whose sump rows are free enters; a pass with an undefined result reaches its context (R74, R428). -/
theorem enterBlock_free {ph a : Nat} {r : StreamRun}
    (hfree : ∀ j, j < min 8 (r.op.rows - r.row) → rowTaken (Tab.get {} (chmOf s ph).ar.arr a) r.op (r.row + j) = false) :
    enterBlock s ph a r = .next (if undefinedPass (chmOf s ph).ar.act r.op then strayContext (coreOf s ph).ctx (blockEntered s ph a r)
      else blockEntered s ph a r) := by
  have hnone : ((List.range (min 8 (r.op.rows - r.row))).any fun j => rowTaken (Tab.get {} (chmOf s ph).ar.arr a) r.op (r.row + j)) = false := by
    rw [List.any_eq_false]
    intro j hj
    rw [hfree j (List.mem_range.1 hj)]
    exact Bool.false_ne_true
  simp only [enterBlock]
  rw [hnone, if_neg Bool.false_ne_true]
  rfl

/-- The next block of a STREAM that runs and is not held is the one to enter (R70). -/
theorem exec_streamBlockStart_runs {r : StreamRun} (hc : noClock s 0 = false) (he : (chmOf s ch.val).core.entering = none)
    (hi : (chmOf s ch.val).isolated = false) (hr : (Tab.get {} (chmOf s ch.val).ar.arr a.val).run = some r) (hh : r.held = false) :
    exec (.streamBlockStart ch a) s = enterBlock s ch.val a.val r := by
  change execStreamBlockStart ch a s = _
  simp [execStreamBlockStart, hc, he, hi, hr, hh]

/-- No block starts while an interrupt is being entered (R114). -/
theorem exec_streamBlockStart_entering (h : (chmOf s ch.val).core.entering ≠ none) : exec (.streamBlockStart ch a) s = .next s := by
  change execStreamBlockStart ch a s = _
  simp [execStreamBlockStart, Option.isSome_iff_ne_none.2 h]

/-- An interrupt entry holds every STREAM (R87, R114). -/
theorem exec_streamHold_entering (h : (chmOf s ch.val).core.entering ≠ none) : exec (.streamHold ch) s = .next (updAr s ch.val holdStreams) :=
  if_pos (Option.isSome_iff_ne_none.2 h)

end

/-! ### Additions to the sumps (R75, R79) -/

/-- Does the addition of a row to its sump row saturate a column in array state `x` under weight tile `t`? -/
def additionSaturates (n : Nat) (t : WeightTile) (x : ArrSt) (f : FlyRow) : Bool :=
  rowSat n t f (decide (groupSize t ≤ countFor t f (Tab.get {} x.slots (sumpRow f.op f.m / 32))) || f.op.final)
    (Tab.get {} x.sump (sumpRow f.op f.m))

/-- The arrays once the oldest row in flight of array `a` has been added; `hit` sets the array's sticky saturation bit. -/
def rowAdded (n a : Nat) (x : ArrSt) (f : FlyRow) (rest : List FlyRow) (hit : Bool) (y : Arrays) : Arrays :=
  { putArr y a (addToSump n y.act x f rest) with sat := if hit then setBit y.sat a true else y.sat }

/-- An addition changes the array's state alone, and at most sets its saturation bit. -/
theorem rowAdded_parts (n a : Nat) (x : ArrSt) (f : FlyRow) (rest : List FlyRow) (hit : Bool) :
    let g := rowAdded n a x f rest hit
    (∀ y, (g y).arr = Tab.put {} y.arr a (addToSump n y.act x f rest)) ∧
    (∀ y, (g y).sat = y.sat ∨ (g y).sat = setBit y.sat a true) ∧
    (∀ y, (g y).act = y.act ∧ (g y).shadow = y.shadow ∧ (g y).mode = y.mode ∧ (g y).asign = y.asign ∧ (g y).aq = y.aq) := by
  refine ⟨fun y => rfl, fun y => ?_, fun y => ⟨rfl, rfl, rfl, rfl, rfl⟩⟩
  cases hit with
  | false => exact .inl rfl
  | true => exact .inr rfl

/-- The oldest row in flight is added to its sump row; a pass with an undefined result reaches its context (R79, R428). -/
theorem exec_sumpAddition_adds {s : State} {ch : Fin 144} {a : Fin 4} {f : FlyRow} {rest : List FlyRow} (hc : noClock s 0 = false)
    (hf : (Tab.get {} (chmOf s ch.val).ar.arr a.val).fly = f :: rest) :
    let ar := (chmOf s ch.val).ar
    let x := Tab.get {} ar.arr a.val
    let t := updAr s ch.val (rowAdded s.free a.val x f rest (additionSaturates s.free ar.act x f))
    exec (.sumpAddition ch a) s = .next (if undefinedPass ar.act f.op then strayContext (coreOf s ch.val).ctx (draw t) else t) := by
  change execSumpAddition ch a s = _
  simp only [execSumpAddition, hc, Bool.false_eq_true, if_false, hf]
  rfl

/-- Settles O12: queued array work command by command, the entry of a block, the addition of a row, and the hold at an interrupt entry. -/
theorem arrayWork : Obligations.ArrayWork := by
  unfold Obligations.ArrayWork
  refine ⟨fun ch s => ⟨fun a hd => exec_aldwComplete_fills, fun q => exec_aswpTakesEffect_swaps, fun m g q => exec_acfgTakesEffect_sets,
      fun o q _ hi => ⟨exec_aswpTakesEffect_waits hi, exec_acfgTakesEffect_waits hi⟩⟩,
    fun ch a s => ⟨fun r hc he hi hr hh hfree => ?block, fun f rest hc hf => ?addition,
      fun h => ⟨exec_streamHold_entering h, exec_streamBlockStart_entering h⟩⟩⟩
  case block =>
    have hrun := (exec_streamBlockStart_runs hc he hi hr hh).trans (enterBlock_free hfree)
    exact ⟨fun hu => by rw [hrun, if_neg (by simp [hu])]; rfl, fun hu => by rw [hrun, if_pos hu]; rfl⟩
  case addition =>
    have hadd := exec_sumpAddition_adds hc hf
    exact ⟨_, fun hu => hadd.trans (by rw [if_neg (by simp [hu])]), fun hu => hadd.trans (by rw [if_pos hu]; rfl), rowAdded_parts _ _ _ _ _ _⟩

end Sys2Proof.Machine
end

section
/-!
PROOFS. What the operations of the A position ask for when they enter the array queue.
-/
namespace Sys2Proof.Machine

/-! ### Room in the array queue (R88, R97) -/

/-- No STREAM held, no ARRAY_HELD (R88). -/
theorem heldExc_of_not_anyHeld {ar : Arrays} (h : anyHeld ar = false) (pos : Nat) : heldExc ar pos = [] := if_neg (ne_true_of_eq_false h)

/-- An array queue with room stalls nothing (R97). -/
theorem aqWait_of_room {ar : Arrays} (h : ar.aq.length < 4) : aqWait ar = none := if_neg (Nat.not_le.2 h)

/-! ### Each operation with its checks passed (R63, R68, R69, R72) -/

section
variable {s : State} {ph pos f : Nat} (hh : anyHeld (chmOf s ph).ar = false) (hq : (chmOf s ph).ar.aq.length < 4)
include hh hq

/-- ASWP asks to enter the queue (R69). -/
theorem evAswp_queues : evAswp s ph pos = effs [.aop .aswp] := by
  simp only [evAswp, heldExc_of_not_anyHeld hh, aqWait_of_room hq, effs]

/-- ACFG with a mode that allows its asign asks to enter the queue (R63). -/
theorem evAcfg_queues (hm : fld f 11 8 ≤ 7) (ha : bitAt f 12 = true → asignOk (fld f 11 8) = true) :
    evAcfg s ph pos f = effs [.aop (.acfg (fld f 11 8) (bitAt f 12))] := by
  have hmode : decide (7 < fld f 11 8) = false := decide_eq_false (Nat.not_lt.2 hm)
  have hsign : (bitAt f 12 && !asignOk (fld f 11 8)) = false := by
    cases hb : bitAt f 12 with
    | false => rfl
    | true => rw [ha hb]; rfl
  simp only [evAcfg, heldExc_of_not_anyHeld hh, aqWait_of_room hq, hmode, hsign, effs]
  rfl

/-- ALDW with a record that passes its checks asks to enter the queue with the header it read (R68). -/
theorem evAldw_queues {a : Nat} (ha : addr64 (readReg (chmOf s ph).core (fld f 14 8)) (simm f 34 15 * 32) = a) (h40 : a < 2 ^ 40)
    (h32 : a % 32 = 0) (hown : ownPlane s ph a 32 = true) (hhead : badHead (readMemWords s a 8).1 = false)
    (hrec : ownPlane s ph a (recordBytes (headOfWords (readMemWords s a 8).1)) = true) :
    evAldw s ph pos f = (effs [.aop (.aldw a (readMemWords s a 8).1)], (readMemWords s a 8).2.2) := by
  have haddr : addrOk a = true := decide_eq_true h40
  simp only [evAldw, ha, haddr, Bool.not_true, Bool.false_eq_true, if_false]
  simp [h32, hown, hhead, hrec, heldExc_of_not_anyHeld hh, aqWait_of_room hq, effs]

/-- STREAM with operands that pass R72 asks to enter the queue, whatever its rows. -/
theorem evStream_queues {o : StreamOp} {t : TileHead} (ho : streamOperands s ph f = o) (ht : (ahead (chmOf s ph).ar).act = t)
    (hmask : o.amask ≠ 0) (hrows : o.rows ≠ 0) (hkind : o.rskind ≠ 3) (hfmt : t.wfmt = modeWfmt o.mode)
    (hown : ∀ p ∈ streamPlanes o t, ownPlane s ph p.1 p.2 = true) : evStream s ph pos f = effs [.aop (.stream o)] := by
  have hplanes : ((streamPlanes o t).any fun p => !ownPlane s ph p.1 p.2) = false := by
    rw [List.any_eq_false]
    intro p hp
    simp [hown p hp]
  simp [evStream, ho, ht, hmask, hrows, hkind, hfmt, hplanes, heldExc_of_not_anyHeld hh, aqWait_of_room hq, effs]

end

/-- Settles O8: each operation that passes its checks asks for its place in the queue alone, and a bundle that asks for effects alone takes them. -/
theorem arrayOperations : Obligations.ArrayOperations := by
  unfold Obligations.ArrayOperations
  refine fun ch b s => ⟨fun hi ⟨hh, hq⟩ => ?aswp, fun hi ⟨hh, hq⟩ hm ha => ?acfg, fun hi ⟨hh, hq⟩ h40 h32 hown hhead hrec => ?aldw,
    fun hi ⟨hh, hq⟩ hmask hrows hkind hfmt hown => ?stream⟩
  case aswp => exact issueOp_alone hi (congrArg (·, s) (evAswp_queues hh hq))
  case acfg => exact issueOp_alone hi (congrArg (·, s) (evAcfg_queues hh hq hm ha))
  case aldw => exact issueOp_alone hi (evAldw_queues hh hq rfl h40 h32 hown hhead hrec)
  case stream => exact issueOp_alone hi (congrArg (·, s) (evStream_queues hh hq rfl rfl hmask hrows hkind hfmt hown))

end Sys2Proof.Machine
end

section
/-!
PROOFS. One column of a sump addition, and the tile the dripline takes.
-/
namespace Sys2Proof.Machine

/-! ### One column (R30, R79) -/

/-- A saturated value lies in the signed range of its width (R30). -/
theorem sat_range (x : Int) (n : Nat) : -(2 ^ (n - 1)) ≤ sat x n ∧ sat x n < 2 ^ (n - 1) := by
  rw [sat_eq_clamp]
  obtain ⟨hlo, hhi⟩ := clamp_mem (x := x) (signedRange_nonempty n)
  exact ⟨hlo, Int.lt_of_le_sub_one hhi⟩

section
variable (t : WeightTile) (first : Bool) (c : Nat) (ga wa p : Int)

/-- A group that stays open takes the partial sum into its accumulator; the wide accumulator counts as zero on the first pass (R79). -/
theorem addColumn_open :
    let r := addColumn t first false c ga wa p
    r.ga = sat ((if first then 0 else ga) + p) 24 ∧ r.wa = (if first then 0 else wa) ∧ r.poison = false := ⟨rfl, rfl, rfl⟩

/-- A group that closes adds its contribution to the wide accumulator and leaves its own at zero (R79, R80). -/
theorem addColumn_closed :
    let r := addColumn t first true c ga wa p
    let k := contrib t c (sat ((if first then 0 else ga) + p) 24)
    r.ga = 0 ∧ r.wa = sat ((if first then 0 else wa) + k.1) 32 ∧ r.poison = k.2 := ⟨rfl, rfl, rfl⟩

/-- The group accumulator fits 24 bits after an addition, whether the group closes or not. -/
theorem addColumn_ga_range (close : Bool) : -(2 ^ 23) ≤ (addColumn t first close c ga wa p).ga ∧ (addColumn t first close c ga wa p).ga < 2 ^ 23 := by
  cases close with
  | false =>
    rw [(addColumn_open t first c ga wa p).1]
    exact sat_range _ 24
  | true =>
    rw [(addColumn_closed t first c ga wa p).1]
    decide

/-- The wide accumulator fits 32 bits after a group has closed. -/
theorem addColumn_closed_wa_range : -(2 ^ 31) ≤ (addColumn t first true c ga wa p).wa ∧ (addColumn t first true c ga wa p).wa < 2 ^ 31 := by
  obtain ⟨-, hwa, -⟩ := addColumn_closed t first c ga wa p
  rw [hwa]
  exact sat_range _ 32

end

/-! ### The dripline (R76, R77, R151) -/

/-- A dripline with room takes the oldest finished tile of the first array, in turn, that has one (R77, R151). -/
theorem exec_driplineTake_takes {s : State} {ch : Fin 144} {a : Nat} {t : FinTile} {rest : List FinTile} (hc : noClock s 0 = false)
    (hroom : (chmOf s ch.val).fl.dl.length < 8)
    (hturn : (takeOrder (chmOf s ch.val).ar.lastArr).find? (fun k => !(Tab.get {} (chmOf s ch.val).ar.arr k).fin.isEmpty) = some a)
    (hfin : (Tab.get {} (chmOf s ch.val).ar.arr a).fin = t :: rest) :
    let x := Tab.get {} (chmOf s ch.val).ar.arr a
    exec (.driplineTake ch) s = .next (updChm s ch.val fun c =>
      { c with ar := { putArr c.ar a (clearTaken x t rest) with
                         lastArr := a, poison := if (tileOf x a t).flags.poison then setBit c.ar.poison a true else c.ar.poison },
               fl := { c.fl with dl := c.fl.dl ++ [tileOf x a t] } }) := by
  change execDriplineTake ch s = _
  have hgo : (decide (8 ≤ (chmOf s ch.val).fl.dl.length) || noClock s 0) = false := by
    rw [decide_eq_false (Nat.not_le.2 hroom), hc]
    rfl
  simp only [execDriplineTake, hgo, Bool.false_eq_true, if_false, hturn, hfin]

/-- Settles O13: the column by whether its group closes, the ranges by saturation, and the tile the dripline takes. -/
theorem sumpAndDripline : Obligations.SumpAndDripline := by
  unfold Obligations.SumpAndDripline
  refine ⟨fun t first close c ga wa p => ⟨?opened, ?closed, addColumn_ga_range t first c ga wa p close, ?wide⟩,
    fun ch s a t rest hc hroom hturn hfin => ⟨exec_driplineTake_takes hc hroom hturn hfin, rfl, rfl, rfl⟩⟩
  case opened => rintro rfl; exact addColumn_open t first c ga wa p
  case closed => rintro rfl; exact addColumn_closed t first c ga wa p
  case wide => rintro rfl; exact addColumn_closed_wa_range t first c ga wa p

end Sys2Proof.Machine
end

section
/-!
PROOFS. Registers and predicates as an operation names them, under the banks in force and the rotating base.
-/
namespace Sys2Proof.Machine

/-! ### Bits -/

/-- What a bit reads after one bit was written. -/
theorem getLsbD_setBit {w : Nat} (x : BitVec w) {n m : Nat} (h : m < w) (v : Bool) :
    (setBit x n v).getLsbD m = if m = n then v else x.getLsbD m := by
  have hone : (1#w <<< n).getLsbD m = decide (m = n) := by
    rw [← BitVec.twoPow_eq, BitVec.getLsbD_twoPow]
    by_cases hm : m = n
    · subst hm; simp [h]
    · simp [hm, Ne.symm hm]
  cases v with
  | true =>
    simp only [setBit, if_true, BitVec.getLsbD_or, hone]
    by_cases hm : m = n <;> simp [hm]
  | false =>
    simp only [setBit, Bool.false_eq_true, if_false, BitVec.getLsbD_and, BitVec.getLsbD_not, h, hone, decide_true, Bool.true_and]
    by_cases hm : m = n <;> simp [hm]

/-! ### General registers (R100, R113) -/

section
variable {c : Core} {n m : Nat} {v : DWord}

/-- A general register is written in the bank in force: the exception bank, the interrupt bank, or the registers of the job. -/
theorem writeG_cases {P : Core → Prop} (c : Core) (n : Nat) (v : DWord) (h0 : n = 0 → P c)
    (hx : c.xbank = true → 28 ≤ n → P { c with xb := Tab.put 0 c.xb n v }) (hi : c.ibank = true → 24 ≤ n → P { c with ib := Tab.put 0 c.ib n v })
    (hg : P { c with g := Tab.put 0 c.g n v }) : P (writeG c n v) := by
  unfold writeG
  split
  · exact h0 ‹_›
  · split
    · next h => simp only [Bool.and_eq_true, decide_eq_true_eq] at h; exact hx h.1 h.2
    · split
      · next h => simp only [Bool.and_eq_true, decide_eq_true_eq] at h; exact hi h.1 h.2
      · exact hg

/-- The general register written is read back. -/
theorem readG_writeG_same (hn : n ≠ 0) (wg : Tab.wf 0 c.g = true) (wi : Tab.wf 0 c.ib = true) (wx : Tab.wf 0 c.xb = true) :
    readG (writeG c n v) n = v := by
  simp only [writeG, hn, if_false]
  split
  · next hx => simp only [readG, hn, hx, if_false, if_true]; exact Tab.get_put_same _ _ _ _ wx
  · next hx =>
    split
    · next hi => simp only [readG, hn, hx, hi, if_false, if_true]; exact Tab.get_put_same _ _ _ _ wi
    · next hi => simp only [readG, hn, hx, hi, if_false]; exact Tab.get_put_same _ _ _ _ wg

/-- A write leaves every other general register alone. -/
theorem readG_writeG_other (h : m ≠ n) : readG (writeG c n v) m = readG c m :=
  writeG_cases (P := fun d => readG d m = readG c m) c n v (fun _ => rfl) (fun _ _ => by simp only [readG, Tab.get_put_other _ _ _ h])
    (fun _ _ => by simp only [readG, Tab.get_put_other _ _ _ h]) (by simp only [readG, Tab.get_put_other _ _ _ h])

end

/-! ### Registers by their codes (R101, R128) -/

/-- The loop registers that two names below 64 stand for differ. -/
theorem loopPhys_inj {r n m : Nat} (hn : n < 64) (hm : m < 64) (h : loopPhys r n = loopPhys r m) : n = m := by
  unfold loopPhys at h
  omega

/-- A rotation moves every loop register one name up, l63 to l0. -/
theorem loopPhys_rotate {r n : Nat} (hn : n < 64) : loopPhys ((r + 1) % 64) ((n + 1) % 64) = loopPhys r n := by
  unfold loopPhys
  omega

section
variable {c : Core} {r n m : Nat} {v : DWord}

/-- A code of a loop register. -/
theorem readReg_loop (h : 0x20 ≤ n) : readReg c n = Tab.get 0 c.l (loopPhys c.rrb.toNat (n - 0x40)) := if_neg (Nat.not_lt.2 h)

/-- A code of a general register. -/
theorem readReg_general (h : n < 0x20) : readReg c n = readG c n := if_pos h

/-- A register is written in one of its tables, and no other field of the processor changes. -/
theorem writeReg_cases {P : Core → Prop} (c : Core) (r n : Nat) (v : DWord) (h0 : n = 0 → P c) (hx : P { c with xb := Tab.put 0 c.xb n v })
    (hi : P { c with ib := Tab.put 0 c.ib n v }) (hg : P { c with g := Tab.put 0 c.g n v })
    (hl : 0x20 ≤ n → P { c with l := Tab.put 0 c.l (loopPhys r (n - 0x40)) v }) : P (writeReg c r n v) := by
  unfold writeReg
  split
  · exact writeG_cases c n v h0 (fun _ _ => hx) (fun _ _ => hi) hg
  · exact hl (Nat.not_lt.1 ‹_›)

/-- A write of a register changes the tables of registers alone. -/
theorem writeReg_changes (c : Core) (r n : Nat) (v : DWord) : ∃ g ib xb l, writeReg c r n v = { c with g := g, ib := ib, xb := xb, l := l } :=
  writeReg_cases (P := fun d => ∃ g ib xb l, d = { c with g := g, ib := ib, xb := xb, l := l }) c r n v (fun _ => ⟨_, _, _, _, rfl⟩)
    ⟨_, _, _, _, rfl⟩ ⟨_, _, _, _, rfl⟩ ⟨_, _, _, _, rfl⟩ fun _ => ⟨_, _, _, _, rfl⟩

/-- The register written is read back. -/
theorem readReg_writeReg_same (hn : n ≠ 0) (wg : Tab.wf 0 c.g = true) (wi : Tab.wf 0 c.ib = true) (wx : Tab.wf 0 c.xb = true)
    (wl : Tab.wf 0 c.l = true) : readReg (writeReg c c.rrb.toNat n v) n = v := by
  by_cases h : n < 0x20
  · rw [writeReg, if_pos h, readReg_general h, readG_writeG_same hn wg wi wx]
  · rw [writeReg, if_neg h, readReg_loop (Nat.not_lt.1 h)]
    exact Tab.get_put_same _ _ _ _ wl

/-- A write leaves every other register alone. -/
theorem readReg_writeReg_other (hn : regCode n) (hm : regCode m) (h : m ≠ n) : readReg (writeReg c c.rrb.toNat n v) m = readReg c m := by
  unfold regCode at hn hm
  by_cases hn' : n < 0x20
  · rw [writeReg, if_pos hn']
    by_cases hm' : m < 0x20
    · rw [readReg_general hm', readReg_general hm', readG_writeG_other h]
    · rw [readReg_loop (Nat.not_lt.1 hm'), readReg_loop (Nat.not_lt.1 hm')]
      exact writeG_cases (P := fun d => Tab.get 0 d.l (loopPhys d.rrb.toNat (m - 0x40)) = _) c n v (fun _ => rfl) (fun _ _ => rfl) (fun _ _ => rfl) rfl
  · rw [writeReg, if_neg hn']
    by_cases hm' : m < 0x20
    · rw [readReg_general hm', readReg_general hm']
      rfl
    · rw [readReg_loop (Nat.not_lt.1 hm'), readReg_loop (Nat.not_lt.1 hm')]
      exact Tab.get_put_other _ _ _ fun he => h (by have := loopPhys_inj (by omega) (by omega) he; omega)

end

/-! ### Predicates (R102) -/

/-- A rotation moves every stage predicate one name up, p15 to p8. -/
theorem predPhys_rotate {r n : Nat} (h8 : 8 ≤ n) (h : n < 16) : predPhys ((r + 1) % 64) (8 + (n - 7) % 8) = predPhys r n := by
  unfold predPhys
  rw [if_neg (by omega), if_neg (by omega)]
  omega

/-- The predicates that two names below 16 stand for differ. -/
theorem predPhys_inj {r n m : Nat} (hn : n < 16) (hm : m < 16) (h : predPhys r n = predPhys r m) : n = m := by
  unfold predPhys at h
  split at h <;> split at h <;> omega

/-- A name below 16 stands for one of the 16 predicates. -/
theorem predPhys_lt {r n : Nat} (h : n < 16) : predPhys r n < 16 := by
  unfold predPhys
  split <;> omega

section
variable {c : Core} {n m : Nat}

/-- What a predicate but p0 reads. -/
theorem readPred_of_ne_zero (h : n ≠ 0) : readPred c n = c.p.getLsbD (predPhys c.rrb.toNat n) := if_neg h

/-- A write of a predicate changes the predicates alone. -/
theorem writePred_changes (c : Core) (r n : Nat) (x : Bool) : ∃ p, writePred c r n x = { c with p := p } := by
  unfold writePred
  split <;> exact ⟨_, rfl⟩

/-- What a predicate reads after one was written. -/
theorem readPred_writePred (h0 : n ≠ 0) (hn : n < 16) (hm : m < 16) (x : Bool) :
    readPred (writePred c c.rrb.toNat n x) m = if m = n then x else readPred c m := by
  by_cases hm0 : m = 0
  · rw [hm0, if_neg (Ne.symm h0)]
    rfl
  · rw [writePred, if_neg h0, readPred_of_ne_zero hm0, readPred_of_ne_zero hm0, getLsbD_setBit _ (predPhys_lt hm)]
    exact ite_congr (propext ⟨predPhys_inj hm hn, congrArg _⟩) (fun _ => rfl) fun _ => rfl

/-- A stage predicate after a rotation reads as the one below it did. -/
theorem readPred_rotate (h8 : 8 ≤ n) (h : n < 16) : readPred { c with rrb := c.rrb + 1 } (8 + (n - 7) % 8) = readPred c n := by
  rw [readPred_of_ne_zero (by omega), readPred_of_ne_zero (by omega)]
  exact congrArg c.p.getLsbD ((congrArg (predPhys · _) (BitVec.toNat_add c.rrb 1)).trans (predPhys_rotate h8 h))

/-- A predicate below p8 does not rotate. -/
theorem readPred_fixed (h : n < 8) {r : BitVec 6} : readPred { c with rrb := r } n = readPred c n := by
  simp only [readPred, predPhys, if_pos h]

/-- A loop register after a rotation reads as the one below it did. -/
theorem readReg_rotate (h : n < 64) : readReg { c with rrb := c.rrb + 1 } (0x40 + (n + 1) % 64) = readReg c (0x40 + n) := by
  rw [readReg_loop (by omega), readReg_loop (by omega), Nat.add_sub_cancel_left, Nat.add_sub_cancel_left]
  exact congrArg (Tab.get 0 c.l) ((congrArg (loopPhys · _) (BitVec.toNat_add c.rrb 1)).trans (loopPhys_rotate h))

end

/-- Settles O19: registers by what a write leaves to read, names by what a rotation does to the physical register behind them. -/
theorem registerNames : Obligations.RegisterNames := by
  unfold Obligations.RegisterNames
  refine fun c v wg wi wx wl => ⟨rfl, rfl, fun n _ h0 => readReg_writeReg_same h0 wg wi wx wl, fun n m hn hm h => readReg_writeReg_other hn hm h,
    fun n => ?wf, fun x => ⟨rfl, rfl⟩, fun n h0 h8 => ?low, fun n h8 h => ?stage, fun n m x h0 hn hm => readPred_writePred (Nat.ne_of_gt h0) hn hm x,
    fun n h => readReg_rotate h, fun n h8 h => readPred_rotate h8 h, fun n h => readPred_fixed h, fun n h => ?general⟩
  case wf =>
    exact writeReg_cases (P := fun d => Tab.wf 0 d.g = true ∧ Tab.wf 0 d.ib = true ∧ Tab.wf 0 d.xb = true ∧ Tab.wf 0 d.l = true) c _ n v
      (fun _ => ⟨wg, wi, wx, wl⟩) ⟨wg, wi, Tab.wf_put wx, wl⟩ ⟨wg, Tab.wf_put wi, wx, wl⟩ ⟨Tab.wf_put wg, wi, wx, wl⟩
      fun _ => ⟨wg, wi, wx, Tab.wf_put wl⟩
  case low => rw [readPred_of_ne_zero (Nat.ne_of_gt h0), predPhys, if_pos h8]
  case stage =>
    have hphys : predPhys c.rrb.toNat n = 8 + (n + 56 - c.rrb.toNat) % 8 := by
      have := c.rrb.isLt
      rw [predPhys, if_neg (Nat.not_lt.2 h8)]
      omega
    rw [readPred_of_ne_zero (by omega), hphys]
  case general =>
    rw [readReg_general h, readReg_general h]
    rfl

end Sys2Proof.Machine
end

section
/-!
PROOFS. A bundle as a whole: the command that names an operation, a predicate that reads 0, operations that act together, exceptions.
-/
namespace Sys2Proof.Machine

/-! ### The command that names an operation -/

/-- The one position that carries an operation, for operations that a single position carries (R130 to R142). -/
def onlyPos : BOp → Option Pos
  | .gets | .sets => some .x1
  | .ld | .st | .siphRun | .siphPoll | .fence => some .m
  | .aldw | .aswp | .acfg | .stream => some .a
  | .flRun | .flLdt | .flStt | .flLdb | .flStb | .flLdm | .flStm => some .f
  | .br | .call | .jmp | .callr | .loopBr | .loopBrN | .cnSig | .cnAdd | .cnWait | .cnTry | .cnSigr | .cnAddr | .cnWaitr | .cnTryr
  | .iret | .exret | .jobEnd | .break_ => some .c
  | _ => none

/-- Of the operations of the X positions, GETS and SETS alone have one position. -/
theorem onlyPos_of_opX {op : BOp} {code : Nat} (h : opX code = some op) : onlyPos op = none ∨ (code = 0x30 ∨ code = 0x31) ∧ onlyPos op = some .x1 := by
  unfold opX at h
  split at h <;> cases h <;> simp [onlyPos]

/-- No position carries an operation of another one. -/
theorem onlyPos_of_opOf {op : BOp} {b : Bundle} {p : Pos} (h : opOf b p = some op) : (onlyPos op).getD p = p := by
  unfold opOf at h
  generalize opcodeOf p (posField b p) = code at h
  cases p with
  | x0 =>
    simp only [opAt, Option.ite_none_left_eq_some] at h
    obtain ⟨hcode, h⟩ := h
    rcases onlyPos_of_opX h with hn | ⟨hgs, -⟩
    · rw [hn]; rfl
    · exact absurd hgs hcode
  | x1 =>
    simp only [opAt, Option.ite_none_left_eq_some] at h
    rcases onlyPos_of_opX h.2 with hn | ⟨-, hx⟩
    · rw [hn]; rfl
    · rw [hx]; rfl
  | m => simp only [opAt] at h; unfold opM at h; split at h <;> cases h <;> rfl
  | a => simp only [opAt] at h; unfold opA at h; split at h <;> cases h <;> rfl
  | f => simp only [opAt] at h; unfold opF at h; split at h <;> cases h <;> rfl
  | c => simp only [opAt] at h; unfold opC at h; split at h <;> cases h <;> rfl

/-- The command for an operation of a bundle names it at its position. -/
theorem exec_opCmd {op : BOp} {ch : Fin 144} {p : Pos} {b : Bundle} {s : State} (h : opOf b p = some op) :
    exec (opCmd op ch p b) s = issueOp op ch p b s := by
  have hcmd : exec (opCmd op ch p b) s = issueOp op ch ((onlyPos op).getD p) b s := by cases op <;> rfl
  rw [hcmd, onlyPos_of_opOf h]

/-! ### A bundle at issue -/

section
variable {op : BOp} {s : State} {ch : Fin 144} {p : Pos} {b : Bundle}

/-- What `atIssue` says of a chamber and its bundle. -/
theorem atIssue_parts (h : atIssue s ch b = true) : canIssue (chmOf s ch.val) = true ∧ noClock s 0 = false ∧ bundleClean s ch b = true ∧
    fetchExcs s ch.val = [] ∧ illegalPos b = none ∧ (chmOf s ch.val).fl.faultPend = false := by
  simp only [atIssue, Bool.and_eq_true, Bool.not_eq_true'] at h
  obtain ⟨⟨hc, hn⟩, hb⟩ := h
  have hb' := hb
  simp only [bundleClean, Bool.and_eq_true, Bool.not_eq_true', Option.isNone_iff_eq_none, List.isEmpty_iff] at hb'
  obtain ⟨⟨hf, hi⟩, hp⟩ := hb'
  exact ⟨hc, hn, hb, hf, hi, hp⟩

/-- A present position names the operation it holds. -/
theorem namesOp_of_present (hp : present b p = true) (ho : opOf b p = some op) : namesOp op b p = true := by
  have hany : allPos.any (present b) = true := List.any_eq_true.2 ⟨p, by cases p <;> decide, hp⟩
  simp [namesOp, hany, hp, ho]

/-- The command that names the last position of a clean bundle brings the bundle to issue. -/
theorem exec_opCmd_last (hp : present b p = true) (ho : opOf b p = some op) (ha : atIssue s ch b = true) (hl : lastNamed s ch b p = true) :
    ∃ d, exec (opCmd op ch p b) s = attempt s ch b d := by
  rw [exec_opCmd ho]
  exact issueOp_last ha hl (namesOp_of_present hp ho)

/-- While a position of a clean bundle is unnamed, the bundle stays at issue. -/
theorem exec_opCmd_early {d : List Pos} (hp : present b p = true) (ho : opOf b p = some op) (ha : atIssue s ch b = true)
    (hd : namedWith (coreOf s ch.val) b p = some d) (hl : (allPos.filter (present b)).all d.contains = false) :
    exec (opCmd op ch p b) s = .next (holdIssue s ch.val b d none [] (coreOf s ch.val).stall.toNat) := by
  obtain ⟨hc, hn, -, hf, hi, hq⟩ := atIssue_parts ha
  have hd' : namedWith (chmOf s ch.val).core b p = some d := hd
  rw [exec_opCmd ho]
  simp only [issueOp, hc, hn, hd', hf, hi, hq, hl, namesOp_of_present hp ho, Bool.not_true, Bool.or_self, Bool.false_eq_true, if_false, List.isEmpty_nil,
    Option.isSome_none]
  rfl

/-- What `lastNamed` says of the positions named. -/
theorem lastNamed_eq {d : List Pos} (hd : namedWith (coreOf s ch.val) b p = some d) : lastNamed s ch b p = (allPos.filter (present b)).all d.contains := by
  rw [lastNamed, hd]

/-- A bundle each of whose positions asks for effects alone asks for all of them, in position order (R94). -/
theorem evalBundle_effs (l : Pos → List Eff) (h : ∀ q, evalPos s ch b q false = (effs (l q), s)) (ps : List Pos) :
    evalBundle s ch b ps = (effs (ps.flatMap l), s) := by
  induction ps with
  | nil => rfl
  | cons q ps ih => simp only [evalBundle, h q, ih, List.flatMap_cons]; rfl

/-- An illegal bundle, fetched well, raises ILLEGAL_BUNDLE alone (R147). -/
theorem bundleAsks_illegal {q : Nat} (hf : fetchExcs s ch.val = []) (hi : illegalPos b = some q) : bundleAsks s ch b = (raise 1 q 0, s) := by
  rw [bundleAsks, hf, hi]
  rfl

end

/-- Settles O16: a position whose predicate reads 0 asks for nothing, and is named as any other. -/
theorem predicateOff : Obligations.PredicateOff := by
  unfold Obligations.PredicateOff
  refine fun op ch p b s hp ho hq => ⟨fun fin => evalPos_off hq, fun ha hl hone => ?alone, fun ha hi hmore => ?among⟩
  case alone =>
    obtain ⟨d, hd⟩ := exec_opCmd_last hp ho ha hl
    obtain ⟨-, -, hclean, -⟩ := atIssue_parts ha
    rw [hd, attempt_effs]
    rw [bundleAsks_clean hclean, evalBundle_alone hone, evalPos_off hq]
    rfl
  case among =>
    obtain ⟨q, hqp, hpq⟩ := hmore
    refine exec_opCmd_early hp ho ha (by rw [namedWith, hi]) (Bool.not_eq_true _ ▸ fun hall => ?_)
    have hq := List.all_eq_true.1 hall q (List.mem_filter.2 ⟨by cases q <;> decide, hpq⟩)
    exact hqp (by simpa using hq)

/-- Settles O17: a legal bundle by whether a position is still unnamed, an illegal one by its position. -/
theorem bundleTogether : Obligations.BundleTogether := by
  unfold Obligations.BundleTogether
  refine fun op ch p b s hp ho => ⟨fun l ha hl he => ?together, fun d ha hd hl => exec_opCmd_early hp ho ha hd (lastNamed_eq hd ▸ hl),
    fun q hc hn hi hf hill => ?illegal⟩
  case together =>
    obtain ⟨d, hd⟩ := exec_opCmd_last hp ho ha hl
    obtain ⟨-, -, hclean, -⟩ := atIssue_parts ha
    rw [hd, attempt_effs]
    rw [bundleAsks_clean hclean, evalBundle_effs l he]
  case illegal =>
    have hnamed : namedWith (chmOf s ch.val).core b p = some [p] := by
      have hi' : (chmOf s ch.val).core.issue = none := hi
      rw [namedWith, hi']
    rw [exec_opCmd ho]
    simp only [issueOp, hc, hn, hnamed, hill, Bool.not_true, Bool.or_self, Bool.false_eq_true, if_false, Option.isSome_some, Bool.or_true,
      Bool.true_or, if_true]
    exact attempt_raises (bundleAsks_illegal hf hill)

/-! ### Exceptions (R109 to R112) -/

/-- Among several exceptions one is taken (R111). -/
theorem pickExc_eq_none {l : List (Nat × Nat × Nat)} (h : pickExc l = none) : l = [] := by
  cases l with
  | nil => rfl
  | cons e l =>
    simp only [pickExc] at h
    split at h
    · cases h
    · split at h <;> cases h

/-- The exception taken among several is one of the lowest code (R111). -/
theorem pickExc_least {l : List (Nat × Nat × Nat)} {e : Nat × Nat × Nat} (h : pickExc l = some e) : e ∈ l ∧ ∀ x ∈ l, e.1 ≤ x.1 := by
  induction l generalizing e with
  | nil => cases h
  | cons y l ih =>
    simp only [pickExc] at h
    split at h
    · next hn =>
      cases h
      simp [pickExc_eq_none hn]
    · next x hx =>
      obtain ⟨hmem, hmin⟩ := ih hx
      rw [List.forall_mem_cons]
      split at h
      · next hlt =>
        cases h
        exact ⟨List.mem_cons_of_mem _ hmem, Nat.le_of_lt hlt, hmin⟩
      · next hge =>
        cases h
        exact ⟨List.mem_cons_self, Nat.le_refl _, fun z hz => Nat.le_trans (Nat.not_lt.1 hge) (hmin z hz)⟩

/-! ### A chamber after one of its updates -/

section
variable {s : State} {ph : Nat} (w : Tab.wf {} s.chms = true)
include w

/-- The chamber written is the chamber read. -/
theorem chmOf_setChm (h : Chamber) : chmOf (setChm s ph h) ph = h := Tab.get_put_same _ _ _ _ w

/-- A chamber after it was changed. -/
theorem chmOf_updChm (f : Chamber → Chamber) : chmOf (updChm s ph f) ph = f (chmOf s ph) := chmOf_setChm w _

/-- A processor after it was changed. -/
theorem coreOf_updCore (f : Core → Core) : coreOf (updCore s ph f) ph = f (coreOf s ph) := congrArg Chamber.core (chmOf_updChm w _)

end

/-- An entry of the error log leaves the chambers alone. -/
@[simp] theorem logErr_chms (s : State) (cls sev u : Nat) (detail : Word) (addr : Nat) (inj : Bool) : (logErr s cls sev u detail addr inj).chms = s.chms := by
  obtain ⟨e, v, h⟩ := logErr_changes s cls sev u detail addr inj
  rw [h]

/-- An unmerged error that the hardware log has room for tells the Lantern (R411, R412). -/
theorem logErr_tells {s : State} {cls sev u : Nat} {detail : Word} {addr : Nat} {inj : Bool} (hm : mergedClass cls sev = false) (hr : s.err.hw.length < 256)
    (hc : 192 + cls < 256) : (logErr s cls sev u detail addr inj).lvic.pend.getLsbD (192 + cls) = true := by
  simp only [logErr, hm, Bool.false_and, Bool.false_eq_true, if_false, if_neg (Nat.not_le.2 hr)]
  exact (getLsbD_setBit _ hc true).trans (if_pos rfl)

/-! ### Taking an exception and returning (R109 to R112) -/

section
variable {s : State} {ph cause pos ea : Nat} (w : Tab.wf {} s.chms = true)
include w

/-- The processor after an exception outside the exception bank (R109). -/
theorem coreOf_takeExc (hx : (coreOf s ph).xbank = false) : coreOf (takeExc s ph cause pos ea) ph =
    { coreOf s ph with issue := none, stall := 0, epc := (coreOf s ph).pc, cause := BitVec.ofNat 8 cause, epos := BitVec.ofNat 3 pos,
                       eaddr := BitVec.ofNat 40 ea, xbank := true, pc := (coreOf s ph).excBase + BitVec.ofNat 40 (256 * cause) } := by
  simp only [takeExc, hx, Bool.false_eq_true, if_false]
  exact coreOf_updCore w _

/-- The processor after a double fault (R112). -/
theorem coreOf_takeExc_double (hx : (coreOf s ph).xbank = true) :
    coreOf (takeExc s ph cause pos ea) ph = { coreOf s ph with issue := none, stall := 0, dbl := true } := by
  simp only [takeExc, hx, if_true]
  unfold coreOf chmOf
  rw [logErr_chms]
  exact coreOf_updCore w _

end

/-- A double fault tells the Lantern (R112). -/
theorem takeExc_double_tells {s : State} {ph cause pos ea : Nat} (hx : (coreOf s ph).xbank = true) (hr : s.err.hw.length < 256) :
    (takeExc s ph cause pos ea).lvic.pend.getLsbD 197 = true := by
  simp only [takeExc, hx, if_true]
  exact logErr_tells (cls := 5) rfl hr (by decide)

/-- An exception outside the exception bank leaves memory alone. -/
theorem takeExc_mem {s : State} {ph cause pos ea : Nat} (hx : (coreOf s ph).xbank = false) : (takeExc s ph cause pos ea).mem = s.mem := by
  simp only [takeExc, hx, Bool.false_eq_true, if_false, updCore_mem]

/-- A return address drops its low five bits (R99; log entry 44). -/
theorem toNat_alignPc (a : BitVec 40) : (alignPc a).toNat = a.toNat / 32 * 32 := by
  have hlow : alignPc a = a >>> 5 <<< 5 := by
    refine BitVec.eq_of_getLsbD_eq fun i hi => ?_
    have hmask : (31#40).getLsbD i = decide (i < 5) := by
      rw [BitVec.getLsbD_ofNat, decide_eq_true hi, Bool.true_and]
      exact Nat.testBit_two_pow_sub_one 5 i
    simp only [alignPc, BitVec.getLsbD_and, BitVec.getLsbD_not, hmask, BitVec.getLsbD_shiftLeft, BitVec.getLsbD_ushiftRight, decide_eq_true hi, Bool.true_and]
    by_cases h5 : i < 5
    · simp [h5]
    · simp [h5, Nat.add_sub_cancel' (Nat.not_lt.1 h5)]
  rw [hlow, BitVec.toNat_shiftLeft, BitVec.toNat_ushiftRight, Nat.shiftLeft_eq, Nat.shiftRight_eq_div_pow]
  omega

/-- A return address on a 32-byte boundary stands. -/
theorem alignPc_of_aligned {a : BitVec 40} (h : a.toNat % 32 = 0) : alignPc a = a := BitVec.eq_of_toNat_eq (by rw [toNat_alignPc]; omega)

/-- Settles O18: a clean bundle takes the exception of the lowest code; what taking one does, by the exception bank; what the return does. -/
theorem exceptions : Obligations.Exceptions := by
  unfold Obligations.Exceptions
  refine ⟨fun op ch p b s e hp ho ha hl he => ?taken, fun l e h => pickExc_least h, fun s ph cause pos ea ht hcause hpos => ⟨fun hx => ?single,
    fun hx => ?double⟩, fun c => ⟨rfl, fun h => alignPc_of_aligned h, toNat_alignPc _, rfl, rfl⟩⟩
  case taken =>
    obtain ⟨d, hd⟩ := exec_opCmd_last hp ho ha hl
    obtain ⟨-, -, hclean, -⟩ := atIssue_parts ha
    rw [hd]
    simp only [attempt, bundleAsks_clean hclean, he]
  case single =>
    rw [coreOf_takeExc ht.1 hx]
    exact ⟨rfl, Nat.mod_eq_of_lt hcause, Nat.mod_eq_of_lt hpos, rfl, rfl, rfl, rfl, rfl, rfl, rfl, rfl, rfl, rfl, rfl, takeExc_mem hx⟩
  case double =>
    have hcore := coreOf_takeExc_double (cause := cause) (pos := pos) (ea := ea) ht.1 hx
    have hstops : canIssue (chmOf (takeExc s ph cause pos ea) ph) = false := by
      have hdbl : (chmOf (takeExc s ph cause pos ea) ph).core.dbl = true := congrArg Core.dbl hcore
      simp only [canIssue, hdbl, Bool.not_true, Bool.and_false, Bool.false_and]
    rw [hcore]
    exact ⟨rfl, rfl, rfl, hstops, fun hr => takeExc_double_tells hx hr⟩

end Sys2Proof.Machine
end

section
/-!
PROOFS. Bundles whose effects act on the processor alone: loop branches, and what an X operation leaves unchanged.
-/
namespace Sys2Proof.Machine

/-! ### One chamber changed twice -/

/-- A later write of an entry replaces an earlier one. -/
theorem Tab.put_put {α : Type} [DecidableEq α] {d : α} {t : Tab α} {lo : Option Nat} (n : Nat) (x y : α) (w : Tab.wfFrom d lo t = true) :
    Tab.put d (Tab.put d t n x) n y = Tab.put d t n y := by
  induction t generalizing lo with
  | nil => by_cases hx : x = d <;> simp [Tab.put, hx]
  | cons e t ih =>
    obtain ⟨k, v⟩ := e
    simp only [Tab.wfFrom, Bool.and_eq_true] at w
    by_cases hlt : n < k
    · by_cases hx : x = d <;> simp [Tab.put, hlt, hx]
    · by_cases hk : n = k
      · subst hk
        by_cases hx : x = d
        · simp only [Tab.put, hx, Nat.lt_irrefl, if_false, if_true]
          cases t with
          | nil => rfl
          | cons e t =>
            simp only [Tab.wfFrom, Bool.and_eq_true, decide_eq_true_eq] at w
            obtain ⟨-, ⟨hlt', -⟩, -⟩ := w
            simp only [Tab.put, if_pos hlt']
        · simp [Tab.put, hx]
      · simp only [Tab.put, hlt, hk, if_false, ih w.2]

/-- A later change of a processor acts on the earlier one. -/
theorem updCore_updCore {s : State} {ph : Nat} (f g : Core → Core) (w : Tab.wf {} s.chms = true) :
    updCore (updCore s ph f) ph g = updCore s ph fun c => g (f c) := by
  have hchm : chmOf (updCore s ph f) ph = { chmOf s ph with core := f (chmOf s ph).core } := chmOf_updChm w _
  change setChm (setChm s ph _) ph { chmOf (updCore s ph f) ph with core := g (chmOf (updCore s ph f) ph).core } = _
  rw [hchm]
  exact congrArg (fun t => { s with chms := t }) (Tab.put_put ph _ _ w)

/-! ### Effects on the processor alone -/

/-- Does an effect act on the processor alone? -/
def onCore : Eff → Bool
  | .reg _ _ | .pred _ _ | .special _ _ | .rotate _ | .jump _ | .exret _ => true
  | _ => false

/-- The processor after such an effect, of a bundle issued under rotating base `r`. -/
def coreEff (r : Nat) (c : Core) : Eff → Core
  | .reg n v => writeReg c r n v
  | .pred n v => writePred c r n v
  | .special n v => writeSpecial c n v
  | .rotate p8 => let d : Core := { c with rrb := c.rrb + 1 }; writePred d d.rrb.toNat 8 p8
  | .jump t => { c with pc := t }
  | .exret t => exitExc c t
  | _ => c

/-- The processor as its bundle issues, before the operations act (R92). -/
def issued (free : Nat) (c : Core) : Core :=
  { c with lastPc := c.pc, pc := c.pc + 32, perfIssue := c.perfIssue + 1, issue := none, stall := 0, stepping := false,
           halted := c.haltReq, icMiss := c.icMiss + BitVec.ofNat 32 (Config.cacheMisses free) }

/-- An effect on the processor alone acts as `coreEff` says. -/
theorem actEff_onCore {ph r : Nat} {s : State} {e : Eff} (h : onCore e = true) : actEff ph r s e = updCore s ph fun c => coreEff r c e := by
  cases e with
  | reg | pred | special | rotate | jump | exret => rfl
  | store | csrLoad | csrStore | aop | fop | siph | cnAdd | cnTry | cnDone | iret | jobEnd => cases h

/-- Effects on the processor alone act one after the other. -/
theorem actEffs_onCore {ph r : Nat} {l : List Eff} {s : State} (f : Core → Core) (w : Tab.wf {} s.chms = true) (h : l.all onCore = true) :
    actEffs ph r (updCore s ph f) l = updCore s ph fun c => l.foldl (coreEff r) (f c) := by
  induction l generalizing f with
  | nil => rfl
  | cons e l ih =>
    rw [List.all_cons, Bool.and_eq_true] at h
    rw [actEffs, actEff_onCore h.1, updCore_updCore _ _ w, ih _ h.2]
    rfl

/-- A bundle that asks for effects on the processor alone changes its processor alone, and draws one free value (R92). -/
theorem commit_onCore {ph : Nat} {l : List Eff} {s : State} (w : Tab.wf {} s.chms = true) (h : l.all onCore = true) :
    commit s ph l = updCore (draw s) ph fun c => l.foldl (coreEff (coreOf s ph).rrb.toNat) (issued s.free c) :=
  actEffs_onCore (s := draw s) (issued s.free) w h

/-- The processor after such a bundle. -/
theorem coreOf_commit_onCore {ph : Nat} {l : List Eff} {s : State} (w : Tab.wf {} s.chms = true) (h : l.all onCore = true) :
    coreOf (commit s ph l) ph = l.foldl (coreEff (coreOf s ph).rrb.toNat) (issued s.free (coreOf s ph)) := by
  rw [commit_onCore w h]
  exact coreOf_updCore (s := draw s) w _

/-! ### Loop branches (R104) -/

/-- LOOP.BR with lc not 0 counts, rotates, sets p8 and branches. -/
theorem evLoopBr_counts {c : Core} (f : Nat) (h : c.lc ≠ 0) :
    evLoopBr c f = effs [.special 2 (c.lc - 1), .rotate (decide (c.ec.toNat ≤ (c.lc - 1).toNat)), .jump (relTarget c (sgn (fld f 28 9) 20))] := if_neg h

/-- LOOP.BR with lc = 0 falls through. -/
theorem evLoopBr_ends {c : Core} (f : Nat) (h : c.lc = 0) : evLoopBr c f = effs [] := if_pos h

/-- LOOP.BR.N with lc not 0 counts and branches. -/
theorem evLoopBrN_counts {c : Core} (f : Nat) (h : c.lc ≠ 0) :
    evLoopBrN c f = effs [.special 2 (c.lc - 1), .jump (relTarget c (sgn (fld f 28 9) 20))] := if_neg h

/-- LOOP.BR.N with lc = 0 falls through. -/
theorem evLoopBrN_ends {c : Core} (f : Nat) (h : c.lc = 0) : evLoopBrN c f = effs [] := if_pos h

section
variable {ch : Fin 144} {b : Bundle} {s : State}

/-- LOOP.BR while lc is not 0. -/
theorem exec_loopBr_counts (h : issuesAlone .loopBr s ch .c b = true) (hl : (coreOf s ch.val).lc ≠ 0) :
    exec (.loopBr ch b) s = .next (commit s ch.val [.special 2 ((coreOf s ch.val).lc - 1),
      .rotate (decide ((coreOf s ch.val).ec.toNat ≤ ((coreOf s ch.val).lc - 1).toNat)),
      .jump (relTarget (coreOf s ch.val) (sgn (fld (posField b .c) 28 9) 20))]) := issueOp_alone h (congrArg (·, s) (evLoopBr_counts _ hl))

/-- LOOP.BR with lc = 0. -/
theorem exec_loopBr_ends (h : issuesAlone .loopBr s ch .c b = true) (hl : (coreOf s ch.val).lc = 0) :
    exec (.loopBr ch b) s = .next (commit s ch.val []) := issueOp_alone h (congrArg (·, s) (evLoopBr_ends _ hl))

/-- LOOP.BR.N while lc is not 0. -/
theorem exec_loopBrN_counts (h : issuesAlone .loopBrN s ch .c b = true) (hl : (coreOf s ch.val).lc ≠ 0) :
    exec (.loopBrN ch b) s = .next (commit s ch.val [.special 2 ((coreOf s ch.val).lc - 1),
      .jump (relTarget (coreOf s ch.val) (sgn (fld (posField b .c) 28 9) 20))]) := issueOp_alone h (congrArg (·, s) (evLoopBrN_counts _ hl))

/-- LOOP.BR.N with lc = 0. -/
theorem exec_loopBrN_ends (h : issuesAlone .loopBrN s ch .c b = true) (hl : (coreOf s ch.val).lc = 0) :
    exec (.loopBrN ch b) s = .next (commit s ch.val []) := issueOp_alone h (congrArg (·, s) (evLoopBrN_ends _ hl))

end

/-- What a predicate reads rests on the predicates and the rotating base alone. -/
theorem readPred_congr {c d : Core} (hp : d.p = c.p) (hr : d.rrb = c.rrb) (n : Nat) : readPred d n = readPred c n := by simp only [readPred, hp, hr]

/-- The predicates after a rotation that sets p8: p8 as set, each other stage predicate as the one below it was, the rest as they were. -/
theorem readPred_rotated {c d : Core} {x : Bool} (hr : d.rrb = c.rrb + 1) (hp : d.p = (coreEff 0 c (.rotate x)).p) :
    readPred d 8 = x ∧ (∀ n, 9 ≤ n → n < 16 → readPred d n = readPred c (n - 1)) ∧ (∀ n, n < 8 → readPred d n = readPred c n) := by
  have hd (m : Nat) (hm : m < 16) : readPred d m = if m = 8 then x else readPred { c with rrb := c.rrb + 1 } m :=
    (readPred_congr hp hr m).trans (readPred_writePred (c := { c with rrb := c.rrb + 1 }) (by decide) (by decide) hm x)
  refine ⟨hd 8 (by decide), fun n h9 h => ?_, fun n h => ?_⟩
  · have hup := readPred_rotate (c := c) (n := n - 1) (by omega) (by omega)
    rw [show 8 + (n - 1 - 7) % 8 = n by omega] at hup
    rw [hd n h, if_neg (by omega), hup]
  · rw [hd n (by omega), if_neg (by omega)]
    exact readPred_fixed h

/-- The processor after LOOP.BR has counted, rotated, set p8 to `x` and branched to `a`. -/
theorem foldl_loopBr (r : Nat) (c : Core) (n : DWord) (x : Bool) (a : BitVec 40) :
    [Eff.special 2 n, .rotate x, .jump a].foldl (coreEff r) c = { c with lc := n, rrb := c.rrb + 1, p := (coreEff 0 c (.rotate x)).p, pc := a } := rfl

/-- The processor after LOOP.BR.N has counted and branched to `a`. -/
theorem foldl_loopBrN (r : Nat) (c : Core) (n : DWord) (a : BitVec 40) :
    [Eff.special 2 n, .jump a].foldl (coreEff r) c = { c with lc := n, pc := a } := rfl

/-- Settles O20: a loop branch by whether lc is 0, each time by the effects its bundle asks for, all on the processor. -/
theorem loopBranches : Obligations.LoopBranches := by
  unfold Obligations.LoopBranches
  refine fun ch b s ht => ⟨fun h hl => ⟨_, exec_loopBr_counts h hl, ?counts⟩, fun h hl => ⟨_, exec_loopBrN_counts h hl, ?countsN⟩,
    fun i hi hl => ?ends⟩
  case counts =>
    rw [coreOf_commit_onCore ht.1 rfl, foldl_loopBr]
    obtain ⟨h8, hup, hlow⟩ := readPred_rotated (c := issued s.free (coreOf s ch.val))
      (x := decide ((coreOf s ch.val).ec.toNat ≤ ((coreOf s ch.val).lc - 1).toNat)) rfl rfl
    exact ⟨rfl, rfl, rfl, h8, rfl, rfl, rfl, hup, hlow⟩
  case countsN =>
    rw [coreOf_commit_onCore ht.1 rfl, foldl_loopBrN]
    exact ⟨rfl, rfl, rfl, rfl, rfl, rfl, rfl⟩
  case ends =>
    refine ⟨commit s ch.val [], ?_, ?_⟩
    · rcases hi with ⟨h, rfl⟩ | ⟨h, rfl⟩
      · exact exec_loopBr_ends h hl
      · exact exec_loopBrN_ends h hl
    · rw [coreOf_commit_onCore ht.1 rfl]
      exact ⟨hl, rfl, rfl, rfl, rfl, rfl, rfl⟩

/-! ### X operations (R93 to R96, R130 to R132, R148) -/

/-- What the names written leave of a processor: every other register, predicate and special register, and the exception, interrupt and job
registers. -/
structure XKept (w : List WName) (c d : Core) : Prop where
  reg : ∀ n, regCode n → .reg n ∉ w → .sreg 1 ∉ w → readReg d n = readReg c n
  pred : ∀ n, n < 16 → .pred n ∉ w → .sreg 1 ∉ w → readPred d n = readPred c n
  rrb : .sreg 1 ∉ w → d.rrb = c.rrb
  lc : .sreg 2 ∉ w → d.lc = c.lc
  ec : .sreg 3 ∉ w → d.ec = c.ec
  ie : .sreg 5 ∉ w → d.ie = c.ie
  ipc : .sreg 6 ∉ w → d.ipc = c.ipc
  epc : .sreg 7 ∉ w → d.epc = c.epc
  rest : d.pc = c.pc ∧ d.ibank = c.ibank ∧ d.xbank = c.xbank ∧ d.cause = c.cause ∧ d.epos = c.epos ∧ d.eaddr = c.eaddr ∧ d.dbl = c.dbl ∧
    d.excBase = c.excBase ∧ d.jobTag = c.jobTag ∧ d.ctx = c.ctx ∧ d.active = c.active

/-- A processor unchanged. -/
theorem XKept.refl (w : List WName) (c : Core) : XKept w c c :=
  ⟨fun _ _ _ _ => rfl, fun _ _ _ _ => rfl, fun _ => rfl, fun _ => rfl, fun _ => rfl, fun _ => rfl, fun _ => rfl, fun _ => rfl,
    rfl, rfl, rfl, rfl, rfl, rfl, rfl, rfl, rfl, rfl, rfl⟩

/-- A write of a register that its list of names counts. -/
theorem xKept_writeReg {w : List WName} {c : Core} {n : Nat} (v : DWord) (hn : regCode n) (hw : ∀ x, x ∈ regW n → x ∈ w) :
    XKept w c (writeReg c c.rrb.toNat n v) := by
  by_cases h0 : n = 0
  · subst h0
    exact .refl w c
  · have hin : .reg n ∈ w := hw _ (by simp [regW, h0])
    obtain ⟨g, ib, xb, l, hd⟩ := writeReg_changes c c.rrb.toNat n v
    have hreg := fun m hm (hmn : m ≠ n) => readReg_writeReg_other (c := c) (v := v) hn hm hmn
    rw [hd] at hreg ⊢
    exact { XKept.refl w c with
      reg := fun m hm hnot _ => hreg m hm fun he => hnot (he ▸ hin)
      pred := fun m _ _ _ => readPred_congr rfl rfl m }

/-- A write of a predicate that its list of names counts. -/
theorem xKept_writePred {w : List WName} {c : Core} {n : Nat} (x : Bool) (hn : n < 16) (hw : ∀ y, y ∈ predW n → y ∈ w) :
    XKept w c (writePred c c.rrb.toNat n x) ∧ (writePred c c.rrb.toNat n x).rrb = c.rrb := by
  by_cases h0 : n = 0
  · subst h0
    exact ⟨.refl w c, rfl⟩
  · have hin : .pred n ∈ w := hw _ (by simp [predW, h0])
    obtain ⟨p, hd⟩ := writePred_changes c c.rrb.toNat n x
    have hpred := fun m hm => readPred_writePred (c := c) h0 hn (m := m) hm x
    rw [hd] at hpred ⊢
    exact ⟨{ XKept.refl w c with
      reg := fun m _ _ _ => rfl
      pred := fun m hm hnot _ => (hpred m hm).trans (if_neg fun he : m = n => hnot (he ▸ hin)) }, rfl⟩

/-- Changes kept to a list of names, one after the other. -/
theorem XKept.trans {w : List WName} {c d e : Core} (h : XKept w c d) (k : XKept w d e) : XKept w c e := by
  obtain ⟨h1, h2, h3, h4, h5, h6, h7, h8, h9, h10, h11⟩ := h.rest
  obtain ⟨k1, k2, k3, k4, k5, k6, k7, k8, k9, k10, k11⟩ := k.rest
  exact ⟨fun n hn hw hs => (k.reg n hn hw hs).trans (h.reg n hn hw hs), fun n hn hw hs => (k.pred n hn hw hs).trans (h.pred n hn hw hs),
    fun hs => (k.rrb hs).trans (h.rrb hs), fun hs => (k.lc hs).trans (h.lc hs), fun hs => (k.ec hs).trans (h.ec hs),
    fun hs => (k.ie hs).trans (h.ie hs), fun hs => (k.ipc hs).trans (h.ipc hs), fun hs => (k.epc hs).trans (h.epc hs),
    k1.trans h1, k2.trans h2, k3.trans h3, k4.trans h4, k5.trans h5, k6.trans h6, k7.trans h7, k8.trans h8, k9.trans h9, k10.trans h10, k11.trans h11⟩

/-- The names that a SETS of a special register counts: s4 writes p1 to p15 (R148). -/
def sregW (n : Nat) : List WName := if n = 4 then .sreg 4 :: (List.range 15).map (fun k => .pred (k + 1)) else [.sreg n]

/-- A SETS of s4 counts every predicate but p0. -/
theorem pred_mem_sregW {n : Nat} (h0 : n ≠ 0) (h : n < 16) : .pred n ∈ sregW 4 :=
  List.mem_cons_of_mem _ (List.mem_map.2 ⟨n - 1, List.mem_range.2 (by omega), by rw [Nat.sub_add_cancel (Nat.pos_of_ne_zero h0)]⟩)

/-- A write of a special register. -/
theorem xKept_writeSpecial (c : Core) {n : Nat} (h1 : 1 ≤ n) (h7 : n ≤ 7) (v : DWord) : XKept (sregW n) c (writeSpecial c n v) := by
  have hin : .sreg n ∈ sregW n := by unfold sregW; split <;> simp [*]
  have hout {P : Prop} (h : .sreg n ∉ sregW n) : P := absurd hin h
  have hn : n = 1 ∨ n = 2 ∨ n = 3 ∨ n = 4 ∨ n = 5 ∨ n = 6 ∨ n = 7 := by omega
  rcases hn with rfl | rfl | rfl | rfl | rfl | rfl | rfl
  · exact { XKept.refl _ c with reg := fun _ _ _ => hout, pred := fun _ _ _ => hout, rrb := hout }
  · exact { XKept.refl _ c with lc := hout }
  · exact { XKept.refl _ c with ec := hout }
  · refine { XKept.refl _ c with pred := fun n hn hw _ => ?_ }
    by_cases h0 : n = 0
    · rw [h0]
      rfl
    · exact absurd (pred_mem_sregW h0 hn) hw
  · exact { XKept.refl _ c with ie := hout }
  · exact { XKept.refl _ c with ipc := hout }
  · exact { XKept.refl _ c with epc := hout }

/-- What an X operation that raises nothing can ask for: nothing, a register, two predicates or a special register, each counted as a write. -/
inductive XAsks (op : BOp) (f : Nat) : List Eff → Prop
  | none : XAsks op f []
  | reg (n : Nat) (v : DWord) (hf : n ∈ regFields op f) (hn : n < 0x80) (hw : writesOf op f = regW n) : XAsks op f [.reg n v]
  | preds (n m : Nat) (x y : Bool) (hn : n < 16) (hm : m < 16) (hw : writesOf op f = predW n ++ predW m) : XAsks op f [.pred n x, .pred m y]
  | special (n : Nat) (v : DWord) (h1 : 1 ≤ n) (h7 : n ≤ 7) (hw : writesOf op f = sregW n) : XAsks op f [.special n v]

/-- A field of bits is below the power of two of its width. -/
theorem fld_lt (v hi lo : Nat) : fld v hi lo < 2 ^ (hi - lo + 1) := Nat.mod_lt _ (Nat.two_pow_pos _)

/-- What an X operation that raises nothing asks for. -/
theorem evalOp_xAsks {op : BOp} {s : State} {ch : Fin 144} {p f : Nat} (h : isXOp op = true) (he : (evalOp op s ch p f false).1.excs = []) :
    ∃ l, evalOp op s ch p f false = (effs l, s) ∧ XAsks op f l := by
  cases op
  case nop => exact ⟨_, rfl, .none⟩
  case add | sub | and_ | or_ | xor_ | shl | shr | sra | mul =>
    exact ⟨_, rfl, .reg _ _ (by simp only [regFields]; split <;> exact List.mem_cons_self) (fld_lt f 17 11) rfl⟩
  case constL | constH => exact ⟨_, rfl, .reg _ _ List.mem_cons_self (fld_lt f 17 11) rfl⟩
  case cmpEq | cmpNe | cmpLt | cmpLe | cmpGt | cmpGe | cmpLtu | cmpGeu => exact ⟨_, rfl, .preds _ _ _ _ (fld_lt f 14 11) (fld_lt f 18 15) rfl⟩
  case gets =>
    simp only [evalOp, evGets] at he ⊢
    split at he
    · cases he
    · next hs => exact ⟨_, by rw [if_neg hs], .reg _ _ List.mem_cons_self (fld_lt f 17 11) rfl⟩
  case sets =>
    simp only [evalOp, evSets] at he ⊢
    split at he
    · next hs =>
      have hs' := hs
      simp only [writableSpecial, Bool.and_eq_true, decide_eq_true_eq] at hs'
      exact ⟨_, by rw [if_pos hs], .special _ _ hs'.1 hs'.2 rfl⟩
    · cases he
  all_goals cases h

/-- A register field of a clean bundle's operation names a register (R128, R147). -/
theorem regCode_of_clean {op : BOp} {s : State} {ch : Fin 144} {b : Bundle} {p : Pos} {n : Nat} (h : bundleClean s ch b = true)
    (hp : present b p = true) (ho : opOf b p = some op) (hf : n ∈ regFields op (posField b p)) (hn : n < 0x80) : regCode n := by
  simp only [bundleClean, Bool.and_eq_true, Option.isNone_iff_eq_none] at h
  have hbad : badPos b p = false := by
    have hill := h.1.2
    unfold illegalPos at hill
    split at hill
    · cases hill
    · next hnone => simpa using List.find?_eq_none.1 hnone p (by cases p <;> decide)
  simp only [badPos, hp, ho, if_true, Bool.or_eq_false_iff] at hbad
  obtain ⟨⟨-, hregs⟩, -⟩ := hbad
  have hreg := List.any_eq_false.1 hregs n hf
  simp only [badReg, Bool.and_eq_true, decide_eq_true_eq] at hreg
  unfold regCode
  omega

/-- The effects of an X operation act on the processor alone. -/
theorem XAsks.onCore {op : BOp} {f : Nat} {l : List Eff} (h : XAsks op f l) : l.all onCore = true := by cases h <;> rfl

/-- The effects of an X operation leave what it does not count as written. -/
theorem XAsks.kept {op : BOp} {f : Nat} {l : List Eff} (h : XAsks op f l) (hr : ∀ n ∈ regFields op f, n < 0x80 → regCode n) (c : Core) :
    XKept (writesOf op f) c (l.foldl (coreEff c.rrb.toNat) c) := by
  cases h with
  | none => exact .refl _ c
  | reg n v hf hn hw => exact xKept_writeReg v (hr n hf hn) fun x hx => hw ▸ hx
  | preds n m x y hn hm hw =>
    obtain ⟨hfirst, hrrb⟩ := xKept_writePred (w := writesOf op f) (c := c) x hn fun z hz => hw ▸ List.mem_append_left _ hz
    obtain ⟨hsecond, -⟩ := xKept_writePred (w := writesOf op f) (c := writePred c c.rrb.toNat n x) y hm fun z hz => hw ▸ List.mem_append_right _ hz
    rw [hrrb] at hsecond
    exact hfirst.trans hsecond
  | special n v h1 h7 hw => exact hw ▸ xKept_writeSpecial c h1 h7 v

/-- Settles O21: an X operation asks for effects on the processor alone, and they leave what it does not count as written. -/
theorem frameX : Obligations.FrameX := by
  unfold Obligations.FrameX
  intro op ch p b s t ht hx hi he hexec
  obtain ⟨l, hev, hl⟩ := evalOp_xAsks hx he
  obtain ⟨hclean, hh, -⟩ := issueOp_asks hi
  simp only [holdsAlone, Bool.and_eq_true, decide_eq_true_eq] at hh
  obtain ⟨⟨hone, ho⟩, -⟩ := hh
  rw [exec_opCmd ho, issueOp_alone hi hev] at hexec
  cases hexec
  have hkept := hl.kept (fun n hf hn => regCode_of_clean hclean (present_alone hone) ho hf hn) (issued s.free (coreOf s ch.val))
  have hcore : coreOf (commit s ch.val l) ch.val = _ := coreOf_commit_onCore ht.1 hl.onCore
  refine ⟨⟨_, (commit_onCore ht.1 hl.onCore).trans rfl, rfl⟩, ?_⟩
  rw [hcore]
  obtain ⟨hpc, hibank, hxbank, hcause, hepos, headdr, hdbl, hbase, htag, hctx, hactive⟩ := hkept.rest
  exact ⟨hpc, hkept.reg, hkept.pred, hkept.rrb, hkept.lc, hkept.ec, hkept.ie, hkept.ipc, hkept.epc, hibank, hxbank, hcause, hepos, headdr, hdbl, hbase,
    htag, hctx, hactive⟩

end Sys2Proof.Machine
end

section
/-!
PROOFS. One operation alone in its bundle: special registers, siphons and fences, flowstone, branches, calls and returns.
-/
namespace Sys2Proof.Machine

/-! ### Special registers (R103, R132) -/

/-- GETS of s0 to s12 reads. -/
theorem evGets_reads {s : State} {ph pos f : Nat} (h : fld f 21 18 ≤ 12) :
    evGets s ph pos f = effs [.reg (fld f 17 11) (readSpecial s ph (fld f 21 18))] := if_neg (Nat.not_lt.2 h)

/-- GETS of another special register raises ILLEGAL_OPERAND. -/
theorem evGets_raises {s : State} {ph pos f : Nat} (h : 12 < fld f 21 18) : evGets s ph pos f = raise 2 pos 0 := if_pos h

/-- The special registers that SETS writes. -/
theorem writableSpecial_iff {n : Nat} : writableSpecial n = true ↔ 1 ≤ n ∧ n ≤ 7 := by simp [writableSpecial]

/-- SETS of s1 to s7 writes. -/
theorem evSets_writes {s : State} {ph pos f : Nat} (h : 1 ≤ fld f 14 11 ∧ fld f 14 11 ≤ 7) :
    evSets s ph pos f = effs [.special (fld f 14 11) (readReg (coreOf s ph) (fld f 24 18))] := if_pos (writableSpecial_iff.2 h)

/-- SETS of another special register raises ILLEGAL_OPERAND. -/
theorem evSets_raises {s : State} {ph pos f : Nat} (h : ¬(1 ≤ fld f 14 11 ∧ fld f 14 11 ≤ 7)) : evSets s ph pos f = raise 2 pos 0 :=
  if_neg fun hw => h (writableSpecial_iff.1 hw)

/-- Settles O5, by whether the special register is one that the operation reads or writes. -/
theorem specialRegisters : Obligations.SpecialRegisters := by
  unfold Obligations.SpecialRegisters
  refine fun ch b s => ⟨fun hi h => ?reads, fun hi h => ?noRead, fun hi h => ?writes, fun hi h => ?noWrite⟩
  case reads => exact issueOp_alone hi (congrArg (·, s) (evGets_reads h))
  case noRead => exact issueOp_raises hi (congrArg (·, s) (evGets_raises h))
  case writes => exact issueOp_alone hi (congrArg (·, s) (evSets_writes h))
  case noWrite => exact issueOp_raises hi (congrArg (·, s) (evSets_raises h))

/-! ### SIPH.RUN, SIPH.POLL and FENCE (R97, R107, R136, R191) -/

/-- SIPH.RUN on a siphon whose queue has room asks to queue its chain. -/
theorem evSiphRun_queues {s : State} {ph pos f : Nat} (ha : (readReg (coreOf s ph) (fld f 27 21)).toNat < 2 ^ 40)
    (hq : siphQueued (siphOf s (ph * 2 + fld f 10 10)) < 4) :
    evSiphRun s ph pos f = effs [.siph (ph * 2 + fld f 10 10) (readReg (coreOf s ph) (fld f 27 21)).toNat] := by
  have haddr : addrOk (readReg (coreOf s ph) (fld f 27 21)).toNat = true := decide_eq_true ha
  simp only [evSiphRun, haddr, Bool.not_true, Bool.false_eq_true, if_false, if_neg (Nat.not_le.2 hq), effs]

/-- A FENCE whose named classes are idle asks for nothing. -/
theorem evFence_idle {s : State} {ph f : Nat} (hs : bitAt f 10 = true → siphBusy s ph = false) (hf : bitAt f 11 = true → flsBusy (chmOf s ph).fl = false)
    (ha : bitAt f 12 = true → arrReads (chmOf s ph).ar = false) : evFence s ph f = effs [] := by
  simp only [evFence, Bool.and_eq_false_imp.2 hs, Bool.and_eq_false_imp.2 hf, Bool.and_eq_false_imp.2 ha, Bool.or_self, Bool.false_eq_true, if_false, effs]

/-- Settles O7, operation by operation. -/
theorem siphonOperations : Obligations.SiphonOperations := by
  unfold Obligations.SiphonOperations
  refine fun ch b s => ⟨fun hi ha hq => ?run, fun hi => ?poll, fun hi hs hf ha => ?fence⟩
  case run => exact issueOp_alone hi (congrArg (·, s) (evSiphRun_queues ha hq))
  case poll => exact issueOp_alone hi rfl
  case fence => exact issueOp_alone hi (congrArg (·, s) (evFence_idle hs hf ha))

/-! ### Flowstone (R97, R140, R141) -/

/-- An F operation whose address passes its checks asks to enter a flowstone queue with room. -/
theorem evF_queues {s : State} {ph pos f len : Nat} {checkCtx store : Bool} (op : Nat → FOp) (ha : fAddr (chmOf s ph).core f < 2 ^ 40)
    (hm : mappedRange (fAddr (chmOf s ph).core f) len = true) (hq : (chmOf s ph).fl.fq.length < 4)
    (hc : checkCtx = true → chmMay s ph (fAddr (chmOf s ph).core f) len store = true) :
    evF s ph pos f len checkCtx store op = effs [.fop (op (fAddr (chmOf s ph).core f))] := by
  have haddr : addrOk (fAddr (chmOf s ph).core f) = true := decide_eq_true ha
  have hmay : (checkCtx && !chmMay s ph (fAddr (chmOf s ph).core f) len store) = false :=
    Bool.and_eq_false_imp.2 fun h => by rw [hc h]; rfl
  simp only [evF, haddr, hm, hmay, Bool.not_true, Bool.false_eq_true, if_false, if_neg (Nat.not_le.2 hq), effs]

/-- Settles O9: FL.RUN without a check of its context, the six moves with one. -/
theorem flowstoneOperations : Obligations.FlowstoneOperations := by
  unfold Obligations.FlowstoneOperations
  intro ch b s
  have queues (len : Nat) (checkCtx store : Bool) (op : Nat → FOp) := evF_queues (s := s) (ph := ch.val) (pos := posCode .f) (f := posField b .f) (len := len)
    (checkCtx := checkCtx) (store := store) op
  refine ⟨fun hi ⟨ha, hm, hq⟩ => ?run, fun hi ⟨ha, hm, hq⟩ hc => ?ldt, fun hi ⟨ha, hm, hq⟩ hc => ?stt, fun hi ⟨ha, hm, hq⟩ hc => ?ldb,
    fun hi ⟨ha, hm, hq⟩ hc => ?stb, fun hi ⟨ha, hm, hq⟩ hc => ?ldm, fun hi ⟨ha, hm, hq⟩ hc => ?stm⟩
  case run => exact issueOp_alone hi (congrArg (·, s) (queues 32 false false .run ha hm hq fun h => by cases h))
  case ldt => exact issueOp_alone hi (congrArg (·, s) (queues 4096 true false (.move .ldt _) ha hm hq fun _ => hc))
  case stt => exact issueOp_alone hi (congrArg (·, s) (queues 4096 true true (.move .stt _) ha hm hq fun _ => hc))
  case ldb => exact issueOp_alone hi (congrArg (·, s) (queues 128 true false (.move .ldb _) ha hm hq fun _ => hc))
  case stb => exact issueOp_alone hi (congrArg (·, s) (queues 128 true true (.move .stb _) ha hm hq fun _ => hc))
  case ldm => exact issueOp_alone hi (congrArg (·, s) (queues 128 true false (.move .ldm _) ha hm hq fun _ => hc))
  case stm => exact issueOp_alone hi (congrArg (·, s) (queues 128 true true (.move .stm _) ha hm hq fun _ => hc))

/-! ### Branches, calls and returns (R129, R142, R143, R146) -/

/-- An indirect target in range and on a 32-byte boundary is branched to. -/
theorem indirect_jumps {pos : Nat} {t : DWord} {l : List Eff} (h : t.toNat < 2 ^ 40 ∧ t.toNat % 32 = 0) :
    indirect pos t l = effs (l ++ [.jump (BitVec.ofNat 40 t.toNat)]) := if_neg (by simpa [addrOk, h.2] using h.1)

/-- Any other indirect target raises ADDRESS_ERROR. -/
theorem indirect_raises {pos : Nat} {t : DWord} {l : List Eff} (h : ¬(t.toNat < 2 ^ 40 ∧ t.toNat % 32 = 0)) :
    indirect pos t l = raise 5 pos (t.toNat % 2 ^ 40) :=
  if_pos (by
    simp only [addrOk, Bool.or_eq_true, Bool.not_eq_true', decide_eq_false_iff_not, decide_eq_true_eq]
    exact Decidable.not_and_iff_not_or_not.1 h)

/-- JOB.END issues once the job's earlier work has finished (R118). -/
theorem evJobEnd_done {s : State} {ph : Nat} (ha : arrWork (chmOf s ph).ar = false) (hf : flsBusy (chmOf s ph).fl = false) (hs : siphBusy s ph = false) :
    evJobEnd s ph = effs [.jobEnd] := by
  simp only [evJobEnd, ha, hf, hs, Bool.or_self, Bool.false_eq_true, if_false, effs]

/-- Settles O10: branches and calls by their targets, loop branches by lc, the returns by the bank in force. -/
theorem controlFlow : Obligations.ControlFlow := by
  unfold Obligations.ControlFlow
  refine ⟨fun ch b s => ⟨fun hi => issueOp_alone hi rfl, fun hi => issueOp_alone hi rfl, fun hi h => ?jmp, fun hi h => ?jmpBad, fun hi h => ?callr,
    fun hi h => ?callrBad, exec_loopBr_counts, exec_loopBrN_counts, exec_loopBr_ends, exec_loopBrN_ends⟩,
    fun ch b s => ⟨fun hi h => ?iret, fun hi h => ?iretOut, fun hi h => ?exret, fun hi h => ?exretOut, fun hi ha hf hs => ?jobEnd,
      fun hi => issueOp_raises hi rfl⟩⟩
  case jmp => exact issueOp_alone hi (congrArg (·, s) (indirect_jumps h))
  case jmpBad => exact issueOp_raises hi (congrArg (·, s) (indirect_raises h))
  case callr => exact issueOp_alone hi (congrArg (·, s) (indirect_jumps h))
  case callrBad => exact issueOp_raises hi (congrArg (·, s) (indirect_raises h))
  case iret => exact issueOp_alone hi (congrArg (·, s) (if_pos h))
  case iretOut => exact issueOp_raises hi (congrArg (·, s) (if_neg (ne_true_of_eq_false h)))
  case exret => exact issueOp_alone hi (congrArg (·, s) (if_pos h))
  case exretOut => exact issueOp_raises hi (congrArg (·, s) (if_neg (ne_true_of_eq_false h)))
  case jobEnd => exact issueOp_alone hi (congrArg (·, s) (evJobEnd_done ha hf hs))

end Sys2Proof.Machine
end

section
/-!
PROOFS. Interrupts from arbitration to the return, and halting and stepping a chamber.
-/
namespace Sys2Proof.Machine

/-! ### Delivery and entry (R114, R115, R344 to R346) -/

section
variable {ch : Fin 144} {s : State}

/-- The Lantern's chosen source is presented. -/
theorem exec_interruptDelivery_lantern_presents {c : Nat × Nat} (h : s.lvic.chosen = some c) :
    exec (.interruptDelivery .lantern) s = .next { s with lvic := presentSrc s.lvic 16 c } := by
  change Host.Outcome.next (deliverLantern s) = _
  simp only [deliverLantern, h]

/-- Where the Lantern has no chosen source, an arbitration chooses. -/
theorem exec_interruptDelivery_lantern_chooses (h : s.lvic.chosen = none) :
    exec (.interruptDelivery .lantern) s = .next { s with lvic := { s.lvic with chosen := arbitrate s.lvic 256 } } := by
  change Host.Outcome.next (deliverLantern s) = _
  simp only [deliverLantern, h]

/-- A chamber's chosen source is presented to a chamber that accepts it. -/
theorem exec_interruptDelivery_chamber_presents {c : Nat × Nat} (h : (chmOf s ch.val).vic.chosen = some c)
    (ha : acceptsIrq (chmOf s ch.val).core = true) : exec (.interruptDelivery (.chamber ch)) s = .next (updChm s ch.val fun x =>
      { x with vic := presentSrc x.vic 128 c,
               core := { x.core with entering := some (BitVec.ofNat 40 (x.vic.vbase + 128 * c.1)), keepHeld := anyHeld x.ar } }) := by
  change Host.Outcome.next (deliverChamber s ch.val) = _
  simp only [deliverChamber, h, ha, if_true]

/-- A chamber that takes no interrupt leaves its chosen source pending. -/
theorem exec_interruptDelivery_chamber_rejects {c : Nat × Nat} (h : (chmOf s ch.val).vic.chosen = some c)
    (ha : acceptsIrq (chmOf s ch.val).core = false) :
    exec (.interruptDelivery (.chamber ch)) s = .next (updChm s ch.val fun x => { x with vic := repend x.vic c.1 }) := by
  change Host.Outcome.next (deliverChamber s ch.val) = _
  simp only [deliverChamber, h, ha, Bool.false_eq_true, if_false]

/-- Where a chamber has no chosen source, an arbitration chooses. -/
theorem exec_interruptDelivery_chamber_chooses (h : (chmOf s ch.val).vic.chosen = none) (ha : acceptsIrq (chmOf s ch.val).core = true) :
    exec (.interruptDelivery (.chamber ch)) s = .next (updChm s ch.val fun x => { x with vic := { x.vic with chosen := arbitrate x.vic 64 } }) := by
  change Host.Outcome.next (deliverChamber s ch.val) = _
  simp only [deliverChamber, h, ha, if_true]

/-- The handler begins once every STREAM is held and no access is outstanding. -/
theorem exec_interruptEntry_begins {v : BitVec 40} (h : (chmOf s ch.val).core.entering = some v) (hh : allHeld (chmOf s ch.val).ar = true)
    (ho : accOut (chmOf s ch.val).core = false) :
    exec (.interruptEntry ch) s = .next (updCore (withdrawIssue s ch) ch.val fun c => enterIrq c v) := by
  change execInterruptEntry ch s = _
  simp only [execInterruptEntry, h, hh, ho, Bool.not_false, Bool.and_self, if_true]

/-! ### Bindings (R20, R23, R348) -/

/-- A binding as it is written (R348). -/
def bound (s : State) (ch k : Nat) (v : Word) (ctx : Nat) : State :=
  updChm s ch fun x => { x with vic := { x.vic with bind := Tab.put {} x.vic.bind k { valid := v.getLsbD 31, ctx := ctx, cairn := fld v.toNat 15 0 } } }

/-- Is the cairn that a binding names none of the chamber's context? -/
def bindsForeign (s : State) (ch : Nat) (v : Word) : Prop :=
  (cairnOf s (fld v.toNat 15 0)).typ = 0 ∨ (cairnOf s (fld v.toNat 15 0)).ctx ≠ (coreOf s ch).ctx

/-- A write by the Lantern takes the cairn's owning context. -/
theorem vicBind_lantern (ph k : Nat) (v : Word) : vicBind s .lantern ph k v = .ok (bound s ph k v (cairnOf s (fld v.toNat 15 0)).ctx) := rfl

/-- A chamber binds no cairn of another context. -/
theorem vicBind_denied {k : Nat} {v : Word} (hv : v.getLsbD 31 = true) (hf : bindsForeign s ch.val v) :
    vicBind s (.chamber ch) ch.val k v = .bus s := by
  simp only [bindsForeign] at hf
  simp [vicBind, hv, hf]

/-- A chamber binds a cairn of its own context, and ends a binding. -/
theorem vicBind_granted {k : Nat} {v : Word} (h : v.getLsbD 31 = false ∨ ¬bindsForeign s ch.val v) :
    vicBind s (.chamber ch) ch.val k v = .ok (bound s ch.val k v (coreOf s ch.val).ctx) := by
  have hno : (v.getLsbD 31 && (decide ((cairnOf s (fld v.toNat 15 0)).typ = 0) || decide ((cairnOf s (fld v.toNat 15 0)).ctx ≠ (coreOf s ch.val).ctx))) =
      false := by
    rcases h with hv | hf
    · rw [hv]; rfl
    · simp only [bindsForeign, not_or] at hf
      simp [hf]
  simp only [vicBind, hno, Bool.false_eq_true, if_false]
  rfl

variable {k : Fin 64} {v : Word}

/-- The Lantern's write of a listed binding. -/
theorem exec_vicBindk_lantern (hk : 16 ≤ k.val) :
    exec (.vicBindk .lantern ch k v) s = .next (bound s ch.val k.val v (cairnOf s (fld v.toNat 15 0)).ctx) := by
  change execVicBindk .lantern ch k v s = _
  simp only [execVicBindk, if_neg (Nat.not_lt.2 hk), vicBind_lantern, wroteBy]

/-- A chamber's write of a listed binding of its own. -/
theorem exec_vicBindk_own (hk : 16 ≤ k.val) :
    exec (.vicBindk (.chamber ch) ch k v) s = .next (chmWrote ch (bindAddr ch.val k.val) (vicBind s (.chamber ch) ch.val k.val v)) := by
  change execVicBindk (.chamber ch) ch k v s = _
  simp only [execVicBindk, if_neg (Nat.not_lt.2 hk), if_true, wroteBy]

/-- A chamber's write of another chamber's binding is denied. -/
theorem exec_vicBindk_other {c : Fin 144} (hk : 16 ≤ k.val) (hc : c ≠ ch) :
    exec (.vicBindk (.chamber c) ch k v) s = .next (chmRefused s c 6 (bindAddr ch.val k.val)) := by
  change execVicBindk (.chamber c) ch k v s = _
  simp only [execVicBindk, if_neg (Nat.not_lt.2 hk), if_neg hc, wroteBy, chmWrote]

/-- VIC_BIND0 to 15 are no listed registers. -/
theorem exec_vicBindk_unlisted {c : Fin 144} (hk : k.val < 16) :
    exec (.vicBindk (.chamber c) ch k v) s = .next (chmRefused s c 5 (bindAddr ch.val k.val)) := by
  change execVicBindk (.chamber c) ch k v s = _
  simp only [execVicBindk, if_pos hk, wroteBy, chmWrote]

end

/-! ### The interrupt bank (R113, R114, R116) -/

/-- The registers below g24 are in no bank. -/
theorem readG_unbanked {c d : Core} {n : Nat} (h : n < 24) (hg : d.g = c.g) : readG d n = readG c n := by
  simp only [readG, hg, decide_eq_false (show ¬28 ≤ n by omega), decide_eq_false (show ¬24 ≤ n by omega), Bool.and_false, Bool.false_eq_true, if_false]

/-- What a general register reads rests on the banks and the tables alone. -/
theorem readG_congr {c d : Core} (hg : d.g = c.g) (hi : d.ib = c.ib) (hx : d.xb = c.xb) (hib : d.ibank = c.ibank) (hxb : d.xbank = c.xbank) (n : Nat) :
    readG d n = readG c n := by simp only [readG, hg, hi, hx, hib, hxb]

/-- An interrupt outside the interrupt bank leaves every general register as it was, once it has returned. -/
theorem readG_exitIrq_enterIrq {c : Core} {v t : BitVec 40} {n : Nat} (h : c.ibank = false) : readG (exitIrq (enterIrq c v) t) n = readG c n :=
  readG_congr (c := c) (d := exitIrq (enterIrq c v) t) rfl rfl rfl h.symm rfl n

/-- Settles O26, command by command; then what the entry and the return do to the processor. -/
theorem interruptCourse : Obligations.InterruptCourse := by
  unfold Obligations.InterruptCourse
  refine ⟨fun ch s => ⟨fun c h => exec_interruptDelivery_lantern_presents h, fun h => exec_interruptDelivery_lantern_chooses h,
    fun c h ha => exec_interruptDelivery_chamber_presents h ha, fun c h ha => exec_interruptDelivery_chamber_rejects h ha,
    fun h ha => exec_interruptDelivery_chamber_chooses h ha, fun v h hh ho => exec_interruptEntry_begins h hh ho, rfl,
    fun k v hk => ⟨exec_vicBindk_lantern hk, fun hv hf => ?denied, fun h => ?granted⟩, fun c k v hk hc => exec_vicBindk_other hk hc,
    fun c k v hk => exec_vicBindk_unlisted hk⟩, fun c v => ⟨rfl, rfl, rfl, rfl, rfl, rfl, rfl, rfl,
      ⟨fun h => alignPc_of_aligned h, rfl, rfl, rfl, rfl, rfl⟩, fun n h => readG_unbanked h rfl, fun hi _ n => readG_exitIrq_enterIrq hi⟩⟩
  case denied => rw [exec_vicBindk_own hk, vicBind_denied hv hf, chmWrote]
  case granted =>
    rw [exec_vicBindk_own hk, vicBind_granted h]
    rfl

/-! ### Halting and stepping (R123, R407) -/

section
variable (c : Core) (h : Bool)

/-- The fields of the word that CHM_CTL_HALT_REQ writes: the instruction cache's lock as it was, no step, the halt asked for. -/
theorem haltWord_bits : let v := mkWord [(b2n c.icLock, 2), (b2n h, 0)]
    v.getLsbD 0 = h ∧ v.getLsbD 1 = false ∧ v.getLsbD 2 = c.icLock := by
  cases c.icLock <;> cases h <;> decide

/-- The fields of the word that CHM_CTL_STEP writes: the lock and the requested halt as they were, a step. -/
theorem stepWord_bits : let v := mkWord [(b2n c.icLock, 2), (1, 1), (b2n c.haltReq, 0)]
    v.getLsbD 0 = c.haltReq ∧ v.getLsbD 1 = true ∧ v.getLsbD 2 = c.icLock := by
  cases c.icLock <;> cases c.haltReq <;> decide

end

section
variable {s : State} {ph : Nat} {v : Word}

/-- A write of CHM_CTL while debug is locked for chambers changes the lock alone. -/
theorem chmCtlWrite_locked (hd : s.sec.scope.getLsbD 0 = false) (h2 : v.getLsbD 2 = (coreOf s ph).icLock) :
    chmCtlWrite s .lantern ph v = .ok (updCore s ph fun x => x) := by
  simp only [chmCtlWrite, hd, h2, Bool.false_and, Bool.false_eq_true, if_false]
  rfl

/-- A write of CHM_CTL without a step, while debug is unlocked for chambers: the requested halt takes effect where no access is outstanding. -/
theorem chmCtlWrite_halt (hd : s.sec.scope.getLsbD 0 = true) (h1 : v.getLsbD 1 = false) (h2 : v.getLsbD 2 = (coreOf s ph).icLock) :
    chmCtlWrite s .lantern ph v = .ok (updCore s ph fun x => { x with haltReq := v.getLsbD 0, halted := v.getLsbD 0 && !accOut x }) := by
  simp only [chmCtlWrite, hd, h1, h2, Bool.and_false, Bool.false_and, Bool.false_eq_true, if_false, if_true]
  rfl

/-- A write of CHM_CTL with a step, while debug is unlocked for chambers and a halt is requested: a halted chamber may issue one bundle. -/
theorem chmCtlWrite_step (hd : s.sec.scope.getLsbD 0 = true) (hq : (coreOf s ph).haltReq = true) (ho : accOut (coreOf s ph) = false)
    (h0 : v.getLsbD 0 = true) (h1 : v.getLsbD 1 = true) (h2 : v.getLsbD 2 = (coreOf s ph).icLock) :
    chmCtlWrite s .lantern ph v = .ok (updCore s ph fun x => { x with halted := true, stepping := true }) := by
  have hcore : ({ coreOf s ph with haltReq := true, halted := true, stepping := true } : Core) =
      { coreOf s ph with halted := true, stepping := true } := by rw [← hq]
  simp only [chmCtlWrite, hd, h0, h1, h2, ho, Bool.not_false, Bool.and_self, if_true]
  exact congrArg (fun c => WrRes.ok (setChm s ph { chmOf s ph with core := c })) hcore

end

/-- Settles O27: the word each command writes, and what CHM_CTL makes of it by whether debug is unlocked. -/
theorem halting : Obligations.Halting := by
  unfold Obligations.Halting
  intro ch s
  have hhalt (h : Bool) : exec (.chmCtlHaltReq ch h) s =
      .next (chmCtlWrite s .lantern ch.val (mkWord [(b2n (coreOf s ch.val).icLock, 2), (b2n h, 0)])).st := rfl
  have hstep : exec (.chmCtlStep ch) s = .next (chmCtlWrite s .lantern ch.val
      (mkWord [(b2n (coreOf s ch.val).icLock, 2), (1, 1), (b2n (coreOf s ch.val).haltReq, 0)])).st := rfl
  obtain ⟨k0, k1, k2⟩ := stepWord_bits (coreOf s ch.val)
  refine ⟨fun hd h => ?halt, fun hd hq ho => ?step, fun hd => ⟨fun h => ?lockedHalt, ?lockedStep⟩⟩
  case halt =>
    obtain ⟨h0, h1, h2⟩ := haltWord_bits (coreOf s ch.val) h
    rw [hhalt, chmCtlWrite_halt hd h1 h2, h0, WrRes.st_ok]
  case step => rw [hstep, chmCtlWrite_step hd hq ho (k0.trans hq) k1 k2, WrRes.st_ok]
  case lockedHalt =>
    obtain ⟨-, -, h2⟩ := haltWord_bits (coreOf s ch.val) h
    rw [hhalt, chmCtlWrite_locked hd h2, WrRes.st_ok]
  case lockedStep => rw [hstep, chmCtlWrite_locked hd k2, WrRes.st_ok]

end Sys2Proof.Machine
end

section
/-!
PROOFS. What writes of memory leave of contexts, templates and chambers, and the start of a job on a chamber.
-/
namespace Sys2Proof.Machine

/-! ### Writes of memory leave the chambers' processors alone -/

/-- Two chambers alike in processor, arrays and logical number. -/
def ChmAlike (x y : Chamber) : Prop := y.core = x.core ∧ y.ar = x.ar ∧ y.logical = x.logical

/-- State `t` has the contexts and templates of `s`, and chambers alike. -/
structure ChmsAlike (s t : State) : Prop where
  ctxs : t.ctxs = s.ctxs
  tmpls : t.tmpls = s.tmpls
  wf : Tab.wf {} s.chms = true → Tab.wf {} t.chms = true
  chm : Tab.wf {} s.chms = true → ∀ ph, ChmAlike (chmOf s ph) (chmOf t ph)

namespace ChmsAlike
variable {s t u : State}

/-- A change of other tables. -/
theorem of_eq (h1 : t.ctxs = s.ctxs) (h2 : t.tmpls = s.tmpls) (h3 : t.chms = s.chms) : ChmsAlike s t :=
  ⟨h1, h2, fun w => h3 ▸ w, fun _ ph => by unfold chmOf; rw [h3]; exact ⟨rfl, rfl, rfl⟩⟩

/-- No change. -/
theorem refl (s : State) : ChmsAlike s s := of_eq rfl rfl rfl

/-- One change after another. -/
theorem trans (h : ChmsAlike s t) (k : ChmsAlike t u) : ChmsAlike s u := by
  refine ⟨k.ctxs.trans h.ctxs, k.tmpls.trans h.tmpls, fun w => k.wf (h.wf w), fun w ph => ?_⟩
  obtain ⟨hc, ha, hl⟩ := h.chm w ph
  obtain ⟨kc, ka, kl⟩ := k.chm (h.wf w) ph
  exact ⟨kc.trans hc, ka.trans ha, kl.trans hl⟩

/-- A change of one chamber that leaves it alike. -/
theorem updChm (p : Nat) {f : Chamber → Chamber} (hf : ∀ c, ChmAlike c (f c)) : ChmsAlike s (updChm s p f) := by
  refine ⟨rfl, rfl, fun w => Tab.wf_put w, fun w ph => ?_⟩
  have hget : chmOf (Machine.updChm s p f) ph = if ph = p then f (chmOf s p) else chmOf s ph := Tab.get_put w
  rw [hget]
  split
  · next h => exact h ▸ hf _
  · exact ⟨rfl, rfl, rfl⟩

end ChmsAlike

/-- An entry of the error log. -/
theorem logErr_chmsAlike (s : State) (cls sev u : Nat) (detail : Word) (addr : Nat) (inj : Bool) : ChmsAlike s (logErr s cls sev u detail addr inj) := by
  obtain ⟨e, v, h⟩ := logErr_changes s cls sev u detail addr inj
  rw [h]
  exact .of_eq rfl rfl rfl

/-- An ECC error counted for its pocket (R209). -/
theorem countPocketEcc_chmsAlike (s : State) (k : Nat) (ue : Bool) : ChmsAlike s (countPocketEcc s k ue) := by
  unfold countPocketEcc
  split
  · exact .refl s
  · exact .updChm _ fun c => by cases ue <;> exact ⟨rfl, rfl, rfl⟩

/-- An ECC error at a key drawn, logged and counted. -/
theorem eccLogged_chmsAlike (s : State) (cls sev k a : Nat) (ue : Bool) :
    ChmsAlike s (countPocketEcc (logErr (draw s) cls sev (memUnit k) (Config.syndrome s.free) a false) k ue) := by
  have hdraw : ChmsAlike s (draw s) := .of_eq rfl rfl rfl
  exact hdraw.trans ((logErr_chmsAlike _ _ _ _ _ _ _).trans (countPocketEcc_chmsAlike _ _ _))

/-- A corrected error counted and logged. -/
theorem correctedAt_chmsAlike (s : State) (k a : Nat) : ChmsAlike s (correctedAt s k a) := eccLogged_chmsAlike s _ _ k a false

/-- A unit marked under a condition (R416). -/
theorem ite_markUnit_chmsAlike (b : Bool) (s : State) (u st cls : Nat) : ChmsAlike s (if b then markUnit s u st cls else s) := by
  cases b <;> exact .of_eq rfl rfl rfl

/-- Latent errors changed. -/
theorem memErr_chmsAlike (s : State) (m : Tab EccErr) : ChmsAlike s { s with memErr := m } := .of_eq rfl rfl rfl

/-- An uncorrectable error counted and logged, its latent error gone. -/
theorem uncorrectableAt_chmsAlike (s : State) (k a : Nat) : ChmsAlike s (uncorrectableAt s k a) :=
  (eccLogged_chmsAlike s _ 1 k a true).trans ((memErr_chmsAlike _ _).trans (ite_markUnit_chmsAlike _ _ _ _ _))

/-- Words rewritten as POISON. -/
theorem poisonWords_chmsAlike (n : Nat) (s : State) (k : Nat) : ChmsAlike s (poisonWords s k n) := by
  induction n generalizing s k with
  | zero => exact .refl s
  | succ n ih =>
    have hone : ChmsAlike s (setFlags { s with mem := Memory.setBytes s.mem k (List.replicate 8 0#8) } k { poison := true, missing := false }) :=
      .of_eq rfl rfl rfl
    exact hone.trans (ih _ _)

/-- The check of a write that covers a code unit in part (R443). -/
theorem partialCheck_chmsAlike (s : State) (w k a len : Nat) : ChmsAlike s (partialCheck s w k a len) := by
  unfold partialCheck
  extract_lets lo n ek
  split
  · exact .of_eq rfl rfl rfl
  · split
    · exact .refl s
    · exact (correctedAt_chmsAlike s k w).trans (.of_eq rfl rfl rfl)
    · exact (uncorrectableAt_chmsAlike s k w).trans (poisonWords_chmsAlike _ _ _)

/-- The bytes of a write in one word. -/
theorem writeInWord_chmsAlike (s : State) (w a : Nat) (data : List Byte) (f : WFlags) : ChmsAlike s (writeInWord s w a data f) := by
  unfold writeInWord
  split
  · exact .refl s
  · next k hk =>
    refine (partialCheck_chmsAlike s w k a data.length).trans ?_
    dsimp only
    split <;> exact .of_eq rfl rfl rfl

/-- The words of a write. -/
theorem writeFrom_chmsAlike (n : Nat) (s : State) (w a : Nat) (data : List Byte) (f : WFlags) : ChmsAlike s (writeFrom s w a data f n) := by
  induction n generalizing s w with
  | zero => exact .refl s
  | succ n ih => exact (writeInWord_chmsAlike s w a data f).trans (ih _ _)

/-- A write of memory. -/
theorem writeMem_chmsAlike (s : State) (a : Nat) (data : List Byte) (f : WFlags) : ChmsAlike s (writeMem s a data f) := by
  unfold writeMem
  split
  · exact .refl s
  · exact writeFrom_chmsAlike _ _ _ _ _ _

/-- The transient region zeroed (R188). -/
theorem zeroTransient_chmsAlike (s : State) (ph : Nat) : ChmsAlike s (zeroTransient s ph) := by
  refine ChmsAlike.trans ?_ (.updChm ph fun c => ⟨rfl, rfl, rfl⟩)
  exact List.foldlRecOn (motive := fun t => ChmsAlike s t) _ _ (.refl s) fun t ht u _ => ht.trans (.of_eq rfl rfl rfl)

/-! ### The start of a job (R117) -/

/-- A chamber that runs a job starts no other. -/
theorem exec_jobStart_active {ch : Fin 144} {s : State} (h : (coreOf s ch.val).active = true) : exec (.jobStart ch) s = .next s := by
  change execJobStart ch s = _
  have h' : (chmOf s ch.val).core.active = true := h
  simp only [execJobStart, h', if_true]

/-- The state in which a job starts on a chamber: the transient region zeroed for a new context, the parameter block written (R188, R295). -/
def beforeStart (s : State) (ph : Nat) (j : Job) (r lc : Nat) : State :=
  let s1 := if (chmOf s ph).prevCtx.any fun c => decide (c ≠ j.e.ctx) then zeroTransient s ph else s
  writeMem s1 (pocketBase lc + transientStart s1) (wordBytes (paramBlock j r)) noFlags

/-- That state has the chambers of the one before it. -/
theorem beforeStart_chmsAlike (s : State) (ph : Nat) (j : Job) (r lc : Nat) : ChmsAlike s (beforeStart s ph j r lc) := by
  refine ChmsAlike.trans ?_ (writeMem_chmsAlike _ _ _ _)
  split
  · exact zeroTransient_chmsAlike s ph
  · exact .refl s

/-- A chamber as it starts a job. -/
def started (u : State) (j : Job) (lc : Nat) (x : Chamber) : Chamber := { x with startTag := none, core := startCore u x.core j (tmplOf u j.e.tmpl) lc }

/-- The job released on an idle chamber starts. -/
theorem exec_jobStart_starts {ch : Fin 144} {s : State} {tag : Word} {j : Job} {r lc : Nat} (h : (coreOf s ch.val).active = false)
    (ht : (chmOf s ch.val).startTag = some tag) (hj : jobOf s tag = some j)
    (hc : (numbered j.chms).find? (fun c => decide (c.2.2 = ch.val)) = some (r, lc, ch.val)) :
    exec (.jobStart ch) s =
      .next (updChm (draw (beforeStart s ch.val j r lc)) ch.val (started (beforeStart s ch.val j r lc) j lc)) := by
  change execJobStart ch s = _
  have h' : (chmOf s ch.val).core.active = false := h
  simp only [execJobStart, h', ht, hj, hc, Bool.false_eq_true, if_false, beforeStart]
  cases (chmOf s ch.val).prevCtx <;> rfl

/-- What a register reads at job start: g1 the address of the parameter block, every other one 0. -/
theorem readReg_startCore (s : State) (c : Core) (j : Job) (t : Tmpl) (lc : Nat) :
    readReg (startCore s c j t lc) 1 = BitVec.ofNat 64 (pocketBase lc + transientStart s) ∧
    ∀ n, regCode n → n ≠ 1 → readReg (startCore s c j t lc) n = 0 := by
  have hg (n : Nat) : readG (startCore s c j t lc) n = if n = 1 then BitVec.ofNat 64 (pocketBase lc + transientStart s) else 0 := by
    by_cases h0 : n = 0
    · subst h0
      rfl
    · have hget : readG (startCore s c j t lc) n = Tab.get 0 (Tab.put 0 [] 1 (BitVec.ofNat 64 (pocketBase lc + transientStart s))) n := if_neg h0
      rw [hget, Tab.get_put (lo := none) rfl]
      rfl
  refine ⟨hg 1, fun n _ h1 => ?_⟩
  by_cases hn : n < 0x20
  · rw [readReg_general hn, hg, if_neg h1]
  · rw [readReg_loop (Nat.not_lt.1 hn)]
    rfl

/-- Settles O33: the start in a state alike but for memory, then the processor's fields at job start. -/
theorem jobStart : Obligations.JobStart := by
  unfold Obligations.JobStart
  refine fun ch s tag j r lc htab ht hj hc => ⟨exec_jobStart_active, fun h => ?_⟩
  have hu := beforeStart_chmsAlike s ch.val j r lc
  refine ⟨_, exec_jobStart_starts h ht hj hc, ?_⟩
  generalize beforeStart s ch.val j r lc = u at hu ⊢
  have hctxs : ∀ k, ctxOf u k = ctxOf s k := fun k => by rw [ctxOf, hu.ctxs, ctxOf]
  have htmpl : tmplOf u j.e.tmpl = tmplOf s j.e.tmpl := by rw [tmplOf, hu.tmpls, tmplOf]
  have htrans : transientStart u = transientStart s := by simp only [transientStart, transientUnits, hu.ctxs]
  obtain ⟨hcore, har, hlog⟩ := hu.chm htab.1 ch.val
  have hchm : chmOf (updChm (draw u) ch.val (started u j lc)) ch.val = started u j lc (chmOf u ch.val) := chmOf_updChm (s := draw u) (hu.wf htab.1) _
  have hnew : coreOf (updChm (draw u) ch.val (started u j lc)) ch.val = startCore u (coreOf s ch.val) j (tmplOf s j.e.tmpl) lc := by
    rw [coreOf, hchm, started, hcore, htmpl]
    rfl
  obtain ⟨h1, hrest⟩ := readReg_startCore u (coreOf s ch.val) j (tmplOf s j.e.tmpl) lc
  simp only [readSpecial, hnew, hchm]
  refine ⟨htrans ▸ h1, hrest, fun n => ⟨rfl, rfl⟩, rfl, rfl, rfl, rfl, rfl, rfl, rfl, rfl, rfl, rfl, rfl, rfl, rfl, rfl, rfl, rfl,
    ?pc, rfl, fun hl => ?info, har, rfl⟩
  case pc => rw [← hctxs]; rfl
  case info =>
    have hl' : (started u j lc (chmOf u ch.val)).logical = some lc := hlog.trans hl
    rw [hl']
    rfl

end Sys2Proof.Machine
end

section
/-!
PROOFS. A store that completes from a bundle no fetch could have brought to issue: its base is a reserved register code, which the write of the
post-increment takes for l0.
-/
namespace Sys2Proof.Machine

/-- An ST of one byte of g0 with post-increment 1, whose base has the reserved code 0x20 (R128). -/
def reservedBaseSt : Bundle := BitVec.ofNat 256 (0x44 + 2 ^ 96 * (2 ^ 4 * 2 + 2 ^ 13 + 2 ^ 21 * 0x20 + 2 ^ 28 * 1))

/-- A chamber of context 0 waits for that store to the first byte of HBM, which the context may reach. -/
def reservedBaseState : State :=
  { State.reset with
    chms := [(0, { core := { issue := some { word := reservedBaseSt, done := [.m], acc := some { store := true, addr := 0, size := 1 } } } })]
    ctxs := [(0, { isSet := true, hbm := [(0, 1)] })] }

/-- The bundle is illegal at its M position (R147 item 5), and its access is out all the same. -/
theorem reservedBaseState_waits : illegalPos reservedBaseSt = some (posCode .m) ∧
    accessOut .st true reservedBaseState 0 reservedBaseSt = true ∧ accessExc reservedBaseState 0 (posField reservedBaseSt .m) true = [] := by
  decide +kernel

/-- The store asks for its byte and for the post-increment. -/
theorem reservedBaseState_asks : evalOp .st reservedBaseState 0 (posCode .m) (posField reservedBaseSt .m) true =
    (effs [.store 0 [0#8], .reg 0x20 1#64], reservedBaseState) := by
  decide +kernel

/-- Once it has completed, l0, which read 0, reads 1. -/
theorem reservedBaseState_l0 : readReg (coreOf reservedBaseState 0) 0x40 = 0 ∧
    readReg (coreOf (commit reservedBaseState 0 [.store 0 [0#8], .reg 0x20 1#64]) 0) 0x40 = 1 := by
  decide +kernel

/-- Refutes O22: nothing asks that the bundle whose access is out be legal, and a base with a reserved code is l0 to the post-increment. -/
theorem not_frameAccess : ¬ Obligations.FrameAccess := by
  unfold Obligations.FrameAccess
  rintro ⟨hstore, -⟩
  obtain ⟨-, hout, hexc⟩ := reservedBaseState_waits
  obtain ⟨hbefore, hafter⟩ := reservedBaseState_l0
  have hexec : exec (.storeCompletion 0) reservedBaseState = .next (commit reservedBaseState 0 [.store 0 [0#8], .reg 0x20 1#64]) :=
    completeAcc_alone hout reservedBaseState_asks
  have hmem : memoryOk reservedBaseState := ⟨rfl, rfl⟩
  have htab : tablesOk reservedBaseState := ⟨by decide +kernel, rfl, rfl⟩
  obtain ⟨-, -, ⟨hregs, -⟩, -⟩ := hstore 0 reservedBaseSt reservedBaseState _ hmem htab (.inr ⟨hout, hexc, hexec⟩)
    (by decide +kernel) (by decide +kernel) (by decide +kernel)
  have hl0 := hregs 0x40 (by unfold regCode; decide) fun _ => by decide +kernel
  exact absurd (hafter.symm.trans (hl0.trans hbefore)) (by decide)

end Sys2Proof.Machine
end

section
/-!
PROOFS. What the X operations that compute, compare and form constants write.
-/
namespace Sys2Proof.Machine

/-! ### X operations (R126, R130, R131) -/

section
variable {op : BOp} {s : State} {ch : Fin 144} {p : Pos} {b : Bundle}

/-- An operation of format R writes its result to rd (R130). -/
theorem issueOp_formatR (g : DWord → DWord → DWord) (hi : issuesAlone op s ch p b = true)
    (he : evalOp op s ch (posCode p) (posField b p) false = (evR g (coreOf s ch.val) (posField b p), s)) :
    issueOp op ch p b s = .next (commit s ch.val [.reg (fld (posField b p) 17 11)
      (g (readReg (coreOf s ch.val) (fld (posField b p) 24 18)) (srcR (coreOf s ch.val) (posField b p)))]) := issueOp_alone hi he

/-- An operation of format P writes its condition to pt and the complement to pf (R130). -/
theorem issueOp_formatP (cc : DWord → DWord → Bool) (hi : issuesAlone op s ch p b = true)
    (he : evalOp op s ch (posCode p) (posField b p) false = (evP cc (coreOf s ch.val) (posField b p), s)) :
    let v := cc (readReg (coreOf s ch.val) (fld (posField b p) 25 19)) (srcP (coreOf s ch.val) (posField b p))
    issueOp op ch p b s = .next (commit s ch.val [.pred (fld (posField b p) 14 11) v, .pred (fld (posField b p) 18 15) (!v)]) := issueOp_alone hi he

end

/-- The signed value of the low bits of a number is that of the bit vector they form. -/
theorem sgn_eq_toInt (v n : Nat) : sgn v (n + 1) = (BitVec.ofNat (n + 1) v).toInt := by
  have hhalf : v % 2 ^ (n + 1) < 2 ^ n ↔ 2 * (v % 2 ^ (n + 1)) < 2 ^ (n + 1) := by rw [Nat.pow_succ]; omega
  simp only [sgn, BitVec.toInt_eq_toNat_cond, BitVec.toNat_ofNat, Nat.add_sub_cancel, hhalf]
  rfl

/-- rd[39:0] after CONST.H: imm20 above the low 20 bits as they were (R131). -/
def constHLow (c : Core) (f : Nat) : Nat := (readReg c (fld f 17 11)).toNat % 2 ^ 20 + fld f 37 18 * 2 ^ 20

/-- CONST.H that fills with zeros (R131). -/
theorem evConstH_zeros {c : Core} {f : Nat} (h : bitAt f 10 = false) :
    evConstH c f = effs [.reg (fld f 17 11) (BitVec.ofNat 64 (constHLow c f))] := by
  rw [evConstH, h]
  rfl

/-- CONST.H that fills with copies of bit 39 (R131). -/
theorem evConstH_signs {c : Core} {f : Nat} (h : bitAt f 10 = true) :
    evConstH c f = effs [.reg (fld f 17 11) ((BitVec.ofNat 40 (constHLow c f)).signExtend 64)] := by
  rw [evConstH, h, BitVec.signExtend, ← sgn_eq_toInt]
  rfl

/-- Settles O4, by the format of each operation; CONST.H by what it fills with. -/
theorem xOperations : Obligations.XOperations := by
  unfold Obligations.XOperations
  refine ⟨fun ch p b s => ?formatR,
    fun ch p b s => ⟨fun hi => issueOp_alone hi rfl, fun hi => issueOp_alone hi rfl, fun hi hz => ?constHZeros, fun hi hs => ?constHSigns⟩,
    fun ch p b s => ?formatP⟩
  case formatR =>
    exact ⟨fun hi => issueOp_formatR (· + ·) hi rfl, fun hi => issueOp_formatR (· - ·) hi rfl, fun hi => issueOp_formatR (· &&& ·) hi rfl,
      fun hi => issueOp_formatR (· ||| ·) hi rfl, fun hi => issueOp_formatR (· ^^^ ·) hi rfl,
      fun hi => issueOp_formatR (fun x y => x <<< shCount y) hi rfl, fun hi => issueOp_formatR (fun x y => x >>> shCount y) hi rfl,
      fun hi => issueOp_formatR (fun x y => x.sshiftRight (shCount y)) hi rfl, fun hi => issueOp_formatR (· * ·) hi rfl⟩
  case constHZeros => exact issueOp_alone hi (congrArg (·, s) (evConstH_zeros hz))
  case constHSigns => exact issueOp_alone hi (congrArg (·, s) (evConstH_signs hs))
  case formatP =>
    exact ⟨fun hi => issueOp_formatP condEq hi rfl, fun hi => issueOp_formatP condNe hi rfl, fun hi => issueOp_formatP condLt hi rfl,
      fun hi => issueOp_formatP condLe hi rfl, fun hi => issueOp_formatP condGt hi rfl, fun hi => issueOp_formatP condGe hi rfl,
      fun hi => issueOp_formatP condLtu hi rfl, fun hi => issueOp_formatP condGeu hi rfl⟩

end Sys2Proof.Machine
end

section
/-!
PROOFS. Loads and stores of memory, of the own pocket and elsewhere.
-/
namespace Sys2Proof.Machine

/-! ### LD and ST of memory (R133 to R135, R150, R184, R189) -/

section
variable {s : State} {ch : Fin 144} {f : Nat} {fin : Bool}

/-- A load of bytes the job may reach, without POISON, asks for the value and the post-increment (R133, R134). -/
theorem loadMem_clean {ph pos a : Nat} (hm : chmMay s ph a (accSize f) false = true) (hp : (readBytes s a (accSize f)).2.1.poison = false) :
    loadMem s ph pos f a = (effs (.reg (fld f 20 14) (extend (readBytes s a (accSize f)).1 (bitAt f 12)) :: postInc (coreOf s ph) f),
      (readBytes s a (accSize f)).2.2.2) := by
  simp only [loadMem, hm, hp, Bool.not_true, Bool.false_eq_true, if_false]

/-- A load of bytes the job may reach raises MEMORY_ERROR on POISON (R184). -/
theorem loadMem_poison {ph pos a : Nat} (hm : chmMay s ph a (accSize f) false = true) (hp : (readBytes s a (accSize f)).2.1.poison = true) :
    loadMem s ph pos f a = (raise 7 pos a, (readBytes s a (accSize f)).2.2.2) := by
  simp only [loadMem, hm, hp, Bool.not_true, Bool.false_eq_true, if_false, if_true]

section
variable (he : accessExc s ch f fin = []) (hr : isCsr (accAddr (coreOf s ch.val) f) = false)
include he hr

/-- An LD of the own pocket, and one whose access completes, loads. -/
theorem evLd_loads (ho : (inOwnPocket s ch.val (accAddr (coreOf s ch.val) f) (accSize f) || fin) = true) :
    evLd s ch.val (posCode .m) f fin = loadMem s ch.val (posCode .m) f (accAddr (coreOf s ch.val) f) := by
  rw [accessExc] at he
  simp only [evLd, he, hr, ho, Bool.false_eq_true, if_false, if_true]

/-- An LD outside the own pocket sends its access out (R150). -/
theorem evLd_out (ho : (inOwnPocket s ch.val (accAddr (coreOf s ch.val) f) (accSize f) || fin) = false) :
    evLd s ch.val (posCode .m) f fin = ({ out := some { store := false, addr := accAddr (coreOf s ch.val) f, size := accSize f } }, s) := by
  rw [accessExc] at he
  simp only [evLd, he, hr, ho, Bool.false_eq_true, if_false]

/-- An ST to the own pocket, and one whose access completes, stores the bytes that the job may reach (R133, R134). -/
theorem evSt_stores (ho : (inOwnPocket s ch.val (accAddr (coreOf s ch.val) f) (accSize f) || fin) = true)
    (hm : chmMay s ch.val (accAddr (coreOf s ch.val) f) (accSize f) true = true) :
    evSt s ch (posCode .m) f fin =
      (effs (.store (accAddr (coreOf s ch.val) f) (stData (coreOf s ch.val) f) :: postInc (coreOf s ch.val) f), s) := by
  rw [accessExc] at he
  simp only [evSt, he, hr, ho, hm, Bool.false_eq_true, if_false, if_true]

/-- Such an ST raises BUS_ERROR where the job may not reach the bytes (R189). -/
theorem evSt_denied (ho : (inOwnPocket s ch.val (accAddr (coreOf s ch.val) f) (accSize f) || fin) = true)
    (hm : chmMay s ch.val (accAddr (coreOf s ch.val) f) (accSize f) true = false) :
    evSt s ch (posCode .m) f fin = (raise 6 (posCode .m) (accAddr (coreOf s ch.val) f), s) := by
  rw [accessExc] at he
  simp only [evSt, he, hr, ho, hm, Bool.false_eq_true, if_false, if_true]

/-- An ST outside the own pocket sends its access out (R150). -/
theorem evSt_out (ho : (inOwnPocket s ch.val (accAddr (coreOf s ch.val) f) (accSize f) || fin) = false) :
    evSt s ch (posCode .m) f fin = ({ out := some { store := true, addr := accAddr (coreOf s ch.val) f, size := accSize f } }, s) := by
  rw [accessExc] at he
  simp only [evSt, he, hr, ho, Bool.false_eq_true, if_false]

end

end

/-- Settles O6: an access by whether it is to the own pocket, elsewhere, or completes; then a load by POISON, a store by the job's reach. -/
theorem loadsAndStores : Obligations.LoadsAndStores := by
  unfold Obligations.LoadsAndStores
  refine ⟨fun ch b s => ⟨fun hi he hr ho hm => ⟨fun hp => ?ldOwn, fun hp => ?ldPoison⟩, fun hi he hr ho => ?ldOut,
      fun hout he hr hm hp => ?ldDone⟩,
    fun ch b s => ⟨fun hi he hr ho => ⟨fun hm => ?stOwn, fun hm => ?stDenied⟩, fun hi he hr ho => ?stOut, fun hout he hr hm => ?stDone⟩⟩
  case ldOwn => exact issueOp_alone hi ((evLd_loads he hr (Bool.or_eq_true_iff.2 (.inl ho))).trans (loadMem_clean hm hp))
  case ldPoison => exact issueOp_raises hi ((evLd_loads he hr (Bool.or_eq_true_iff.2 (.inl ho))).trans (loadMem_poison hm hp))
  case ldOut => exact issueOp_out hi (evLd_out he hr (Bool.or_eq_false_iff.2 ⟨ho, rfl⟩))
  case ldDone => exact completeAcc_alone hout ((evLd_loads he hr (Bool.or_true _)).trans (loadMem_clean hm hp))
  case stOwn => exact issueOp_alone hi (evSt_stores he hr (Bool.or_eq_true_iff.2 (.inl ho)) hm)
  case stDenied => exact issueOp_raises hi (evSt_denied he hr (Bool.or_eq_true_iff.2 (.inl ho)) hm)
  case stOut => exact issueOp_out hi (evSt_out he hr (Bool.or_eq_false_iff.2 ⟨ho, rfl⟩))
  case stDone => exact completeAcc_alone hout (evSt_stores he hr (Bool.or_true _) hm)

end Sys2Proof.Machine
end

section
/-!
PROOFS. Signals, adds, tries and waits on cairns.
-/
namespace Sys2Proof.Machine

/-! ### Waits that a cairn grants at once (R334) -/

/-- A cairn that is no barrier has no release time to settle. -/
theorem settleTimed_not_barrier {s : State} {n : Nat} (h : (cairnOf s n).typ ≠ 2) : settleTimed s n = s := by simp [settleTimed, h]

section
variable {s : State} {n ctx : Nat} (hx : (cairnOf s n).ctx = ctx) (hf : (cairnOf s n).faulted = false) (hv : (cairnOf s n).v ≠ 0#32)
include hx hf hv

/-- A SEMAPHORE that is not 0 counts down and grants the wait (R334). -/
theorem cairnWait_semaphore (ph : Nat) (ht : (cairnOf s n).typ = 1) : cairnWait s n ph ctx =
    grantTo (setCairn s n { cairnOf s n with v := (cairnOf s n).v - 1 }) ph (statusWord 0 ((cairnOf s n).v - 1)) 0 := by
  have hs : settleTimed s n = s := settleTimed_not_barrier (by rw [ht]; decide)
  simp [cairnWait, hs, ht, hx, hf, hv]

/-- An EVENT that is not 0 grants the wait, and with autoclear is cleared (R334). -/
theorem cairnWait_event (ph : Nat) (ht : (cairnOf s n).typ = 3) : cairnWait s n ph ctx =
    grantTo (setCairn s n { cairnOf s n with v := if (cairnOf s n).autoclear then 0 else (cairnOf s n).v }) ph (statusWord 0 (cairnOf s n).v)
      (if (cairnOf s n).autoclear then (cairnOf s n).v else 0) := by
  have hs : settleTimed s n = s := settleTimed_not_barrier (by rw [ht]; decide)
  simp [cairnWait, hs, ht, hx, hf, hv]

end

/-- The chamber that is given a status word holds it. -/
theorem grant_grantTo {s : State} (w : Tab.wf {} s.chms = true) (ph : Nat) (g : DWord) (back : Word) :
    (coreOf (grantTo s ph g back) ph).grant = some g := congrArg Core.grant (coreOf_updCore w _)

/-- A SEMAPHORE or EVENT that is not 0 grants a wait at once (R334). -/
theorem cairnWait_grants {s : State} {n ctx : Nat} (ph : Nat) (w : Tab.wf {} s.chms = true) (hx : (cairnOf s n).ctx = ctx)
    (ht : (cairnOf s n).typ = 1 ∨ (cairnOf s n).typ = 3) (hf : (cairnOf s n).faulted = false) (hv : (cairnOf s n).v ≠ 0) :
    (coreOf (cairnWait s n ph ctx) ph).grant.isSome = true := by
  rcases ht with ht | ht
  · rw [cairnWait_semaphore hx hf hv ph ht, grant_grantTo (s := setCairn s n _) w]
    rfl
  · rw [cairnWait_event hx hf hv ph ht, grant_grantTo (s := setCairn s n _) w]
    rfl

/-! ### Cairn operations at issue (R142, R145) -/

/-- On a cairn of the job's context, while the cairn network has its clock, a cairn operation asks for what it does. -/
theorem evCairn_owned {s : State} {n : Nat} {c : Core} (hc : noClock s 1 = false) (ho : (cairnOf s n).typ ≠ 0 ∧ (cairnOf s n).ctx = c.ctx)
    (pos : Nat) (r : OpRes) : evCairn s c pos n r = r := by
  rw [evCairn, ownsCairn_iff.2 ho, hc]
  rfl

/-- On another cairn it raises BUS_ERROR (R145). -/
theorem evCairn_denied {s : State} {n : Nat} {c : Core} (ho : ¬((cairnOf s n).typ ≠ 0 ∧ (cairnOf s n).ctx = c.ctx)) (pos : Nat)
    (r : OpRes) : evCairn s c pos n r = raise 6 pos 0 := if_neg fun h => ho (ownsCairn_iff.1 h)

section
variable {op : BOp} {s : State} {ch : Fin 144} {b : Bundle} {n : Nat} (hi : issuesAlone op s ch .c b = true) (hc : noClock s 1 = false)
include hi hc

/-- A signal, an add or a try, alone in its bundle: it acts on a cairn of the job's context, and raises BUS_ERROR on another one (R145). -/
theorem issueOp_cairn {l : List Eff}
    (he : evalOp op s ch (posCode .c) (posField b .c) false = (evCairn s (coreOf s ch.val) (posCode .c) n (effs l), s)) :
    ((cairnOf s n).typ ≠ 0 ∧ (cairnOf s n).ctx = (coreOf s ch.val).ctx → issueOp op ch .c b s = .next (commit s ch.val l)) ∧
    (¬((cairnOf s n).typ ≠ 0 ∧ (cairnOf s n).ctx = (coreOf s ch.val).ctx) → issueOp op ch .c b s = .next (raiseAt s ch (6, 5, 0))) := by
  refine ⟨fun ho => issueOp_alone hi ?_, fun ho => issueOp_raises hi ?_⟩
  · rw [he, evCairn_owned hc ho]
  · rw [he, evCairn_denied ho]
    rfl

/-- A wait alone in its bundle and not yet begun: on a cairn of the job's context it issues where the cairn grants at once, as a SEMAPHORE or EVENT
that is not 0 does, and holds the bundle where it does not; on another cairn it raises BUS_ERROR (R145, R334). -/
theorem issueOp_cairnWait {rt : Nat} (hw : (coreOf s ch.val).waitCairn = none) (hg : (coreOf s ch.val).grant = none)
    (he : evalOp op s ch (posCode .c) (posField b .c) false = (evWait s (coreOf s ch.val) (posCode .c) n rt, s)) :
    let s1 := cairnWait s n ch.val (coreOf s ch.val).ctx
    ((cairnOf s n).typ ≠ 0 ∧ (cairnOf s n).ctx = (coreOf s ch.val).ctx →
      (tablesOk s → (cairnOf s n).typ = 1 ∨ (cairnOf s n).typ = 3 → (cairnOf s n).faulted = false → (cairnOf s n).v ≠ 0 →
        issueOp op ch .c b s = .next (commit s1 ch.val [.cnDone rt])) ∧
      (((coreOf s1 ch.val).grant.isSome = true → issueOp op ch .c b s = .next (commit s1 ch.val [.cnDone rt])) ∧
        ((coreOf s1 ch.val).grant.isSome = false → ∃ d, issueOp op ch .c b s = .next (holdIssue s1 ch.val b d none [] 5)))) ∧
    (¬((cairnOf s n).typ ≠ 0 ∧ (cairnOf s n).ctx = (coreOf s ch.val).ctx) → issueOp op ch .c b s = .next (raiseAt s ch (6, 5, 0))) := by
  have hfresh : evWait s (coreOf s ch.val) (posCode .c) n rt =
      evCairn s (coreOf s ch.val) (posCode .c) n { cairn := some n, effs := [.cnDone rt] } := by
    rw [evWait, hw, hg]
    rfl
  refine ⟨fun ho => ?owned, fun ho => issueOp_raises hi ?denied⟩
  case owned =>
    have hphase := issueOp_wait hi (by rw [he, hfresh, evCairn_owned hc ho]) hw hg
    exact ⟨fun htab ht hf hv => hphase.1 (cairnWait_grants ch.val htab.1 ho.2 ht hf hv), hphase⟩
  case denied =>
    rw [he, hfresh, evCairn_denied ho]
    rfl

end

/-- Settles O11: signals, adds and tries by whether the job's context owns the cairn; waits by what the cairn answers as well. -/
theorem cairnOperations : Obligations.CairnOperations := by
  unfold Obligations.CairnOperations
  intro ch b s hc
  exact ⟨fun hi => issueOp_cairn hi hc rfl, fun hi => issueOp_cairn hi hc rfl, fun hi => issueOp_cairn hi hc rfl,
    fun hi ⟨hw, hg⟩ => issueOp_cairnWait hi hc hw hg rfl, fun hi => issueOp_cairn hi hc rfl, fun hi => issueOp_cairn hi hc rfl,
    fun hi => issueOp_cairn hi hc rfl, fun hi ⟨hw, hg⟩ => issueOp_cairnWait hi hc hw hg rfl⟩

end Sys2Proof.Machine
end

section
/-!
PROOFS. Flowstone: the rule of one micro-operation, the element operations and the LUT's lane fault.
-/
namespace Sys2Proof.Machine

/-! ### One micro-operation (R159, R165, R172) -/

section
variable {op : Nat} {ch : Fin 144} {s : State} {g : FRun → DWord → Fls → Fls × Option Nat} {r : FRun} {u : DWord} {f : Fls}
  (hc : noClock s 0 = false) (hu : curUop (chmOf s ch.val).fl = some (r, u)) (ho : uOp u = op)
include hc hu ho

/-- A micro-operation without a lane fault leaves what it made of flowstone, and ends. -/
theorem withUop_ends (hg : g r u (chmOf s ch.val).fl = (f, none)) : withUop op ch s g = .next (updFl s ch.val fun _ => endUop f) := by
  simp [withUop, hu, ho, hc, updFl, updChm, hg]

/-- A micro-operation with a lane fault ends the run. -/
theorem withUop_faults {e : Nat} (hg : g r u (chmOf s ch.val).fl = (f, some e)) :
    withUop op ch s g = .next (updFl s ch.val fun _ => faultRun { f with perfBusy := f.perfBusy + 8 } 3 r.k e) := by
  simp [withUop, hu, ho, hc, updFl, updChm, hg]

end

/-! ### Lanes -/

/-- The lane of element `i`: a masked element stays (R165). -/
def elemLane (g : Fls → DWord → Nat → Int → Int → Int → Lane) (u : DWord) (f : Fls) (i : Nat) : Lane :=
  if masked f u i then plain (Tab.get 0 (Tab.get {} f.t (uDst u)).els i) else laneOf f u (g f u) i

/-- A value, saturated to 32 bits where the operation clamps it. -/
def limited (clamps : Bool) (x : Int) : Int := if clamps then sat x 32 else x

/-- The lane of a value that the operation clamps to 32 bits or does not. -/
def valueLane (clamps : Bool) (x : Int) : Lane := if clamps then sat32 x else plain x

/-- Such a lane holds the limited value and has clamped where that is another. -/
theorem valueLane_eq (clamps : Bool) (x : Int) : valueLane clamps x = some (limited clamps x, decide (limited clamps x ≠ x)) := by
  cases clamps with
  | false => simp [valueLane, limited, plain]
  | true => rfl

/-- An element operation by its lanes: their values, whether one clamped, and the first that faults. -/
theorem elemUop_lanes (g : Fls → DWord → Nat → Int → Int → Int → Lane) (r : FRun) (u : DWord) (f : Fls) :
    let old := Tab.get {} f.t (uDst u)
    let hit := (List.range 1024).any fun i => laneHit (elemLane g u f i)
    elemUop g r u f =
      ({ f with t := Tab.put {} f.t (uDst u)
                  { els := tabInts ((List.range 1024).map fun i => laneVal (Tab.get 0 old.els i) (elemLane g u f i)),
                    flags := { readFlags f u with accSat := (readFlags f u).accSat || hit } },
                satBit := f.satBit || hit },
       (List.range 1024).find? fun i => (elemLane g u f i).isNone) := by
  have hzip : (List.range 1024).zip ((List.range 1024).map (elemLane g u f)) = (List.range 1024).map fun i => (i, elemLane g u f i) := by
    simpa using List.zip_map' (f := id) (g := elemLane g u f) (l := List.range 1024)
  have hvals (old : Tab Int) : (((List.range 1024).zip ((List.range 1024).map (elemLane g u f))).map fun e => laneVal (Tab.get 0 old e.1) e.2) =
      (List.range 1024).map fun i => laneVal (Tab.get 0 old i) (elemLane g u f i) := by
    rw [hzip, List.map_map]
    rfl
  have hhit : ((List.range 1024).map (elemLane g u f)).any laneHit = (List.range 1024).any fun i => laneHit (elemLane g u f i) := List.any_map
  dsimp only
  rw [← hhit, ← hvals]
  rfl

/-! ### Element operations (R161, R163, R165, R168) -/

/-- Flowstone after an element operation: its unmasked elements take their values, clamped where `clamps` says so. -/
def elemTile (f : Fls) (u : DWord) (val : Nat → Int) (clamps : Nat → Bool) : Fls :=
  let old := Tab.get {} f.t (uDst u)
  let hit := (List.range 1024).any fun i => !masked f u i && decide (limited (clamps i) (val i) ≠ val i)
  { f with
    t := Tab.put {} f.t (uDst u)
      { els := tabInts ((List.range 1024).map fun i => if masked f u i then Tab.get 0 old.els i else limited (clamps i) (val i)),
        flags := { readFlags f u with accSat := (readFlags f u).accSat || hit } },
    satBit := f.satBit || hit }

/-- An operation whose unmasked lanes hold values writes them and faults nowhere. -/
theorem elemUop_values {g : Fls → DWord → Nat → Int → Int → Int → Lane} {r : FRun} {u : DWord} {f : Fls} {val : Nat → Int}
    {clamps : Nat → Bool} (h : ∀ i, i < 1024 → masked f u i = false → laneOf f u (g f u) i = valueLane (clamps i) (val i)) :
    elemUop g r u f = (elemTile f u val clamps, none) := by
  have hlane : ∀ i ∈ List.range 1024, elemLane g u f i =
      if masked f u i then plain (Tab.get 0 (Tab.get {} f.t (uDst u)).els i)
      else some (limited (clamps i) (val i), decide (limited (clamps i) (val i) ≠ val i)) := by
    intro i hi
    rw [elemLane]
    split
    · rfl
    · next hm => rw [h i (List.mem_range.1 hi) (eq_false_of_ne_true hm), valueLane_eq]
  have hvals : ((List.range 1024).map fun i => laneVal (Tab.get 0 (Tab.get {} f.t (uDst u)).els i) (elemLane g u f i)) =
      (List.range 1024).map fun i => if masked f u i then Tab.get 0 (Tab.get {} f.t (uDst u)).els i else limited (clamps i) (val i) := by
    refine List.map_congr_left fun i hi => ?_
    rw [hlane i hi]
    split <;> rfl
  have hhit : ((List.range 1024).any fun i => laneHit (elemLane g u f i)) =
      (List.range 1024).any fun i => !masked f u i && decide (limited (clamps i) (val i) ≠ val i) := by
    rw [Bool.eq_iff_iff, List.any_eq_true, List.any_eq_true]
    refine exists_congr fun i => and_congr_right fun hi => ?_
    rw [hlane i hi]
    cases masked f u i <;> rfl
  have hnone : ((List.range 1024).find? fun i => (elemLane g u f i).isNone) = none := by
    refine List.find?_eq_none.2 fun i hi => ?_
    rw [hlane i hi]
    split <;> exact Bool.false_ne_true
  rw [elemUop_lanes, hvals, hhit, hnone]
  rfl

/-- The command of such an operation writes the values and ends the micro-operation. -/
theorem withUop_writes (g : Fls → DWord → Nat → Int → Int → Int → Lane) {op : Nat} {ch : Fin 144} {s : State} {r : FRun} {u : DWord}
    {val : Nat → Int} {clamps : Nat → Bool} (hc : noClock s 0 = false) (hu : curUop (chmOf s ch.val).fl = some (r, u)) (ho : uOp u = op)
    (h : ∀ i, i < 1024 → masked (chmOf s ch.val).fl u i = false →
      laneOf (chmOf s ch.val).fl u (g (chmOf s ch.val).fl u) i = valueLane (clamps i) (val i)) :
    withUop op ch s (elemUop g) = .next (updFl s ch.val fun _ => endUop (elemTile (chmOf s ch.val).fl u val clamps)) :=
  withUop_ends hc hu ho (elemUop_values h)

section
variable {f : Fls} {u : DWord}

/-- SHV clamps a shift to the left alone (R163). -/
theorem laneOf_shv (i : Nat) : laneOf f u (laneShv f u) i =
    let a := opVal f u (uA u) i
    let b := opVal f u (uB u) i
    valueLane (decide (0 ≤ b)) (if 0 ≤ b then shl a (min b.toNat 64) else asr a (min (-b).toNat 64)) := by
  simp only [laneOf, laneShv, shiftVar, valueLane, decide_eq_true_eq]
  split <;> rfl

/-- LUT reads the table at an index from 0 to 31 (R165). -/
theorem laneOf_lut {i : Nat} (h : 0 ≤ opVal f u (uA u) i ∧ opVal f u (uA u) i < 32) : laneOf f u (laneLut f u) i =
    valueLane false (Tab.get 0 (Tab.get {} f.b (uImm u % 8)).els (opVal f u (uA u) i).toNat) := by
  simp [laneOf, laneLut, h, valueLane]

/-- A lane of LUT faults where it is not masked and its index lies outside 0 to 31 (R165). -/
theorem elemLane_lut_isNone (i : Nat) : (elemLane laneLut u f i).isNone =
    (!masked f u i && !(decide (0 ≤ opVal f u (uA u) i) && decide (opVal f u (uA u) i < 32))) := by
  unfold elemLane laneOf laneLut
  cases masked f u i with
  | true => rfl
  | false => cases decide (0 ≤ opVal f u (uA u) i) && decide (opVal f u (uA u) i < 32) <;> rfl

/-- LUT names the first of its faulting lanes. -/
theorem elemUop_lut_faults {r : FRun} {k : Nat} (h : (List.range 1024).find? (fun i =>
      !masked f u i && !(decide (0 ≤ opVal f u (uA u) i) && decide (opVal f u (uA u) i < 32))) = some k) :
    elemUop laneLut r u f = ((elemUop laneLut r u f).1, some k) := by
  rw [elemUop_lanes, funext elemLane_lut_isNone, h]

end

/-- Settles O15: each operation by the value of its lanes and where it clamps them; a LUT that faults by its first lane outside the table. -/
theorem flowstoneElements : Obligations.FlowstoneElements := by
  unfold Obligations.FlowstoneElements
  intro ch s r u hc f hu a b c tile done all no e
  exact ⟨fun ho => withUop_writes laneAdd hc hu ho fun _ _ _ => rfl, fun ho => withUop_writes laneSub hc hu ho fun _ _ _ => rfl,
    fun ho => withUop_writes laneMac hc hu ho fun _ _ _ => rfl, fun ho => withUop_writes laneShv hc hu ho fun i _ _ => laneOf_shv i,
    fun ho => withUop_writes laneSra hc hu ho fun _ _ _ => rfl, fun ho => withUop_writes laneMin hc hu ho fun _ _ _ => rfl,
    fun ho => withUop_writes laneMax hc hu ho fun _ _ _ => rfl, fun ho => withUop_writes laneAnd hc hu ho fun _ _ _ => rfl,
    fun ho => withUop_writes laneOr hc hu ho fun _ _ _ => rfl, fun ho => withUop_writes laneXor hc hu ho fun _ _ _ => rfl,
    fun ho => withUop_writes laneSel hc hu ho fun _ _ _ => rfl,
    fun ho hin => withUop_writes laneLut hc hu ho fun i hi hm => laneOf_lut (hin i hi hm),
    fun k ho hk => ⟨_, withUop_faults (g := elemUop laneLut) hc hu ho (elemUop_lut_faults hk), rfl, rfl, rfl⟩,
    fun ho => withUop_writes (laneQnt 4) hc hu ho fun _ _ _ => rfl, fun ho => withUop_writes (laneQnt 8) hc hu ho fun _ _ _ => rfl⟩

end Sys2Proof.Machine
end

section
/-!
PROOFS. The course of a flowstone run, its compares, searches and stores.
-/
namespace Sys2Proof.Machine

/-! ### Launch, iterations, completion, moves and faults (R156 to R159, R171, R172) -/

section
variable {ch : Fin 144} {s : State} (hc : noClock s 0 = false)
include hc

/-- A record that passes the RECORD and UOP checks becomes the run of an idle flowstone, and its FL.RUN leaves the queue. -/
theorem exec_flowstoneLaunch_starts {a : Nat} {q : List FOp} (hr : (chmOf s ch.val).fl.run = none) (hp : (chmOf s ch.val).fl.faultPend = false)
    (hq : (chmOf s ch.val).fl.fq = .run a :: q) (ha : a % 32 = 0) (hown : ownPlane s ch.val a 32 = true) :
    let r := readMemWords s a 8
    let n := tf r.1 0 5 0
    let w := readMemWords r.2.2 (a + 32) (2 * n)
    let run := runOf a r.1 (uopsOf w.1 n)
    badRecord r.1 = false → ownPlane s ch.val a (32 + 8 * n) = true → (∀ k, k < run.uops.length → badUop run.src1 (run.uops.getD k 0) = false) →
    exec (.flowstoneLaunch ch) s = .next (updFl w.2.2 ch.val fun x => { x with fq := q, run := some run, done := 0, count := run.count }) := by
  intro r n w run hbad hrec huops
  change execFlowstoneLaunch ch s = _
  have hgood : ((List.range run.uops.length).find? fun k => badUop run.src1 (run.uops.getD k 0)) = none := by
    refine List.find?_eq_none.2 fun k hk => ?_
    rw [huops k (List.mem_range.1 hk)]
    exact Bool.false_ne_true
  simp only [execFlowstoneLaunch, hr, hp, hc, hq, ha, hown]
  rw [if_neg (by decide), if_neg (by decide), hbad, hrec, if_neg (by decide), hgood]

/-- A record off a 32-byte boundary is a RECORD fault before anything is read (R158, R171). -/
theorem exec_flowstoneLaunch_misaligned {a : Nat} {q : List FOp} (hr : (chmOf s ch.val).fl.run = none)
    (hp : (chmOf s ch.val).fl.faultPend = false) (hq : (chmOf s ch.val).fl.fq = .run a :: q) (ha : a % 32 ≠ 0) :
    exec (.flowstoneLaunch ch) s = .next (updFl s ch.val fun x => faultRun x 1 0 0) := by
  change execFlowstoneLaunch ch s = _
  simp [execFlowstoneLaunch, hr, hp, hc, hq, ha]

/-- The next iteration of a run starts, where the run takes tiles with one in the dripline (R159). -/
theorem exec_tileIteration_starts {r : FRun} (hr : (chmOf s ch.val).fl.run = some r) (hi : r.inIter = false) (hn : r.n < r.count)
    (ht : r.src1 = true ∨ (chmOf s ch.val).fl.dl ≠ []) :
    exec (.tileIteration ch) s = .next (updFl s ch.val fun x => { x with run := some { r with inIter := true, k := 0 } }) := by
  change execTileIteration ch s = _
  simp [execTileIteration, hr, hi, hn, ht, hc]

/-- After its last iteration a run ends, and signals its cairn where its record says so (R159). -/
theorem exec_runCompletion_ends (hc1 : noClock s 1 = false) {r : FRun} (hr : (chmOf s ch.val).fl.run = some r) (hi : r.inIter = false)
    (hn : r.count ≤ r.n) :
    let s1 := updFl s ch.val fun x => { x with run := none }
    exec (.runCompletion ch) s = .next (if r.cen then cairnSignalFor s1 (chmOf s ch.val).core.ctx r.cairn 1 else s1) := by
  change execRunCompletion ch s = _
  simp [execRunCompletion, hr, hi, hn, hc, hc1]

/-- A register move at the head of the queue performs its access while no run is in progress (R156). -/
theorem exec_registerMove_moves (hc1 : noClock s 1 = false) {m : FMove} {n a : Nat} {q : List FOp} (hr : (chmOf s ch.val).fl.run = none)
    (hp : (chmOf s ch.val).fl.faultPend = false) (hq : (chmOf s ch.val).fl.fq = .move m n a :: q) :
    exec (.registerMove ch) s = .next (doMove (updFl s ch.val fun x => { x with fq := q }) ch.val m n a) := by
  change execRegisterMove ch s = _
  simp [execRegisterMove, hr, hp, hq, hc, hc1]

/-- A recorded fault is raised with the next bundle that the chamber fetches (R111, R172). -/
theorem exec_flowstoneFault_raises (hp : (chmOf s ch.val).fl.faultPend = true) (hi : canIssue (chmOf s ch.val) = true)
    (hb : (chmOf s ch.val).core.issue = none) (hf : fetchExcs s ch.val = []) :
    exec (.flowstoneFault ch) s = .next (raiseAt s ch (9, 7, 0)) := by
  change execFlowstoneFault ch s = _
  simp [execFlowstoneFault, faultExcs, pickExc, hp, hi, hc, hb, hf]

end

/-! ### Stores (R166, R167, R171) -/

section
variable {op n : Nat} {ch : Fin 144} {s : State} {r : FRun} {u : DWord} (hc : noClock s 0 = false)
  (hu : curUop (chmOf s ch.val).fl = some (r, u)) (ho : uOp u = op)
include hc hu ho

/-- A store whose rows all pass the STORE check writes every row, which the job notes, and ends. -/
theorem storeUop_stores (hrows : ∀ row ∈ stoRows (chmOf s ch.val).fl r u, stoBad s ch.val n (stoAddr (chmOf s ch.val).fl r row) = false) :
    let f := (chmOf s ch.val).fl
    let rows := stoRows f r u
    storeUop op n ch s = .next (updFl (noteStores (rows.foldl (stoRow f r u n) s) ch.val
      (rows.map fun row => (stoAddr f r row, (stoBytes f u n row).map (fun e => e.1 &&& e.2), readFlags f u))) ch.val endUop) := by
  have hgood : ((stoRows (chmOf s ch.val).fl r u).find? fun row => stoBad s ch.val n (stoAddr (chmOf s ch.val).fl r row)) = none := by
    refine List.find?_eq_none.2 fun row hrow => ?_
    rw [hrows row hrow]
    exact Bool.false_ne_true
  simp [storeUop, hu, ho, hc, hgood]

/-- A store with a row that fails it writes none: the first such row is recorded and the run ends. -/
theorem storeUop_faults {row : Nat}
    (hbad : (stoRows (chmOf s ch.val).fl r u).find? (fun k => stoBad s ch.val n (stoAddr (chmOf s ch.val).fl r k)) = some row) :
    storeUop op n ch s = .next (updFl s ch.val fun x =>
      { faultRun { x with perfBusy := x.perfBusy + 8 } 4 r.k (32 * row) with faultAddr := stoAddr (chmOf s ch.val).fl r row % 2 ^ 40 }) := by
  simp [storeUop, hu, ho, hc, hbad]

end

/-- Settles O14: the course of a run event by event; CMP and the searches have no lane fault; a store by whether a row of it fails the check. -/
theorem flowstoneRuns : Obligations.FlowstoneRuns := by
  unfold Obligations.FlowstoneRuns
  refine ⟨fun ch s hc hc1 => ?course, fun ch s r u hc hu => ?uops⟩
  case course =>
    exact ⟨fun a q => exec_flowstoneLaunch_starts hc, fun a q => exec_flowstoneLaunch_misaligned hc, fun r => exec_tileIteration_starts hc,
      fun r => exec_runCompletion_ends hc hc1, fun m n a q => exec_registerMove_moves hc hc1, exec_flowstoneFault_raises hc⟩
  case uops =>
    refine ⟨fun ho => withUop_ends (g := cmpUop) hc hu ho rfl, fun ho => withUop_ends (g := searchUop true) hc hu ho rfl,
      fun ho => withUop_ends (g := searchUop false) hc hu ho rfl, fun ho => withUop_ends (g := searchUop true) hc hu ho rfl,
      fun ho => withUop_ends (g := searchUop false) hc hu ho rfl, fun ho => withUop_ends (g := searchUop true) hc hu ho rfl,
      fun ho => withUop_ends (g := searchUop false) hc hu ho rfl, fun ho => storeUop_stores hc hu ho, fun ho => storeUop_stores hc hu ho,
      fun row n i hi hbad => ?fault⟩
    obtain ⟨ho, rfl, rfl⟩ | ⟨ho, rfl, rfl⟩ := hi
    · exact storeUop_faults hc hu ho hbad
    · exact storeUop_faults hc hu ho hbad

end Sys2Proof.Machine
end

section
/-!
PROOFS. Siphon descriptors: the rows of a BLOCK or FILL.
-/
namespace Sys2Proof.Machine

/-! ### The rows of a BLOCK or FILL (R194, R195) -/

/-- An address that may not be accessed takes one of the ALIGN, UNMAPPED and DENIED faults (R202). -/
theorem addrFault_kind {s : State} {k : Checker} {a len : Nat} {store : Bool} {e : Nat} (h : addrFault s k a len store = some e) :
    e = 2 ∨ e = 3 ∨ e = 4 := by
  unfold addrFault at h
  split at h
  · exact .inl (Option.some.inj h).symm
  split at h
  · exact .inr (.inl (Option.some.inj h).symm)
  split at h
  case h_1 | h_2 => exact .inr (.inl (Option.some.inj h).symm)
  case h_3 => exact .inr (.inr (Option.some.inj h).symm)
  case h_4 =>
    split at h
    · exact .inr (.inl (Option.some.inj h).symm)
    split at h
    · exact nomatch h
    split at h
    · exact nomatch h
    · exact .inr (.inr (Option.some.inj h).symm)

/-- The same for either end of a row, on this device or another. -/
theorem endFault_kind {s : State} {k : Checker} {dev a len : Nat} {store : Bool} {e : Nat} (h : endFault s k dev a len store = some e) :
    e = 2 ∨ e = 3 ∨ e = 4 := by
  unfold endFault at h
  split at h
  · exact addrFault_kind h
  split at h
  · exact .inl (Option.some.inj h).symm
  split at h
  · exact .inr (.inl (Option.some.inj h).symm)
  · exact nomatch h

/-- Row n of a BLOCK or FILL: it reads at its source base, or repeats the pattern, and writes at its destination base. -/
def blockRow (d : List Word) (s : State) (n : Nat) : Row :=
  let fills := decide (tf d 0 31 28 = 3)
  { src := if fills then none else some (2 ^ 40 * srcDev s d + (srcBase d + n * wordAt d 6)),
    fill := if fills then (List.replicate (wordAt d 4 / 4) (leBytes (wordAt d 1) 4)).flatten else [], flags := noFlags,
    dst := 2 ^ 40 * dstDev s d + (dstBase d + n * tf d 7 31 16), len := wordAt d 4 }

section
variable (k : Checker) (d : List Word) (s : State) (n m : Nat)

/-- A plan of one row more stops at row n with a fault, or has row n and goes on at the next. -/
theorem planBlock_succ :
    (∃ e a, planBlock k d s n (m + 1) = { rows := [], fault := some (e, n, a), st := s } ∧ (e = 2 ∨ e = 3 ∨ e = 4)) ∨
    planBlock k d s n (m + 1) = { planBlock k d s (n + 1) m with rows := blockRow d s n :: (planBlock k d s (n + 1) m).rows } := by
  rw [planBlock]
  split
  case h_1 e hsrc =>
    split at hsrc
    · exact nomatch hsrc
    · exact .inl ⟨e, _, rfl, endFault_kind hsrc⟩
  case h_2 =>
    split
    case h_1 e hdst => exact .inl ⟨e, _, rfl, endFault_kind hdst⟩
    case h_2 => exact .inr rfl

/-- A plan reads no memory and leaves the state as it was. -/
theorem planBlock_st : (planBlock k d s n m).st = s := by
  induction m generalizing n with
  | zero => rfl
  | succ m ih =>
    obtain ⟨e, a, h, -⟩ | h := planBlock_succ k d s n m
    · rw [h]
    · rw [h]; exact ih (n + 1)

/-- A plan has at most the rows asked for. -/
theorem planBlock_length_le : (planBlock k d s n m).rows.length ≤ m := by
  induction m generalizing n with
  | zero => exact Nat.le_refl 0
  | succ m ih =>
    obtain ⟨e, a, h, -⟩ | h := planBlock_succ k d s n m
    · rw [h]; exact Nat.zero_le _
    · rw [h]; exact Nat.succ_le_succ (ih (n + 1))

/-- A plan has no fault where it has every row, and only there. -/
theorem planBlock_fault_none_iff : (planBlock k d s n m).fault = none ↔ (planBlock k d s n m).rows.length = m := by
  induction m generalizing n with
  | zero => simp [planBlock]
  | succ m ih =>
    obtain ⟨e, a, h, -⟩ | h := planBlock_succ k d s n m
    · simp [h]
    · simpa [h] using ih (n + 1)

/-- The fault of a plan is at the row after those it has, and of a kind an access takes. -/
theorem planBlock_fault_some {e r a : Nat} (hf : (planBlock k d s n m).fault = some (e, r, a)) :
    r = n + (planBlock k d s n m).rows.length ∧ (e = 2 ∨ e = 3 ∨ e = 4) := by
  induction m generalizing n with
  | zero => simp [planBlock] at hf
  | succ m ih =>
    obtain ⟨e', a', h, hk⟩ | h := planBlock_succ k d s n m
    · rw [h] at hf ⊢
      obtain ⟨rfl, rfl, rfl⟩ : e' = e ∧ n = r ∧ a' = a := by simpa using hf
      exact ⟨rfl, hk⟩
    · rw [h] at hf ⊢
      obtain ⟨hr, hk⟩ := ih (n + 1) hf
      exact ⟨by rw [hr, List.length_cons]; omega, hk⟩

/-- The rows of a plan from row n are rows n, n + 1, … of the descriptor. -/
theorem planBlock_rows_getElem {i : Nat} (hi : i < (planBlock k d s n m).rows.length) : (planBlock k d s n m).rows[i] = blockRow d s (n + i) := by
  induction m generalizing n i with
  | zero => simp [planBlock] at hi
  | succ m ih =>
    obtain ⟨e, a, h, -⟩ | h := planBlock_succ k d s n m
    · simp [h] at hi
    · cases i with
      | zero => simp [h]
      | succ i =>
        have hi' : i < (planBlock k d s (n + 1) m).rows.length := by simpa [h] using hi
        simpa [h, Nat.add_right_comm, Nat.add_assoc] using ih (n + 1) hi'

end

/-- Settles O24, by induction on the rows: a plan stops at a fault or goes on with the next row. -/
theorem blockRows : Obligations.BlockRows := by
  unfold Obligations.BlockRows
  intro k d s n m
  refine ⟨planBlock_st k d s n m, planBlock_length_le k d s n m, planBlock_fault_none_iff k d s n m,
    fun e r a => planBlock_fault_some k d s n m, fun i hi => ?row⟩
  rw [planBlock_rows_getElem k d s n m hi]
  exact ⟨rfl, rfl, fun h => by simp [blockRow, h], fun h => by simp [blockRow, h]⟩

end Sys2Proof.Machine
end

section
/-!
PROOFS. The course of a siphon chain and of its descriptors.
-/
namespace Sys2Proof.Machine

/-! ### The events of a chain (R191, R197, R199) -/

section
variable {q : Fin 352} {s : State} (hs : siphStopped s q.val = false)
include hs

/-- The oldest queued chain starts; at an address that is not a multiple of 32 it takes the ALIGN fault (R191). -/
theorem exec_chainStart_starts {a : Nat} {tag : Word} {ctx : Option Nat} {r : List (Nat × Word × Option Nat)} (hc : (siphOf s q.val).chain = none)
    (hq : (siphOf s q.val).queue = (a, tag, ctx) :: r) :
    let c : Chain := { tag := tag, ctx := ctx, next := a, burst := [], pend := [], ended := false }
    let s1 := updSiph (draw s) q.val fun y => { y with queue := y.queue.drop 1, chain := some c, desc := 0, chainDesc := a }
    exec (.chainStart q) s = .next (if a % 32 ≠ 0 then siphFault s1 q.val (2, 0, a) else s1) := by
  change execChainStart q s = _
  simp [execChainStart, nextChain, hs, hc, hq]

section
variable {c : Chain} (hc : (siphOf s q.val).chain = some c)
include hc

/-- A chain with no descriptor left fetches a burst from its next address (R197). -/
theorem exec_descriptorFetch_reads (he : c.ended = false) (hb : c.burst = []) (ha : addrFault s (checkerOf s q.val c) c.next 32 false = none) :
    exec (.descriptorFetch q) s = .next (updSiph (readBurst s (checkerOf s q.val c) c.next 8).2 q.val fun y =>
      { y with chain := some { c with burst := keepBurst (readBurst s (checkerOf s q.val c) c.next 8).1 } }) := by
  change execDescriptorFetch q s = _
  simp [execDescriptorFetch, hs, hc, he, hb, ha]

/-- The fetch of a descriptor the chain may not read stops the chain (R202). -/
theorem exec_descriptorFetch_faults {e : Nat} (he : c.ended = false) (hb : c.burst = [])
    (ha : addrFault s (checkerOf s q.val c) c.next 32 false = some e) :
    exec (.descriptorFetch q) s = .next (siphFault (updSiph s q.val fun y => { y with chainDesc := c.next }) q.val (e, 0, c.next)) := by
  change execDescriptorFetch q s = _
  simp [execDescriptorFetch, hs, hc, he, hb, ha]

section
variable {p : PendDesc} {r : List PendDesc} (hp : c.pend = p :: r)
include hp

/-- The oldest descriptor completes once its writes are answered, and signals its cairn (R199). -/
theorem exec_descriptorComplete_signals {n : Nat} (ho : p.outstanding = 0) (hn : p.cairn = some n) :
    exec (.descriptorComplete q) s =
      .next (cairnSignalOpt (updSiph s q.val fun y => settleChain { y with desc := y.desc + 1, chain := some { c with pend := r } }) c.ctx n) := by
  change execDescriptorComplete q s = _
  simp [execDescriptorComplete, hs, hc, hp, ho, hn]

/-- One that names no cairn completes and signals none. -/
theorem exec_descriptorComplete_silent (ho : p.outstanding = 0) (hn : p.cairn = none) :
    exec (.descriptorComplete q) s = .next (updSiph s q.val fun y => settleChain { y with desc := y.desc + 1, chain := some { c with pend := r } }) := by
  change execDescriptorComplete q s = _
  simp [execDescriptorComplete, hs, hc, hp, ho, hn]

omit hs in
/-- Until then it waits. -/
theorem exec_descriptorComplete_waits (ho : p.outstanding ≠ 0) : exec (.descriptorComplete q) s = .next s := by
  change execDescriptorComplete q s = _
  simp [execDescriptorComplete, hc, hp, ho]

end

end

end

/-! ### The descriptor at the head of a burst (R192, R202) -/

section
variable {q : Fin 352} {s : State} {c : Chain} {a kind : Nat} {d : List Word} (hs : siphStopped s q.val = false)
  (hh : headDesc (siphOf s q.val) = some (c, a, d)) (hk : tf d 0 31 28 = kind)
include hs hh hk

/-- A descriptor of a wrong form takes KIND (R202). -/
theorem startDesc_kindFault (hf : kindFault d = true) :
    startDesc kind q s = .next (siphFault (updSiph s q.val fun x => { x with chainDesc := a }) q.val (1, 0, a)) := by
  simp [startDesc, hs, hh, hk, hf]

/-- One that names a device where none may be takes DEVICE (R202). -/
theorem startDesc_devFault (h4 : kind ≠ 4) (hf : kindFault d = false) (hd : devFault s d = true) :
    startDesc kind q s = .next (siphFault (updSiph s q.val fun x => { x with chainDesc := a }) q.val (5, 0, a)) := by
  simp [startDesc, hs, hh, hk, hf, hd, h4]

/-- One that passes its checks runs. -/
theorem startDesc_runs (h4 : kind ≠ 4) (hf : kindFault d = false) (hd : devFault s d = false) : startDesc kind q s = runDesc s q.val c a d := by
  simp [startDesc, hs, hh, hk, hf, hd, h4]

end

/-- A LINK that passes its checks is taken (R195). -/
theorem startDesc_link {q : Fin 352} {s : State} {c : Chain} {a : Nat} {d : List Word} (hs : siphStopped s q.val = false)
    (hh : headDesc (siphOf s q.val) = some (c, a, d)) (hk : tf d 0 31 28 = 4) (hf : kindFault d = false) :
    startDesc 4 q s = .next (runLink s q.val c a d) := by
  simp [startDesc, hs, hh, hk, hf]

/-! ### The rows of a descriptor that runs (R193 to R195, R198, R200) -/

/-- The state in which the rows of a descriptor are planned: the next descriptor has the next number. -/
def numberedDesc (s : State) : State := { s with emx := { s.emx with descs := s.emx.descs + 1 } }

/-- The rows that the descriptor at the head of siphon q moves, its fault if it has one, and the state with those rows moved. -/
def descPlan (s : State) (q : Nat) (c : Chain) (d : List Word) : Plan :=
  let k := checkerOf s q c
  let n := tf d 5 31 16
  if tf d 0 31 28 = 1 then gatherTiles k d q s.emx.descs n ((n + 31) / 32) 0 [] (draw (numberedDesc s))
  else
    let b := planBlock k d (numberedDesc s) 0 n
    { b with st := moveRows b.st q s.emx.descs c.ctx b.rows }

section
variable (s : State) (q : Nat) (c : Chain) {d : List Word}

/-- A GATHER moves its transfer tiles as it plans them (R193, R198). -/
theorem descPlan_gather (h : tf d 0 31 28 = 1) : descPlan s q c d =
    gatherTiles (checkerOf s q c) d q s.emx.descs (tf d 5 31 16) ((tf d 5 31 16 + 31) / 32) 0 [] (draw (numberedDesc s)) := if_pos h

/-- A BLOCK or FILL plans all its rows and then moves those it has (R194, R195). -/
theorem descPlan_block (h : tf d 0 31 28 ≠ 1) : descPlan s q c d =
    let b := planBlock (checkerOf s q c) d (numberedDesc s) 0 (tf d 5 31 16)
    { b with st := moveRows b.st q s.emx.descs c.ctx b.rows } := if_neg h

end

section
variable (s : State) (q : Nat) (c : Chain) (a : Nat) (d : List Word)

/-- A descriptor that runs, by its plan. -/
theorem runDesc_eq : runDesc s q c a d =
    let p := descPlan s q c d
    let s1 := afterMove q c.ctx p.rows p.st
    match p.fault with
    | some f => .next (siphFault (updSiph s1 q fun x => { x with chainDesc := a }) q f)
    | none => .next (pushDesc s1 q s.emx.descs a d p.rows) := rfl

/-- A descriptor whose rows all pass waits for its writes (R199). -/
theorem runDesc_moves (hf : (descPlan s q c d).fault = none) :
    runDesc s q c a d = .next (pushDesc (afterMove q c.ctx (descPlan s q c d).rows (descPlan s q c d).st) q s.emx.descs a d (descPlan s q c d).rows) := by
  simp only [runDesc_eq, hf]

/-- One with a row that fails moves the rows before it and stops the chain (R203). -/
theorem runDesc_faults {f : SFault} (hf : (descPlan s q c d).fault = some f) :
    runDesc s q c a d =
      .next (siphFault (updSiph (afterMove q c.ctx (descPlan s q c d).rows (descPlan s q c d).st) q fun x => { x with chainDesc := a }) q f) := by
  simp only [runDesc_eq, hf]

end

/-- Writes that meet no bytes an operation is reading reach no context (R428). -/
theorem foldl_watchWrite_clear {s : State} {l : List (Nat × Nat)} (h : ∀ r ∈ l, hitCtxs s r.1 r.2 = []) :
    l.foldl (fun t r => watchWrite t r.1 r.2) s = s := by
  induction l with
  | nil => rfl
  | cons r l ih =>
    have hr : watchWrite s r.1 r.2 = s := by rw [watchWrite, h r List.mem_cons_self]; rfl
    rw [List.foldl_cons, hr]
    exact ih fun x hx => h x (List.mem_cons_of_mem r hx)

/-- Rows that meet neither their own source, nor another siphon's writes, nor bytes that an operation is reading stand as moved (R200, R428). -/
theorem afterMove_clear {q : Nat} {ctx : Option Nat} {rows : List Row} {s : State} (ho : selfOverlap rows = false) (hc : clashing s q rows = [])
    (hw : ∀ r ∈ localDests s rows, hitCtxs s r.1 r.2 = []) : afterMove q ctx rows s = s := by
  simp [afterMove, ho, hc, foldl_watchWrite_clear hw]

/-- The three ways of a descriptor that runs: it waits for its writes, stops the chain, and meets no undefined result where nothing overlaps. -/
theorem runs_course {o : Host.Outcome State Fault Refusal} {s : State} {q a : Nat} {c : Chain} {d : List Word} {p : Plan} (ho : o = runDesc s q c a d)
    (hp : descPlan s q c d = p) :
    let t := afterMove q c.ctx p.rows p.st
    (p.fault = none → o = .next (pushDesc t q s.emx.descs a d p.rows)) ∧
    (∀ f, p.fault = some f → o = .next (siphFault (updSiph t q fun x => { x with chainDesc := a }) q f)) ∧
    (selfOverlap p.rows = false → clashing p.st q p.rows = [] → (∀ r ∈ localDests p.st p.rows, hitCtxs p.st r.1 r.2 = []) → t = p.st) := by
  subst ho hp
  exact ⟨runDesc_moves s q c a d, fun f => runDesc_faults s q c a d, afterMove_clear⟩

/-- Settles O23, event by event; a descriptor by its checks and, where it runs, by the plan of its rows. -/
theorem siphonCourse : Obligations.SiphonCourse := by
  unfold Obligations.SiphonCourse
  refine ⟨fun q s hs => ⟨fun a tag ctx r hc hq => ⟨fun ha => ?starts, fun ha => ?misaligned⟩,
    fun c hc he hb => ⟨exec_descriptorFetch_reads hs hc he hb, fun e => exec_descriptorFetch_faults hs hc he hb⟩,
    fun c a d hh hk hf => startDesc_link hs hh hk hf, fun c p r hc hp ho => 
      ⟨fun n hn => exec_descriptorComplete_signals hs hc hp ho hn, fun hn => exec_descriptorComplete_silent hs hc hp ho hn⟩,
    fun c p r hc hp ho => exec_descriptorComplete_waits hc hp ho⟩, fun q s c a d hs hh => ?descriptors⟩
  case starts => rw [exec_chainStart_starts hs hc hq, if_neg (not_not_intro ha)]
  case misaligned => rw [exec_chainStart_starts hs hc hq, if_pos ha]
  case descriptors =>
    have runs {kind : Nat} (h4 : kind ≠ 4) (h : tf d 0 31 28 = kind ∧ kindFault d = false ∧ devFault s d = false) :
        startDesc kind q s = runDesc s q.val c a d := startDesc_runs hs hh h.1 h4 h.2.1 h.2.2
    have stops {kind : Nat} (h4 : kind ≠ 4) (hk : tf d 0 31 28 = kind) := And.intro (startDesc_kindFault hs hh hk) (startDesc_devFault hs hh hk h4)
    have blocks {kind : Nat} (h4 : kind ≠ 4) (h1 : kind ≠ 1) (h : tf d 0 31 28 = kind ∧ kindFault d = false ∧ devFault s d = false) :=
      runs_course (runs h4 h) (descPlan_block s q.val c (h.1 ▸ h1))
    exact ⟨fun h => runs_course (runs (by decide) h) (descPlan_gather s q.val c h.1), blocks (by decide) (by decide), blocks (by decide) (by decide),
      stops (by decide), stops (by decide), stops (by decide)⟩

end Sys2Proof.Machine
end

section
/-!
PROOFS. Commands of the Nerzon Command Interface as a system session finds them: the reply that each asked command is given.
-/
namespace Sys2Proof.Machine

/-! ### An asked command and its reply (R321 to R323) -/

section
variable {op : Nat} {pick : List Word → Bool} {masks : List Nat} {p : Fin 176} {s t : State} {body : List Word → State → NciRes} {more : List Word}
  (h : asks op masks p s = true)
include h

/-- A command whose checks pass, and after whose reply nothing follows, has its effect and is answered with its code and words. -/
theorem withNciPick_answers {c : Nat} (picked : pick (reqWords s p.val) = true) (bad : (body (reqWords s p.val) s).bad = false := by rfl)
    (denied : (body (reqWords s p.val) s).denied = false := by rfl) (busy : (body (reqWords s p.val) s).busy = false := by rfl)
    (nores : (body (reqWords s p.val) s).nores = false := by rfl) (code : (body (reqWords s p.val) s).code = c := by rfl)
    (acts : codeActs c = true := by rfl) (words : (body (reqWords s p.val) s).words = more := by rfl)
    (state : (body (reqWords s p.val) s).st = t := by rfl) (after : (body (reqWords s p.val) s).after = fun _ u => u := by rfl) :
    withNciPick op pick masks p s body = .next (replied s p c more t) := by
  rw [withNciPick_acts h picked bad denied busy nores (code ▸ acts), after, code, words, state]

/-- The same for a command with an opcode of its own; a check the command does not make passes by definition. -/
theorem withNci_answers {c : Nat} (bad : (body (reqWords s p.val) s).bad = false := by rfl)
    (denied : (body (reqWords s p.val) s).denied = false := by rfl) (busy : (body (reqWords s p.val) s).busy = false := by rfl)
    (nores : (body (reqWords s p.val) s).nores = false := by rfl) (code : (body (reqWords s p.val) s).code = c := by rfl)
    (acts : codeActs c = true := by rfl) (words : (body (reqWords s p.val) s).words = more := by rfl)
    (state : (body (reqWords s p.val) s).st = t := by rfl) (after : (body (reqWords s p.val) s).after = fun _ u => u := by rfl) :
    withNci op masks p s body = .next (replied s p c more t) :=
  withNciPick_answers h rfl bad denied busy nores code acts words state after

/-- A command that breaks a field rule is answered BAD_ARG and has no effect. -/
theorem withNci_bad (hb : (body (reqWords s p.val) s).bad = true) (ha : (body (reqWords s p.val) s).after = fun _ u => u) :
    withNci op masks p s body = .next (replied s p 2 [] s) := by
  obtain ⟨htakes, rfl, hknown, hstale, -, -, -⟩ := asks_parts h
  have hcode (ses : Option Nat) (ms : List Nat) : nciCode (tf (reqWords s p.val) 0 31 16) ses ms (reqWords s p.val) (body (reqWords s p.val) s) = 2 := by
    simp [nciCode, hb]
  simp [withNci, withNciPick, htakes, hstale, hknown, hcode, ha, replied, codeActs]

end

end Sys2Proof.Machine
end

section
/-!
PROOFS. Sessions, rings, cairns, memory and placement by command.
-/
namespace Sys2Proof.Machine

/-- The write-back of a ring that is not held is written (R326). -/
theorem ringNote_free {s : State} {n : Nat} (h : ringHeld s (ringOf s n) = false) : ringNote s n = ringWriteBack s n := by
  simp [ringNote, h]

/-- That of a ring that is held falls due (R312). -/
theorem ringNote_held {s : State} {n : Nat} (h : ringHeld s (ringOf s n) = true) : ringNote s n = setRing s n { ringOf s n with wbDue := true } := by
  simp [ringNote, h]

/-- Context k with image i bound, which its chambers load (R207, R208). -/
def imageBound (s : State) (k : Nat) (i : Image) : State :=
  updCtx (loadImages s (ctxOf s k) [i] (setMembers (ctxOf s k).chset)) k fun x =>
    { x with images := x.images.filter (fun y => decide (y.off ≠ i.off)) ++ [i] }

/-- An accepted MEM_IMAGE_BIND binds, and over bytes a committed template's jobs use it reaches its context (R309, R428). -/
theorem execMemImageBind_binds {p : Fin 176} {s : State} (h : asks 0x0102 [0x3F, 0xFFFFFFFF, 0xFF, 0xFFFFFFFF, 0xFFFFFFFF] p s = true)
    (hb : imageBad (ctxOf s (tf (reqWords s p.val) 1 5 0)) (imageOfWords (reqWords s p.val)) = false) :
    let k := tf (reqWords s p.val) 1 5 0
    let i := imageOfWords (reqWords s p.val)
    execMemImageBind p s = .next (replied s p 0 [] (if codeInUse s k i.off i.len then strayContext k (imageBound s k i) else imageBound s k i)) :=
  withNci_answers h (bad := hb)

/-- Settles O46, command by command: the checks the request passes, its effect and its reply. -/
theorem nciTables : Obligations.NciTables := by
  unfold Obligations.NciTables
  intro p s
  dsimp only
  refine ⟨fun h hp hr hc => ?sessionOpenSystem, fun h hp hr => ?sessionOpenContext, fun h => ?sessionClose, fun h => ?nciInfo, fun h hr hn => ?ringSet,
    ⟨fun h hr hn => ?ringClear, fun h hr => ?ringStatus⟩, ⟨fun h hx h2 ht hn => ?cairnSet, fun h ht => ?cairnGet⟩,
    ⟨fun h hb hy hn => ?memPartSet, fun h => ?memPartGet⟩, fun h hb => ?memImageBind, fun h hv hx hy => ?placeSetChambers, fun h => ?placeMapGet,
    fun h ht hk hx ha hl hw => ?placeReport, fun h ha hl => ?memBar2Set⟩
  case sessionOpenSystem =>
    change execSessionOpen p s = _
    exact withNci_answers h (bad := by simp [hr, hc]) (denied := by simpa using ⟨by omega, fun _ => hp⟩) (state := by simp [hr, hc])
  case sessionOpenContext =>
    change execSessionOpen p s = _
    exact withNci_answers h (bad := by simp [hr]) (denied := by simpa [hr] using hp) (state := by simp [hr])
  case sessionClose =>
    change execSessionClose p s = _
    exact withNci_answers h
  case nciInfo =>
    change execNciInfo p s = _
    exact withNci_answers h
  case ringSet =>
    have acts : execRingSet p s = .next (replied s p 0 [] (ringNote (setRing s (tf (reqWords s p.val) 1 29 16) (ringOfWords (reqWords s p.val)))
        (tf (reqWords s p.val) 1 29 16))) := withNci_answers h (bad := hr) (busy := hn)
    exact ⟨fun hh => acts.trans (by rw [ringNote_free hh]), fun hh => acts.trans (by rw [ringNote_held hh])⟩
  case ringClear =>
    change execRingClear p s = _
    exact withNci_answers h (bad := by simp [hr]) (busy := hn)
  case ringStatus =>
    change execRingStatus p s = _
    exact withNci_answers h (bad := by simp [hr])
  case cairnSet =>
    change execCairnSet p s = _
    exact withNci_answers h (bad := by simpa using ⟨⟨hx, h2⟩, fun hd => have ⟨h2, hnow, _⟩ := ht hd; ⟨h2, hnow⟩⟩)
      (busy := by simpa using hn) (nores := by simpa using fun hd => have ⟨_, _, hroom⟩ := ht hd; hroom)
  case cairnGet =>
    change execCairnGet p s = _
    exact withNci_answers h (bad := by simp [ht])
  case memPartSet =>
    change execMemPartSet p s = _
    exact withNci_answers h (bad := hb) (busy := hy) (nores := hn)
  case memPartGet =>
    change execMemPartGet p s = _
    exact withNci_answers h
  case memImageBind =>
    exact ⟨fun hu => (execMemImageBind_binds h hb).trans (by rw [hu]; rfl), fun hu => (execMemImageBind_binds h hb).trans (by rw [hu]; rfl)⟩
  case placeSetChambers =>
    change execPlaceSetChambers p s = _
    exact withNci_answers h (bad := by simpa [hx] using hv) (busy := hy)
  case placeMapGet =>
    change execPlaceMapGet p s = _
    exact withNci_answers h
  case placeReport =>
    change execPlaceReport p s = _
    exact withNci_answers h (bad := by rw [hk] at hx; simpa [tmplOf] using ⟨⟨⟨⟨ht, hx⟩, hk⟩, ha⟩, hl⟩)
      (nores := by simpa [tmplOf] using hw)
  case memBar2Set =>
    change execMemBar2Set p s = _
    exact withNci_answers h (bad := by simpa using ⟨ha, Nat.le_sub_of_add_le hl⟩)

end Sys2Proof.Machine
end

section
/-!
PROOFS. Contexts, templates, the survey, chains and DEC by command.
-/
namespace Sys2Proof.Machine

/-- A table takes an entry that is set already, or one more while it is not full. -/
theorem unfilled {isSet : Bool} {used size : Nat} (h : isSet = true ∨ used < size) : (!isSet && decide (size ≤ used)) = false := by
  obtain h | h := h
  · rw [h, Bool.not_true, Bool.false_and]
  · rw [decide_eq_false (Nat.not_le.2 h), Bool.and_false]

/-- A CHAIN_SET whose fields pass is bad where its model is not (R269). -/
theorem chainBad_draw {s : State} {ctx flow tmpl rring : Nat} {c : ChainCfg} (h : chainFields s ctx flow tmpl rring c = false) :
    chainBad (draw s) ctx flow tmpl rring c = !Config.modelValid (s.free + 1) := by
  change (chainFields s ctx flow tmpl rring c || !Config.modelValid (s.free + 1)) = _
  rw [h, Bool.false_or]

/-- Settles O47, command by command: the checks the request passes, its effect and its reply. -/
theorem nciJobs : Obligations.NciJobs := by
  unfold Obligations.NciJobs
  intro p s
  dsimp only
  refine ⟨⟨fun h hr hw hk => ?ctxSet, fun h hk ht hj => ?ctxClear⟩, ⟨fun h hk ha hl hm hb hj ht hn => ?tmplSet, fun h hn ht => ?tmplClear⟩,
    fun h ha hl hb ht hs hp => ?surveyStage, ⟨fun h hc hs => ?surveyCommit, fun h hc ha ht => ?surveyCommitCancel⟩, fun h => ?schedStatus,
    fun h hk hs => ?cfgCommit, fun h => ?detSet, fun h hb hf hn => ?chainSet,
    ⟨fun h hc ht => ?chainClear, fun h hc => ?chainStatus, fun h hc hn => ?harqFlush⟩, fun h ha hk hm ho => ?ldpcOffsetsSet, fun h => ?decStatus⟩
  case ctxSet =>
    change execCtxSet p s = _
    exact withNci_answers h (bad := by simp [hr, hw]) (denied := by simpa using hk)
  case ctxClear =>
    change execCtxClear p s = _
    exact withNci_answers h (bad := by simp [hk]) (busy := by simpa using ⟨ht, hj⟩)
  case tmplSet =>
    change execTmplSet p s = _
    exact withNci_answers h (bad := by simpa using ⟨⟨⟨⟨⟨hk, ha⟩, hl⟩, hm⟩, hb⟩, fun c v => hj (c, v)⟩) (busy := ht)
      (nores := unfilled hn)
  case tmplClear =>
    change execTmplClear p s = _
    exact withNci_answers h (bad := by simp [hn]) (busy := ht)
  case surveyStage =>
    change execSurveyStage p s = _
    exact withNci_answers h (bad := by simpa using ⟨⟨ha, hl⟩, hb⟩) (denied := by simp [ht]) (busy := hs) (nores := by simpa using hp)
  case surveyCommit =>
    change execSurveyCommit p s = _
    exact withNciPick_answers h (picked := by simp [isCancel, hc]) (bad := by simpa [Option.isSome_iff_ne_none] using hs)
  case surveyCommitCancel =>
    change execSurveyCommitCancel p s = _
    refine withNciPick_answers h (picked := by simp [isCancel, hc]) (bad := by simp [ha]) (busy := ?_)
    cases hx : (nextHyper s).2 with
    | none => rfl
    | some t => simpa using ht t hx
  case schedStatus =>
    change execSchedStatus p s = _
    exact withNci_answers h
  case cfgCommit =>
    change execCfgCommit p s = _
    exact withNci_answers h (bad := by simpa [hk, Option.isSome_iff_ne_none] using hs)
  case detSet =>
    change execDetSet p s = _
    exact withNci_answers h
  case chainSet =>
    have bad {m : Bool} (hm : Config.modelValid (s.free + 1) = m) := (chainBad_draw hb).trans (congrArg (!·) hm)
    have hdenied : decide ((flowOf s (tf (reqWords s p.val) 2 22 16)).cfg.ctx ≠ tf (reqWords s p.val) 1 13 8) = false := by simpa using hf
    have hroom : (!(chainOf s (tf (reqWords s p.val) 1 23 16)).isSet && decide (256 ≤ (s.chains.filter fun e => e.2.isSet).length)) = false :=
      unfilled hn
    refine ⟨fun hm => ?invalid, fun hm hu => ?sets, fun hm ho hu => ?stages⟩
    all_goals change execChainSet p s = _
    case invalid => exact withNci_bad (s := draw s) h (bad hm) rfl
    case sets =>
      have hfree : ¬((chainOf s (tf (reqWords s p.val) 1 23 16)).isSet && chainInTables s (tf (reqWords s p.val) 1 23 16)) = true := by
        rw [Bool.and_eq_false_iff.2 hu]
        exact Bool.false_ne_true
      exact withNci_answers (s := draw s) h (bad := bad hm) (denied := hdenied) (nores := hroom) (code := if_neg hfree) (state := if_neg hfree)
    case stages =>
      have hused : ((chainOf s (tf (reqWords s p.val) 1 23 16)).isSet && chainInTables s (tf (reqWords s p.val) 1 23 16)) = true := by simp [ho, hu]
      exact withNci_answers (s := draw s) h (bad := bad hm) (denied := hdenied) (nores := hroom) (code := if_pos hused) (state := if_pos hused)
  case chainClear =>
    change execChainClear p s = _
    exact withNci_answers h (bad := by simp [hc]) (busy := ht)
  case chainStatus =>
    change execChainStatus p s = _
    exact withNci_answers h (bad := by simp [hc])
  case harqFlush =>
    change execHarqFlush p s = _
    exact withNci_answers h (bad := by simpa [hc] using hn) (state := by simp only [Nat.mul_comm])
  case ldpcOffsetsSet =>
    constructor
    · change execLdpcOffsetsSet p s = _
      exact withNci_acts h (by simpa using ⟨⟨⟨ha, hk⟩, hm⟩, ho⟩) rfl rfl rfl rfl
    · exact fun t => rfl
  case decStatus =>
    change execDecStatus p s = _
    exact withNci_answers h

end Sys2Proof.Machine
end

section
/-!
PROOFS. The air times of symbols and slots on the grid.
-/
namespace Sys2Proof.Machine

/-- The air time of a symbol that is not the last of its slot is T_sym (R219). -/
theorem airEnd_inner (t : Time) (scs : Nat) {n : Nat} (h : n % 14 ≠ 13) : airEnd t scs n = airStart t scs n + tSym scs := if_neg h

/-- The last symbol of a slot ends where the next slot starts (R219). -/
theorem airEnd_last (t : Time) (scs : Nat) {n : Nat} (h : n % 14 = 13) : airEnd t scs n = slotStart t scs (n / 14 + 1) := if_pos h

/-- The first symbol of a slot starts with it (R362). -/
theorem airStart_first (t : Time) (scs g : Nat) : airStart t scs (14 * g) = slotStart t scs g := by simp [airStart]

/-- A symbol ends where the next one starts. -/
theorem airEnd_eq_airStart_succ (t : Time) (scs n : Nat) : airEnd t scs n = airStart t scs (n + 1) := by
  by_cases h : n % 14 = 13
  · have hn : n + 1 = 14 * (n / 14 + 1) := by omega
    rw [airEnd_last t scs h, hn, airStart_first]
  · have hq : (n + 1) / 14 = n / 14 := by omega
    have hr : (n + 1) % 14 = n % 14 + 1 := by omega
    rw [airEnd_inner t scs h, airStart, airStart, hq, hr, Nat.add_mul, Nat.one_mul, Nat.add_assoc]

/-- Slots follow each other by the air slot length from the first that starts at a device time. -/
theorem slotStart_succ {t : Time} {scs g : Nat} (h : 0 ≤ (Int.ofNat g - Int.ofNat (gridBias scs)) * Int.ofNat (slotLen scs) + toffOf t) :
    slotStart t scs (g + 1) = slotStart t scs g + slotLen scs := by
  have hstep : (Int.ofNat (g + 1) - Int.ofNat (gridBias scs)) * Int.ofNat (slotLen scs) + toffOf t =
      ((Int.ofNat g - Int.ofNat (gridBias scs)) * Int.ofNat (slotLen scs) + toffOf t) + Int.ofNat (slotLen scs) := by
    have hnext : Int.ofNat (g + 1) - Int.ofNat (gridBias scs) = (Int.ofNat g - Int.ofNat (gridBias scs)) + 1 := by
      simp only [Int.ofNat_eq_natCast]
      omega
    rw [hnext, Int.add_mul, Int.one_mul, Int.add_right_comm]
  exact (congrArg Int.toNat hstep).trans (Int.toNat_add h (Int.natCast_nonneg (slotLen scs)))

/-- What 14 symbols of T_sym leave of a slot: 8, 4 and 8 ns. -/
theorem slotLen_eq {scs : Nat} (h : scs < 3) : slotLen scs = 14 * tSym scs + (if scs = 1 then 4 else 8) :=
  match scs, h with
  | 0, _ => rfl
  | 1, _ => rfl
  | 2, _ => rfl

/-- Settles O35: slots follow each other by the air slot length, which 14 symbols of T_sym leave 8, 4 and 8 ns short. -/
theorem airTimes : Obligations.AirTimes := by
  unfold Obligations.AirTimes
  refine ⟨rfl, rfl, rfl, fun t scs n hs => ⟨airEnd_eq_airStart_succ t scs n, airStart_first t scs n,
    fun hstart => ⟨airEnd_inner t scs, fun hlast => ?_⟩⟩⟩
  rw [airEnd_last t scs hlast, slotStart_succ hstart, slotLen_eq hs, airStart, hlast]
  omega

end Sys2Proof.Machine
end

section
/-!
PROOFS. What leaves the fronthaul alone: writes of memory and rings, records, errors, cairns and the echo bank keep the ports, the flows and
the symbols released.
-/
namespace Sys2Proof.Machine

/-- The part of the state that the fronthaul's rules speak of: ports, logical ports, flows, released symbols. -/
def fhPart (s : State) : Tab Port × Tab LPort × Tab Flow × List Released := (s.ports, s.lports, s.flows, s.released)

section
variable {s t : State} (h : fhPart t = fhPart s)
include h

theorem ports_of_fhPart : t.ports = s.ports := congrArg (·.1) h
theorem lports_of_fhPart : t.lports = s.lports := congrArg (·.2.1) h
theorem flows_of_fhPart : t.flows = s.flows := congrArg (·.2.2.1) h
theorem released_of_fhPart : t.released = s.released := congrArg (·.2.2.2) h

end

/-! ### Errors and memory -/

@[simp] theorem logErr_fhPart (s : State) (cls sev u : Nat) (detail : Word) (addr : Nat) (inj : Bool) :
    fhPart (logErr s cls sev u detail addr inj) = fhPart s := by
  obtain ⟨e, v, h⟩ := logErr_changes s cls sev u detail addr inj
  rw [h]
  rfl

@[simp] theorem countPocketEcc_fhPart (s : State) (k : Nat) (ue : Bool) : fhPart (countPocketEcc s k ue) = fhPart s := by
  unfold countPocketEcc
  split <;> rfl

@[simp] theorem correctedAt_fhPart (s : State) (k a : Nat) : fhPart (correctedAt s k a) = fhPart s :=
  (countPocketEcc_fhPart _ _ _).trans (logErr_fhPart _ _ _ _ _ _ _)

@[simp] theorem uncorrectableAt_fhPart (s : State) (k a : Nat) : fhPart (uncorrectableAt s k a) = fhPart s := by
  unfold uncorrectableAt
  extract_lets hbm s1 s2
  have hlog : fhPart s2 = fhPart s := (countPocketEcc_fhPart _ _ _).trans (logErr_fhPart _ _ _ _ _ _ _)
  split <;> exact hlog

@[simp] theorem poisonWords_fhPart (n : Nat) (s : State) (k : Nat) : fhPart (poisonWords s k n) = fhPart s := by
  induction n generalizing s k with
  | zero => rfl
  | succ n ih => rw [poisonWords, ih]; rfl

@[simp] theorem partialCheck_fhPart (s : State) (w k a len : Nat) : fhPart (partialCheck s w k a len) = fhPart s := by
  unfold partialCheck
  extract_lets lo n ek
  split
  · rfl
  · split
    · rfl
    · exact correctedAt_fhPart _ _ _
    · exact (poisonWords_fhPart _ _ _).trans (uncorrectableAt_fhPart _ _ _)

@[simp] theorem writeInWord_fhPart (s : State) (w a : Nat) (data : List Byte) (f : WFlags) : fhPart (writeInWord s w a data f) = fhPart s := by
  unfold writeInWord
  split
  · rfl
  · next k _ =>
    dsimp only
    split <;> exact partialCheck_fhPart s w k a data.length

@[simp] theorem writeFrom_fhPart (n : Nat) (s : State) (w a : Nat) (data : List Byte) (f : WFlags) : fhPart (writeFrom s w a data f n) = fhPart s := by
  induction n generalizing s w with
  | zero => rfl
  | succ n ih => rw [writeFrom, ih, writeInWord_fhPart]

@[simp] theorem writeMem_fhPart (s : State) (a : Nat) (data : List Byte) (f : WFlags) : fhPart (writeMem s a data f) = fhPart s := by
  unfold writeMem
  split
  · rfl
  · exact writeFrom_fhPart _ _ _ _ _ _

/-! ### Packets, MSIs and rings -/

@[simp] theorem sendParts_fhPart (s : State) (l vc dev : Nat) (p : Packet) (xs : List (List Byte)) : fhPart (sendParts s l vc dev p xs) = fhPart s := by
  induction xs generalizing s with
  | nil => rfl
  | cons x xs ih =>
    cases xs with
    | nil => rfl
    | cons y ys => exact ih _

@[simp] theorem drainLink_fhPart (l : Nat) (ws kept : List (Nat × Nat × Packet)) (s : State) : fhPart (drainLink l ws kept s) = fhPart s := by
  induction ws generalizing kept s with
  | nil => rfl
  | cons w ws ih =>
    rw [drainLink]
    split
    · rw [ih, sendWhole, sendParts_fhPart]
    · exact ih _ _

@[simp] theorem toRoot_fhPart (s : State) (p : Packet) : fhPart (toRoot s p) = fhPart s := drainLink_fhPart _ _ _ _

@[simp] theorem msi_fhPart (s : State) (vec : Nat) : fhPart (msi s vec) = fhPart s := by
  unfold msi
  split
  · exact toRoot_fhPart _ _
  · split <;> rfl

@[simp] theorem ringStore_fhPart (s : State) (r : Ring) (a : Nat) (bs : List Byte) : fhPart (ringStore s r a bs) = fhPart s := by
  unfold ringStore
  split
  · exact toRoot_fhPart _ _
  · split
    · rfl
    · exact writeMem_fhPart _ _ _ _

@[simp] theorem ringWriteBack_fhPart (s : State) (n : Nat) : fhPart (ringWriteBack s n) = fhPart s := ringStore_fhPart _ _ _ _

@[simp] theorem ringNote_fhPart (s : State) (n : Nat) : fhPart (ringNote s n) = fhPart s := by
  unfold ringNote
  split
  · rfl
  · exact ringWriteBack_fhPart _ _

@[simp] theorem ringPlace_fhPart (s : State) (n : Nat) (ws : List Word) (compl : Bool) : fhPart (ringPlace s n ws compl) = fhPart s := by
  unfold ringPlace
  extract_lets r cnt rec8 s1 s2 s3
  have hput : fhPart s3 = fhPart s := (ringWriteBack_fhPart s2 n).trans (ringStore_fhPart _ _ _ _)
  split
  · exact (msi_fhPart _ _).trans hput
  · exact hput

@[simp] theorem ringNerzon_fhPart (s : State) (n : Nat) (ws : List Word) (compl : Bool) : fhPart (ringNerzon s n ws compl) = fhPart s := by
  unfold ringNerzon
  dsimp only
  split
  · rfl
  · split
    · exact ringPlace_fhPart _ _ _ _
    · rfl

@[simp] theorem ringDropper_fhPart (s : State) (n : Nat) (ws : List Word) : fhPart (ringDropper s n ws).2 = fhPart s := by
  unfold ringDropper
  dsimp only
  split
  · rfl
  · split
    · exact ringPlace_fhPart _ _ _ _
    · exact ringNote_fhPart _ _

/-! ### Cairns -/

@[simp] theorem grantAll_fhPart (s : State) (g : DWord) (back : Word) (l : List Nat) : fhPart (grantAll s g back l) = fhPart s := by
  induction l generalizing s with
  | nil => rfl
  | cons ph l ih => exact ih _

@[simp] theorem barrierOpen_fhPart (s : State) (n : Nat) (late : Bool) : fhPart (barrierOpen s n late) = fhPart s := grantAll_fhPart _ _ _ _

@[simp] theorem settleTimed_fhPart (s : State) (n : Nat) : fhPart (settleTimed s n) = fhPart s := by
  unfold settleTimed
  dsimp only
  split
  · exact barrierOpen_fhPart _ _ _
  · rfl

/-- A try takes from its cairn and leaves the fronthaul alone. -/
@[simp] theorem cairnTry_fhPart (s : State) (n ctx : Nat) : fhPart (cairnTry s n ctx).2 = fhPart s := by
  have hsettled := settleTimed_fhPart s n
  unfold cairnTry
  extract_lets t c fin
  split
  · exact hsettled
  split
  · exact hsettled
  split
  · split <;> exact hsettled
  split
  · split
    · exact (barrierOpen_fhPart _ _ _).trans hsettled
    · exact hsettled
  · split <;> exact hsettled

/-! ### The echo bank -/

@[simp] theorem endPacket_fhPart (s : State) (ch status : Nat) (bs : List Byte) (ferr : BitVec 16) : fhPart (endPacket s ch status bs ferr) = fhPart s :=
  (ringDropper_fhPart _ _ _).trans ((writeMem_fhPart _ _ _ _).trans (writeMem_fhPart _ _ _ _))

@[simp] theorem cutPacket_fhPart (s : State) (ch status upTo : Nat) : fhPart (cutPacket s ch status upTo) = fhPart s := endPacket_fhPart _ _ _ _ _

@[simp] theorem lostStream_fhPart (looks : Bool) (s : State) (k : Nat) : fhPart (lostStream looks s k) = fhPart s := by
  unfold lostStream
  refine List.foldlRecOn (motive := fun u => fhPart u = fhPart s) _ _ rfl fun u hu e _ => ?_
  split
  · split
    · exact hu
    · exact (cutPacket_fhPart _ _ _ _).trans hu
  · split <;> exact hu

@[simp] theorem lostFlow_fhPart (s : State) (flow : Nat) : fhPart (lostFlow s flow) = fhPart s :=
  List.foldlRecOn (motive := fun u => fhPart u = fhPart s) _ _ rfl fun u hu k _ => (lostStream_fhPart true u k).trans hu

/-! ### Events and links -/

/-- An event of a flow goes to its ring; of the fronthaul it changes the flow alone (R235). -/
theorem flowEvent_fhPart (s : State) (k kind cause t : Nat) (data : List Byte) :
    ∃ f, fhPart (flowEvent s k kind cause t data) = fhPart { s with flows := f } := by
  unfold flowEvent
  dsimp only
  split
  · exact ⟨s.flows, rfl⟩
  · exact ⟨_, ringNerzon_fhPart _ _ _ _⟩

/-- A link that goes down changes its logical port alone and no port (R235). -/
theorem linkDown_ports_lports (s : State) (l : Nat) :
    (linkDown s l).ports = s.ports ∧ (linkDown s l).lports = Tab.upd {} s.lports l fun p => { p with link := false } := by
  unfold linkDown
  extract_lets s1 s2
  have hs2 : s2.ports = s.ports ∧ s2.lports = s1.lports := by unfold s2 synceTo; dsimp only; split <;> exact ⟨rfl, rfl⟩
  refine List.foldlRecOn (motive := fun u : State => u.ports = s.ports ∧ u.lports = s1.lports) _ _ hs2 fun u ⟨hp, hl⟩ k _ => ?_
  obtain ⟨f, hf⟩ := flowEvent_fhPart u k 3 0 (now s) []
  have hlost (b : Prop) [Decidable b] : fhPart (if b then lostFlow (flowEvent u k 3 0 (now s) []) k else flowEvent u k 3 0 (now s) []) =
      fhPart { u with flows := f } := by
    split
    · exact (lostFlow_fhPart _ _).trans hf
    · exact hf
  exact ⟨(ports_of_fhPart (hlost _)).trans hp, (lports_of_fhPart (hlost _)).trans hl⟩

end Sys2Proof.Machine
end

section
/-!
PROOFS. Ports, flows and the echo bank by command.
-/
namespace Sys2Proof.Machine

/-! ### Port modes (R210, R235) -/

/-- The link of a logical port after one went down. -/
theorem lportOf_linkDown {s : State} (w : Tab.wf {} s.lports = true) (l m : Nat) :
    lportOf (linkDown s l) m = if m = l then { lportOf s l with link := false } else lportOf s m := by
  unfold lportOf
  rw [(linkDown_ports_lports s l).2, Tab.get_upd w]

/-- A link of a port whose mode changes goes down. -/
def dropLink (s : State) (l : Nat) : State := if (lportOf s l).link then linkDown s l else s

/-- Dropping a link keeps the canonical form of the logical ports. -/
theorem wf_dropLink {s : State} (w : Tab.wf {} s.lports = true) (l : Nat) : Tab.wf {} (dropLink s l).lports = true := by
  unfold dropLink
  split
  · rw [(linkDown_ports_lports s l).2]
    exact Tab.wf_upd w
  · exact w

/-- A dropped link is down, and one that is down stays so. -/
theorem link_dropLink {s : State} (w : Tab.wf {} s.lports = true) {l m : Nat} (h : m = l ∨ (lportOf s m).link = false) :
    (lportOf (dropLink s l) m).link = false := by
  unfold dropLink
  split
  case isTrue hl =>
    rw [lportOf_linkDown w]
    split
    · rfl
    · next hm => exact h.resolve_left hm
  case isFalse hl =>
    rcases h with rfl | h
    · exact Bool.eq_false_iff.2 hl
    · exact h

/-- Links dropped one after the other are all down. -/
theorem link_foldl_dropLink {s : State} (w : Tab.wf {} s.lports = true) {ls : List Nat} {m : Nat} (h : m ∈ ls ∨ (lportOf s m).link = false) :
    (lportOf (ls.foldl dropLink s) m).link = false := by
  induction ls generalizing s with
  | nil => simpa using h
  | cons l ls ih =>
    refine ih (wf_dropLink w l) ?_
    rw [List.mem_cons, or_assoc] at h
    rcases h with h | h | h
    · exact .inr (link_dropLink w (.inl h))
    · exact .inl h
    · exact .inr (link_dropLink w (.inr h))

/-- Dropping links leaves the physical ports alone. -/
theorem ports_foldl_dropLink (s : State) (ls : List Nat) : (ls.foldl dropLink s).ports = s.ports := by
  refine List.foldlRecOn (motive := fun u : State => u.ports = s.ports) _ _ rfl fun u hu l _ => ?_
  unfold dropLink
  split
  · exact (linkDown_ports_lports u l).1.trans hu
  · exact hu

/-- Steps that each leave the state as it is leave it so together. -/
theorem foldl_unchanged (s : State) (l : List Nat) : l.foldl (fun u _ => u) s = s := by
  induction l with
  | nil => rfl
  | cons _ _ ih => exact ih

/-- The port a FH_PORT_SET sets. -/
def portOfWords (ws : List Word) : Port :=
  { mode := tf ws 1 5 4, fec := tf ws 1 9 8, plim := tf ws 2 15 0,
    macs := (List.range 4).foldl (fun t i => Tab.put 0 t i (BitVec.ofNat 64 (dword (wordAt ws (3 + 2 * i)) (wordAt ws (4 + 2 * i))))) [] }

/-- The MAC addresses of the sub-ports stand in words 3 to 10, the low word of each first. -/
theorem portOfWords_mac (ws : List Word) {i : Nat} (h : i < 4) :
    Tab.get 0 (portOfWords ws).macs i = BitVec.ofNat 64 (dword (wordAt ws (3 + 2 * i)) (wordAt ws (4 + 2 * i))) :=
  (Tab.get_foldl_upd (fun n _ => BitVec.ofNat 64 (dword (wordAt ws (3 + 2 * n)) (wordAt ws (4 + 2 * n)))) i List.nodup_range rfl).trans
    (if_pos (List.mem_range.2 h))

/-- The state with port p set, its links dropped where the mode is a new one (R210). -/
def portSet (s : State) (p : Nat) (x : Port) : State :=
  let t := { s with ports := Tab.put {} s.ports p x }
  if x.mode = (portOf s p).mode then t else ((List.range 4).map (4 * p + ·)).foldl dropLink t

/-- An accepted FH_PORT_SET sets its port. -/
theorem execFhPortSet_sets {p : Fin 176} {s : State}
    (h : asks 0x0300 [0x337, 0xFFFF, 0xFFFFFFFF, 0xFFFF, 0xFFFFFFFF, 0xFFFF, 0xFFFFFFFF, 0xFFFF, 0xFFFFFFFF, 0xFFFF] p s = true)
    (hf : tf (reqWords s p.val) 1 9 8 ≠ 3) (h0 : 1500 ≤ tf (reqWords s p.val) 2 15 0) (h1 : tf (reqWords s p.val) 2 15 0 ≤ 9000)
    (hu : portInUse s (tf (reqWords s p.val) 1 2 0) = false) :
    execFhPortSet p s = .next (replied s p 0 [] (portSet s (tf (reqWords s p.val) 1 2 0) (portOfWords (reqWords s p.val)))) := by
  refine withNci_answers h (bad := by simpa using ⟨⟨hf, h0⟩, h1⟩) (busy := hu) (state := ?_)
  unfold portSet
  dsimp only
  rw [List.foldl_map]
  split
  case isTrue hm =>
    have hm' : tf (reqWords s p.val) 1 5 4 = (portOf s (tf (reqWords s p.val) 1 2 0)).mode := hm
    simp only [hm', portOfWords, ne_eq, not_true_eq_false, decide_false, Bool.and_false, Bool.false_eq_true, if_false, foldl_unchanged]
  case isFalse hm =>
    have hm' : tf (reqWords s p.val) 1 5 4 ≠ (portOf s (tf (reqWords s p.val) 1 2 0)).mode := hm
    simp [hm', portOfWords, dropLink]

/-- The port set is the one given, whatever links drop. -/
theorem portOf_portSet {s : State} {p : Nat} {x : Port} (w : Tab.wf {} s.ports = true) : portOf (portSet s p x) p = x := by
  have hget : Tab.get {} (Tab.put {} s.ports p x) p = x := Tab.get_put_same _ _ _ _ w
  unfold portSet portOf
  dsimp only
  split
  · exact hget
  · rw [ports_foldl_dropLink]
    exact hget

/-- A mode that stays keeps the links. -/
theorem lports_portSet {s : State} {p : Nat} {x : Port} (h : x.mode = (portOf s p).mode) : (portSet s p x).lports = s.lports := by
  rw [portSet, if_pos h]

/-- A new mode takes the port's links down. -/
theorem link_portSet {s : State} {p q : Nat} {x : Port} (h : x.mode ≠ (portOf s p).mode) (w : Tab.wf {} s.lports = true) (hq : q < 4) :
    (lportOf (portSet s p x) (4 * p + q)).link = false := by
  rw [portSet, if_neg h]
  have hmem : 4 * p + q ∈ (List.range 4).map (4 * p + ·) := List.mem_map.2 ⟨q, List.mem_range.2 hq, rfl⟩
  exact link_foldl_dropLink (s := { s with ports := Tab.put {} s.ports p x }) w (.inl hmem)

/-! ### Flows (R217, R223) -/

/-- Two changes that agree on a flow change the state alike. -/
theorem updFlow_congr {s : State} {k : Nat} {f g : Flow → Flow} (h : f (flowOf s k) = g (flowOf s k)) : updFlow s k f = updFlow s k g := by
  rw [flowOf] at h
  simp only [updFlow, Tab.upd, h]

/-- Two changes that agree on an echo channel change the state alike. -/
theorem updEch_congr {s : State} {k : Nat} {f g : Ech → Ech} (h : f (echOf s k) = g (echOf s k)) : updEch s k f = updEch s k g := by
  rw [echOf] at h
  simp only [updEch, Tab.upd, h]

/-- The place in the basin that a flow takes: one of those that fit, as the model picks it (log entry 30). -/
def basinPlace (s : State) (k size : Nat) (n : Nat) : Nat :=
  if size = 0 then 0 else (basinFits s k size).getD (Config.basinPick n % (basinFits s k size).length) 0

/-- A share that fits somewhere is put where it fits. -/
theorem basinPlace_mem {s : State} {k size n : Nat} (h0 : size ≠ 0) (h : basinFits s k size ≠ []) : basinPlace s k size n ∈ basinFits s k size := by
  have hlt : Config.basinPick n % (basinFits s k size).length < (basinFits s k size).length := Nat.mod_lt _ (List.length_pos_iff.2 h)
  rw [basinPlace, if_neg h0, ← List.getElem_eq_getD (h := hlt)]
  exact List.getElem_mem _

/-- The configuration that a FH_FLOW_SET carries, with its table. -/
def flowAsked (s : State) (ws : List Word) : FlowCfg :=
  let r := readEaxc s (taddr ws 5 6 7 0) (tf ws 4 10 0)
  { flowOfWords ws with mac := r.1, eaxc := r.2.1 }

/-- An accepted FH_FLOW_SET sets its flow, and what the flow served before goes on aside (R216, R217, R223). -/
theorem execFhFlowSet_sets {p : Fin 176} {s : State}
    (h : asks 0x0302 [0x007F3F03, 0xFFFFFFFF, 0x07FFF9FF, 0x7FF, 0xFFFFFFFF, 0xFF, 0x3FFFF, 0x3FFFF, 0xFFFF00FF, 0xFFFFFFFF, 0xFF, 0x3FFFF, 0x3FFFF,
      0x3FFF3FFF, 0xFF] p s = true) :
    let ws := reqWords s p.val
    let k := tf ws 1 22 16
    let c := flowAsked s ws
    let base := basinPlace s k (basinShare c) s.free
    mappedRange (taddr ws 5 6 7 0) (8 + 4 * tf ws 4 10 0) = true → flowBad s k c (tf ws 3 17 16) (tf ws 4 10 0) = false →
    (flowOf s k).state ≠ 2 → (flowOf s k).state ≠ 3 → (basinShare c ≠ 0 → basinFits s k (basinShare c) ≠ []) → streamsOver s k c = false →
    execFhFlowSet p s = .next (replied s p 0
      (if c.kind = 0 then [w32 (0x1200000000 + base), w32hi (0x1200000000 + base), w32 (flowBuf c)] else [0, 0, if c.kind = 1 then w32 (flowBuf c) else 0])
      (updFlow (draw (setAside (readEaxc s (taddr ws 5 6 7 0) (tf ws 4 10 0)).2.2 k)) k fun _ =>
        { state := 1, cfg := c, basin := base, share := basinShare c })) := by
  intro ws k c base (ha : mappedRange (taddr (reqWords s p.val) 5 6 7 0) (8 + 4 * tf (reqWords s p.val) 4 10 0) = true) hb h2 h3 hn ho
  have hroom : (decide (basinShare c ≠ 0) && (basinFits s k (basinShare c)).isEmpty || streamsOver s k c) = false := by simpa [ho] using hn
  refine withNci_answers h (bad := ?bad) (busy := by simpa using ⟨h2, h3⟩) (nores := ?nores) (words := ?words) (state := ?state)
  case bad => simp only [ha, if_true, Bool.not_true, Bool.false_or]; exact hb
  case nores => simp only [ha, if_true]; exact hroom
  case words => simp only [ha, if_true]; rfl
  case state => simp only [ha, if_true]; rfl

/-! ### Echo channels (R277, R288) -/

/-- What a setting does to a channel: at once in search, with the end of a look or packet otherwise (R288). -/
def echSetting (c : EchCfg) (x : Ech) : Ech := if echBusy x then { x with pend := some c, disPend := false } else { state := 1, cfg := c }

/-- A channel in a look or a packet is set when that ends (R288). -/
theorem updEch_echSetting_busy {s : State} {k : Nat} (c : EchCfg) (h : 2 ≤ (echOf s k).state) :
    updEch s k (echSetting c) = updEch s k fun x => { x with pend := some c, disPend := false } := updEch_congr (if_pos (decide_eq_true h))

/-- A channel in search, or disabled, is set at once (R277). -/
theorem updEch_echSetting_idle {s : State} {k : Nat} (c : EchCfg) (h : (echOf s k).state < 2) :
    updEch s k (echSetting c) = updEch s k fun _ => { state := 1, cfg := c } := updEch_congr (if_neg (by simpa [echBusy] using h))

/-- An accepted ECHO_CH_SET sets its channel, and says whether the margin was clamped and the setting waits (R282, R288). -/
theorem execEchoChSet_sets {p : Fin 176} {s : State}
    (h : asks 0x0501 [0x0FFF3F00, 0x00FFFFFF, 0xF1FFFEFF, 0xFFFFFFFF, 0xFFFFFFFF, 0xC3FFFFFF, 0x3FFF0000, 0xFFFFFFFF, 0x001F00FF] p s = true)
    (hb : echBad s (tf (reqWords s p.val) 1 27 16) (echOfWords (reqWords s p.val)) = false)
    (hr : (ringOf s (echOfWords (reqWords s p.val)).rring).ctx = (echOfWords (reqWords s p.val)).ctx) :
    let ch := tf (reqWords s p.val) 1 27 16
    let clamped := tf (reqWords s p.val) 4 7 0 < 6
    let busy := 2 ≤ (echOf s ch).state
    execEchoChSet p s = .next (replied s p (if clamped then 7 else if busy then 6 else 0) [if clamped ∧ busy then 1 else 0]
      (updEch s ch (echSetting (echOfWords (reqWords s p.val))))) := by
  refine withNci_answers h (bad := hb) (denied := by simpa using hr) (code := by simp [echBusy]) (acts := ?_) (words := by simp [echBusy])
  split
  · rfl
  · split <;> rfl

/-- Settles O48, command by command: the checks the request passes, its effect and its reply. -/
theorem nciFronthaul : Obligations.NciFronthaul := by
  unfold Obligations.NciFronthaul
  intro p s
  dsimp only
  refine ⟨fun h hf h0 h1 hu => ?portSet, fun h => ?portStatus, fun h ha hb h2 h3 hn ho => ?flowSet,
    ⟨fun h h0 h2 ht => ?flowArm, fun h hf hx => ?flowStop, fun h hf hx => ?flowFree, fun h hf hx => ?flowStopped, fun h => ?flowStatus⟩,
    fun h h2 h9 hx h0 h1 hs hk hy => ?echoStreamSet,
    fun h hb hr => ⟨fun hm hy => ?chSet, fun hm hy => ?chSetBusy, fun hm hy => ?chSetClamped, fun hm hy => ?chSetClampedBusy⟩,
    ⟨fun h => ⟨fun ha hx hc => ?chAbort, fun hx => ?chDisable, fun hx => ?chDisableLater⟩, fun h => ?chStatus⟩, fun h => ?streamStatus⟩
  case portSet =>
    refine ⟨_, execFhPortSet_sets h hf h0 h1 hu, fun w => ?_, fun hm => lports_portSet hm, fun hm w q hq => link_portSet hm w hq⟩
    rw [portOf_portSet w]
    exact ⟨rfl, rfl, rfl, portOfWords_mac _ (by decide), portOfWords_mac _ (by decide)⟩
  case portStatus =>
    change execFhPortStatus p s = _
    exact withNci_answers h
  case flowSet =>
    exact ⟨_, execFhFlowSet_sets h ha hb h2 h3 hn ho, fun h0 => basinPlace_mem h0 (hn h0)⟩
  case flowArm =>
    change execFhFlowArm p s = _
    exact withNci_answers h (bad := by simpa using h0) (busy := by simpa using h2) (denied := by simp [ht])
  case flowStop =>
    change execFhFlowStop p s = _
    have h1 : (flowOf s (tf (reqWords s p.val) 1 6 0)).state ≠ 1 := by omega
    exact withNci_answers h (bad := by simp; omega) (busy := by simp [hf])
      (state := (if_neg (by simp [hf])).trans (updFlow_congr (if_neg h1)))
  case flowFree =>
    change execFhFlowStop p s = _
    exact withNci_answers h (bad := by simp [hx]) (busy := by simp [hx]) (state := if_pos (by simp [hf]))
  case flowStopped =>
    change execFhFlowStop p s = _
    exact withNci_answers h (bad := by simp [hx]) (busy := by simp [hf]) (state := if_neg (by simp [hf]))
  case flowStatus =>
    change execFhFlowStatus p s = _
    exact withNci_answers h
  case echoStreamSet =>
    change execEchoStreamSet p s = _
    exact withNci_answers h (bad := by simpa [hk] using ⟨⟨⟨⟨⟨h2, h9⟩, hx⟩, h0⟩, h1⟩, hs⟩) (busy := by
      simpa [Decidable.or_iff_not_imp_left] using hy)
  case chSet =>
    have hb0 : ¬2 ≤ (echOf s (tf (reqWords s p.val) 1 27 16)).state := by omega
    refine (execEchoChSet_sets h hb hr).trans ?_
    simp only [Nat.not_lt.2 hm, hb0, if_false, and_false, updEch_echSetting_idle _ hy]
  case chSetBusy =>
    refine (execEchoChSet_sets h hb hr).trans ?_
    simp only [Nat.not_lt.2 hm, hy, if_true, if_false, false_and, updEch_echSetting_busy _ hy]
  case chSetClamped =>
    have hb0 : ¬2 ≤ (echOf s (tf (reqWords s p.val) 1 27 16)).state := by omega
    refine (execEchoChSet_sets h hb hr).trans ?_
    simp only [hm, hb0, if_true, if_false, and_false, updEch_echSetting_idle _ hy]
  case chSetClampedBusy =>
    refine (execEchoChSet_sets h hb hr).trans ?_
    simp only [hm, hy, if_true, and_self, updEch_echSetting_busy _ hy]
  case chAbort =>
    change execEchoChDisable p s = _
    exact withNci_answers h (bad := by simp [hx]) (state := (if_pos ⟨ha, hc⟩).trans (by rw [if_pos hx]))
  case chDisable =>
    have hlow : (echOf s (tf (reqWords s p.val) 1 11 0)).state = 1 ∨ (echOf s (tf (reqWords s p.val) 1 11 0)).state = 2 := hx.imp_right And.right
    have h3 : (echOf s (tf (reqWords s p.val) 1 11 0)).state ≠ 3 := by omega
    have hidle : ¬tf (reqWords s p.val) 1 16 16 = 1 → echBusy (echOf s (tf (reqWords s p.val) 1 11 0)) = false := fun ha =>
      decide_eq_false (by rw [hx.resolve_right fun hab => ha hab.1]; decide)
    change execEchoChDisable p s = _
    refine withNci_answers h (bad := by simp; omega) (state := ?_)
    dsimp only
    by_cases ha : tf (reqWords s p.val) 1 16 16 = 1
    · rw [if_pos ⟨ha, by simp [completeBy, h3]⟩, if_neg h3]
    · rw [if_neg fun hab => ha hab.1]
      exact updEch_congr (if_neg (Bool.eq_false_iff.1 (hidle ha)))
  case chDisableLater =>
    have hbusy : 2 ≤ (echOf s (tf (reqWords s p.val) 1 11 0)).state := by omega
    change execEchoChDisable p s = _
    refine withNci_answers h (bad := by simp; omega) (state := ?_)
    dsimp only
    rw [if_neg]
    · exact updEch_congr (if_pos (decide_eq_true hbusy))
    · rintro ⟨ha, hc⟩
      rcases hx with ⟨h0, -⟩ | ⟨-, hc'⟩
      · omega
      · exact Bool.noConfusion (hc.symm.trans hc')
  case chStatus =>
    change execEchoChStatus p s = _
    exact withNci_answers h
  case streamStatus =>
    change execEchoStreamStatus p s = _
    exact withNci_answers h

end Sys2Proof.Machine
end

section
/-!
PROOFS. Fronthaul egress: grants, C-plane, U-plane; links and parity errors.
-/
namespace Sys2Proof.Machine

/-! ### The keys of a flow (R217) -/

/-- An entry that a read finds other than the default is listed. -/
theorem Tab.mem_keys_of_get_ne {α : Type} {d : α} {t : Tab α} {n : Nat} (h : Tab.get d t n ≠ d) : n ∈ t.map (·.1) := by
  induction t with
  | nil => exact absurd rfl h
  | cons e t ih =>
    obtain ⟨k, v⟩ := e
    by_cases hk : k = n
    · simp [hk]
    · rw [Tab.get, if_neg hk] at h
      exact List.mem_cons_of_mem _ (ih h)

/-- A flow that is not FREE has a configuration under its own number. -/
theorem mem_keysOf_self {s : State} {k : Fin 128} (h : (flowOf s k.val).state ≠ 0) : k.val ∈ keysOf s k.val := by
  have hne : flowOf s k.val ≠ {} := fun he => h (by rw [he])
  exact List.mem_filter.2 ⟨Tab.mem_keys_of_get_ne hne, by simp [Nat.mod_eq_of_lt k.isLt]⟩

section
variable {s : State} {k : Nat} {due : Nat → Bool} (h : keysOf s k = [k])
include h

/-- Where a flow has one configuration, that one is due. -/
theorem dueKey_alone (hd : due k = true) : dueKey s k due = some k := by simp [dueKey, h, hd]

/-- Where a flow has one configuration and that one is not due, none is. -/
theorem dueKey_none_alone (hd : due k = false) : dueKey s k due = none := by simp [dueKey, h, hd]

end

/-! ### What a flow sends when (R230, R233, R234) -/

section
variable {k : Fin 128} {s : State}

/-- GRANT_READ while Nerzon runs and has its clock. -/
theorem exec_grantRead (h3 : s.sts.state = 3) (hc : noClock s 2 = false) : exec (.grantRead k) s =
    .next (match dueKey s k.val (grantDue s) with | some j => readGrant s j (grantSlot (flowOf s j)) | none => s) := by
  change execGrantRead k s = _
  rw [execGrantRead, if_pos (by simp [h3, hc])]
  cases dueKey s k.val (grantDue s) <;> rfl

variable (hc : noClock s 1 = false)
include hc

/-- CPLANE_SEND while the fronthaul has its clock. -/
theorem exec_cplaneSend : exec (.cplaneSend k) s =
    .next (match dueKey s k.val (cplaneDue s) with | some j => sendSlot s j | none => s) := by
  change execCplaneSend k s = _
  rw [execCplaneSend, if_neg (by simp [hc])]
  cases dueKey s k.val (cplaneDue s) <;> rfl

/-- UPLANE_SEND while the fronthaul has its clock. -/
theorem exec_uplaneSend : exec (.uplaneSend k) s =
    .next (match dueKey s k.val (uplaneDue s) with | some j => sendNext s j | none => s) := by
  change execUplaneSend k s = _
  rw [execUplaneSend, if_neg (by simp [hc])]
  cases dueKey s k.val (uplaneDue s) <;> rfl

variable (ha : keysOf s k.val = [k.val])
include ha

/-- The C-plane of a flow with one configuration is sent when it is due. -/
theorem exec_cplaneSend_alone (hd : cplaneDue s k.val = true) : exec (.cplaneSend k) s = .next (sendSlot s k.val) := by
  rw [exec_cplaneSend hc, dueKey_alone ha hd]

/-- The symbol of a flow with one configuration is sent when it is due. -/
theorem exec_uplaneSend_alone (hd : uplaneDue s k.val = true) : exec (.uplaneSend k) s = .next (sendNext s k.val) := by
  rw [exec_uplaneSend hc, dueKey_alone ha hd]

end

section
variable {s : State} {k : Nat} {gr : Grant} (hg : grantOf (flowOf s k) (flowOf s k).nextC = some gr)
include hg

/-- The C-plane of a slot whose grant is there leaves; for UL it leaves whether or not the grant is late (R233). -/
theorem sendSlot_sends (h : (flowOf s k).cfg.kind = 0 ∨ gr.late = false) : sendSlot s k =
    updFlow ((List.range (nStreams (flowOf s k).cfg)).foldl (sendCplane k (flowOf s k).nextC gr) s) k fun x => { x with nextC := (flowOf s k).nextC + 1 } := by
  have hsends : ¬((flowOf s k).cfg.kind = 1 ∧ gr.late = true) := fun ⟨h1, hl⟩ => h.elim (by omega) fun h => Bool.noConfusion (hl.symm.trans h)
  simp only [sendSlot, hg, hsends, if_false]

/-- A DL flow whose grant is late sends no C-plane (R230). -/
theorem sendSlot_silent (h1 : (flowOf s k).cfg.kind = 1) (hl : gr.late = true) :
    sendSlot s k = updFlow s k fun x => { x with nextC := (flowOf s k).nextC + 1 } := by
  simp only [sendSlot, hg, h1, hl, and_self, if_true]

end

/-- A slot whose grant is late, or not there, is passed over (R230). -/
theorem sendNext_silent {s : State} {k : Nat} (h : ∀ gr, grantOf (flowOf s k) ((flowOf s k).nextSend / 14) = some gr → gr.late = true) :
    sendNext s k = stepSend s k := by
  have hnone : (grantOf (flowOf s k) ((flowOf s k).nextSend / 14)).filter (fun x => !x.late) = none := by simpa [Option.filter_eq_none_iff] using h
  simp only [sendNext, hnone]

section
variable {s : State} {k : Nat} {gr : Grant} (hg : grantOf (flowOf s k) ((flowOf s k).nextSend / 14) = some gr) (hl : gr.late = false)
include hg hl

/-- With a grant for its slot a symbol goes out, in time or late (R234). -/
theorem sendNext_granted : sendNext s k =
    if (Tab.get {} (flowOf s k).syms (flowOf s k).nextSend).bad then stepSend (sendLate s k gr) k
    else
      let got := cairnTry s (flowOf s k).cfg.cairn (flowOf s k).cfg.ctx
      if got.1 = 0 then stepSend (sendSymbol got.2 k (flowOf s k).nextSend gr false) k else stepSend (sendLate got.2 k gr) k := by
  have hsome : (grantOf (flowOf s k) ((flowOf s k).nextSend / 14)).filter (fun x => !x.late) = some gr := by simp [hg, Option.filter, hl]
  simp only [sendNext, hsome]

/-- A symbol whose data was struck by a parity error goes out late (R411). -/
theorem sendNext_bad (hb : (Tab.get {} (flowOf s k).syms (flowOf s k).nextSend).bad = true) : sendNext s k = stepSend (sendLate s k gr) k := by
  simp [sendNext_granted hg hl, hb]

variable (hb : (Tab.get {} (flowOf s k).syms (flowOf s k).nextSend).bad = false)
include hb

/-- A symbol whose cairn grants the try is sent with its data (R234). -/
theorem sendNext_ready (hr : (cairnTry s (flowOf s k).cfg.cairn (flowOf s k).cfg.ctx).1 = 0) :
    sendNext s k = stepSend (sendSymbol (cairnTry s (flowOf s k).cfg.cairn (flowOf s k).cfg.ctx).2 k (flowOf s k).nextSend gr false) k := by
  simp [sendNext_granted hg hl, hb, hr]

/-- A symbol whose cairn does not goes out late (R234). -/
theorem sendNext_unready (hr : (cairnTry s (flowOf s k).cfg.cairn (flowOf s k).cfg.ctx).1 ≠ 0) :
    sendNext s k = stepSend (sendLate (cairnTry s (flowOf s k).cfg.cairn (flowOf s k).cfg.ctx).2 k gr) k := by
  simp [sendNext_granted hg hl, hb, hr]

end

/-- A try of a cairn leaves every flow as it was. -/
@[simp] theorem flowOf_cairnTry (s : State) (n ctx k : Nat) : flowOf (cairnTry s n ctx).2 k = flowOf s k := by
  rw [flowOf, flows_of_fhPart (cairnTry_fhPart s n ctx), flowOf]

/-! ### Links (R235, R355) -/

/-- What the time block makes of SyncE stands, whether or not its pin changes (R355). -/
@[simp] theorem synceTo_time (s : State) (f : Time → Time) : (synceTo s f).time = f s.time := by
  unfold synceTo
  dsimp only
  split <;> rfl

/-- Nothing of it reaches the logical ports. -/
@[simp] theorem synceTo_lports (s : State) (f : Time → Time) : (synceTo s f).lports = s.lports := by
  unfold synceTo
  dsimp only
  split <;> rfl

/-- A link that fails under no flow's use is down, and a SyncE clock taken from it is held (R235, R355). -/
theorem linkDown_unused {s : State} {l : Nat} (w : Tab.wf {} s.lports = true) (h : flowsOn s l = []) :
    (lportOf (linkDown s l) l).link = false ∧
    (linkDown s l).time.synceHold = (s.time.synceHold || (s.time.synceExt && decide (s.time.syncePort = l))) := by
  constructor
  · rw [lportOf, (linkDown_ports_lports s l).2, Tab.get_upd_same w]
  · simp [linkDown, h, countPort]

/-- A link that returns under no flow's use is up, and a SyncE clock taken from it is held no longer (R235, R355). -/
theorem exec_linkUp_unused {s : State} {l : Fin 32} (w : Tab.wf {} s.lports = true) (h : flowsOn s l.val = [])
    (hp : subPort (portOf s (l.val / 4)).mode (l.val % 4) = true) (hl : (lportOf s l.val).link = false) :
    ∃ t, exec (.linkUp l) s = .next t ∧ (lportOf t l.val).link = true ∧
      t.time.synceHold = (s.time.synceHold && !decide (s.time.syncePort = l.val)) := by
  change ∃ t, execLinkUp l s = .next t ∧ _
  refine ⟨_, by rw [execLinkUp, if_neg (by simp [hp, hl]), h], ?_, ?_⟩
  · rw [List.foldl_nil, lportOf, synceTo_lports, countPort, Tab.get_upd_same w]
  · rw [List.foldl_nil, synceTo_time, countPort]

/-! ### Parity errors of the datapath (R411, R416) -/

/-- Every error is counted in its class (R411). -/
theorem logErr_cnt (s : State) (cls sev u : Nat) (detail : Word) (addr : Nat) (inj : Bool) :
    (logErr s cls sev u detail addr inj).err.cnt = Tab.upd 0 s.err.cnt cls (· + 1) := by
  unfold logErr raiseLantern
  dsimp only
  split
  · split <;> rfl
  · split <;> rfl

/-- A parity error at a symbol changes flows and released symbols alone (R411). -/
theorem parityAt_err_lvic (sym : Nat) (s : State) (k : Nat) : (parityAt sym s k).err = s.err ∧ (parityAt sym s k).lvic = s.lvic := by
  unfold parityAt
  split <;> exact ⟨rfl, rfl⟩

/-- So do those at several keys. -/
theorem foldl_parityAt_err_lvic (sym : Nat) (s : State) (ks : List Nat) :
    (ks.foldl (parityAt sym) s).err = s.err ∧ (ks.foldl (parityAt sym) s).lvic = s.lvic := by
  refine List.foldlRecOn (motive := fun t : State => t.err = s.err ∧ t.lvic = s.lvic) _ _ ⟨rfl, rfl⟩ fun t ⟨he, hv⟩ k _ => ?_
  obtain ⟨hte, htv⟩ := parityAt_err_lvic sym t k
  exact ⟨hte.trans he, htv.trans hv⟩

/-- Degrading a port changes the unit table alone (R416). -/
theorem degradePort_err_lvic (s : State) (u : Nat) : (degradePort s u).err = s.err ∧ (degradePort s u).lvic = s.lvic := by
  unfold degradePort
  split <;> exact ⟨rfl, rfl⟩

/-- A datapath parity error at a flow that is not FREE is logged as FH_PARITY (R411). -/
theorem exec_fhParity_logs {k : Fin 128} {sym : Nat} {s : State} (hk : (flowOf s k.val).state ≠ 0) :
    ∃ u t, exec (.fhParity k sym) s = .next t ∧ t.err = (logErr s 0xA 1 u 0 0 false).err ∧ t.lvic = (logErr s 0xA 1 u 0 0 false).lvic := by
  change ∃ u t, execFhParity k sym s = .next t ∧ _
  have hmem : k.val ∈ (keysOf s k.val).filter fun j => decide ((flowOf s j).state ≠ 0) || symWaits s sym j :=
    List.mem_filter.2 ⟨mem_keysOf_self hk, by simp [hk]⟩
  obtain ⟨j, js, hks⟩ := List.exists_cons_of_ne_nil (List.ne_nil_of_mem hmem)
  let u := flowUnit (flowOf s j).cfg
  obtain ⟨herr, hvic⟩ := degradePort_err_lvic (logErr s 0xA 1 u 0 0 false) u
  obtain ⟨hkerr, hkvic⟩ := foldl_parityAt_err_lvic sym (degradePort (logErr s 0xA 1 u 0 0 false) u) (j :: js)
  exact ⟨u, _, by simp only [execFhParity, hks]; rfl, hkerr.trans herr, hkvic.trans hvic⟩

/-- Settles O40: grants, C-plane and U-plane as their times come, links, parity errors. -/
theorem fronthaulEgress : Obligations.FronthaulEgress := by
  unfold Obligations.FronthaulEgress
  intro k s
  dsimp only
  refine ⟨fun h3 hc => ⟨fun j hj => ?grantDue, fun hn => ?grantNone, fun ha hk hr => ⟨fun ht => ?grantNow, fun ht => ?grantEarly⟩⟩,
    fun hc => ⟨fun j hj => ?cplaneDue, fun hn => ?cplaneNone, fun gr ha hk hg hr => ⟨fun ht => ?cplaneEarly,
      fun ht => ⟨fun hs => ?cplaneNow, fun h1 hl => ?cplaneLate⟩⟩⟩,
    fun hc => ⟨fun j hj => ?uplaneDue, fun hn => ?uplaneNone, fun ha h1 hs => ⟨fun ht => ?uplaneEarly,
      fun ht => ⟨fun hg => ?uplaneSilent, fun gr hg hl => ⟨fun hb hr => ?uplaneNow, fun hb hr => ?uplaneUnready, fun hb => ?uplaneBad⟩⟩⟩⟩,
    fun l => ⟨fun hl => ?linkDown, fun hl => ?linkDownAgain, fun h => ?linkUpNot, fun w hu => ⟨fun hl => ?linkDownUnused, exec_linkUp_unused w hu⟩⟩,
    fun sym hk hw w => ?parity⟩
  case grantDue => rw [exec_grantRead h3 hc, hj]
  case grantNone => rw [exec_grantRead h3 hc, hn]
  case grantNow => rw [exec_grantRead h3 hc, dueKey_alone ha (by simp [grantDue, hk, hr, ht])]
  case grantEarly => rw [exec_grantRead h3 hc, dueKey_none_alone ha (by simp [grantDue, ht])]
  case cplaneDue => rw [exec_cplaneSend hc, hj]
  case cplaneNone => rw [exec_cplaneSend hc, hn]
  case cplaneEarly => rw [exec_cplaneSend hc, dueKey_none_alone ha (by simp [cplaneDue, ht])]
  case cplaneNow => rw [exec_cplaneSend_alone hc ha (by simp [cplaneDue, hg, hk, hr, ht]), sendSlot_sends hg hs]
  case cplaneLate => rw [exec_cplaneSend_alone hc ha (by simp [cplaneDue, hg, hk, hr, ht]), sendSlot_silent hg h1 hl]
  case uplaneDue => rw [exec_uplaneSend hc, hj]
  case uplaneNone => rw [exec_uplaneSend hc, hn]
  case uplaneEarly => rw [exec_uplaneSend hc, dueKey_none_alone ha (by simp [uplaneDue, ht])]
  case uplaneSilent => rw [exec_uplaneSend_alone hc ha (by simp [uplaneDue, h1, hs, ht]), sendNext_silent hg]
  case uplaneNow => rw [exec_uplaneSend_alone hc ha (by simp [uplaneDue, h1, hs, ht]), sendNext_ready hg hl hb hr]
  case uplaneUnready =>
    rw [exec_uplaneSend_alone hc ha (by simp [uplaneDue, h1, hs, ht]), sendNext_unready hg hl hb hr, sendLate, flowOf_cairnTry]
  case uplaneBad => rw [exec_uplaneSend_alone hc ha (by simp [uplaneDue, h1, hs, ht]), sendNext_bad hg hl hb, sendLate]
  case linkDown =>
    change execLinkDown l s = _
    rw [execLinkDown, if_pos hl]
  case linkDownAgain =>
    change execLinkDown l s = _
    rw [execLinkDown, if_neg (by simp [hl])]
  case linkUpNot =>
    change execLinkUp l s = _
    rw [execLinkUp, if_pos (by simpa using h)]
  case linkDownUnused =>
    change ∃ t, execLinkDown l s = .next t ∧ _
    exact ⟨_, by rw [execLinkDown, if_pos hl], linkDown_unused w hu⟩
  case parity =>
    obtain ⟨u, t, ht, herr, hvic⟩ := exec_fhParity_logs (sym := sym) hk
    refine ⟨t, ht, ?_, ?_⟩
    · rw [herr, logErr_cnt, Tab.get_upd_same w]
    · rw [hvic]
      exact logErr_tells rfl hw (by decide)

end Sys2Proof.Machine
end

section
/-!
PROOFS. Fronthaul ingest: frames, the staging of packets, windows and release, the squeeze unit.
-/
namespace Sys2Proof.Machine

/-! ### Tables of flows and ports -/

/-- The keys of a table in canonical form rise. -/
theorem Tab.keys_rise {α : Type} [DecidableEq α] {d : α} {t : Tab α} {lo : Option Nat} (w : Tab.wfFrom d lo t = true) :
    (∀ l, lo = some l → ∀ n ∈ t.map (·.1), l < n) ∧ (t.map (·.1)).Pairwise (· < ·) := by
  induction t generalizing lo with
  | nil => exact ⟨fun _ _ n hn => absurd hn List.not_mem_nil, .nil⟩
  | cons e t ih =>
    obtain ⟨k, v⟩ := e
    simp only [Tab.wfFrom, Bool.and_eq_true] at w
    obtain ⟨⟨hlo, -⟩, ht⟩ := w
    obtain ⟨habove, hrise⟩ := ih ht
    refine ⟨fun l hl n hn => ?_, List.pairwise_cons.2 ⟨habove k rfl, hrise⟩⟩
    subst hl
    have hlk : l < k := of_decide_eq_true hlo
    rcases List.mem_cons.1 hn with rfl | hn
    · exact hlk
    · exact Nat.lt_trans hlk (habove k rfl n hn)

/-- A table in canonical form lists no key twice. -/
theorem Tab.keys_nodup {α : Type} [DecidableEq α] {d : α} {t : Tab α} (w : Tab.wf d t = true) : (t.map (·.1)).Nodup :=
  (Tab.keys_rise w).2.imp Nat.ne_of_lt

/-- A flow reads as it was changed. -/
theorem flowOf_updFlow {s : State} {k : Nat} {f : Flow → Flow} (w : Tab.wf {} s.flows = true) : flowOf (updFlow s k f) k = f (flowOf s k) :=
  Tab.get_upd_same w

/-- A change of a flow keeps the canonical form. -/
theorem wf_updFlow {s : State} {k : Nat} {f : Flow → Flow} (w : Tab.wf {} s.flows = true) : Tab.wf {} (updFlow s k f).flows = true := Tab.wf_upd w

/-- A logical port reads as it was changed. -/
theorem lportOf_countPort {s : State} {l : Nat} {f : LPort → LPort} (w : Tab.wf {} s.lports = true) : lportOf (countPort s l f) l = f (lportOf s l) :=
  Tab.get_upd_same w

/-- A counter of a flow reads as it was bumped. -/
theorem cnt_bump {f : Flow} (w : Tab.wf 0 f.cnt = true) (i n : Nat) : Tab.get 0 (bump f i n).cnt i = Tab.get 0 f.cnt i + w32 n :=
  Tab.get_put_same _ _ _ _ w

/-- Another counter reads as before. -/
theorem cnt_bump_other (f : Flow) {i j : Nat} (n : Nat) (h : j ≠ i) : Tab.get 0 (bump f i n).cnt j = Tab.get 0 f.cnt j := Tab.get_put_other _ _ _ h

/-! ### Frames (R210 to R213, R218) -/

/-- A frame at a logical port without a PHY or a link is not taken (R210). -/
theorem exec_frameReceive_deaf {s : State} {l : Fin 32} (h : hears s l.val = false) (fcs : Bool) (f : Frame) :
    exec (.frameReceive l fcs f) s = .next s := by
  change execFrameReceive l fcs f s = _
  simp [execFrameReceive, h]

section
variable {s : State} {l : Fin 32} {f : Frame} (hh : hears s l.val = true) (hc : noClock s 1 = false)
include hh hc

/-- A frame with a bad FCS is counted (R211). -/
theorem exec_frameReceive_badFcs : exec (.frameReceive l false f) s = .next (countPort s l.val fun p => { p with fcs := p.fcs + 1 }) := by
  change execFrameReceive l false f s = _
  simp [execFrameReceive, hh, hc]

/-- A PTP frame reaches the time block with its timestamp (R212). -/
theorem exec_frameReceive_ptp {m : PtpMsg} (hb : f.body = .ptp m) : exec (.frameReceive l true f) s = .next (ptpFrame (draw s) l.val (stamp s) m) := by
  change execFrameReceive l true f s = _
  simp [execFrameReceive, hh, hc, hb]

/-- An ESMC frame reaches the time block (R355). -/
theorem exec_frameReceive_esmc {ql : BitVec 8} (hb : f.body = .esmc ql) : exec (.frameReceive l true f) s = .next (esmcFrame s l.val ql) := by
  change execFrameReceive l true f s = _
  simp [execFrameReceive, hh, hc, hb]

/-- A PAUSE frame or one of another type is counted (R211). -/
theorem exec_frameReceive_other (hb : f.body = .pause ∨ f.body = .other) :
    exec (.frameReceive l true f) s = .next (countPort s l.val fun p => { p with other := p.other + 1 }) := by
  change execFrameReceive l true f s = _
  rcases hb with hb | hb <;> simp [execFrameReceive, hh, hc, hb]

/-- An eCPRI message is taken with its VLAN tag and timestamp (R212, R213). -/
theorem exec_frameReceive_ecpri {m : List Byte} (hb : f.body = .ecpri m) :
    exec (.frameReceive l true f) s = .next (ecpriFrame (draw s) l.val f.vlan m (stamp s)) := by
  change execFrameReceive l true f s = _
  simp [execFrameReceive, hh, hc, hb]

end

section
variable {s : State} {lport ts : Nat} {vlan : Option Nat} {m : List Byte}

/-- A C-plane message is counted (R213). -/
theorem ecpriFrame_cplane (h : (ecpriOf m).mtype = 2) : ecpriFrame s lport vlan m ts = countPort s lport fun p => { p with cplane := p.cplane + 1 } := by
  simp [ecpriFrame, h]

/-- A message that is neither U-plane nor C-plane is counted (R213). -/
theorem ecpriFrame_other (h0 : (ecpriOf m).mtype ≠ 0) (h2 : (ecpriOf m).mtype ≠ 2) :
    ecpriFrame s lport vlan m ts = countPort s lport fun p => { p with other := p.other + 1 } := by
  simp [ecpriFrame, h0, h2]

variable (h : (ecpriOf m).mtype = 0)
include h

/-- A U-plane message that no flow matches is counted, by whether any flow takes input at its port (R218). -/
theorem ecpriFrame_unmatched (hf : findFlow s lport vlan (ecpriOf m) = none) : ecpriFrame s lport vlan m ts =
    if s.flows.any (fun g => takesInput g.2 && g.2.cfg.ports.getLsbD lport) then countPort s lport fun p => { p with unmatched := p.unmatched + 1 }
    else noFlow s lport := by
  simp [ecpriFrame, h, hf]

/-- A U-plane message that a flow matches goes to it (R218). -/
theorem ecpriFrame_matched {k stream : Nat} (hf : findFlow s lport vlan (ecpriOf m) = some (k, stream)) :
    ecpriFrame s lport vlan m ts = flowPacket s lport k stream vlan.isSome m ts := by
  simp [ecpriFrame, h, hf]

end

/-! ### A message of a flow (R217, R224, R225) -/

section
variable {s : State} {lport k stream ts : Nat} {tagged : Bool} {m : List Byte}

/-- A flow out of service, and one that has halted, discard what they are sent (R217, R225). -/
theorem flowPacket_closed (h : takesInput (flowOf s k) = false ∨ (flowOf s k).state = 3) : flowPacket s lport k stream tagged m ts = noFlow s lport := by
  rcases h with h | h <;> simp [flowPacket, h]

variable (ht : takesInput (flowOf s k) = true) (h3 : (flowOf s k).state ≠ 3)
include ht h3

/-- A malformed message halts an ARMED flow (R224). -/
theorem flowPacket_malformed {c : Nat} (hc : haltCause (flowOf s k).cfg tagged m = some c) : flowPacket s lport k stream tagged m ts =
    if (flowOf s k).state = 2 then haltFlow s k c ts (ecpriOf m).first16 else noFlow s lport := by
  simp [flowPacket, ht, h3, hc]

/-- A well-formed message of a UL flow is staged, but for the symbols that a halt has ended (R220, R225). -/
theorem flowPacket_wellFormed (hc : haltCause (flowOf s k).cfg tagged m = none) (hk : (flowOf s k).cfg.kind = 0) :
    flowPacket s lport k stream tagged m ts =
      if symbolNamed s.time (flowOf s k).cfg.scs (ecpriOf m) ts < (flowOf s k).deadSym then noFlow s lport
      else stagePacket (updFlow s k fun x => noteSeq x stream (ecpriOf m).seqId) k stream (symbolNamed s.time (flowOf s k).cfg.scs (ecpriOf m) ts)
        (sections (flowOf s k).cfg m).1 ts := by
  simp [flowPacket, ht, h3, hc, hk]

end

/-! ### Release (R221, R222) -/

/-- When a symbol is to be released depends on its flow's configuration and the symbol alone. -/
theorem releaseTime_congr {t : Time} {f g : Flow} {n : Nat} (hc : g.cfg = f.cfg) (hn : Tab.get {} g.syms n = Tab.get {} f.syms n) :
    releaseTime t g n = releaseTime t f n := by
  simp only [releaseTime, openTime, hc, hn]

/-- An open window whose symbol is not complete closes W after it opened (R221). -/
theorem releaseTime_open {t : Time} {f : Flow} {n : Nat} (ho : (Tab.get {} f.syms n).opened ≠ none) (hd : (Tab.get {} f.syms n).done = none) :
    releaseTime t f n = some (openTime t f n + f.cfg.win, true) := by
  simp [releaseTime, hd, Option.isSome_iff_ne_none.2 ho]

/-- An energy record changes the energy of its flow and memory (R232). -/
theorem writeEnergy_fhPart (s : State) (k g : Nat) : fhPart (writeEnergy s k g) = fhPart (updFlow s k fun x => { x with energy := [] }) := by
  unfold writeEnergy
  extract_lets f c gr code steer base s1 s2
  have hmem : fhPart (writeMem s2 (base + 384) (bitBytes steer 40) noFlags) = fhPart s :=
    (writeMem_fhPart _ _ _ _).trans ((writeMem_fhPart _ _ _ _).trans (writeMem_fhPart _ _ _ _))
  simp only [fhPart, Prod.mk.injEq] at hmem ⊢
  simp only [updFlow, hmem, and_self]

section
variable (s : State) (k t : Nat) (closed : Bool)

/-- A release adds its symbol to those that wait for the squeeze unit (R222). -/
theorem releaseOne_released : ∃ r, (releaseOne s k t closed).released = s.released ++ [r] ∧ r.flow = k ∧ r.sym = (flowOf s k).nextRel ∧
    r.closed = closed ∧ r.tRel = t := by
  unfold releaseOne
  extract_lets f sym x ps r s1
  refine ⟨r, ?_, rfl, rfl, rfl, rfl⟩
  split
  · exact released_of_fhPart (writeEnergy_fhPart s1 k (sym / 14))
  · rfl

variable {s}

/-- A release keeps the canonical form of the flows, and its flow's counters. -/
theorem releaseOne_flows (w : Tab.wf {} s.flows = true) :
    Tab.wf {} (releaseOne s k t closed).flows = true ∧ (flowOf (releaseOne s k t closed) k).cnt = (flowOf s k).cnt := by
  unfold releaseOne
  extract_lets f sym x ps r s1
  have w1 : Tab.wf {} s1.flows = true := Tab.wf_put w
  have hcnt : (flowOf s1 k).cnt = (flowOf s k).cnt := by
    unfold s1
    rw [flowOf_updFlow (s := { s with released := s.released ++ [r] }) w]
    rfl
  split
  · have hflows := flows_of_fhPart (writeEnergy_fhPart s1 k (sym / 14))
    refine ⟨by rw [hflows]; exact wf_updFlow w1, ?_⟩
    rw [flowOf, hflows]
    exact (congrArg Flow.cnt (flowOf_updFlow w1)).trans hcnt
  · exact ⟨w1, hcnt⟩

end

section
variable {s : State} {k t : Nat}

/-- While the flow's next symbol is not to be released by a time, none is. -/
theorem pumpRelease_waits (h : ∀ r c, releaseTime s.time (flowOf s k) (flowOf s k).nextRel = some (r, c) → t < r) (n : Nat) :
    pumpRelease s k t n = s := by
  cases n with
  | zero => rfl
  | succ n =>
    rw [pumpRelease]
    split
    · next r c hr =>
      have hserved : releaseTime s.time (flowOf s k) (flowOf s k).nextRel = some (r, c) := by
        split at hr
        · exact hr
        · contradiction
      rw [if_neg (Nat.not_le.2 (h r c hserved))]
    · rfl

/-- A symbol that is due is released, and those after it (R221). -/
theorem pumpRelease_releases {r : Nat} {c : Bool} (hs : serves (flowOf s k) (flowOf s k).nextRel = true)
    (hr : releaseTime s.time (flowOf s k) (flowOf s k).nextRel = some (r, c)) (ht : r ≤ t) (n : Nat) :
    pumpRelease s k t (n + 1) = pumpRelease (releaseOne s k (max r (flowOf s k).lastRel) c) k t n := by
  rw [pumpRelease]
  simp only [hs, hr, ht, if_true]

/-- Releases keep the counters of their flow. -/
theorem pumpRelease_cnt (w : Tab.wf {} s.flows = true) (n : Nat) : (flowOf (pumpRelease s k t n) k).cnt = (flowOf s k).cnt := by
  induction n generalizing s with
  | zero => rfl
  | succ n ih =>
    rw [pumpRelease]
    split
    · next r c _ =>
      split
      · obtain ⟨w1, hcnt⟩ := releaseOne_flows k (max r (flowOf s k).lastRel) c w
        exact (ih w1).trans hcnt
      · rfl
    · rfl

end

/-! ### Staging (R220, R221, R223) -/

/-- A flow that has accepted a packet: counted with its duplicates, the symbol as staged. -/
def acceptPacket (dups sym : Nat) (z : SymSt) (f : Flow) : Flow := { bump (bump f 0 1) 3 dups with syms := Tab.put {} f.syms sym z }

section
variable {f : Flow} (dups : Nat) {sym : Nat} (z : SymSt)

/-- The packet is counted as accepted. -/
theorem acceptPacket_cnt (w : Tab.wf 0 f.cnt = true) : Tab.get 0 (acceptPacket dups sym z f).cnt 0 = Tab.get 0 f.cnt 0 + 1 :=
  (cnt_bump_other (bump f 0 1) dups (by decide)).trans (cnt_bump w 0 1)

/-- Its symbol is the one staged. -/
theorem acceptPacket_syms (w : Tab.wf {} f.syms = true) : Tab.get {} (acceptPacket dups sym z f).syms sym = z := Tab.get_put_same _ _ _ _ w

/-- Another symbol is to be released when it was. -/
theorem releaseTime_acceptPacket (t : Time) {n : Nat} (h : n ≠ sym) : releaseTime t (acceptPacket dups sym z f) n = releaseTime t f n :=
  releaseTime_congr rfl (Tab.get_put_other _ _ _ h)

end

section
variable {s : State} {k stream sym ts : Nat} {xs : List USection}

/-- A packet more than a symbol before the air end of its symbol is early: it is counted, and nothing is staged (R221). -/
theorem stagePacket_early (h : ts + tSym (flowOf s k).cfg.scs < airEnd s.time (flowOf s k).cfg.scs sym) :
    stagePacket s k stream sym xs ts = updFlow s k fun x => bump x 2 1 := if_pos h

variable (he : airEnd s.time (flowOf s k).cfg.scs sym ≤ ts + tSym (flowOf s k).cfg.scs)
include he

/-- A packet of a symbol that is released, not served, or whose window has closed is late: it is counted, and nothing is staged (R221). -/
theorem stagePacket_late (h : sym < (flowOf s k).nextRel ∨ serves (flowOf s k) sym = false ∨
    openTime s.time (flowOf s k) sym + (flowOf s k).cfg.win ≤ ts) : stagePacket s k stream sym xs ts = updFlow s k fun x => bump x 1 1 := by
  unfold stagePacket
  dsimp only
  rw [if_neg (Nat.not_lt.2 he), if_pos (by simpa [or_assoc] using h)]

/-- A packet in its window whose symbol has a buffer is accepted: its PRBs are staged, and what is due then is released (R220, R221, R223). -/
theorem stagePacket_accepts (hn : (flowOf s k).nextRel ≤ sym) (hs : serves (flowOf s k) sym = true)
    (hw : ts < openTime s.time (flowOf s k) sym + (flowOf s k).cfg.win) (hb : basinFull s k sym = false) :
    ∃ dups z, z.prbs = ((xs.flatMap (sectionPrbs stream)).foldl stagePrbs ((Tab.get {} (flowOf s k).syms sym).prbs, 0)).1 ∧
      stagePacket s k stream sym xs ts =
        pumpRelease (updFlow s k (acceptPacket dups sym z)) k ts ((flowOf s k).syms.length + 1) := by
  unfold stagePacket
  dsimp only
  rw [if_neg (Nat.not_lt.2 he), if_neg (by simp [hs, hn, hw]), if_neg (by simp [hb])]
  exact ⟨_, _, rfl, rfl⟩

end

/-! ### Windows (R221) -/

/-- Device time is the time block's. -/
theorem now_congr {s t : State} (h : t.time = s.time) : now t = now s := by rw [now, now, h]

/-- The opening of one key's window leaves time, the form of the flows, and every other flow alone. -/
theorem openWindow_keeps (sym : Nat) (s : State) (k : Nat) : (openWindow sym s k).time = s.time ∧
    (Tab.wf {} s.flows = true → Tab.wf {} (openWindow sym s k).flows = true) ∧ ∀ j, j ≠ k → flowOf (openWindow sym s k) j = flowOf s j := by
  unfold openWindow
  dsimp only
  split
  · exact ⟨rfl, wf_updFlow, fun j hj => Tab.get_put_other _ _ _ hj⟩
  · exact ⟨rfl, id, fun _ _ => rfl⟩

/-- So do the openings of several keys' windows, with a flow that is not among them. -/
theorem foldl_openWindow_keeps (sym : Nat) (s : State) (ks : List Nat) {j : Nat} (hj : j ∉ ks) (w : Tab.wf {} s.flows = true) :
    (ks.foldl (openWindow sym) s).time = s.time ∧ Tab.wf {} (ks.foldl (openWindow sym) s).flows = true ∧
    flowOf (ks.foldl (openWindow sym) s) j = flowOf s j := by
  refine List.foldlRecOn (motive := fun t : State => t.time = s.time ∧ Tab.wf {} t.flows = true ∧ flowOf t j = flowOf s j) _ _ ⟨rfl, w, rfl⟩ ?_
  intro t ⟨htime, hwf, hflow⟩ k hk
  obtain ⟨ktime, kwf, kflow⟩ := openWindow_keeps sym t k
  exact ⟨ktime.trans htime, kwf hwf, (kflow j fun hjk => hj (hjk ▸ hk)).trans hflow⟩

/-- At the air end of a symbol + L, a window that no packet has opened opens (R221). -/
theorem openWindow_opens {s : State} {j sym : Nat} (hk : (flowOf s j).cfg.kind = 0) (hs : serves (flowOf s j) sym = true) (hn : (flowOf s j).nextRel ≤ sym)
    (he : airEnd s.time (flowOf s j).cfg.scs sym + (flowOf s j).cfg.lmax ≤ now s) (ho : (Tab.get {} (flowOf s j).syms sym).opened = none) :
    openWindow sym s j = updFlow s j fun x => { x with syms := Tab.upd {} x.syms sym fun y =>
      { y with opened := some (airEnd s.time (flowOf s j).cfg.scs sym + (flowOf s j).cfg.lmax) } } := by
  simp only [openWindow, hk, hs, hn, he, ho, decide_true, Bool.and_true, Option.isNone_none, if_true]

/-- Where a window opens for a key, the symbol's window is open and the flow's next symbol the same, whatever the other keys do. -/
theorem foldl_openWindow_opens {s : State} {ks : List Nat} {j sym : Nat} (w : Tab.wf {} s.flows = true) (hks : ks.Nodup) (hj : j ∈ ks)
    (hk : (flowOf s j).cfg.kind = 0) (hs : serves (flowOf s j) sym = true) (hn : (flowOf s j).nextRel ≤ sym)
    (he : airEnd s.time (flowOf s j).cfg.scs sym + (flowOf s j).cfg.lmax ≤ now s) (ho : (Tab.get {} (flowOf s j).syms sym).opened = none)
    (wy : Tab.wf {} (flowOf s j).syms = true) :
    (Tab.get {} (flowOf (ks.foldl (openWindow sym) s) j).syms sym).opened = some (airEnd s.time (flowOf s j).cfg.scs sym + (flowOf s j).cfg.lmax) ∧
    (flowOf (ks.foldl (openWindow sym) s) j).nextRel = (flowOf s j).nextRel := by
  obtain ⟨before, after, rfl⟩ := List.append_of_mem hj
  obtain ⟨-, hafter, hdisj⟩ := List.nodup_append.1 hks
  have hbefore : j ∉ before := fun hb => hdisj j hb j (List.mem_cons_self) rfl
  obtain ⟨htime, hwf, hflow⟩ := foldl_openWindow_keeps sym s before hbefore w
  rw [List.foldl_append, List.foldl_cons]
  generalize before.foldl (openWindow sym) s = u at htime hwf hflow
  have hopens := openWindow_opens (s := u) (j := j) (sym := sym) (by rw [hflow, hk]) (by rw [hflow, hs]) (by rw [hflow]; exact hn)
    (by rw [hflow, htime, now_congr htime]; exact he) (by rw [hflow, ho])
  obtain ⟨-, -, hkept⟩ := foldl_openWindow_keeps sym (openWindow sym u j) after (List.nodup_cons.1 hafter).1 ((openWindow_keeps sym u j).2.1 hwf)
  rw [hkept, hopens, flowOf_updFlow hwf, hflow, htime]
  exact ⟨by rw [Tab.get_upd_same wy], rfl⟩

section
variable {s : State} {j sym : Nat} (hk : (flowOf s j).cfg.kind = 0) (hn : sym = (flowOf s j).nextRel)
  (ho : (Tab.get {} (flowOf s j).syms sym).opened ≠ none) (hd : (Tab.get {} (flowOf s j).syms sym).done = none)
include hk hn ho hd

/-- At its close the flow's next symbol is released, and those that are due after it (R221). -/
theorem closeWindow_releases (hs : serves (flowOf s j) sym = true) (h : openTime s.time (flowOf s j) sym + (flowOf s j).cfg.win ≤ now s) :
    closeWindow sym s j = pumpRelease (releaseOne s j (max (openTime s.time (flowOf s j) sym + (flowOf s j).cfg.win) (flowOf s j).lastRel) true) j
      (now s) (flowOf s j).syms.length := by
  subst hn
  simp only [closeWindow, hk, decide_true, Bool.and_self, if_true]
  exact pumpRelease_releases hs (releaseTime_open ho hd) h _

/-- Before its close it is not. -/
theorem closeWindow_waits (h : now s < openTime s.time (flowOf s j) sym + (flowOf s j).cfg.win) : closeWindow sym s j = s := by
  subst hn
  simp only [closeWindow, hk, decide_true, Bool.and_self, if_true]
  refine pumpRelease_waits (fun r c hr => ?_) _
  rw [releaseTime_open ho hd, Option.some.injEq, Prod.mk.injEq] at hr
  exact hr.1 ▸ h

end

/-! ### The squeeze unit (R227) -/

/-- Only where no symbol waits is none released first. -/
theorem firstReleased_eq_none {l : List Released} (h : firstReleased l = none) : l = [] := by
  cases l with
  | nil => rfl
  | cons y l =>
    rw [firstReleased] at h
    split at h
    · split at h <;> contradiction
    · contradiction

/-- The symbol released first is among those released, and none was released before it. -/
theorem firstReleased_least {l : List Released} {r : Released} (h : firstReleased l = some r) : r ∈ l ∧ ∀ x ∈ l, r.tRel ≤ x.tRel := by
  induction l generalizing r with
  | nil => contradiction
  | cons y l ih =>
    rw [firstReleased] at h
    split at h
    case h_1 x hx =>
      obtain ⟨hmem, hmin⟩ := ih hx
      split at h
      case isTrue hlt =>
        obtain rfl : x = r := Option.some.inj h
        exact ⟨List.mem_cons_of_mem _ hmem, List.forall_mem_cons.2 ⟨Nat.le_of_lt hlt, hmin⟩⟩
      case isFalse hle =>
        obtain rfl : y = r := Option.some.inj h
        exact ⟨List.mem_cons_self, List.forall_mem_cons.2 ⟨Nat.le_refl _, fun z hz => Nat.le_trans (Nat.not_lt.1 hle) (hmin z hz)⟩⟩
    case h_2 hnone =>
      obtain rfl : y = r := Option.some.inj h
      rw [firstReleased_eq_none hnone]
      exact ⟨List.mem_cons_self, by simp⟩

/-- SQUEEZE_CONVERSION while the fronthaul has its clock. -/
theorem exec_squeezeConversion {s : State} (hc : noClock s 1 = false) :
    exec .squeezeConversion s = .next (match firstReleased s.released with | some r => convert s r | none => s) := by
  change execSqueezeConversion s = _
  rw [execSqueezeConversion, if_neg (by simp [hc])]
  cases firstReleased s.released <;> rfl

/-- Settles O39: frames as they arrive, packets as they are staged, windows as they open and close, conversions in order of release. -/
theorem fronthaulIngest : Obligations.FronthaulIngest := by
  unfold Obligations.FronthaulIngest
  refine ⟨fun s l fcs f w => ⟨fun h => exec_frameReceive_deaf h fcs f, fun hh hc => ⟨?badFcs, ?goodFcs⟩⟩, ?staging, ?windowOpen,
    fun s k sym hc => ⟨?windowClose, ?closes⟩, fun s hc => ⟨fun h => ?nothingReleased, fun r hr => ?converts⟩⟩
  case badFcs =>
    rintro rfl
    exact ⟨_, exec_frameReceive_badFcs hh hc, by rw [lportOf_countPort w], rfl⟩
  case goodFcs =>
    rintro rfl
    refine ⟨fun m => exec_frameReceive_ptp hh hc, fun ql => exec_frameReceive_esmc hh hc,
      fun hb => ⟨_, exec_frameReceive_other hh hc hb, by rw [lportOf_countPort w], rfl⟩, fun m hb => ?_⟩
    rw [exec_frameReceive_ecpri hh hc hb]
    refine ⟨fun h2 => ?cplane, fun h0 h2 => ?other, fun h0 hf => ?unmatched, fun h0 k stream hf => ?matched⟩
    case cplane => exact ⟨_, congrArg _ (ecpriFrame_cplane h2), congrArg LPort.cplane (lportOf_countPort (s := draw s) w), rfl⟩
    case other => exact ⟨_, congrArg _ (ecpriFrame_other h0 h2), congrArg LPort.other (lportOf_countPort (s := draw s) w), rfl⟩
    case unmatched =>
      rw [ecpriFrame_unmatched (s := draw s) h0 hf, draw_flows]
      refine ⟨_, rfl, ?_⟩
      split
      · exact ⟨rfl, congrArg LPort.unmatched (lportOf_countPort (s := draw s) w)⟩
      · exact ⟨rfl, congrArg LPort.noflow (lportOf_countPort (s := draw s) w)⟩
    case matched =>
      rw [ecpriFrame_matched (s := draw s) h0 hf]
      refine ⟨fun h => by rw [flowPacket_closed (s := draw s) h],
        fun ht h3 => ⟨fun c hm => ?malformed, fun hm hk _ => ⟨fun hd => ?staged, fun hd => ?dead⟩⟩⟩
      case malformed =>
        rw [flowPacket_malformed (s := draw s) ht h3 hm]
        rfl
      case staged =>
        rw [flowPacket_wellFormed (s := draw s) ht h3 hm hk]
        exact congrArg _ (if_neg (Nat.not_lt.2 hd))
      case dead =>
        rw [flowPacket_wellFormed (s := draw s) ht h3 hm hk]
        exact congrArg _ (if_pos hd)
  case staging =>
    intro s k stream sym ts xs w f t count wc wy
    refine ⟨fun he => ?early, fun he => ⟨fun h => ?late, fun hn hs hw hb => ?accepted⟩⟩
    case early =>
      have ht : t = _ := stagePacket_early he
      unfold count
      rw [ht, flowOf_updFlow w]
      exact ⟨cnt_bump wc 2 1, rfl⟩
    case late =>
      have ht : t = _ := stagePacket_late he h
      unfold count
      rw [ht, flowOf_updFlow w]
      exact ⟨cnt_bump wc 1 1, rfl⟩
    case accepted =>
      obtain ⟨dups, z, hz, ht⟩ := stagePacket_accepts (stream := stream) (xs := xs) he hn hs hw hb
      change t = _ at ht
      constructor
      · unfold count
        rw [ht, pumpRelease_cnt (wf_updFlow w), flowOf_updFlow w]
        exact acceptPacket_cnt dups z wc
      · intro hlt hr
        have hkept : flowOf (updFlow s k (acceptPacket dups sym z)) k = acceptPacket dups sym z f := flowOf_updFlow w
        rw [ht, pumpRelease_waits, hkept, acceptPacket_syms dups z wy, hz]
        intro r c
        rw [hkept]
        exact fun hrc => hr r c ((releaseTime_acceptPacket dups z s.time (Nat.ne_of_lt hlt)).symm.trans hrc)
  case windowOpen =>
    intro s k j sym w hc hj f e hk hs hn he ho wy
    change ∃ t, execWindowOpen k sym s = .next t ∧ _
    have hks : (keysOf s k.val).Nodup := (Tab.keys_nodup w).filter _
    exact ⟨_, by rw [execWindowOpen, if_neg (by simp [hc])], foldl_openWindow_opens w hks hj hk hs hn he ho wy⟩
  case windowClose =>
    change execWindowClose k sym s = _
    rw [execWindowClose, if_neg (by simp [hc])]
  case closes =>
    intro j f close t hk hn hs ho hd
    refine ⟨fun hclose => ⟨closeWindow_releases hk hn ho hd hs hclose, ?_⟩, closeWindow_waits hk hn ho hd⟩
    obtain ⟨r, hrel, hflow, hsym, hclosed, htime⟩ := releaseOne_released s j (max close f.lastRel) true
    exact ⟨r, hrel, hflow, hsym.trans hn.symm, hclosed, htime⟩
  case nothingReleased =>
    rw [exec_squeezeConversion hc, h]
    rfl
  case converts =>
    refine ⟨firstReleased_least hr, ?_⟩
    rw [exec_squeezeConversion hc, hr]
    rfl

end Sys2Proof.Machine
end

section
/-!
PROOFS. DEC tasks: submission, the choice of a task and of a unit, HARQ combination, the ends of a decode and of an encode.
-/
namespace Sys2Proof.Machine

/-! ### The choice of a task (R248) -/

/-- Queue entry x goes before entry y: its job deadline is no later, and at the same deadline it was submitted no later. -/
def GoesFirst (x y : Nat × Task) : Prop := x.2.deadline ≤ y.2.deadline ∧ (y.2.deadline = x.2.deadline → x.1 ≤ y.1)

/-- An entry goes before itself. -/
theorem GoesFirst.refl (x : Nat × Task) : GoesFirst x x := ⟨Nat.le_refl _, fun _ => Nat.le_refl _⟩

/-- The order of the queue is transitive. -/
theorem GoesFirst.trans {x y z : Nat × Task} (hxy : GoesFirst x y) (hyz : GoesFirst y z) : GoesFirst x z := by
  obtain ⟨hxy, hxyi⟩ := hxy
  obtain ⟨hyz, hyzi⟩ := hyz
  exact ⟨Nat.le_trans hxy hyz, fun h => Nat.le_trans (hxyi (by omega)) (hyzi (by omega))⟩

/-- Of two entries in submission order, the one that `earlier` keeps goes before both. -/
theorem earlier_goesFirst {x e : Nat × Task} (h : x.1 < e.1) :
    ∃ y, earlier (some x) e = some y ∧ (y = x ∨ y = e) ∧ GoesFirst y x ∧ GoesFirst y e := by
  by_cases hd : e.2.deadline < x.2.deadline
  · exact ⟨e, if_pos hd, .inr rfl, ⟨Nat.le_of_lt hd, fun h => by omega⟩, .refl e⟩
  · exact ⟨x, if_neg hd, .inl rfl, .refl x, ⟨Nat.not_lt.1 hd, fun _ => Nat.le_of_lt h⟩⟩

/-- Over entries in submission order, the choice from x on is one of them, and goes before them all. -/
theorem foldl_earlier_some {x r : Nat × Task} {l : List (Nat × Task)} (ho : (x :: l).Pairwise (·.1 < ·.1))
    (h : l.foldl earlier (some x) = some r) : r ∈ x :: l ∧ ∀ y ∈ x :: l, GoesFirst r y := by
  induction l generalizing x with
  | nil =>
    obtain rfl : x = r := Option.some.inj h
    exact ⟨List.mem_cons_self, List.forall_mem_cons.2 ⟨.refl x, by simp⟩⟩
  | cons e l ih =>
    obtain ⟨hx, ho⟩ := List.pairwise_cons.1 ho
    obtain ⟨he, hl⟩ := List.pairwise_cons.1 ho
    obtain ⟨hxe, hxl⟩ := List.forall_mem_cons.1 hx
    obtain ⟨y, hy, hyxe, hyx, hye⟩ := earlier_goesFirst hxe
    have hyl : ∀ z ∈ l, y.1 < z.1 := by rcases hyxe with rfl | rfl <;> assumption
    rw [List.foldl_cons, hy] at h
    obtain ⟨hmem, hfirst⟩ := ih (List.pairwise_cons.2 ⟨hyl, hl⟩) h
    obtain ⟨hry, hrl⟩ := List.forall_mem_cons.1 hfirst
    refine ⟨?_, List.forall_mem_cons.2 ⟨hry.trans hyx, List.forall_mem_cons.2 ⟨hry.trans hye, hrl⟩⟩⟩
    rcases List.mem_cons.1 hmem with rfl | hmem
    · rcases hyxe with rfl | rfl <;> simp
    · simp [hmem]

/-- The choice among entries in submission order is one of them, and goes before them all. -/
theorem foldl_earlier_goesFirst {r : Nat × Task} {l : List (Nat × Task)} (ho : l.Pairwise (·.1 < ·.1)) (h : l.foldl earlier none = some r) :
    r ∈ l ∧ ∀ y ∈ l, GoesFirst r y := by
  cases l with
  | nil => contradiction
  | cons x l => exact foldl_earlier_some ho h

/-- The numbered entries of a list are its places with what stands there. -/
theorem mem_range_zip {α : Type} {l : List α} {i : Nat} {a : α} : (i, a) ∈ (List.range l.length).zip l ↔ l[i]? = some a := by
  constructor
  · intro h
    obtain ⟨j, hj⟩ := List.mem_iff_getElem?.1 h
    obtain ⟨hji, hja⟩ := List.getElem?_zip_eq_some.1 hj
    obtain ⟨hlt, hval⟩ := List.getElem?_eq_some_iff.1 hji
    have hij : j = i := (List.getElem_range hlt).symm.trans hval
    exact hij ▸ hja
  · intro h
    obtain ⟨hi, -⟩ := List.getElem?_eq_some_iff.1 h
    exact List.mem_iff_getElem?.2 ⟨i, List.getElem?_zip_eq_some.2 ⟨by simp [hi], h⟩⟩

/-- The numbers of the entries of a list rise. -/
theorem range_zip_rises {α : Type} (l : List α) : ((List.range l.length).zip l).Pairwise (·.1 < ·.1) := by
  rw [← List.pairwise_map (f := Prod.fst), List.map_fst_zip (by simp)]
  exact List.pairwise_lt_range

/-- The task chosen is queued, of the kind asked for and may start, and goes before every other such task (R248). -/
theorem nextTask_goesFirst {s : State} {op i : Nat} {t : Task} (h : nextTask s op = some (i, t)) :
    s.dec.queue[i]? = some t ∧ tf t.words 0 31 28 = op ∧ canStart s i t = true ∧
      ∀ j u, s.dec.queue[j]? = some u → tf u.words 0 31 28 = op → canStart s j u = true → GoesFirst (i, t) (j, u) := by
  obtain ⟨hmem, hfirst⟩ := foldl_earlier_goesFirst ((range_zip_rises _).filter _) h
  simp only [List.mem_filter, Bool.and_eq_true, decide_eq_true_eq] at hmem
  obtain ⟨hq, hop, hc⟩ := hmem
  refine ⟨mem_range_zip.1 hq, hop, hc, fun j u hu hop hc => hfirst _ ?_⟩
  simpa [hop, hc] using mem_range_zip.2 hu

/-! ### The choice of a unit (R248, R256) -/

/-- Is unit u free at distance `at_`, and in service? -/
def placeFree (s : State) (at_ u : Nat) : Prop := Tab.get none s.dec.run (u + at_) = none ∧ (unitOf s (decUnit u)).state ≤ 1

/-- The test of `freePlace`. -/
theorem placeFree_iff {s : State} {at_ u : Nat} :
    ((Tab.get none s.dec.run (u + at_)).isNone && decide ((unitOf s (decUnit u)).state ≤ 1)) = true ↔ placeFree s at_ u := by
  rw [placeFree, Bool.and_eq_true, Option.isNone_iff_eq_none, decide_eq_true_iff]

/-- The place found is that of the first unit that is free and in service. -/
theorem freePlace_first {s : State} {lo n at_ p : Nat} (h : freePlace s lo n at_ = some p) :
    ∃ u, p = u + at_ ∧ lo ≤ u ∧ u < lo + n ∧ placeFree s at_ u ∧ ∀ v, lo ≤ v → v < u → ¬placeFree s at_ v := by
  rw [freePlace, ← List.range'_eq_map_range] at h
  obtain ⟨u, hu, rfl⟩ := Option.map_eq_some_iff.1 h
  obtain ⟨hfree, hmem, hleast⟩ := List.find?_range'_eq_some.1 hu
  obtain ⟨hlo, hhi⟩ := List.mem_range'_1.1 hmem
  exact ⟨u, rfl, hlo, hhi, placeFree_iff.1 hfree, fun v hv hvu => mt placeFree_iff.2 (Bool.eq_false_iff.1 (Bool.not_eq_true' _ ▸ hleast v hv hvu))⟩

/-- Where no place is found no unit is free and in service. -/
theorem freePlace_none {s : State} {lo n at_ : Nat} (h : freePlace s lo n at_ = none) {v : Nat} (hlo : lo ≤ v) (hhi : v < lo + n) :
    ¬placeFree s at_ v := by
  rw [freePlace, ← List.range'_eq_map_range, Option.map_eq_none_iff, List.find?_range'_eq_none] at h
  exact mt placeFree_iff.2 (Bool.eq_false_iff.1 (Bool.not_eq_true' _ ▸ h v hlo hhi))

/-! ### A unit after its task (R256) -/

section
variable {run : Tab (Option RunTask)} (u : Nat)

/-- A unit freed runs the task that was behind it, if there was one. -/
theorem takeOff_unit (w : Tab.wf none run = true) : Tab.get none (takeOff run u) u = Tab.get none run (u + 32) := by
  cases h : Tab.get none run (u + 32) with
  | none => rw [takeOff, h, Tab.get_put_same _ _ _ _ w]
  | some r => rw [takeOff, h, Tab.get_put_other _ _ _ (by omega), Tab.get_put_same _ _ _ _ w]

/-- Behind a unit freed there is no task. -/
theorem takeOff_behind (w : Tab.wf none run = true) : Tab.get none (takeOff run u) (u + 32) = none := by
  cases h : Tab.get none run (u + 32) with
  | none => rw [takeOff, h, Tab.get_put_other _ _ _ (by omega), h]
  | some r => rw [takeOff, h, Tab.get_put_same _ _ _ _ (Tab.wf_put w)]

/-- The other units, and the tasks behind them, are as before. -/
theorem takeOff_other {v : Nat} (hu : v ≠ u) (hb : v ≠ u + 32) : Tab.get none (takeOff run u) v = Tab.get none run v := by
  cases h : Tab.get none run (u + 32) with
  | none => rw [takeOff, h, Tab.get_put_other _ _ _ hu]
  | some r => rw [takeOff, h, Tab.get_put_other _ _ _ hb, Tab.get_put_other _ _ _ hu]

end

/-! ### HARQ combination (R251) -/

/-- A combination fills the circular buffer with clamped values; its scale is limited as well. -/
theorem combine_bounds (ncb : Nat) (b : List Int) (h sc : Nat) (walk : List Nat) (e qm : Nat) (qs : List Int) :
    let r := combine ncb b h sc walk e qm qs
    r.1.length = ncb ∧ (∀ x ∈ r.1, -127 ≤ x ∧ x ≤ 127) ∧ r.2 ≤ 254 := by
  intro r
  refine ⟨by simp [r, combine], fun x hx => ?_, Int.toNat_le.2 (Int.min_le_right _ _)⟩
  obtain ⟨y, -, rfl⟩ := List.mem_map.1 hx
  exact clamp_mem (by decide)

/-! ### Submission, starts and ends (R248, R255, R257, R264, R271) -/

/-- An ENCODE task ends on place u: its codeword is written, its unit is free, and its cairn is signalled (R246, R264). -/
def endEncode (s : State) (u : Nat) (r : RunTask) : State :=
  let ws := r.task.words
  let b := readBits s (taddr ws 4 6 7 0) (wordAt ws 1)
  let t := writeBits b.2 (taddr ws 5 6 15 8) 0 (codeword ws b.1)
  taskCairn { t with dec := { t.dec with run := Tab.put none t.dec.run u none } } r.task

/-- Without a task that may start, or a pair to take it, no decode starts. -/
theorem exec_decodeTaskStart_waits {s : State} (h : nextTask s 1 = none ∨ freePair s = none) : exec .decodeTaskStart s = .next s := by
  change execDecodeTaskStart s = _
  rcases h with h | h <;> simp [execDecodeTaskStart, h]

/-- Without a task that may start, or a unit to take it, no encode starts. -/
theorem exec_encodeTaskStart_waits {s : State} (h : nextTask s 2 = none ∨ freePlace s 16 4 0 = none) : exec .encodeTaskStart s = .next s := by
  change execEncodeTaskStart s = _
  rcases h with h | h <;> simp [execEncodeTaskStart, h]

section
variable {s : State} (hc : noClock s 1 = false)
include hc

/-- A chamber's write of the high word goes to its context's window, or is denied (R21, R23, R271). -/
theorem exec_decSubmit (ch : Fin 144) (hi : Word) :
    let a := 0x1806000000 + 0x1000 * (coreOf s ch.val).ctx + 4
    exec (.decSubmit ch hi) s = .next (if csrGranted s ch.val a then chmWrote ch a (csrWrite s (.chamber ch) a hi) else chmRefused s ch 6 a) := by
  intro a
  change execDecSubmit ch hi s = _
  rw [execDecSubmit, if_neg (by simp [hc])]
  exact congrArg _ (apply_ite (chmWrote ch a) _ _ _)

/-- A decode starts on its unit, its HARQ buffer combined (R248, R251). -/
theorem exec_decodeTaskStart {i u : Nat} {t : Task} (ht : nextTask s 1 = some (i, t)) (hu : freePair s = some u) :
    exec .decodeTaskStart s = .next (runTask (combineTask s t).2 i u (combineTask s t).1) := by
  change execDecodeTaskStart s = _
  simp [execDecodeTaskStart, hc, ht, hu]

/-- An encode starts on its unit (R248, R264). -/
theorem exec_encodeTaskStart {i u : Nat} {t : Task} (ht : nextTask s 2 = some (i, t)) (hu : freePlace s 16 4 0 = some u) :
    exec .encodeTaskStart s = .next (runTask s i u { task := t }) := by
  change execEncodeTaskStart s = _
  simp [execEncodeTaskStart, hc, ht, hu]

/-- The end of a decode, on a unit that runs one (R255, R257). -/
theorem exec_decodeTaskEnd (u : Fin 16) :
    exec (.decodeTaskEnd u) s = .next (match Tab.get none s.dec.run u.val with | some r => endDecode s u.val r | none => s) := by
  change execDecodeTaskEnd u s = _
  rw [execDecodeTaskEnd, if_neg (by simp [hc])]
  cases Tab.get none s.dec.run u.val <;> rfl

/-- The end of an encode, on a unit that runs one (R264). -/
theorem exec_encodeTaskEnd (u : Fin 4) :
    exec (.encodeTaskEnd u) s =
      .next (match Tab.get none s.dec.run (16 + u.val) with | some r => endEncode s (16 + u.val) r | none => s) := by
  change execEncodeTaskEnd u s = _
  rw [execEncodeTaskEnd, if_neg (by simp [hc])]
  cases Tab.get none s.dec.run (16 + u.val) <;> rfl

end

/-- Settles O42: the commands while the block has its clock, then the choices, the unit freed and the combination. -/
theorem decodeTasks : Obligations.DecodeTasks := by
  unfold Obligations.DecodeTasks
  refine ⟨fun s hc => ⟨fun ch hi => ⟨fun hg => ?granted, fun hg => ?denied⟩, fun i t u => exec_decodeTaskStart hc, exec_decodeTaskStart_waits,
      exec_encodeTaskStart_waits, fun u hu => ?encodeIdle, fun i t u => exec_encodeTaskStart hc, fun u r hu => ?decodeEnds, fun u hu => ?decodeIdle,
      fun u r hu => ?encodeEnds⟩,
    fun s op i t => nextTask_goesFirst, fun s lo n at_ p => ⟨freePlace_first, fun h v => freePlace_none h⟩, fun s => rfl,
    fun run u w => ⟨takeOff_unit u w, fun v => takeOff_other u, takeOff_behind u w⟩, combine_bounds⟩
  case granted => exact (exec_decSubmit hc ch hi).trans (congrArg _ (if_pos hg))
  case denied => exact (exec_decSubmit hc ch hi).trans (congrArg _ (if_neg (by simp [hg])))
  case encodeIdle => rw [exec_encodeTaskEnd hc, hu]
  case decodeEnds => rw [exec_decodeTaskEnd hc, hu]
  case decodeIdle => rw [exec_decodeTaskEnd hc, hu]
  case encodeEnds =>
    rw [exec_encodeTaskEnd hc, hu]
    rfl

end Sys2Proof.Machine
end

section
/-!
PROOFS. Echo packets: the look, the sync word, the length field, the end of a packet, capture.
-/
namespace Sys2Proof.Machine

/-! ### Channels, codes and detections -/

/-- A channel reads as it was changed. -/
theorem echOf_updEch {s : State} {k : Nat} {f : Ech → Ech} (w : Tab.wf {} s.echs = true) : echOf (updEch s k f) k = f (echOf s k) :=
  Tab.get_upd_same w

/-- A count of steps stays within the steps tried. -/
theorem stepsBelow_le (x d n : Nat) : stepsBelow x d n ≤ n := by
  induction n with
  | zero => exact Nat.le_refl 0
  | succ n ih =>
    rw [stepsBelow]
    split
    · exact Nat.le_refl _
    · exact Nat.le_succ_of_le ih

/-- An RSSI code is at most 254 (R281). -/
theorem rssiCode_le (sfmt power count : Nat) : rssiCode sfmt power count ≤ 254 := by
  unfold rssiCode
  split
  · exact Nat.le_refl _
  · exact stepsBelow_le _ _ _

/-- A preamble below quality, or weaker than the threshold, is no detection (R280). -/
theorem detects_false {s : State} {h : Ech} {n pos : Nat} {m : PreambleMeas}
    (hm : matching h.cfg m.bits < h.cfg.qmin ∨ threshold h n < Int.ofNat m.code) : detects s h n m pos = false := by
  simp only [detects, Bool.and_eq_false_iff, decide_eq_false_iff_not]
  rcases hm with hq | ht
  · exact .inl (.inr (Nat.not_le.2 hq))
  · exact .inr (Int.not_le.2 ht)

/-- A channel that nothing waits for goes back to search (R280, R285). -/
theorem settleEch_search {h : Ech} (hd : h.disPend = false) (hp : h.pend = none) : settleEch h = { h with state := 1, need := 0, got := [] } := by
  simp [settleEch, hd, hp]

/-! ### Commands of the echo bank, on a channel that has its clock -/

section
variable {k : Fin 4096} {s : State} (hc : noClock s 1 = false)
include hc

/-- A preamble detected in search starts the look, a stronger one in a look starts it anew (R280). -/
theorem exec_preambleDetection (m : PreambleMeas) (pos : Nat) :
    let h := echOf s k.val
    exec (.preambleDetection k m pos) s =
      .next (if (h.state = 1 ∨ h.state = 2 ∧ m.code < h.code ∧ h.at_ < pos) ∧ detects s h (noiseNow s h) m pos = true
        then updEch (draw s) k.val (startLook m pos (noiseNow s h)) else s) := by
  change execPreambleDetection k m pos s = _
  rw [apply_ite Host.Outcome.next]
  simp [execPreambleDetection, hc, and_assoc]

/-- A look whose symbols have passed is counted as missed and settles (R280). -/
theorem exec_syncMiss :
    let h := echOf s k.val
    exec (.syncMiss k) s =
      .next (if h.state = 2 ∧ passed s h (h.at_ + 1) (h.cfg.plen + 8) (estreamOf s h.cfg.stream).pos = true
        then updEch s k.val fun x => settleEch { x with cnt := Tab.upd 0 x.cnt 2 (· + 1) } else s) := by
  change execSyncMiss k s = _
  rw [apply_ite Host.Outcome.next]
  simp [execSyncMiss, hc]

/-- A sync word in the look latches its measurements and starts the packet (R281). -/
theorem exec_syncWordFound {m : SyncMeas} {g : NbSeg} :
    let h := echOf s k.val
    let e := estreamOf s h.cfg.stream
    segAt e m.pos = some g →
    exec (.syncWordFound k m) s =
      .next (if h.state = 2 ∧ syncDiff h.cfg m.word ≤ h.cfg.swerr ∧ inLook s h m.pos = true
        then updEch s k.val fun x =>
          { x with state := 3, at_ := m.pos, rssi := rssiCode e.sfmt m.power m.count, swdiff := syncDiff h.cfg m.word, got := [],
                   tsync := syncTime e g.ts (m.pos - g.start), need := if x.cfg.lmode = 0 then x.cfg.len else 0 } else s) := by
  intro h e hg
  change execSyncWordFound k m s = _
  rw [apply_ite Host.Outcome.next]
  simp [execSyncWordFound, hc, h, e, hg, and_assoc]

/-- The length bytes are there: a length in range sets what is still needed, one outside ends the packet BAD_LENGTH (R284). -/
theorem exec_lengthField {syms : List SymDec} :
    let h := echOf s k.val
    let soft := syms.flatMap (softBits h.cfg.lev)
    let bs := bytesOfBits h.cfg.bitord (bodyBits h.cfg soft false) h.cfg.lmode
    let n := Int.ofNat (beNat bs) + h.cfg.lofs
    h.state = 3 → h.need = 0 → dueBy s h (estreamOf s h.cfg.stream).pos = true → lengthSoft h.cfg ≤ soft.length →
    exec (.lengthField k syms) s =
      .next (if 1 ≤ n ∧ n ≤ Int.ofNat h.cfg.len then updEch s k.val fun x => { x with need := n.toNat, got := bs.take n.toNat }
        else updEch (endPacket (draw s) k.val 2 bs (Config.echoOffset s.free)) k.val settleEch) := by
  intro h soft bs n h3 h0 hd hl
  change execLengthField k syms s = _
  rw [apply_ite Host.Outcome.next, execLengthField, if_neg (by simp [hc])]
  refine if_pos ?_
  simp only [Bool.and_eq_true, decide_eq_true_eq]
  exact ⟨⟨⟨h3, h0⟩, hl⟩, hd⟩

/-- A payload complete by now ends its packet OK (R285, R286). -/
theorem exec_packetEnd (syms : List SymDec) (ferr : BitVec 16) :
    let h := echOf s k.val
    let soft := syms.flatMap (softBits h.cfg.lev)
    exec (.packetEnd k syms ferr) s =
      .next (if (h.state = 3 ∧ h.need ≠ 0 ∧ dueBy s h (estreamOf s h.cfg.stream).pos = true) ∧ soft.length = bodySoft h
        then updEch (endPacket s k.val 0 (h.got ++ (bytesOfBits h.cfg.bitord (bodyBits h.cfg soft true) h.need).drop h.got.length) ferr) k.val settleEch
        else s) := by
  change execPacketEnd k syms ferr s = _
  rw [apply_ite Host.Outcome.next]
  simp [execPacketEnd, completeBy, hc, and_assoc]

/-- A preamble stronger by capm, before the packet is complete, cuts it short; the look of the new one begins unless something waits
(R287 to R289). -/
theorem exec_capture (m : PreambleMeas) (pos : Nat) :
    let h := echOf s k.val
    let t := cutPacket s k.val 1 (pos + 1)
    exec (.capture k m pos) s =
      .next (if (h.state = 3 ∧ h.cfg.capm ≠ 0 ∧ h.at_ < pos ∧ detects s h h.noise m pos = true) ∧ h.cfg.capm + m.code ≤ h.rssi ∧
          dueBy s h (pos + 1) = false
        then if h.pend = none ∧ h.disPend = false then updEch t k.val (startLook m pos h.noise) else t
        else s) := by
  change execCapture k m pos s = _
  rw [apply_ite Host.Outcome.next]
  simp [execCapture, hc, and_assoc]

end

/-- Settles O41, command by command: what starts it, and that it changes nothing otherwise. -/
theorem echoPackets : Obligations.EchoPackets := by
  unfold Obligations.EchoPackets
  intro k s w hc
  dsimp only
  refine ⟨fun m pos => ⟨fun hs hd => ?looks, fun hm => ?noDetection, fun h2 hle => ?notStronger⟩, fun h2 hp hdis hpend hcnt => ?missed,
    fun hp => ?stillLooking, fun m g hg h2 => ⟨fun hle hin => ?found, fun hno => ?notFound⟩,
    fun syms h3 h0 hd hl => ⟨fun h1 hle => ?lengthGood, fun hout => ?lengthBad⟩,
    fun syms ferr h3 h0 hl => ⟨fun hd => ?complete, fun hd => ?incomplete⟩,
    fun m pos h3 hd hat => ⟨fun hon hstrong hdue => ⟨fun hpend hdis => ?captures, fun hdis => ?capturesLast⟩, fun hno => ?notCaptured⟩⟩
  case looks => exact ⟨_, (exec_preambleDetection hc m pos).trans (congrArg _ (if_pos ⟨hs, hd⟩)), echOf_updEch w⟩
  case noDetection =>
    refine (exec_preambleDetection hc m pos).trans (congrArg _ (if_neg ?_))
    simp [detects_false hm]
  case notStronger =>
    refine (exec_preambleDetection hc m pos).trans (congrArg _ (if_neg ?_))
    simp [h2, Nat.not_lt.2 hle]
  case missed =>
    refine ⟨_, (exec_syncMiss hc).trans (congrArg _ (if_pos ⟨h2, hp⟩)), ?_⟩
    rw [echOf_updEch w, settleEch_search]
    · exact ⟨rfl, Tab.get_upd_same (f := (· + 1)) hcnt, rfl⟩
    · exact hdis
    · exact hpend
  case stillLooking =>
    refine (exec_syncMiss hc).trans (congrArg _ (if_neg ?_))
    simp [hp]
  case found =>
    refine ⟨_, (exec_syncWordFound hc hg).trans (congrArg _ (if_pos ⟨h2, hle, hin⟩)), ?_⟩
    rw [echOf_updEch w]
    exact ⟨rfl, rfl, rssiCode_le _ _ _, rfl, rfl, rfl, rfl⟩
  case notFound =>
    refine (exec_syncWordFound hc hg).trans (congrArg _ (if_neg ?_))
    rintro ⟨-, hle, hin⟩
    rcases hno with hlt | hin'
    · exact Nat.not_le.2 hlt hle
    · exact Bool.noConfusion (hin.symm.trans hin')
  case lengthGood => exact ⟨_, (exec_lengthField hc h3 h0 hd hl).trans (congrArg _ (if_pos ⟨h1, hle⟩)), echOf_updEch w⟩
  case lengthBad =>
    refine (exec_lengthField hc h3 h0 hd hl).trans (congrArg _ (if_neg ?_))
    rintro ⟨h1, hle⟩
    exact hout.elim (Int.not_lt.2 h1) (Int.not_lt.2 hle)
  case complete => exact (exec_packetEnd hc syms ferr).trans (congrArg _ (if_pos ⟨⟨h3, h0, hd⟩, hl⟩))
  case incomplete =>
    refine (exec_packetEnd hc syms ferr).trans (congrArg _ (if_neg ?_))
    simp [hd]
  case captures =>
    refine (exec_capture hc m pos).trans (congrArg _ ((if_pos ⟨⟨h3, hon, hat, hd⟩, hstrong, hdue⟩).trans ?_))
    exact if_pos ⟨hpend, hdis⟩
  case capturesLast =>
    refine (exec_capture hc m pos).trans (congrArg _ ((if_pos ⟨⟨h3, hon, hat, hd⟩, hstrong, hdue⟩).trans (if_neg ?_)))
    simp [hdis]
  case notCaptured =>
    refine (exec_capture hc m pos).trans (congrArg _ (if_neg ?_))
    rintro ⟨⟨-, hon, -, -⟩, hstrong, hdue⟩
    rcases hno with hoff | hweak | hdue'
    · exact hon hoff
    · exact Nat.not_le.2 hweak hstrong
    · exact Bool.noConfusion (hdue'.symm.trans hdue)

end Sys2Proof.Machine
end

section
/-!
PROOFS. Steps as a whole: the queue, the commands that can stop, the state after a power-on reset.
-/
namespace Sys2Proof.Machine

/-! ### The queue (log entry 1) -/

/-- Every state is formed on its own queue, where nothing is claimed of its tables. -/
theorem Formed.ownQueue (s : State) : Formed s.pending False s := ⟨rfl, False.elim, False.elim, False.elim, False.elim, False.elim⟩

/-- Settles O60: every command keeps the queue it is given, and a step gives it the queue's rest. -/
theorem queueKept : Obligations.QueueKept := by
  unfold Obligations.QueueKept
  intro s t h
  exact (step_formed (.ownQueue s) h).pending

/-- Settles O1: the front of the queue is the command that runs. -/
theorem stepRunsFront : Obligations.StepRunsFront := by
  unfold Obligations.StepRunsFront
  intro c r s
  rw [step]

/-! ### Stops (R393, R428) -/

/-- No command is refused. -/
theorem exec_ne_refused (c : Instr) (s : State) (r : Refusal) : exec c s ≠ .refused r := by
  intro h
  have hx := exec_outFormedOrBusy c (.ownQueue s)
  rw [h] at hx
  exact hx

/-- No step is refused. -/
theorem step_ne_refused (s : State) (r : Refusal) : step s ≠ .refused r := by
  unfold step
  split
  · exact fun h => nomatch h
  · exact exec_ne_refused _ _ r

/-- A register write of the Lantern stops at CRP_BLK_RST alone. -/
theorem lanternWrite_fault {s : State} {a : Nat} {v : Word} {f : Fault} (h : lanternWrite s a v = .fault f) : a = 0x1803000008 := by
  unfold lanternWrite at h
  split at h
  · assumption
  · split at h
    · cases h
    · split at h <;> cases h

/-- A register access of the Lantern that stops writes the 32 bits of CRP_BLK_RST. -/
theorem lanternAccess_fault {s : State} {a size : Nat} {op : RegOp} {f : Fault} (h : lanternAccess s a size op = .fault f) :
    a = 0x1803000008 ∧ size = 4 ∧ ∃ w, op = .write w := by
  unfold lanternAccess at h
  split at h
  · cases h
  · split at h
    · cases h
    · next hc =>
      cases op with
      | read => cases h
      | write w =>
        simp only [Bool.or_eq_true, decide_eq_true_eq, not_or, Decidable.not_not] at hc
        exact ⟨lanternWrite_fault h, hc.1.2, w, rfl⟩

/-- A register access that stops is the Lantern's write of CRP_BLK_RST. -/
theorem execRegisterWrite_fault {who : Agent} {a size : Nat} {op : RegOp} {s : State} {f : Fault}
    (h : execRegisterWrite who a size op s = .fault f) : who = .lantern ∧ a = 0x1803000008 ∧ size = 4 ∧ ∃ w, op = .write w := by
  cases who with
  | lantern => exact ⟨rfl, lanternAccess_fault h⟩
  | chamber ch => cases op <;> cases h
  | host => cases h
  | pciConfig => cases h

/-- A command that stops is a write of CRP_BLK_RST. -/
theorem exec_fault {c : Instr} {s : State} {f : Fault} (h : exec c s = .fault f) :
    (∃ v, c = .crpBlkRst v) ∨ ∃ w, c = .registerWrite .lantern 0x1803000008 4 (.write w) := by
  cases hm : mayStop c with
  | false =>
    have hx := exec_outFormed (.ownQueue s) hm
    rw [h] at hx
    exact hx.elim
  | true =>
    unfold mayStop at hm
    split at hm
    · exact .inl ⟨_, rfl⟩
    · obtain ⟨rfl, rfl, rfl, w, rfl⟩ := execRegisterWrite_fault h
      exact .inr ⟨w, rfl⟩
    · cases hm

/-- Settles O57: every command but a write of CRP_BLK_RST answers a next state. -/
theorem nothingRefused : Obligations.NothingRefused := by
  unfold Obligations.NothingRefused
  exact ⟨exec_ne_refused, step_ne_refused, fun _ _ _ => exec_fault⟩

/-! ### The state after a power-on reset -/

/-- Settles O3: every table of the reset state is empty, so that every entry is its default. -/
theorem resetState : Obligations.ResetState := by
  unfold Obligations.ResetState
  exact ⟨rfl, rfl, rfl, rfl, rfl, rfl, rfl, rfl, fun _ => rfl, rfl, rfl, fun _ => ⟨rfl, rfl, rfl⟩, fun _ => ⟨rfl, rfl, rfl⟩, fun _ => rfl,
    fun _ => rfl, fun _ => rfl, fun _ => ⟨rfl, rfl⟩, rfl⟩

end Sys2Proof.Machine
end

section
/-!
PROOFS. The source that an arbitration chooses, and the idle step.
-/
namespace Sys2Proof.Machine

/-! ### The best source (R343, R344) -/

section
variable {v : Vic}

/-- Source n is the best of the first `nw`: eligible, and every other eligible one has a greater priority value, or the same and a greater number. -/
def isBest (v : Vic) (nw n : Nat) : Prop :=
  n < nw ∧ eligible v n = true ∧ ∀ m, m < nw → eligible v m = true → vicPrio v n < vicPrio v m ∨ (vicPrio v n = vicPrio v m ∧ n ≤ m)

/-- What is picked among the first `nw` sources: the best one, or none where none is eligible. -/
def bestOf (v : Vic) (nw : Nat) : Option Nat → Prop
  | none => ∀ m, m < nw → eligible v m = false
  | some n => isBest v nw n

/-- The best source stays the best beside one more that is not eligible or has no lower priority value. -/
theorem isBest_keeps {nw b : Nat} (h : isBest v nw b) (hp : eligible v nw = true → vicPrio v b ≤ vicPrio v nw) : isBest v (nw + 1) b := by
  obtain ⟨hlt, hel, hbest⟩ := h
  refine ⟨Nat.lt_succ_of_lt hlt, hel, fun m hm hme => ?_⟩
  rcases Nat.lt_succ_iff_lt_or_eq.1 hm with hm | rfl
  · exact hbest m hm hme
  · have := hp hme
    omega

/-- One more eligible source is the best where its priority value is lower than that of every eligible one before it. -/
theorem isBest_last {nw : Nat} (he : eligible v nw = true) (hp : ∀ m, m < nw → eligible v m = true → vicPrio v nw < vicPrio v m) :
    isBest v (nw + 1) nw := by
  refine ⟨Nat.lt_succ_self nw, he, fun m hm hme => ?_⟩
  rcases Nat.lt_succ_iff_lt_or_eq.1 hm with hm | rfl
  · exact .inl (hp m hm hme)
  · exact .inr ⟨rfl, Nat.le_refl m⟩

/-- Comparing one more source with the best so far gives the best of them all. -/
theorem betterSrc_best {nw : Nat} {b : Option Nat} (h : bestOf v nw b) : bestOf v (nw + 1) (betterSrc v b nw) := by
  unfold betterSrc
  cases he : eligible v nw with
  | false =>
    cases b with
    | none => exact fun m hm => (Nat.lt_succ_iff_lt_or_eq.1 hm).elim (h m) fun e => e ▸ he
    | some b => exact isBest_keeps h fun hn => nomatch he.symm.trans hn
  | true =>
    cases b with
    | none => exact isBest_last he fun m hm hme => nomatch (h m hm).symm.trans hme
    | some b =>
      by_cases hp : vicPrio v nw < vicPrio v b
      · simp only [Bool.not_true, Bool.false_eq_true, if_false, if_pos hp]
        obtain ⟨-, -, hall⟩ := h
        exact isBest_last he fun m hm hme => by have := hall m hm hme; omega
      · simp only [Bool.not_true, Bool.false_eq_true, if_false, if_neg hp]
        exact isBest_keeps h fun _ => Nat.not_lt.1 hp

/-- The source picked is the best; none is picked where none is eligible. -/
theorem pickSource_best (nw : Nat) : bestOf v nw (pickSource v nw) := by
  induction nw with
  | zero => exact fun m h => absurd h (Nat.not_lt_zero m)
  | succ nw ih =>
    have hstep : pickSource v (nw + 1) = betterSrc v (pickSource v nw) nw := by
      rw [pickSource, pickSource, List.range_succ, List.foldl_append]
      rfl
    rw [hstep]
    exact betterSrc_best ih

/-- A fold of steps whose result is never above the value so far nor the step's own ends below all of them. -/
theorem foldl_least {α : Type} {f : Option Nat → α → Option Nat} {val : α → Nat}
    (hf : ∀ b e, ∃ g, f b e = some g ∧ g ≤ val e ∧ ∀ x, b = some x → g ≤ x) (l : List α) (b : Option Nat) :
    (∀ x, b = some x → ∃ g, l.foldl f b = some g ∧ g ≤ x) ∧ ∀ e ∈ l, ∃ g, l.foldl f b = some g ∧ g ≤ val e := by
  induction l generalizing b with
  | nil => exact ⟨fun x h => ⟨x, h, Nat.le_refl x⟩, fun e h => nomatch h⟩
  | cons a l ih =>
    obtain ⟨g, hg, hle, hb⟩ := hf b a
    obtain ⟨hacc, hmem⟩ := ih (f b a)
    obtain ⟨y, hy, hyg⟩ := hacc g hg
    refine ⟨fun x hx => ⟨y, hy, Nat.le_trans hyg (hb x hx)⟩, fun e he => ?_⟩
    rcases List.mem_cons.1 he with rfl | he
    · exact ⟨y, hy, Nat.le_trans hyg hle⟩
    · exact hmem e he

/-- The running group is not above that of any active source (R344). -/
theorem runGroup_le {e : Nat × Nat} (h : e ∈ v.stack) : ∃ g, runGroup v = some g ∧ g ≤ e.2 := by
  unfold runGroup
  refine (foldl_least (val := Prod.snd) (fun b e => ?_) v.stack none).2 e h
  cases b with
  | none => exact ⟨e.2, rfl, Nat.le_refl _, fun x hx => nomatch hx⟩
  | some x => exact ⟨min x e.2, rfl, Nat.min_le_right _ _, fun y hy => Option.some.inj hy ▸ Nat.min_le_left _ _⟩

/-- What an arbitration chooses was picked, and its group is below that of every active source (R344). -/
theorem arbitrate_some {nw n g : Nat} (h : arbitrate v nw = some (n, g)) :
    pickSource v nw = some n ∧ g = groupOfSrc v n ∧ ∀ e ∈ v.stack, g < e.2 := by
  unfold arbitrate at h
  split at h
  · cases h
  · next m hm =>
    split at h
    · next hr =>
      cases h
      refine ⟨hm, rfl, fun e he => ?_⟩
      obtain ⟨x, hx, -⟩ := runGroup_le he
      exact nomatch hr.symm.trans hx
    · next x hr =>
      split at h
      · next hlt =>
        cases h
        refine ⟨hm, rfl, fun e he => ?_⟩
        obtain ⟨y, hy, hle⟩ := runGroup_le he
        cases hr.symm.trans hy
        exact Nat.lt_of_lt_of_le hlt hle
      · cases h

end

/-- Settles O25, from the best source picked and the running group's bound. -/
theorem arbitration : Obligations.Arbitration := by
  unfold Obligations.Arbitration
  intro v nw
  have hbest := pickSource_best (v := v) nw
  refine ⟨fun n g h => ?chosen, fun h => ?noneEligible, fun hs ⟨m, hm, hme⟩ => ?someEligible⟩
  case chosen =>
    obtain ⟨hp, hg, hstack⟩ := arbitrate_some h
    rw [hp] at hbest
    obtain ⟨hlt, hel, hall⟩ := hbest
    exact ⟨hlt, hel, hg, hstack, hall⟩
  case noneEligible =>
    cases hp : pickSource v nw with
    | none => rw [arbitrate, hp]
    | some n =>
      rw [hp] at hbest
      obtain ⟨hlt, hel, -⟩ := hbest
      exact nomatch hel.symm.trans (h n hlt)
  case someEligible =>
    cases hp : pickSource v nw with
    | none =>
      rw [hp] at hbest
      exact nomatch hme.symm.trans (hbest m hm)
    | some n => simp [arbitrate, hp, runGroup, hs]

/-! ### The idle step (R181, R350, R351, R413) -/

/-- The memory errors of a cycle change the latent errors and the count of free values alone (R181). -/
theorem strikeMemory_changes (s : State) : ∃ e, strikeMemory s = { s with free := s.free + 1, memErr := e } := by
  unfold strikeMemory
  refine List.foldlRecOn (motive := fun t : State => ∃ e, t = { s with free := s.free + 1, memErr := e }) _ _ ⟨s.memErr, rfl⟩ ?_
  rintro _ ⟨e, rfl⟩ x -
  unfold strikeUnit
  dsimp only
  split
  · exact ⟨e, rfl⟩
  · exact ⟨_, rfl⟩

/-- Moving an entry into the fault log changes the error record alone (R413). -/
theorem moveLogEntry_changes (s : State) : ∃ e, moveLogEntry s = { s with err := e } := by
  unfold moveLogEntry
  split
  · exact ⟨s.err, rfl⟩
  · exact ⟨_, rfl⟩

/-- One cycle of the time clock changes the latent errors, the time block, CRP, the chambers, the status page and the error record alone. -/
theorem idle_changes (s : State) : ∃ e c x st er, idle s = { s with
    free := s.free + 1, memErr := e, time := { (if noClock s 3 then s.time else tickTime s.time) with clk := s.time.clk + 4 }, crp := c, chms := x,
    sts := st, err := er } := by
  obtain ⟨e, he⟩ := strikeMemory_changes s
  unfold idle
  dsimp only
  rw [he]
  split
  · obtain ⟨er, hm⟩ := moveLogEntry_changes _
    rw [hm]
    exact ⟨_, _, _, _, _, rfl⟩
  · exact ⟨_, _, _, _, _, rfl⟩

/-- Settles O2: the idle step's frame, and the free run of device time in one cycle. -/
theorem idleIsOneCycle : Obligations.IdleIsOneCycle := by
  unfold Obligations.IdleIsOneCycle
  intro s hq hc ha
  obtain ⟨e, c, x, st, er, h⟩ := idle_changes s
  rw [hc] at h
  refine ⟨idle s, by rw [step, hq], ?_⟩
  rw [h]
  exact ⟨by simp [tickTime, ha, cycleFine], rfl, rfl, rfl, rfl, rfl, rfl, hq⟩

end Sys2Proof.Machine
end

section
/-!
PROOFS. The time block: slot and symbol ticks, domains and switches, compares and pulses.
-/
namespace Sys2Proof.Machine

/-! ### Ticks (R292, R362, R363) -/

section
variable {s : State}

/-- SLOT_TICK once a tick is due. -/
theorem exec_slotTick_due (h : tickDue s = true) : exec .slotTick s = .next (slotTick s) := by
  change execSlotTick s = _
  rw [execSlotTick, if_pos h]

/-- SLOT_TICK while none is due. -/
theorem exec_slotTick_early (h : tickDue s = false) : exec .slotTick s = .next s := by
  change execSlotTick s = _
  rw [execSlotTick, h]
  rfl

end

/-- Settles O34: SLOT_TICK by whether a tick is due, the counts by definition, SYMBOL_TICK by its three conditions. -/
theorem ticks : Obligations.Ticks := by
  unfold Obligations.Ticks
  intro s
  refine ⟨exec_slotTick_due, fun h => ?beforeTime, fun hs ht => ?noSetting, ⟨rfl, rfl, rfl, rfl, rfl, rfl⟩, fun hs h14 ht => ?symbol, fun h14 => ?fifteenth⟩
  case beforeTime => exact exec_slotTick_early (by simp [tickDue, Nat.not_le.2 h])
  case noSetting => exact exec_slotTick_early (by simp [tickDue, tickReady, hs, ht])
  case symbol =>
    change execSymbolTick s = _
    simp [execSymbolTick, hs, h14, ht]
  case fifteenth =>
    change execSymbolTick s = _
    simp [execSymbolTick, Nat.not_lt.2 h14]

/-! ### Domains (R352 to R354, R444) -/

section
variable (s : State) (d : Dom)

@[simp] theorem otherDom_otherDom : otherDom (otherDom d) = d := by cases d <;> rfl

variable (t : Time) (f : Domain → Domain)

/-- The domain changed. -/
@[simp] theorem domOf_updDom_same : domOf (updDom t d f) d = f (domOf t d) := by cases d <;> rfl
@[simp] theorem updDom_active : (updDom t d f).active = t.active := by cases d <;> rfl
@[simp] theorem updDom_ppsIn : (updDom t d f).ppsIn = t.ppsIn := by cases d <;> rfl

/-- A domain of the state, changed. -/
@[simp] theorem domOf_setDom_same : domOf (setDom s d f).time d = f (domOf s.time d) := domOf_updDom_same d s.time f
@[simp] theorem setDom_active : (setDom s d f).time.active = s.time.active := updDom_active d s.time f
@[simp] theorem setDom_ppsIn : (setDom s d f).time.ppsIn = s.time.ppsIn := updDom_ppsIn d s.time f

/-- The next boundary's choice changes the time of the next tick alone. -/
theorem retick_changes : ∃ n, retick s = { s with time := { s.time with nextTick := n } } := by
  unfold retick
  split
  · exact ⟨_, rfl⟩
  · exact ⟨_, rfl⟩

@[simp] theorem domOf_retick : domOf (retick s).time d = domOf s.time d := by
  obtain ⟨n, h⟩ := retick_changes s
  rw [h]
  cases d <;> rfl
@[simp] theorem retick_active : (retick s).time.active = s.time.active := by
  obtain ⟨n, h⟩ := retick_changes s
  rw [h]
/-- Device time is no matter of ticks. -/
@[simp] theorem timeFine_retick : timeFine (retick s).time = timeFine s.time := by
  obtain ⟨n, h⟩ := retick_changes s
  rw [h]
  unfold timeFine
  cases s.time.active with
  | none => rfl
  | some d => cases d <;> rfl

/-- A PPS edge at a domain leaves the captured time alone (R356). -/
@[simp] theorem ppsEdge_ppsIn : (ppsEdge s d).time.ppsIn = s.time.ppsIn := by
  unfold ppsEdge
  dsimp only
  split
  · rfl
  · split
    · exact setDom_ppsIn _ _ _
    · exact (setDom_ppsIn _ _ _).trans (setDom_ppsIn _ _ _)

end

section
variable {s : State} {d : Dom}

/-- A domain that locks is LOCKED, and active where none was (R353, log entry 15). -/
theorem lockDom_locks : (domOf (lockDom s d).time d).state = 2 ∧
    (lockDom s d).time.active = if s.time.active.isSome then s.time.active else some d := by
  unfold lockDom
  dsimp only
  rw [setDom_active]
  cases ha : s.time.active with
  | none =>
    refine ⟨?_, retick_active _⟩
    dsimp only
    rw [domOf_retick]
    exact congrArg Domain.state (domOf_setDom_same s d _)
  | some x => simp [ha]

/-- DOMAIN_LOCKED acts on a domain that is ACQUIRING and whose run has lasted (R353, R444). -/
theorem exec_domainLocked {g : Nat} (hg : (domOf s.time d).good = some g) (h0 : (domOf s.time d).source ≠ 0) (h1 : (domOf s.time d).state = 1)
    (hh : (domOf s.time d).source = 2 → 15 ≤ ((domOf s.time d).last - g) / 1000000000)
    (ho : (domOf s.time d).source ≠ 2 → g + 16000000000 ≤ (domOf s.time d).last) : exec (.domainLocked d) s = .next (lockDom s d) := by
  have hr : runFull (domOf s.time d) = true := by
    rw [runFull, hg]
    dsimp only
    split
    · next h2 => exact decide_eq_true (hh h2)
    · next h2 => exact decide_eq_true (ho h2)
  change execDomainLocked d s = _
  simp [execDomainLocked, h0, h1, hr]

/-- A switch makes the domain active and leaves its count alone; the other domain's slew is gone (R354). -/
theorem switchTo_switches (s : State) (d : Dom) : (switchTo s d).time.active = some d ∧ (domOf (switchTo s d).time d).cnt = (domOf s.time d).cnt ∧
    (domOf (switchTo s d).time d).state = (domOf s.time d).state ∧ (domOf (switchTo s d).time (otherDom d)).slew = 0 ∧
    (domOf (switchTo s d).time (otherDom d)).state = (domOf s.time (otherDom d)).state := by
  unfold switchTo
  rw [retick_active, domOf_retick, domOf_retick]
  cases d <;> exact ⟨rfl, rfl, rfl, rfl, rfl⟩

/-- Device time after a switch: the old one less what the offset's cut below 2 ns takes off (R354). -/
theorem timeFine_switchTo (s : State) (d : Dom) : timeFine (switchTo s d).time =
    (Int.ofNat (timeFine s.time) - Int.tmod (Int.ofNat (timeFine s.time) - Int.ofNat (domOf s.time d).cnt) (2 ^ 33)).toNat := by
  unfold switchTo
  rw [timeFine_retick]
  have hd (t : Time) (o : Int) (f : Domain → Domain) :
      timeFine { updDom t (otherDom d) f with active := some d, offset := o } = (Int.ofNat (domOf t d).cnt + o).toNat := by cases d <;> rfl
  rw [hd]
  congr 1
  omega

/-- Device time moves by less than 2 ns at a switch (R354). -/
theorem timeFine_switchTo_near (s : State) (d : Dom) :
    timeFine (switchTo s d).time ≤ timeFine s.time + 2 * 2 ^ 32 ∧ timeFine s.time ≤ timeFine (switchTo s d).time + 2 * 2 ^ 32 := by
  rw [timeFine_switchTo]
  have hlo := Int.lt_tmod_of_pos (Int.ofNat (timeFine s.time) - Int.ofNat (domOf s.time d).cnt) (b := 2 ^ 33) (by decide)
  have hhi := Int.tmod_lt_of_pos (Int.ofNat (timeFine s.time) - Int.ofNat (domOf s.time d).cnt) (b := 2 ^ 33) (by decide)
  generalize Int.tmod (Int.ofNat (timeFine s.time) - Int.ofNat (domOf s.time d).cnt) (2 ^ 33) = r at *
  simp only [Int.ofNat_eq_natCast] at *
  omega

/-- A domain whose source is lost: a LOCKED one goes to HOLDOVER (R353). -/
def lostSource (x : Domain) : Domain := { x with state := if x.state = 2 then 3 else x.state, good := none }

/-- SOURCE_LOST of a silent source; a LOCKED other domain takes over from the active one with auto = 1 (R353, R354). -/
theorem execSourceLost_silent (hs : silent s (domOf s.time d) = true) (h2 : (domOf s.time d).state = 2) :
    execSourceLost d s = .next (if s.time.active = some d ∧ s.time.auto = true ∧ (domOf s.time (otherDom d)).state = 2
      then switchTo (setDom s d lostSource) (otherDom d) else setDom s d lostSource) := by
  by_cases h : s.time.active = some d ∧ s.time.auto = true ∧ (domOf s.time (otherDom d)).state = 2
  · rw [if_pos h]
    obtain ⟨ha, hauto, ho⟩ := h
    simp only [execSourceLost, hs, h2, isActive, ha, hauto, ho]
    rfl
  · have hc : (decide ((domOf s.time d).state = 2) && isActive s d && s.time.auto && decide ((domOf s.time (otherDom d)).state = 2)) = false := by
      simpa [isActive, h2] using h
    simp only [execSourceLost, hs, hc, if_neg h]
    rfl

/-- A LOCKED domain whose source falls silent goes to HOLDOVER; with auto = 1 a LOCKED other domain takes over (R353, R354). -/
theorem exec_sourceLost (hs : silent s (domOf s.time d) = true) (h2 : (domOf s.time d).state = 2) :
    ∃ t, exec (.sourceLost d) s = .next t ∧ (domOf t.time d).state = 3 ∧
      t.time.active = if s.time.active = some d ∧ s.time.auto = true ∧ (domOf s.time (otherDom d)).state = 2 then some (otherDom d) else s.time.active := by
  have hhold : (domOf (setDom s d lostSource).time d).state = 3 := by
    rw [domOf_setDom_same, lostSource, if_pos h2]
  refine ⟨_, execSourceLost_silent hs h2, ?_⟩
  split
  · obtain ⟨hact, -, -, -, hstate⟩ := switchTo_switches (setDom s d lostSource) (otherDom d)
    rw [otherDom_otherDom] at hstate
    exact ⟨hstate.trans hhold, hact⟩
  · exact ⟨hhold, setDom_active s d lostSource⟩

end

/-- Settles O37: an edge keeps its capture, a lock, a lost source and a switch by their lemmas, the messages by definition. -/
theorem timeDomains : Obligations.TimeDomains := by
  unfold Obligations.TimeDomains
  refine ⟨fun s => ⟨⟨_, rfl, ?capture⟩, fun d g hg h0 h1 hh ho => ?locks, fun d hs h2 => exec_sourceLost hs h2, fun h3 => ⟨?ptp, ?esmc⟩⟩,
    fun s d _ => ?switch⟩
  case capture => rw [ppsEdge_ppsIn, ppsEdge_ppsIn]
  case locks => exact ⟨_, exec_domainLocked hg h0 h1 hh ho, lockDom_locks⟩
  case ptp =>
    change execPtpMessageSend s = _
    rw [execPtpMessageSend, if_pos h3]
  case esmc =>
    change execEsmcSend s = _
    rw [execEsmcSend, if_pos h3]
  case switch =>
    obtain ⟨hact, hcnt, -, hslew, -⟩ := switchTo_switches s d
    obtain ⟨hle, hge⟩ := timeFine_switchTo_near s d
    exact ⟨hact, hle, hge, hcnt, hslew⟩

/-! ### Compares (R357 to R359) -/

section
variable {s : State} {k : Fin 16}

/-- An enabled compare whose difference is not negative is due. -/
theorem cmpDue_of_reached {k : Nat} (he : (cmpOf s k).en = true) (hd : 0 ≤ cmpDiff s (cmpOf s k)) : cmpDue s k = true := by
  simp [cmpDue, he, hd]

/-- Among the sixteen the one compare that is due is found. -/
theorem filter_cmpDue_alone (hk : cmpDue s k.val = true) (ho : ∀ i, i < 16 → i ≠ k.val → cmpDue s i = false) :
    (List.range 16).filter (cmpDue s) = [k.val] := by
  have hone : ∀ j : Fin 16, (List.range 16).filter (fun i => decide (i = j.val)) = [j.val] := by decide
  rw [← hone k]
  refine List.filter_congr fun i hi => ?_
  by_cases h : i = k.val
  · rw [h, hk, decide_eq_true rfl]
  · rw [ho i (List.mem_range.1 hi) h, decide_eq_false h]

/-- A compare that fires with no action to perform is disabled and has fired, and keeps the rest (R357). -/
theorem cmpOf_cmpFire (w : Tab.wf {} s.time.cmps = true) (hi : (cmpOf s k.val).irq = false) (hc : (cmpOf s k.val).csig = false)
    (hr : (cmpOf s k.val).retPend = false) : cmpOf (cmpFire s k.val false) k.val = { cmpOf s k.val with en := false, fired := true } := by
  simp only [cmpFire, hi, hc, Bool.false_eq_true, if_false, Bool.or_false]
  refine (Tab.get_put_same _ _ _ _ w).trans ?_
  simp [cmpReturn, hr]

end

/-! ### Pulses (R360, R361) -/

section
variable {s : State} {p : Fin 4}

/-- The rising edge of a pulse whose time is reached. -/
theorem exec_pulseEdge_rises {r : Nat} (hh : (pulseOf s p.val).high = false)
    (hr : riseOf (pulseOf s p.val).cfg (pulseOf s p.val).next = some r) (hn : r ≤ now s) : exec (.pulseEdge p) s =
      .next (emit (setPulse s p.val { pulseOf s p.val with high := true }) (.pulse p.val (!(pulseOf s p.val).cfg.pol) r)) := by
  change execPulseEdge p s = _
  simp [execPulseEdge, hh, hr, hn]

/-- A pulse output after a falling edge: a waiting setting takes effect with it (R361). -/
def afterFall (x : Pulse) (fall : Nat) : Pulse :=
  match x.pend with
  | some c => { cfg := c, next := firstPulse c fall }
  | none => { x with high := false, next := x.next + 1 }

/-- The falling edge of a pulse whose time is reached. -/
theorem exec_pulseEdge_falls (hh : (pulseOf s p.val).high = true)
    (hn : (pulseOf s p.val).cfg.start + (pulseOf s p.val).next * (pulseOf s p.val).cfg.period + (pulseOf s p.val).cfg.width ≤ now s) :
    let x := pulseOf s p.val
    let fall := x.cfg.start + x.next * x.cfg.period + x.cfg.width
    exec (.pulseEdge p) s = .next (emit (setPulse s p.val (afterFall x fall)) (.pulse p.val x.cfg.pol fall)) := by
  change execPulseEdge p s = _
  unfold execPulseEdge
  dsimp only
  rw [if_pos hh, if_neg (Nat.not_lt.2 hn)]
  rfl

end

/-- Settles O38: the compares due fire together, and an edge whose time is reached is made. -/
theorem comparesAndPulses : Obligations.ComparesAndPulses := by
  unfold Obligations.ComparesAndPulses
  intro s
  refine ⟨fun k he hd ht => ?fires, fun k he => ?disabled, fun k w hi hc hr => ?fired, fun p r => exec_pulseEdge_rises,
    fun p hh hn => ⟨fun hp => ?fallsFree, fun c hp => ?fallsHeld⟩⟩
  case fires =>
    have hdue := cmpDue_of_reached he hd
    have hall : exec (.compareFire k) s = .next (((List.range 16).filter (cmpDue s)).foldl (fun st i => cmpFire st i false) s) := by
      change execCompareFire k s = _
      rw [execCompareFire, hdue, ht]
      rfl
    exact ⟨hall, fun ho => hall.trans (by rw [filter_cmpDue_alone hdue ho]; rfl)⟩
  case disabled =>
    change execCompareFire k s = _
    simp [execCompareFire, cmpDue, he]
  case fired =>
    rw [cmpOf_cmpFire w hi hc hr]
    exact ⟨rfl, rfl, rfl, rfl⟩
  case fallsFree => exact (exec_pulseEdge_falls hh hn).trans (by rw [afterFall, hp])
  case fallsHeld => exact (exec_pulseEdge_falls hh hn).trans (by rw [afterFall, hp])

end Sys2Proof.Machine
end

section
/-!
PROOFS. The checks of a Nerzon command, in their order.
-/
namespace Sys2Proof.Machine

/-! ### The code of a request (R323, R324) -/

section
variable {op : Nat} {masks : List Nat} {ws : List Word} {r : NciRes} {ses : Option Nat}

/-- Does the request break a rule of its fields? -/
def argFails (masks : List Nat) (ws : List Word) (r : NciRes) : Prop := reservedBits masks ws = true ∨ r.bad = true

/-- Is the command denied: a context session's system command or foreign context, or by the command's own rule? -/
def permFails (op : Nat) (ses : Option Nat) (r : NciRes) : Prop :=
  (∃ k, ses = some k ∧ (systemOnly op = true ∨ ∃ x ∈ r.ctxs, x ≠ k)) ∨ r.denied = true

/-- The check of a session's rights: those of a context session end at its context (R324). -/
def sessionFails (op : Nat) (r : NciRes) : Option Nat → Bool
  | none => false
  | some c => systemOnly op || r.ctxs.any fun x => decide (x ≠ c)

/-- The checks in their order (R323). -/
theorem nciCode_eq : nciCode op ses masks ws r =
    if reservedBits masks ws || r.bad then 2 else if sessionFails op r ses || r.denied then 4 else if r.busy then 1 else if r.nores then 3 else r.code := by
  cases ses <;> rfl

theorem argFails_iff : (reservedBits masks ws || r.bad) = true ↔ argFails masks ws r := by rw [Bool.or_eq_true, argFails]

theorem permFails_iff : (sessionFails op r ses || r.denied) = true ↔ permFails op ses r := by
  cases ses <;> simp [permFails, sessionFails]

/-- A request that breaks a field rule is answered BAD_ARG. -/
theorem nciCode_arg (h : argFails masks ws r) : nciCode op ses masks ws r = 2 := by
  rw [nciCode_eq, if_pos (argFails_iff.2 h)]

/-- The code of a request that breaks no field rule, by the checks that follow. -/
theorem nciCode_checks (h : ¬argFails masks ws r) :
    (permFails op ses r → nciCode op ses masks ws r = 4) ∧
    (¬permFails op ses r → nciCode op ses masks ws r = if r.busy then 1 else if r.nores then 3 else r.code) := by
  rw [nciCode_eq, if_neg (mt argFails_iff.1 h), ← permFails_iff]
  exact ⟨fun hp => if_pos hp, fun hp => if_neg hp⟩

end

/-! ### A request that Nerzon takes (R321 to R323) -/

section
variable {op : Nat} {masks : List Nat} {p : Fin 176} {s : State} {body : List Word → State → NciRes}
  (ht : takesRequest s p.val = true)
include ht

/-- A stale epoch is answered STALE_EPOCH. -/
theorem withNci_stale (h : staleEpoch s p.val (tf (reqWords s p.val) 0 31 16) (tf (reqWords s p.val) 0 15 8) = true) :
    withNci op masks p s body = .next (replied s p 5 [] s) := by
  simp [withNci, withNciPick, ht, h, replied]

variable (hs : staleEpoch s p.val (tf (reqWords s p.val) 0 31 16) (tf (reqWords s p.val) 0 15 8) = false)
include hs

/-- An unknown opcode is answered BAD_ARG. -/
theorem withNci_unknown (h : knownOp (tf (reqWords s p.val) 0 31 16) = false) : withNci op masks p s body = .next (replied s p 2 [] s) := by
  simp [withNci, withNciPick, ht, hs, h, replied]

/-- A command that Nerzon carries out: INTERNAL where it comes upon an inconsistency, else the code of its checks, and its effect where they
let it act. -/
theorem withNci_carried (ho : tf (reqWords s p.val) 0 31 16 = op) (hk : knownOp op = true) :
    let ws := reqWords s p.val
    let r := body ws s
    let c := nciCode op (sessionCtx s p.val) masks ws r
    withNci op masks p s body = .next (if codeActs c && s.sts.internal then nciInternal s p.val ws
      else r.after c (if codeActs c then replied s p c r.words r.st else replied s p c [] s)) := by
  subst ho
  simp only [withNci, withNciPick, ht, hs, hk, Bool.not_true, Bool.false_eq_true, if_false, ne_eq, not_true_eq_false, decide_false, Bool.or_self]
  split
  · rfl
  · split <;> rfl

end

/-- An inconsistency is answered INTERNAL and counted as NERZON_INTERNAL; nothing else of the device changes (R323). -/
theorem nciInternal_leaves (s : State) (p : Fin 176) (ws : List Word) :
    let t := nciInternal s p.val ws
    t.nci = some { pair := p.val, code := 0xFF, words := replyWords ws 0xFF [] } ∧ t.err.cnt = Tab.upd 0 s.err.cnt 0x12 (· + 1) ∧
    t.mem = s.mem ∧ t.chms = s.chms ∧ t.sched = s.sched := by
  dsimp only
  have hcnt := logErr_cnt { s with nci := some { pair := p.val, code := 0xFF, words := replyWords ws 0xFF [] }, sts := { s.sts with internal := false } }
    0x12 0 0x8004 0 0 false
  obtain ⟨e, v, h⟩ := logErr_changes
    { s with nci := some { pair := p.val, code := 0xFF, words := replyWords ws 0xFF [] }, sts := { s.sts with internal := false } } 0x12 0 0x8004 0 0 false
  rw [nciInternal, h]
  rw [h] at hcnt
  exact ⟨rfl, hcnt, rfl, rfl, rfl⟩

/-- Settles O45: the checks of every request in their order, then those of the command, and the codes that say it took effect. -/
theorem nciChecks : Obligations.NciChecks := by
  unfold Obligations.NciChecks
  refine ⟨fun op masks p s body ht => ⟨fun h => withNci_stale ht h, fun hs h => withNci_unknown ht hs h, fun hs ho hk => ?carried⟩,
    fun op ses masks ws r => ?code, fun c => by simp [codeActs, or_assoc]⟩
  case carried =>
    have hc := withNci_carried (masks := masks) (body := body) ht hs ho hk
    dsimp only at hc ⊢
    refine ⟨fun ha hi => ?_, fun ha hi => ?_, fun ha => ?_⟩
    · rw [hc, ha, hi]
      rfl
    · obtain ⟨hn, hcnt, hrest⟩ := nciInternal_leaves s p (reqWords s p.val)
      rw [ha, hi] at hc
      exact ⟨_, hc, hn, congrArg (Tab.get 0 · 0x12) hcnt, hrest⟩
    · rw [hc, ha]
      rfl
  case code =>
    refine ⟨nciCode_arg, fun ha hp => (nciCode_checks ha).1 hp, fun ha hp hb => ?_, fun ha hp hb hn => ?_, fun ha hp hb hn => ?_⟩
    · rw [(nciCode_checks ha).2 hp, hb]
      rfl
    · rw [(nciCode_checks ha).2 hp, hb, hn]
      rfl
    · rw [(nciCode_checks ha).2 hp, hb, hn]
      rfl

end Sys2Proof.Machine
end

section
/-!
PROOFS. What signals, adds, waits and tries leave in a cairn, in the other cairns and in the chambers that wait.
-/
namespace Sys2Proof.Machine

/-! ### Tables whose listed entries change -/

/-- A change of the listed entries that leaves the default alone is a change of every entry. -/
theorem Tab.get_mapListed {α : Type} [DecidableEq α] {d : α} {f : Nat → α → α} (hf : ∀ k, f k d = d) {t : Tab α} {lo : Option Nat}
    (w : Tab.wfFrom d lo t = true) (n : Nat) : Tab.get d (Tab.mapListed d f t) n = f n (Tab.get d t n) := by
  induction t generalizing lo with
  | nil => exact (hf n).symm
  | cons e t ih =>
    obtain ⟨k, v⟩ := e
    simp only [Tab.wfFrom, Bool.and_eq_true] at w
    obtain ⟨-, w⟩ := w
    rw [Tab.mapListed, Tab.get]
    by_cases hk : k = n
    · subst hk
      rw [if_pos rfl]
      split
      · next hd => rw [Tab.get_below (Tab.wfFrom_mapListed w) (Nat.le_refl k), hd]
      · rw [Tab.get, if_pos rfl]
    · rw [if_neg hk]
      split
      · exact ih w
      · rw [Tab.get, if_neg hk]
        exact ih w

/-! ### Cairns after each change -/

section
variable {s t : State} {n m : Nat}

/-- A cairn is read from the table of cairns alone. -/
theorem cairnOf_congr (h : s.cairns = t.cairns) : cairnOf s n = cairnOf t n := by rw [cairnOf, cairnOf, h]

theorem cairnOf_setCairn_same (w : Tab.wf {} s.cairns = true) (c : Cairn) : cairnOf (setCairn s n c) n = c := Tab.get_put_same _ _ _ _ w
theorem cairnOf_setCairn_other (h : m ≠ n) (c : Cairn) : cairnOf (setCairn s n c) m = cairnOf s m := Tab.get_put_other _ _ _ h

@[simp] theorem grantAll_cairns (s : State) (g : DWord) (back : Word) (l : List Nat) : (grantAll s g back l).cairns = s.cairns := by
  induction l generalizing s with
  | nil => rfl
  | cons ph l ih => exact ih (grantTo s ph g back)

@[simp] theorem cairnOf_grantTo (s : State) (ph : Nat) (g : DWord) (back : Word) (n : Nat) : cairnOf (grantTo s ph g back) n = cairnOf s n := rfl
@[simp] theorem cairnOf_updCore (s : State) (ph : Nat) (f : Core → Core) (n : Nat) : cairnOf (updCore s ph f) n = cairnOf s n := rfl
@[simp] theorem cairnOf_draw (s : State) (n : Nat) : cairnOf (draw s) n = cairnOf s n := rfl
/-- A bound cairn's event that is told where a value was 0 leaves the cairns alone. -/
@[simp] theorem cairnOf_ite_bindEvent (c : Prop) [Decidable c] (s : State) (k n : Nat) :
    cairnOf (if c then bindEvent s k else s) n = cairnOf s n := by split <;> rfl

/-- An opened BARRIER (R334, R340). -/
def opened (c : Cairn) : Cairn := { c with v := 0, gen := c.gen + 1, waiters := [], timed := false }

/-- What opening a BARRIER does to the cairns. -/
theorem cairnOf_barrierOpen (s : State) (n : Nat) (late : Bool) (m : Nat) :
    cairnOf (barrierOpen s n late) m = cairnOf (setCairn s n (opened (cairnOf s n))) m := cairnOf_congr (grantAll_cairns _ _ _ _)

/-- A timed BARRIER that settles leaves every other cairn alone. -/
theorem cairnOf_settleTimed_other (h : m ≠ n) : cairnOf (settleTimed s n) m = cairnOf s m := by
  unfold settleTimed
  dsimp only
  split
  · rw [cairnOf_barrierOpen, cairnOf_setCairn_other h]
  · rfl

/-- Serving a SEMAPHORE leaves every other cairn alone. -/
theorem cairnOf_semaServe_other (h : m ≠ n) (k : Nat) : cairnOf (semaServe s n k) m = cairnOf s m := by
  induction k generalizing s with
  | zero => rfl
  | succ k ih =>
    rw [semaServe]
    split
    · rfl
    · split
      · rfl
      · rw [ih, cairnOf_grantTo, cairnOf_setCairn_other h]

/-- An EVENT without waiters serves nobody. -/
theorem eventServe_alone (h : (cairnOf s n).waiters = []) : eventServe s n = s := by simp [eventServe, h]

/-- Serving an EVENT leaves every other cairn alone. -/
theorem cairnOf_eventServe_other (h : m ≠ n) : cairnOf (eventServe s n) m = cairnOf s m := by
  unfold eventServe
  dsimp only
  split
  · rfl
  · split
    · rfl
    · rw [cairnOf_congr (grantAll_cairns _ _ _ _), cairnOf_setCairn_other h]

/-- A signal or an add leaves every other cairn alone. -/
theorem cairnOf_cairnAdd_other (h : m ≠ n) (s : State) (amt : Word) : cairnOf (cairnAdd s n amt) m = cairnOf s m := by
  rw [← cairnOf_settleTimed_other (s := s) h]
  unfold cairnAdd
  generalize settleTimed s n = u
  dsimp only
  split
  · rfl
  split
  · rw [cairnOf_semaServe_other h, cairnOf_ite_bindEvent, cairnOf_setCairn_other h]
  split
  · split
    · rw [cairnOf_barrierOpen, cairnOf_setCairn_other h]
    · split
      · rw [cairnOf_ite_bindEvent, cairnOf_setCairn_other h]
      · rw [cairnOf_setCairn_other h, cairnOf_draw]
  split
  · rw [cairnOf_eventServe_other h, cairnOf_ite_bindEvent, cairnOf_setCairn_other h]
  · rfl

end

/-! ### Signals and adds by the type of the cairn (R334, R339, R340) -/

section
variable {s : State} {n : Nat} {amt : Word}

/-- A faulted or FREE cairn takes none. -/
theorem cairnAdd_none (h : (cairnOf s n).faulted = true ∨ (cairnOf s n).typ = 0) : cairnAdd s n amt = s := by
  have hs : settleTimed s n = s := by rcases h with h | h <;> simp [settleTimed, h]
  rcases h with h | h <;> simp [cairnAdd, hs, h]

/-- An add of 0 lets a timed barrier open that is due, and does nothing else. -/
theorem cairnAdd_zero : cairnAdd s n 0 = settleTimed s n := by simp [cairnAdd]

variable (h0 : amt ≠ 0#32) (hf : (cairnOf s n).faulted = false)
include h0 hf

/-- A SEMAPHORE counts up, with a clamp, and serves its waiters. -/
theorem cairnAdd_semaphore (h1 : (cairnOf s n).typ = 1) :
    let c := cairnOf s n
    let big := decide (0xFFFFFFFF < c.v.toNat + amt.toNat)
    let t := setCairn s n { c with v := if big then 0xFFFFFFFF#32 else c.v + amt, ovf := c.ovf || big }
    cairnAdd s n amt = semaServe (if c.v = 0 then bindEvent t n else t) n c.waiters.length := by
  have hs : settleTimed s n = s := settleTimed_not_barrier (by rw [h1]; decide)
  simp [cairnAdd, hs, h1, h0, hf]

/-- An EVENT takes the bits and serves its waiters. -/
theorem cairnAdd_event (h3 : (cairnOf s n).typ = 3) :
    let c := cairnOf s n
    let t := setCairn s n { c with v := c.v ||| amt }
    cairnAdd s n amt = eventServe (if c.v = 0 then bindEvent t n else t) n := by
  have hs : settleTimed s n = s := settleTimed_not_barrier (by rw [h3]; decide)
  simp [cairnAdd, hs, h3, h0, hf]

variable (h2 : (cairnOf s n).typ = 2)
include h2

/-- A BARRIER short of its target, or before its release time, counts. -/
theorem cairnAdd_barrier_counts
    (hw : (cairnOf s n).v.toNat + amt.toNat < (cairnOf s n).target ∨ ((cairnOf s n).timed = true ∧ now s < (cairnOf s n).t.toNat))
    (hlt : (cairnOf s n).v.toNat + amt.toNat < 2 ^ 32) :
    let c := cairnOf s n
    let t := setCairn s n { c with v := w32 (c.v.toNat + amt.toNat) }
    cairnAdd s n amt = if c.v = 0 then bindEvent t n else t := by
  have hs : settleTimed s n = s := settleTimed_waits (hw.elim (fun h => .inr (by omega)) fun h => .inl h.2)
  have hshut : (decide ((cairnOf s n).target ≤ (cairnOf s n).v.toNat + amt.toNat) &&
      (!(cairnOf s n).timed || decide ((cairnOf s n).t.toNat ≤ now s))) = false := by
    rcases hw with hw | ⟨ht, hw⟩
    · simp [Nat.not_le.2 hw]
    · simp [ht, Nat.not_le.2 hw]
  have hgo : ¬(decide (amt = 0) || (cairnOf s n).faulted) = true := by simpa [hf] using h0
  unfold cairnAdd
  dsimp only
  rw [hs, if_neg hgo, if_neg (by rw [h2]; decide), if_pos h2, hshut, if_neg Bool.false_ne_true, if_pos hlt]

/-- A BARRIER that reaches its target opens: one without a release time. -/
theorem cairnAdd_barrier_opens (hv : (cairnOf s n).target ≤ (cairnOf s n).v.toNat + amt.toNat) (ht : (cairnOf s n).timed = false) :
    cairnAdd s n amt = barrierOpen s n false := by
  have hs : settleTimed s n = s := by simp [settleTimed, ht]
  simp [cairnAdd, hs, h0, hf, h2, hv, ht]

/-- A timed BARRIER that reaches its target after its release time opens late. -/
theorem cairnAdd_barrier_opensLate (hlt : (cairnOf s n).v.toNat < (cairnOf s n).target)
    (hv : (cairnOf s n).target ≤ (cairnOf s n).v.toNat + amt.toNat) (ht : (cairnOf s n).timed = true) (hn : (cairnOf s n).t.toNat < now s) :
    cairnAdd s n amt = barrierOpen s n true := by
  have hs : settleTimed s n = s := settleTimed_waits (.inr hlt)
  simp [cairnAdd, hs, h0, hf, h2, hv, ht, hn, Nat.le_of_lt hn]

end

/-! ### The waiting chambers of a BARRIER that opens (R335, R337) -/

section
variable {s : State} (w : Tab.wf {} s.chms = true)
include w

/-- The chambers' table stays canonical where one is given a status word. -/
theorem wf_grantTo (ph : Nat) (g : DWord) (back : Word) : Tab.wf {} (grantTo s ph g back).chms = true := by
  unfold grantTo updCore updChm setChm
  exact Tab.wf_put w

/-- And where several are. -/
theorem wf_grantAll (g : DWord) (back : Word) (l : List Nat) : Tab.wf {} (grantAll s g back l).chms = true := by
  induction l generalizing s with
  | nil => exact w
  | cons q l ih => exact ih (wf_grantTo w q g back)

omit w in
/-- The other chambers keep theirs. -/
theorem coreOf_grantTo_other {ph q : Nat} (h : q ≠ ph) (g : DWord) (back : Word) : coreOf (grantTo s ph g back) q = coreOf s q := by
  have hother (c : Chamber) : chmOf (setChm s ph c) q = chmOf s q := Tab.get_put_other _ _ _ h
  exact congrArg Chamber.core (hother _)

/-- Every chamber of the list holds the status word it is given. -/
theorem grant_grantAll {g : DWord} {back : Word} {l : List Nat} {ph : Nat} (h : ph ∈ l ∨ (coreOf s ph).grant = some g) :
    (coreOf (grantAll s g back l) ph).grant = some g := by
  induction l generalizing s with
  | nil => exact h.resolve_left (List.not_mem_nil)
  | cons q l ih =>
    refine ih (wf_grantTo w q g back) ?_
    by_cases hq : ph = q
    · subst hq
      exact .inr (grant_grantTo w ph g back)
    · rw [coreOf_grantTo_other hq]
      exact h.imp_left fun hm => (List.mem_cons.1 hm).resolve_left hq

/-- A bound cairn's event reaches the interrupt controllers alone (R348). -/
theorem coreOf_bindEvent (n ph : Nat) : coreOf (bindEvent s n) ph = coreOf s ph := by
  have hcore : ∀ c : Chamber, (bindEventIn n (cairnOf s n).ctx c).core = c.core := by
    intro c
    unfold bindEventIn
    split <;> rfl
  exact (congrArg Chamber.core (Tab.get_mapListed (fun _ => rfl) w ph)).trans (hcore _)

/-- The chambers that waited for a BARRIER hold its status word once it opens. -/
theorem grant_barrierOpen {n : Nat} (late : Bool) {ph : Nat} (h : ph ∈ (cairnOf s n).waiters) :
    (coreOf (barrierOpen s n late) ph).grant = some (statusWord (if late then 2 else 0) (w32 ((cairnOf s n).gen + 1).toNat)) := by
  unfold barrierOpen
  dsimp only
  rw [coreOf_bindEvent (wf_grantAll (by exact w) _ _ _)]
  exact grant_grantAll (by exact w) (.inl h)

end

/-! ### Waits and tries at a SEMAPHORE (R334, R335) -/

section
variable {s : State} {n : Nat} (wc : Tab.wf {} s.cairns = true) (h1 : (cairnOf s n).typ = 1) (hf : (cairnOf s n).faulted = false)
include wc h1 hf

/-- A wait at a SEMAPHORE that is not 0 counts it down and grants at once. -/
theorem semaphore_wait_grants (w : Tab.wf {} s.chms = true) (hv : (cairnOf s n).v ≠ 0) (ph : Nat) :
    (cairnOf (cairnWait s n ph (cairnOf s n).ctx) n).v = (cairnOf s n).v - 1 ∧
    (coreOf (cairnWait s n ph (cairnOf s n).ctx) ph).grant = some (statusWord 0 ((cairnOf s n).v - 1)) := by
  rw [cairnWait_semaphore rfl hf hv ph h1, cairnOf_grantTo, cairnOf_setCairn_same wc]
  exact ⟨rfl, grant_grantTo (by exact w) _ _ _⟩

/-- A try of one that is not 0 counts it down: OK. -/
theorem semaphore_try_takes (hv : (cairnOf s n).v ≠ 0) : cairnTry s n (cairnOf s n).ctx =
    (0, setCairn (setCairn s n { cairnOf s n with v := (cairnOf s n).v - 1 }) n { cairnOf s n with v := (cairnOf s n).v - 1, last := 0 }) := by
  have hs : settleTimed s n = s := settleTimed_not_barrier (by rw [h1]; decide)
  have hv' : ¬(cairnOf s n).v = 0#32 := hv
  simp [cairnTry, hs, h1, hf, hv', cairnOf_setCairn_same wc]

/-- A wait at a SEMAPHORE that is 0 queues the chamber last. -/
theorem semaphore_wait_queues (w : Tab.wf {} s.chms = true) (hv : (cairnOf s n).v = 0) (ph : Nat) :
    cairnOf (cairnWait s n ph (cairnOf s n).ctx) n = { cairnOf s n with waiters := (cairnOf s n).waiters ++ [ph] } ∧
    (coreOf (cairnWait s n ph (cairnOf s n).ctx) ph).waitCairn = some n := by
  have hs : settleTimed s n = s := settleTimed_not_barrier (by rw [h1]; decide)
  have hw : cairnWait s n ph (cairnOf s n).ctx =
      updCore (setCairn s n { cairnOf s n with waiters := (cairnOf s n).waiters ++ [ph] }) ph fun k => { k with waitCairn := some n } := by
    simp [cairnWait, hs, h1, hf, hv]
  rw [hw, cairnOf_updCore, cairnOf_setCairn_same wc]
  exact ⟨rfl, congrArg Core.waitCairn (coreOf_updCore (by exact w) _)⟩

omit wc in
/-- A try of one that is 0: NOT_READY. -/
theorem semaphore_try_notReady (hv : (cairnOf s n).v = 0) :
    cairnTry s n (cairnOf s n).ctx = (4, setCairn s n { cairnOf s n with last := 4 }) := by
  have hs : settleTimed s n = s := settleTimed_not_barrier (by rw [h1]; decide)
  simp [cairnTry, hs, h1, hf, hv]

end

/-- A try of another context's cairn: CLEARED. -/
theorem cairnTry_foreign {s : State} {n ctx : Nat} (h1 : (cairnOf s n).typ ≠ 2) (h : (cairnOf s n).ctx ≠ ctx) : (cairnTry s n ctx).1 = 3 := by
  simp [cairnTry, settleTimed_not_barrier h1, h]

/-- A clamped sum of two words. -/
theorem toNat_clampedAdd (a b : Word) :
    (if decide (0xFFFFFFFF < a.toNat + b.toNat) then 0xFFFFFFFF#32 else a + b).toNat = min (a.toNat + b.toNat) 0xFFFFFFFF := by
  by_cases h : 0xFFFFFFFF < a.toNat + b.toNat
  · rw [decide_eq_true h, if_pos rfl, Nat.min_eq_right (Nat.le_of_lt h)]
    rfl
  · rw [decide_eq_false h, if_neg (by decide), Nat.min_eq_left (Nat.not_lt.1 h), BitVec.toNat_add]
    exact Nat.mod_eq_of_lt (by omega)

/-- Settles O28, by the type of the cairn: what an add makes of it, whom it grants, what it leaves alone; then waits and tries. -/
theorem cairnEffects : Obligations.CairnEffects := by
  unfold Obligations.CairnEffects
  refine ⟨fun s n amt ⟨w, wc, _⟩ => ⟨cairnAdd_none, fun h => h ▸ cairnAdd_zero, fun h0 hf => ⟨fun h1 hw => ?semaphore, fun h2 hw hlt => ?counts,
    fun h2 hv ht => ?opens, fun h2 hlt hv ht hn => ?opensLate, fun h3 hw => ?event⟩, fun m hm => cairnOf_cairnAdd_other hm s amt⟩,
    fun s n ph ⟨w, wc, _⟩ h1 hf => ⟨fun hv => ?takes, fun hv => ?queues, cairnTry_foreign (by rw [h1]; decide) (Nat.ne_of_lt (Nat.lt_succ_self _))⟩⟩
  case semaphore =>
    rw [cairnAdd_semaphore h0 hf h1, hw]
    dsimp only [List.length_nil, semaServe]
    rw [cairnOf_ite_bindEvent, cairnOf_setCairn_same wc]
    exact ⟨toNat_clampedAdd _ _, rfl, rfl⟩
  case counts =>
    rw [cairnAdd_barrier_counts h0 hf h2 hw hlt, cairnOf_ite_bindEvent, cairnOf_setCairn_same wc]
    exact ⟨Nat.mod_eq_of_lt hlt, rfl, rfl⟩
  case opens =>
    rw [cairnAdd_barrier_opens h0 hf h2 hv ht, cairnOf_barrierOpen, cairnOf_setCairn_same wc]
    exact ⟨rfl, rfl, rfl⟩
  case opensLate =>
    rw [cairnAdd_barrier_opensLate h0 hf h2 hlt hv ht hn, cairnOf_barrierOpen, cairnOf_setCairn_same wc]
    exact ⟨rfl, rfl, rfl, fun ph hp => grant_barrierOpen w true hp⟩
  case event =>
    rw [cairnAdd_event h0 hf h3, eventServe_alone (by rw [cairnOf_ite_bindEvent, cairnOf_setCairn_same wc]; exact hw),
      cairnOf_ite_bindEvent, cairnOf_setCairn_same wc]
  case takes =>
    obtain ⟨hcount, hgrant⟩ := semaphore_wait_grants wc h1 hf w hv ph
    rw [semaphore_try_takes wc h1 hf hv]
    dsimp only
    rw [cairnOf_setCairn_same (by exact Tab.wf_put wc)]
    exact ⟨hcount, hgrant, rfl, rfl, rfl⟩
  case queues =>
    obtain ⟨hcairn, hwait⟩ := semaphore_wait_queues wc h1 hf w hv ph
    rw [hcairn, semaphore_try_notReady h1 hf hv]
    dsimp only
    rw [cairnOf_setCairn_same wc]
    exact ⟨rfl, hv, hwait, rfl, hv, rfl⟩

end Sys2Proof.Machine
end

section
/-!
PROOFS. The Nerzon commands of time, SyncE and the Emaux links.
-/
namespace Sys2Proof.Machine

/-- The code of a command that may be clamped or deferred lets it act. -/
theorem codeActs_ite {c : Prop} [Decidable c] {a b : Nat} (ha : codeActs a = true) (hb : codeActs b = true) : codeActs (if c then a else b) = true := by
  split
  · exact ha
  · exact hb

section
variable {p : Fin 176} {s : State}

/-- TIME_SWITCH without a switch sets auto (R354). -/
theorem execTimeSwitch_auto (h : asks 0x0602 [3] p s = true) (h0 : tf (reqWords s p.val) 1 1 1 = 0) :
    execTimeSwitch p s = .next (replied s p 0 [] { s with time := { s.time with auto := decide (tf (reqWords s p.val) 1 0 0 = 1) } }) :=
  withNci_answers h (bad := by simp [h0]) (denied := by simp [h0]) (busy := by simp [h0]) (nores := by simp [h0]) (code := by simp [h0])
    (words := by simp [h0]) (state := by simp [h0]) (after := by simp [h0])

/-- TIME_SWITCH to the other domain, where it may be switched to (R354). -/
theorem execTimeSwitch_switches {d : Dom} (h : asks 0x0602 [3] p s = true) (h1 : tf (reqWords s p.val) 1 1 1 = 1) (ha : s.time.active = some d)
    (hc : canSwitch s (otherDom d) = true) : execTimeSwitch p s = .next (replied s p 0 []
      (switchTo { s with time := { s.time with auto := decide (tf (reqWords s p.val) 1 0 0 = 1) } } (otherDom d))) :=
  withNci_answers h (bad := by simp [h1, ha]) (denied := by simp [h1, ha, hc]) (busy := by simp [h1, ha]) (nores := by simp [h1, ha])
    (code := by simp [h1, ha]) (words := by simp [h1, ha]) (state := by simp [h1, ha]) (after := by simp [h1, ha])

end

/-- Settles O49, command by command: the checks the request passes, its effect and its reply. -/
theorem nciTime : Obligations.NciTime := by
  unfold Obligations.NciTime
  intro p s
  dsimp only
  refine ⟨⟨fun h hp hr ha => ?domainSet, fun h h2 => ?domainAdj⟩,
    ⟨fun h h0 => execTimeSwitch_auto h h0, fun d h h1 ha hc => execTimeSwitch_switches h h1 ha hc⟩,
    fun h h3 hc hs => ?tickSet, fun h hb => ⟨fun hh => ?pulseLow, fun hh => ?pulseHigh⟩, ⟨fun h hg hx he => ?grant, fun h hg => ?returned⟩,
    fun h => ?status, fun h => ?syncE, fun ans h hx hy hz hd hr hj => ?join, fun h hl => ?linkStatus, fun h hk he ho => ?tunnel, fun h hb => ?doorbell,
    fun far h hj hm => ⟨fun hd => ?here, fun hd => ?far⟩⟩
  case domainSet =>
    change execTimeDomainSet p s = _
    exact withNci_answers h (bad := by simp [Nat.not_lt.2 hp, Nat.not_lt.2 hr]) (busy := by simpa using ha)
  case domainAdj =>
    change execTimeDomainAdj p s = _
    exact withNci_answers h (denied := by simp [h2]) (acts := codeActs_ite rfl rfl)
  case tickSet =>
    change execTimeTickSet p s = _
    exact withNci_answers h (bad := decide_eq_false h3) (busy := by simp [hc, hs])
  case pulseLow =>
    change execTimePulseSet p s = _
    exact withNci_answers h (bad := hb) (state := by simp [hh])
  case pulseHigh =>
    change execTimePulseSet p s = _
    exact withNci_answers h (bad := hb) (state := by simp [hh])
  case grant =>
    change execTimeCmpGrant p s = _
    exact withNci_answers h (bad := by simp [hx]) (busy := by simp [he]) (code := by simp [hg]) (state := by simp [hg])
  case returned =>
    change execTimeCmpGrant p s = _
    exact withNci_answers h (bad := by simp [hg]) (busy := by simp [hg]) (code := by simp [hg]) (acts := codeActs_ite rfl rfl) (state := by simp [hg])
  case status =>
    change execTimeStatus p s = _
    exact withNci_answers h
  case syncE =>
    change execSynceSet p s = _
    exact withNci_answers h
  case join =>
    change execEmxJoin p ans s = _
    exact withNci_answers h (bad := by simp [Nat.not_lt.2 hx, Nat.not_lt.2 hy, Nat.not_lt.2 hz, hd, hr])
      (denied := by rcases hj with hj | hj <;> simp [hj])
  case linkStatus =>
    change execEmxLinkStatus p s = _
    exact withNci_answers h (bad := by simp [Nat.not_lt.2 hl])
  case tunnel =>
    change execEmxTunnelSet p s = _
    exact withNci_answers h (busy := ho) (bad := by simpa [Nat.not_lt.2 hk, and_assoc] using he)
  case doorbell =>
    change execEmxDoorbell p s = _
    exact withNci_answers h (bad := by simp [hb])
  case here =>
    change execEmxStatus p far s = _
    exact withNci_answers h (bad := by dsimp only; rw [hj, hm]; rfl) (words := if_pos hd)
  case far =>
    change execEmxStatus p far s = _
    exact withNci_answers h (bad := by dsimp only; rw [hj, hm]; rfl) (words := if_neg hd)

end Sys2Proof.Machine
end

section
/-!
PROOFS. The Nerzon commands of resets, power, security, pads and faults.
-/
namespace Sys2Proof.Machine

/-! ### Commands with something to follow their reply, and denied ones (R323) -/

section
variable {op : Nat} {masks : List Nat} {p : Fin 176} {s t u : State} {body : List Word → State → NciRes} {more : List Word}
  (h : asks op masks p s = true)
include h

/-- A command whose checks pass is answered OK, and what follows the reply acts on the state that holds it. -/
theorem withNci_follows (bad : (body (reqWords s p.val) s).bad = false := by rfl) (denied : (body (reqWords s p.val) s).denied = false := by rfl)
    (busy : (body (reqWords s p.val) s).busy = false := by rfl) (nores : (body (reqWords s p.val) s).nores = false := by rfl)
    (code : (body (reqWords s p.val) s).code = 0 := by rfl) (words : (body (reqWords s p.val) s).words = more := by rfl)
    (state : (body (reqWords s p.val) s).st = t := by rfl)
    (after : (body (reqWords s p.val) s).after 0 (replied s p 0 more t) = u := by rfl) : withNci op masks p s body = .next u := by
  rw [withNci_acts h bad denied busy nores (code ▸ rfl), code, words, state, after]

/-- A denied command is answered NOT_PERMITTED. -/
theorem withNci_denied (bad : (body (reqWords s p.val) s).bad = false) (denied : (body (reqWords s p.val) s).denied = true) :
    withNci op masks p s body = .next ((body (reqWords s p.val) s).after 4 (replied s p 4 [] s)) := by
  obtain ⟨htakes, ho, hknown, hstale, hres, hses, -⟩ := asks_parts h
  have hc : nciCode op (sessionCtx s p.val) masks (reqWords s p.val) (body (reqWords s p.val) s) = 4 := by
    simp [nciCode, hres, bad, denied]
  have hcarried := withNci_carried (op := op) (masks := masks) (body := body) htakes (ho ▸ hstale) ho hknown
  dsimp only at hcarried
  rw [hcarried, hc]
  rfl

end

/-! ### Reads of memory (R181, R185) -/

/-- Rewriting failed words changes memory and its flags alone. -/
theorem poisonWords_changes (s : State) (k n : Nat) : ∃ m w, poisonWords s k n = { s with mem := m, wflags := w } := by
  induction n generalizing s k with
  | zero => exact ⟨_, _, rfl⟩
  | succ n ih =>
    obtain ⟨m, w, h⟩ := ih (setFlags { s with mem := Memory.setBytes s.mem k (List.replicate 8 0#8) } k { poison := true, missing := false }) (k + 8)
    exact ⟨m, w, h⟩

/-- Rewriting the failed unit changes memory and its flags alone (R185). -/
theorem rewriteUnit_changes (s : State) (k : Nat) : ∃ m w, rewriteUnit s k = { s with mem := m, wflags := w } := by
  unfold rewriteUnit
  split
  · exact poisonWords_changes _ _ _
  · exact poisonWords_changes _ _ _

/-- A read of a word leaves the held reply and SEC alone. -/
theorem readWord_nci_sec (s : State) (a : Nat) : (readWord s a).2.nci = s.nci ∧ (readWord s a).2.sec = s.sec := by
  unfold readWord
  split
  · exact ⟨rfl, rfl⟩
  · next k _ =>
    split
    · obtain ⟨e, v, c, x, h⟩ := uncorrectableAt_changes s k a
      obtain ⟨m, w, hm⟩ := rewriteUnit_changes (uncorrectableAt s k a) k
      dsimp only
      rw [hm, h]
      exact ⟨rfl, rfl⟩
    · obtain ⟨e, v, c, h⟩ := correctedAt_changes s k a
      dsimp only
      rw [h]
      exact ⟨rfl, rfl⟩
    · exact ⟨rfl, rfl⟩

/-- So does a read of several words. -/
theorem readWords_nci_sec (s : State) (a n : Nat) : (readWords s a n).2.2.2.nci = s.nci ∧ (readWords s a n).2.2.2.sec = s.sec := by
  induction n generalizing s a with
  | zero => exact ⟨rfl, rfl⟩
  | succ n ih =>
    obtain ⟨hn, hs⟩ := ih (readWord s a).2 (a + 8)
    obtain ⟨hn1, hs1⟩ := readWord_nci_sec s a
    exact ⟨hn.trans hn1, hs.trans hs1⟩

/-- And a read of bytes. -/
theorem readBytes_nci_sec (s : State) (a len : Nat) : (readBytes s a len).2.2.2.nci = s.nci ∧ (readBytes s a len).2.2.2.sec = s.sec :=
  readWords_nci_sec s _ _

/-! ### Each command -/

section
variable {p : Fin 176} {s : State}

/-- RESET is answered, and the level it asks for waits with the reply (R410). -/
theorem execReset_held (h : asks 0x0802 [3] p s = true) (hl : tf (reqWords s p.val) 1 1 0 = 1 ∨ tf (reqWords s p.val) 1 1 0 = 2) :
    let q : NciReply := { pair := p.val, code := 0, words := replyWords (reqWords s p.val) 0 [], reset := some (tf (reqWords s p.val) 1 1 0) }
    execReset p s = .next { s with nci := some q } :=
  withNci_follows h (bad := by rcases hl with hl | hl <;> simp [hl])

/-- A value within its envelope stays. -/
theorem envelope_within {x lo hi : Nat} (hlo : lo ≤ x) (hhi : x ≤ hi) : envelope x lo hi = x := by
  rw [envelope, if_neg (Nat.not_lt.2 hlo), if_neg (Nat.not_lt.2 hhi)]

/-- POWER_SET of values within their envelopes (R399). -/
theorem execPowerSet_within (h : asks 0x0803 [0x00FF01FF, 0x03FF03FF] p s = true) (ht : 70 ≤ tf (reqWords s p.val) 1 23 16)
    (ht' : tf (reqWords s p.val) 1 23 16 ≤ 105) (hc : 150 ≤ tf (reqWords s p.val) 1 8 0) (hc' : tf (reqWords s p.val) 1 8 0 ≤ 320)
    (hv : 650 ≤ tf (reqWords s p.val) 2 9 0) (hv' : tf (reqWords s p.val) 2 9 0 ≤ tf (reqWords s p.val) 2 25 16)
    (hm : tf (reqWords s p.val) 2 25 16 ≤ 850) :
    let c : Crp := { s.crp with twarn := tf (reqWords s p.val) 1 23 16, cap := tf (reqWords s p.val) 1 8 0, vmax := tf (reqWords s p.val) 2 25 16,
                                vmin := tf (reqWords s p.val) 2 9 0 }
    execPowerSet p s = .next (replied s p 0
      [mkWord [(tf (reqWords s p.val) 1 23 16, 16), (tf (reqWords s p.val) 1 8 0, 0)],
       mkWord [(tf (reqWords s p.val) 2 25 16, 16), (tf (reqWords s p.val) 2 9 0, 0)]]
      { s with crp := c, sts := { s.sts with thermal := aboveTwarn c } }) := by
  have hvmax := envelope_within (Nat.le_trans hv hv') hm
  have htw := envelope_within ht ht'
  have hcap := envelope_within hc hc'
  have hvmin := envelope_within hv hv'
  exact withNci_answers h (code := by simp [hvmax, htw, hcap, hvmin]) (words := by simp [hvmax, htw, hcap, hvmin])
    (state := by simp [hvmax, htw, hcap, hvmin])

/-- DEBUG_UNLOCK with a response that verifies opens its scope and uses the nonce up (R407). -/
theorem execDebugUnlock_opens {n : Nat} (h : asks 0x0805 [0xF, 0xFFFFFFFF, 0xFF] p s = true)
    (ha : dword (wordAt (reqWords s p.val) 2) (wordAt (reqWords s p.val) 3) + 193 ≤ 0x0C00000000) (hn : s.sec.nonce = some n)
    (hb : s.sec.bootcfg.getLsbD 5 = false)
    (hu : unlockOk s.sec n (tf (reqWords s p.val) 1 3 0) (readBytes s (dword (wordAt (reqWords s p.val) 2) (wordAt (reqWords s p.val) 3)) 193).1 = true) :
    let r := readBytes s (dword (wordAt (reqWords s p.val) 2) (wordAt (reqWords s p.val) 3)) 193
    execDebugUnlock p s = .next (replied s p 0 []
      { r.2.2.2 with sec := { r.2.2.2.sec with nonce := none, scope := BitVec.ofNat 4 (tf (reqWords s p.val) 1 3 0) } }) :=
  withNci_follows h (bad := decide_eq_false (Nat.not_lt.2 ha)) (denied := by dsimp only; rw [hn, hb]; dsimp only; rw [hu]; rfl)

/-- One with a response that does not verify is denied, counted, and uses the nonce up (R407). -/
theorem execDebugUnlock_fails {n : Nat} (h : asks 0x0805 [0xF, 0xFFFFFFFF, 0xFF] p s = true)
    (ha : dword (wordAt (reqWords s p.val) 2) (wordAt (reqWords s p.val) 3) + 193 ≤ 0x0C00000000) (hn : s.sec.nonce = some n)
    (hu : unlockOk s.sec n (tf (reqWords s p.val) 1 3 0) (readBytes s (dword (wordAt (reqWords s p.val) 2) (wordAt (reqWords s p.val) 3)) 193).1 = false) :
    let t := (readBytes (replied s p 4 [] s) (dword (wordAt (reqWords s p.val) 2) (wordAt (reqWords s p.val) 3)) 193).2.2.2
    execDebugUnlock p s = .next { t with sec := { t.sec with nonce := none, failures := t.sec.failures + 1 } } := by
  obtain ⟨-, -, -, -, -, hses, -⟩ := asks_parts h
  refine (withNci_denied h (decide_eq_false (Nat.not_lt.2 ha)) (by simp [hn, hu])).trans ?_
  dsimp only
  rw [if_pos (by simp [hses, hn])]

/-- FAULT_UNIT_SET of a unit that it may change (R423). -/
theorem execFaultUnitSet_sets (h : asks 0x0902 [0x1FFFF] p s = true) (hk : unitKnown (tf (reqWords s p.val) 1 15 0) = true)
    (hl : tf (reqWords s p.val) 1 15 0 ≠ 0x7000)
    (hd : decide (tf (reqWords s p.val) 1 16 16 = 1) = false → (unitOf s (tf (reqWords s p.val) 1 15 0)).state ≠ 3) :
    let u := tf (reqWords s p.val) 1 15 0
    let dis := decide (tf (reqWords s p.val) 1 16 16 = 1)
    let later := carriesWork s u && decide ((unitOf s u).state ≠ 3)
    execFaultUnitSet p s = .next (replied s p (if later then 6 else 0) []
      (if later then updUnit s u (askUnit dis 2) else updUnit s u fun e => setUnit e dis 2)) :=
  withNci_answers h (bad := by simp [hk, hl]) (denied := by simpa [retired] using hd) (acts := codeActs_ite rfl rfl)

/-- SEC_COMMIT_VERSION is answered, the pulse starts and the reply waits for its end (R404). -/
theorem execSecCommitVersion_waits (h : asks 0x0807 [] p s = true) (hr : s.sec.imgRevoke.getLsbD s.sec.kslot = false) :
    let q : NciReply := { pair := p.val, code := 0, words := replyWords (reqWords s p.val) 0 [], waits := 1 }
    execSecCommitVersion p s = .next { replied s p 0 [] { s with sec := { s.sec with pulse := otpNeeds s.sec } } with nci := some q } :=
  withNci_follows h (denied := hr)

/-- PIN_SET is answered, the pad's setting is written and the reply waits for it (R439). -/
theorem execPinSet_waits (h : asks 0x0808 [0x3311F] p s = true) (h3 : tf (reqWords s p.val) 1 13 12 ≠ 3) :
    let k := tf (reqWords s p.val) 1 4 0
    let q : NciReply := { pair := p.val, code := 0, words := replyWords (reqWords s p.val) 0 [], waits := 2 + k }
    execPinSet p s = .next { replied s p 0 [] (padWrite s k (pinSetWord (reqWords s p.val))) with nci := some q } :=
  withNci_follows h (bad := decide_eq_false h3)

end

/-- Settles O50, command by command: the checks the request passes, its effect and its reply. -/
theorem nciControl : Obligations.NciControl := by
  unfold Obligations.NciControl
  intro p s
  dsimp only
  refine ⟨fun h => ?status, fun h hs hf => ?clkout, fun h hl => ⟨execReset_held h hl, fun _ => rfl⟩,
    fun h ⟨ht, ht'⟩ ⟨hc, hc'⟩ ⟨hv, hv', hm⟩ => execPowerSet_within h ht ht' hc hc' hv hv' hm, fun h hb hf => ?challenge,
    fun n h ha hn hb => ⟨execDebugUnlock_opens h ha hn hb, fun hu => ?unlockFails⟩, fun h => ?secStatus, fun h hr => ?commit, fun h h3 => ?pinSet,
    fun h => ?gpio, fun h hb hl => ?logRead, ⟨fun h hk => ?unitGet, fun h hk hl hd => ⟨fun hw => ?unitNow, fun hw he => ?unitLater⟩⟩,
    fun h => ?telemetry, fun h h1 h15 hd => ?inject, fun h hg hb hd => ?trace⟩
  case status =>
    change execCrpStatus p s = _
    exact withNci_answers h
  case clkout =>
    change execClkoutSet p s = _
    exact withNci_answers h (bad := by simp [Nat.not_lt.2 hs, Nat.not_lt.2 hf])
  case challenge =>
    refine ⟨Config.nonce s.free % 2 ^ 256, Nat.mod_lt _ (Nat.two_pow_pos 256), ?_⟩
    change execDebugChallenge p s = _
    exact withNci_answers h (denied := by dsimp only; rw [hb, decide_eq_false (Nat.not_le.2 hf)]; rfl)
  case unlockFails =>
    refine ⟨_, execDebugUnlock_fails h ha hn hu, ?_⟩
    obtain ⟨hnci, hsec⟩ := readBytes_nci_sec (replied s p 4 [] s) (dword (wordAt (reqWords s p.val) 2) (wordAt (reqWords s p.val) 3)) 193
    dsimp only
    rw [hnci, hsec]
    exact ⟨rfl, rfl, rfl, rfl⟩
  case secStatus =>
    change execSecStatus p s = _
    exact withNci_answers h
  case commit => exact ⟨_, execSecCommitVersion_waits h hr, rfl, rfl⟩
  case pinSet => exact ⟨_, execPinSet_waits h h3, rfl, rfl⟩
  case gpio =>
    change execGpioSet p s = _
    exact withNci_answers h
  case logRead =>
    change execFaultLogRead p s = _
    exact withNci_answers h (bad := by dsimp only; rw [decide_eq_false (fun hn => hn hb), decide_eq_false (Nat.not_lt.2 hl)]; rfl)
  case unitGet =>
    change execFaultUnitGet p s = _
    exact withNci_answers h (bad := by simp [hk])
  case unitNow =>
    have hlater : (carriesWork s (tf (reqWords s p.val) 1 15 0) && decide ((unitOf s (tf (reqWords s p.val) 1 15 0)).state ≠ 3)) = false := by
      rcases hw with hw | hw <;> simp [hw]
    refine (execFaultUnitSet_sets h hk hl hd).trans ?_
    rw [hlater]
    rfl
  case unitLater =>
    refine (execFaultUnitSet_sets h hk hl hd).trans ?_
    rw [hw, decide_eq_true he]
    rfl
  case telemetry =>
    change execTelemetryGet p s = _
    exact withNci_answers h
  case inject =>
    change execFaultInject p s = _
    exact withNci_follows h (bad := by simp only [Bool.or_eq_false_iff, decide_eq_false_iff_not]; omega) (denied := by simp [hd])
  case trace =>
    let kept := s.err.frozen.filter fun x => decide (x.1 ≠ tf (reqWords s p.val) 1 4 0)
    refine ⟨draw { s with err := { s.err with frozen := (tf (reqWords s p.val) 1 4 0, s.time.clk) :: kept } }, Config.traceBytes (s.free + 1), ?_, rfl,
      List.mem_cons_self⟩
    change execFaultTrace p s = _
    exact withNci_answers h (bad := by simp only [Bool.or_eq_false_iff, decide_eq_false_iff_not]; omega) (denied := by simp [hd])

end Sys2Proof.Machine
end

section
/-!
PROOFS. The pins and events that assert a reset (R381 to R394, R400, R409, R410) and the block resets (R393).
-/
namespace Sys2Proof.Machine

/-! ### A reset of a level that nothing holds back (R392) -/

section
variable {s : State}

/-- With no OTP pulse running and no higher level in progress a reset acts at once. -/
theorem assertReset_now {held level cause : Nat} (hp : s.sec.pulse = false) (h : held ≤ level) :
    assertReset s held level cause = resetNow s level cause := by
  rw [assertReset, if_neg (by rw [hp]; decide), if_neg (Nat.not_lt.2 h)]

/-! ### Pins, clocks, temperature and watchdog -/

/-- PORST_N falls. -/
theorem execPorstN_falls (hp : s.sec.pulse = false) : execPorstN false s = .next (powerReset { s with crp := { s.crp with porstLow := true } }) :=
  congrArg Host.Outcome.next (assertReset_now (level := 3) hp (Nat.le_refl 3))

/-- PORST_N rises. -/
theorem execPorstN_rises (h : s.crp.porstLow = true) : execPorstN true s =
    .next { draw s with crp := { s.crp with porstLow := false }, pin := { s.pin with bootSel := Config.bootSelPin (s.free + 1) } } :=
  congrArg Host.Outcome.next (if_pos h)

/-- The oscillator count ends while neither pin nor stopped reference hold it. -/
theorem execOscillatorCountEnd_ends (hp : s.crp.porstLow = false) (ho : s.crp.oscDone = false) (hr : s.crp.stopRef = false) :
    execOscillatorCountEnd s = .next (release { s with crp := { s.crp with oscDone := true } }) := by
  simp [execOscillatorCountEnd, hp, ho, hr]

/-- SYS_RST_N falls. -/
theorem execSysRstN_falls (hp : s.sec.pulse = false) (hl : levelHeld s.crp ≤ 2) :
    execSysRstN false s = .next (resetNow { s with crp := { s.crp with sysLow := true } } 2 2) :=
  congrArg Host.Outcome.next (assertReset_now hp hl)

/-- SYS_RST_N rises. -/
theorem execSysRstN_rises (h : s.crp.sysLow = true) : execSysRstN true s = .next (release { s with crp := { s.crp with sysLow := false } }) := by
  simp [execSysRstN, h]

/-- The reference stops (R384, R388). -/
theorem execClockStop_reference (hp : s.sec.pulse = false) (hl : levelHeld s.crp ≤ 2) : execClockStop 8 s =
    .next (resetNow (deviceEvent { s with crp := { s.crp with stopRef := true, monRef := true, refHold := true } }) 2 8) :=
  congrArg Host.Outcome.next (assertReset_now hp hl)

/-- The state in which a PLL has stopped (R384). -/
def pllStopped (s : State) (k : Nat) : State :=
  deviceEvent { s with crp := { s.crp with stopPll := setBit s.crp.stopPll k true, monPll := setBit s.crp.monPll k true,
                                           pllLock := setBit s.crp.pllLock k false } }

/-- A PLL stops: Nerzon asserts a system reset for one in use, but for its own (R387). -/
theorem execClockStop_pll {k : Fin 9} (hk : k.val < 8) : execClockStop k s =
    .next (if decide (s.sts.state = 3) && decide (k.val ≠ 2) && pllInUse s k.val then assertReset (pllStopped s k.val) (levelHeld s.crp) 2 8
      else pllStopped s k.val) := by
  rw [execClockStop, if_neg (Nat.ne_of_lt hk)]
  rfl

/-- The reference returns and releases what it held (R388). -/
theorem execReferenceReturn_releases (hs : s.crp.stopRef = true) (hh : s.crp.refHold = true) :
    execReferenceReturn s = .next (release { s with crp := { s.crp with stopRef := false, refHold := false } }) := by
  rw [execReferenceReturn, if_pos hs, if_pos hh]

/-- A PLL in lock loses it (R382, R411). -/
theorem execPllLockLoss_locked {k : Fin 8} (h : s.crp.pllLock.getLsbD k.val = true) : execPllLockLoss k s =
    .next (logErr { s with crp := { s.crp with pllLost := setBit s.crp.pllLost k.val true, pllLock := setBit s.crp.pllLock k.val false } }
      0x0E 0 0x8003 0 0 false) :=
  congrArg Host.Outcome.next (if_pos h)

/-- The cores disagree (R390). -/
theorem execLockstepMismatch_resets (hp : s.sec.pulse = false) (hl : levelHeld s.crp ≤ 1) : execLockstepMismatch s = .next (resetNow s 1 6) :=
  congrArg Host.Outcome.next (assertReset_now hp hl)

/-- From 115 °C a system reset is asserted and held (R400). -/
theorem execOvertemp_resets {tj : BitVec 8} (h : 115 ≤ tj.toInt) (hp : s.sec.pulse = false) (hl : levelHeld s.crp ≤ 2) :
    execOvertemp tj s = .next (resetNow { s with crp := { s.crp with tj := tj, tempHold := true } } 2 7) := by
  rw [execOvertemp, if_pos h]
  exact congrArg _ (assertReset_now hp hl)

/-- Below it nothing happens. -/
theorem execOvertemp_below {tj : BitVec 8} (h : tj.toInt < 115) : execOvertemp tj s = .next s := by
  rw [execOvertemp, if_neg (Int.not_le.2 h)]

/-- The temperature recovers and releases what it held (R400). -/
theorem execOvertempRecovery_releases (h : s.crp.tempHold = true) :
    execOvertempRecovery s = .next (release { s with crp := { s.crp with tempHold := false, tj := 95 } }) := by
  rw [execOvertempRecovery, if_pos h]

/-- Level 1 of CRP_RESET_CTL is a core reset, level 2 a system reset (R409). -/
theorem execCrpResetCtl_core (hp : s.sec.pulse = false) (hl : levelHeld s.crp ≤ 1) : execCrpResetCtl 1 s = .next (resetNow s 1 4) :=
  congrArg Host.Outcome.next (assertReset_now hp hl)

@[inherit_doc execCrpResetCtl_core]
theorem execCrpResetCtl_system (hp : s.sec.pulse = false) (hl : levelHeld s.crp ≤ 2) : execCrpResetCtl 2 s = .next (resetNow s 2 3) :=
  congrArg Host.Outcome.next (assertReset_now hp hl)

/-- A RESET that was answered: what its event does (R410). -/
theorem execResetTakesEffect_of_pending {l t : Nat} (h : s.crp.resetPend = some (l, t)) : execResetTakesEffect s =
    if t + 1000000 ≤ s.time.clk then
      .next (assertReset { s with crp := { s.crp with resetPend := none } } (levelHeld s.crp) l (if l = 1 then 4 else 3)) else .next s := by
  rw [execResetTakesEffect, h]

/-- The watchdog's period is over: a core reset, or a system reset where Nerzon's own clock has stopped (R387, R394). -/
theorem execWatchdogExpiry_expired (he : s.crp.wdtEn = true) (ht : s.crp.wdtAt + s.crp.wdtPeriod * 1000000 ≤ s.time.clk) :
    execWatchdogExpiry s =
      .next (if s.crp.stopPll.getLsbD 2 then assertReset s (levelHeld s.crp) 2 8 else assertReset s (levelHeld s.crp) 1 5) := by
  rw [Nat.mul_comm] at ht
  rw [execWatchdogExpiry, if_pos (by rw [he, decide_eq_true ht]; rfl)]

/-- An event of a watchdog that is off or has not run out does nothing. -/
theorem execWatchdogExpiry_running (h : s.crp.wdtEn = false ∨ s.time.clk < s.crp.wdtAt + s.crp.wdtPeriod * 1000000) :
    execWatchdogExpiry s = .next s := by
  rw [execWatchdogExpiry, if_neg]
  rw [Bool.and_eq_true, decide_eq_true_iff, Nat.mul_comm]
  rintro ⟨he, ht⟩
  rcases h with h | h
  · rw [h] at he
    exact Bool.false_ne_true he
  · exact Nat.not_lt.2 ht h

/-! ### Block resets (R393) -/

variable {v : Word}

/-- A write without the start bit sets the fields alone. -/
theorem crpBlkRst_fields (h : v.getLsbD 31 = false) :
    crpBlkRst s v = .next { s with crp := { s.crp with blkGal := v.getLsbD 12, blkG := fld v.toNat 11 8, blkP := fld v.toNat 3 0 } } := by
  unfold crpBlkRst
  dsimp only
  rw [if_pos (by rw [h]; rfl)]

/-- A start of a chamber's block reset. -/
theorem crpBlkRst_chamber (h : v.getLsbD 31 = true) (hc : v.getLsbD 12 = false) : crpBlkRst s v =
    if 9 ≤ fld v.toNat 3 0 then .next { s with crp := { s.crp with blkGal := false, blkG := fld v.toNat 11 8, blkP := fld v.toNat 3 0 } }
    else if chmIdle s (fld v.toNat 11 8 * 9 + fld v.toNat 3 0) then
      .next (resetChamber { s with crp := { s.crp with blkGal := false, blkG := fld v.toNat 11 8, blkP := fld v.toNat 3 0, blkBusy := true } }
        (fld v.toNat 11 8 * 9 + fld v.toNat 3 0))
    else .fault .blockResetBusy := by
  unfold crpBlkRst
  dsimp only
  rw [if_neg (by rw [h]; decide), hc, if_neg Bool.false_ne_true]

/-- Is a gallery idle: its nine chambers and its four siphons? -/
def galleryIdle (s : State) (g : Nat) : Bool :=
  (galleryChms g).all (chmIdle s) && [0, 1, 2, 3].all fun k => (siphOf s (288 + 4 * g + k)).queue.isEmpty && (siphOf s (288 + 4 * g + k)).chain.isNone

/-- A start of a gallery's block reset. -/
theorem crpBlkRst_gallery (h : v.getLsbD 31 = true) (hg : v.getLsbD 12 = true) : crpBlkRst s v =
    if galleryIdle s (fld v.toNat 11 8) then
      .next (resetGallery { s with crp := { s.crp with blkGal := true, blkG := fld v.toNat 11 8, blkP := fld v.toNat 3 0, blkBusy := true } }
        (fld v.toNat 11 8))
    else .fault .blockResetBusy := by
  unfold crpBlkRst
  dsimp only
  rw [if_neg (by rw [h]; decide), hg, if_pos rfl]
  rfl

/-- A gallery is idle where each of its chambers is and no siphon of it has work. -/
theorem galleryIdle_iff (g : Nat) : galleryIdle s g = true ↔ (∀ n ∈ galleryChms g, chmIdle s n = true) ∧
    ∀ k, k < 4 → (siphOf s (288 + 4 * g + k)).queue = [] ∧ (siphOf s (288 + 4 * g + k)).chain = none := by
  rw [galleryIdle, Bool.and_eq_true, List.all_eq_true, List.all_eq_true]
  refine and_congr_right fun _ => forall_congr' fun k => ?_
  have hk : k ∈ [0, 1, 2, 3] ↔ k < 4 := by simp; omega
  rw [hk, Bool.and_eq_true, List.isEmpty_iff, Option.isNone_iff_eq_none]

end

/-- Settles O51, event by event: what the event does with its cause, and that a reset which nothing holds back acts at once. -/
theorem resetEvents : Obligations.ResetEvents := by
  unfold Obligations.ResetEvents
  intro s
  dsimp only
  refine ⟨execPorstN_falls, fun h => ⟨_, execPorstN_rises h, rfl, rfl⟩, execOscillatorCountEnd_ends, execSysRstN_falls, execSysRstN_rises,
    execClockStop_reference, fun k hk h2 hs hu hp hl => ?pllReset, fun k hk h => ?pllStop, execReferenceReturn_releases,
    fun k h => execPllLockLoss_locked h, execLockstepMismatch_resets, fun tj h => execOvertemp_resets h, fun tj h => execOvertemp_below h,
    execOvertempRecovery_releases, execCrpResetCtl_core, execCrpResetCtl_system, rfl, fun l t h ht hp hl => ?resetDue,
    fun l t h ht => (execResetTakesEffect_of_pending h).trans (if_neg (Nat.not_le.2 ht)),
    fun he ht => ⟨fun hc hp hl => ?watchdog, fun hc hp hl => ?watchdogStopped⟩, fun h => execWatchdogExpiry_running (.inr h),
    fun h => execWatchdogExpiry_running (.inl h), fun v h hc => ⟨fun h9 hi => ?chmReset, fun h9 hi => ?chmBusy, fun h9 => ?chmNone⟩,
    fun v h hg => ⟨fun hq => ?galReset, fun hq => ?galBusy⟩, fun v h => crpBlkRst_fields h, rfl⟩
  case pllReset =>
    refine (execClockStop_pll hk).trans ?_
    rw [if_pos (by rw [decide_eq_true hs, decide_eq_true h2, hu]; rfl)]
    exact congrArg _ (assertReset_now hp hl)
  case pllStop =>
    refine ⟨pllStopped s k.val, (execClockStop_pll hk).trans ?_, rfl, rfl, rfl⟩
    rw [if_neg]
    simp only [Bool.and_eq_true, decide_eq_true_iff, not_and, Bool.not_eq_true]
    rintro ⟨hs, h2⟩
    exact (h.resolve_left (· hs)).resolve_left h2
  case resetDue => exact ((execResetTakesEffect_of_pending h).trans (if_pos ht)).trans (congrArg _ (assertReset_now hp hl))
  case watchdog =>
    refine (execWatchdogExpiry_expired he ht).trans ?_
    rw [if_neg (by rw [hc]; decide)]
    exact congrArg _ (assertReset_now hp hl)
  case watchdogStopped =>
    refine (execWatchdogExpiry_expired he ht).trans ?_
    rw [if_pos hc]
    exact congrArg _ (assertReset_now hp hl)
  case chmReset => exact ((crpBlkRst_chamber h hc).trans (if_neg (Nat.not_le.2 h9))).trans (if_pos hi)
  case chmBusy => exact ((crpBlkRst_chamber h hc).trans (if_neg (Nat.not_le.2 h9))).trans (if_neg (by rw [hi]; decide))
  case chmNone => exact (crpBlkRst_chamber h hc).trans (if_pos h9)
  case galReset => exact (crpBlkRst_gallery h hg).trans (if_pos ((galleryIdle_iff _).2 hq))
  case galBusy => exact (crpBlkRst_gallery h hg).trans (if_neg (mt (galleryIdle_iff _).1 hq))

end Sys2Proof.Machine
end

section
/-!
PROOFS. Flits as bytes (R366): the bytes of a flit give the flit back.
-/
namespace Sys2Proof.Machine

/-! ### Little-endian numbers (R6) -/

/-- A value has as many bytes as it is given. -/
@[simp] theorem leBytes_length (v n : Nat) : (leBytes v n).length = n := by
  induction n generalizing v with
  | zero => rfl
  | succ n ih => rw [leBytes, List.length_cons, ih]

/-- The bytes of a value give it back, up to their number. -/
theorem leNat_leBytes (v n : Nat) : leNat (leBytes v n) = v % 256 ^ n := by
  induction n generalizing v with
  | zero => rw [Nat.pow_zero, Nat.mod_one]; rfl
  | succ n ih => rw [leBytes, leNat, ih, BitVec.toNat_ofNat, Nat.pow_succ' (m := 256)]; exact Nat.mod_mul.symm

/-- Bytes that fit the value give it back exactly. -/
theorem leNat_leBytes_of_lt {v n : Nat} (h : v < 256 ^ n) : leNat (leBytes v n) = v := by rw [leNat_leBytes, Nat.mod_eq_of_lt h]

/-- Later bytes are the higher ones. -/
theorem leNat_append (as bs : List Byte) : leNat (as ++ bs) = leNat as + 256 ^ as.length * leNat bs := by
  induction as with
  | nil => rw [List.nil_append, List.length_nil, Nat.pow_zero, Nat.one_mul]; exact (Nat.zero_add _).symm
  | cons a as ih => rw [List.cons_append, leNat, leNat, ih, List.length_cons, Nat.pow_succ', Nat.mul_add, Nat.mul_assoc, Nat.add_assoc]

/-! ### The CRC has 32 bits -/

/-- A byte shifted in leaves a register of 32 bits. -/
theorem crc32cByte_lt {reg : Nat} (b : Byte) (h : reg < 2 ^ 32) : crc32cByte reg b < 2 ^ 32 := by
  have hb : b.toNat < 2 ^ 32 := Nat.lt_of_lt_of_le b.isLt (by decide)
  refine List.foldlRecOn (motive := (· < 2 ^ 32)) _ _ (Nat.xor_lt_two_pow h hb) fun r hr _ _ => ?_
  have half : r / 2 < 2 ^ 32 := Nat.lt_of_le_of_lt (Nat.div_le_self r 2) hr
  split
  · exact Nat.xor_lt_two_pow half (by decide)
  · exact half

/-- A CRC has 32 bits. -/
theorem crc32c_lt (bs : List Byte) : crc32c bs < 2 ^ 32 :=
  Nat.xor_lt_two_pow (List.foldlRecOn (motive := (· < 2 ^ 32)) bs _ (by decide) fun _ hr b _ => crc32cByte_lt b hr) (by decide)

/-! ### The fields of a flit (log entry 34) -/

/-- One virtual channel's credits in its place. -/
def creditAt (cred : List Nat) (v : Nat) : Nat := cred.getD v 0 % 16 * 2 ^ (4 * v)

/-- The credits of a flit as one word, four bits each. -/
def creditWord (cred : List Nat) : Nat := ((List.range 6).map (creditAt cred)).sum

/-- The sequence and acknowledgement word of a flit. -/
def seqWord (f : Flit) : Nat := f.seq.toNat + 2 ^ 16 * (f.ack.toNat + 2 ^ 15 * b2n f.nak)

/-- The bytes of a flit before its CRC. -/
def flitBody (f : Flit) : List Byte :=
  leBytes f.seq.toNat 2 ++ leBytes (f.ack.toNat + 2 ^ 15 * b2n f.nak) 2 ++ leBytes (creditWord f.cred) 4 ++ padTo 244 f.slots

/-- A flit's bytes are its body and the CRC of it. -/
theorem flitBytes_eq (f : Flit) : flitBytes f = flitBody f ++ leBytes (crc32c (flitBody f)) 4 := rfl

/-- A sum over the six virtual channels. -/
theorem sum_map_range_six (g : Nat → Nat) : ((List.range 6).map g).sum = g 0 + (g 1 + (g 2 + (g 3 + (g 4 + (g 5 + 0))))) := rfl

/-- The credit word written out, a digit for each virtual channel. -/
theorem creditWord_eq (cred : List Nat) : creditWord cred = cred.getD 0 0 % 16 * 1 + (cred.getD 1 0 % 16 * 16 + (cred.getD 2 0 % 16 * 256 +
    (cred.getD 3 0 % 16 * 4096 + (cred.getD 4 0 % 16 * 65536 + cred.getD 5 0 % 16 * 1048576)))) := by
  have h0 : creditAt cred 0 = cred.getD 0 0 % 16 * 1 := rfl
  have h1 : creditAt cred 1 = cred.getD 1 0 % 16 * 16 := rfl
  have h2 : creditAt cred 2 = cred.getD 2 0 % 16 * 256 := rfl
  have h3 : creditAt cred 3 = cred.getD 3 0 % 16 * 4096 := rfl
  have h4 : creditAt cred 4 = cred.getD 4 0 % 16 * 65536 := rfl
  have h5 : creditAt cred 5 = cred.getD 5 0 % 16 * 1048576 := rfl
  rw [creditWord, sum_map_range_six, h0, h1, h2, h3, h4, h5, Nat.add_zero]

/-- The credit word has 32 bits, and each of its digits is the credits of one virtual channel. -/
theorem creditWord_digits (cred : List Nat) :
    creditWord cred < 2 ^ 32 ∧ ∀ v, v < 6 → creditWord cred / 2 ^ (4 * v) % 16 = cred.getD v 0 % 16 := by
  have h := creditWord_eq cred
  refine ⟨by omega, fun v hv => ?_⟩
  obtain rfl | rfl | rfl | rfl | rfl | rfl : v = 0 ∨ v = 1 ∨ v = 2 ∨ v = 3 ∨ v = 4 ∨ v = 5 := by omega
  all_goals omega

/-- Six credits of four bits are read back from their word. -/
theorem creditWord_cred {cred : List Nat} (hl : cred.length = 6) (hc : ∀ c ∈ cred, c < 16) :
    (List.range 6).map (fun v => creditWord cred / 2 ^ (4 * v) % 16) = cred := by
  refine List.ext_getElem (by rw [List.length_map, List.length_range, hl]) fun v hv hv' => ?_
  rw [List.getElem_map, List.getElem_range, (creditWord_digits cred).2 v (hl ▸ hv'), List.getD_eq_getElem?_getD,
    List.getElem?_eq_getElem hv', Option.getD_some, Nat.mod_eq_of_lt (hc _ (List.getElem_mem hv'))]

/-- A Boolean as a bit is at most 1. -/
theorem b2n_le_one (b : Bool) : b2n b ≤ 1 := by cases b <;> decide

/-- The sequence word read back. -/
theorem seqWord_fields (f : Flit) :
    BitVec.ofNat 12 (seqWord f) = f.seq ∧ BitVec.ofNat 12 (seqWord f / 2 ^ 16) = f.ack ∧ bitAt (seqWord f) 31 = f.nak := by
  have hs := f.seq.isLt
  have ha := f.ack.isLt
  have hn := b2n_le_one f.nak
  refine ⟨BitVec.eq_of_toNat_eq ?_, BitVec.eq_of_toNat_eq ?_, ?_⟩
  · rw [BitVec.toNat_ofNat, seqWord]
    omega
  · rw [BitVec.toNat_ofNat, seqWord]
    omega
  · have hbit : seqWord f / 2 ^ 31 % 2 = b2n f.nak := by rw [seqWord]; omega
    rw [bitAt, Nat.shiftRight_eq_div_pow, hbit]
    cases f.nak <;> rfl

section
variable {f : Flit} (hs : f.slots.length = 244)
include hs

/-- Full slots are not padded. -/
theorem padTo_slots : padTo 244 f.slots = f.slots := by rw [padTo, hs, Nat.sub_self, List.replicate_zero, List.append_nil]

/-- A body has 252 bytes. -/
theorem flitBody_length : (flitBody f).length = 252 := by
  simp only [flitBody, padTo_slots hs, List.length_append, leBytes_length, hs]

/-- The parts of a flit's bytes: the body and the CRC, and in it the two words and the slots. -/
theorem flitBytes_parts : (flitBytes f).length = 256 ∧ (flitBytes f).take 252 = flitBody f ∧ (flitBytes f).drop 252 = leBytes (crc32c (flitBody f)) 4 ∧
    (flitBytes f).take 4 = leBytes f.seq.toNat 2 ++ leBytes (f.ack.toNat + 2 ^ 15 * b2n f.nak) 2 ∧
    ((flitBytes f).drop 4).take 4 = leBytes (creditWord f.cred) 4 ∧ ((flitBytes f).drop 8).take 244 = f.slots := by
  have hb := flitBody_length hs
  refine ⟨?_, ?_, ?_, ?_, ?_, ?_⟩
  · rw [flitBytes_eq, List.length_append, hb, leBytes_length]
  · rw [flitBytes_eq, List.take_left' hb]
  · rw [flitBytes_eq, List.drop_left' hb]
  · rw [flitBytes_eq, flitBody, List.append_assoc, List.append_assoc, List.take_left' (by simp)]
  · rw [flitBytes_eq, flitBody, List.append_assoc, List.append_assoc, List.drop_left' (by simp), List.take_left' (by simp)]
  · rw [flitBytes_eq, flitBody, padTo_slots hs, List.append_assoc, List.drop_left' (by simp), List.take_left' hs]

/-- The first word of a flit's bytes. -/
theorem leNat_take_flitBytes : leNat ((flitBytes f).take 4) = seqWord f := by
  obtain ⟨-, -, -, hw, -, -⟩ := flitBytes_parts hs
  have hseq : f.seq.toNat < 256 ^ 2 := Nat.lt_of_lt_of_le f.seq.isLt (by decide)
  have hack : f.ack.toNat + 2 ^ 15 * b2n f.nak < 256 ^ 2 := by
    have ha := f.ack.isLt
    have hn := b2n_le_one f.nak
    omega
  rw [hw, leNat_append, leNat_leBytes_of_lt hseq, leNat_leBytes_of_lt hack, leBytes_length]
  exact congrArg (fun k => f.seq.toNat + k * _) (by decide : 256 ^ 2 = 2 ^ 16)

/-- The bytes of a flit give the flit back. -/
theorem flitOf_flitBytes (hl : f.cred.length = 6) (hc : ∀ c ∈ f.cred, c < 16) : flitOf (flitBytes f) = some f := by
  obtain ⟨hlen, hbody, hcrc, -, hcred, hslots⟩ := flitBytes_parts hs
  obtain ⟨hw, -⟩ := creditWord_digits f.cred
  obtain ⟨hseq, hack, hnak⟩ := seqWord_fields f
  have hsum : crc32c (flitBody f) = leNat (leBytes (crc32c (flitBody f)) 4) := (leNat_leBytes_of_lt (crc32c_lt _)).symm
  rw [flitOf, if_pos (by rw [hlen, hbody, hcrc, decide_eq_true hsum]; rfl)]
  dsimp only
  rw [leNat_take_flitBytes hs, hseq, hack, hnak, hcred, leNat_leBytes_of_lt hw, creditWord_cred hl hc, hslots]

end

end Sys2Proof.Machine
end

section
/-!
PROOFS. The Emaux links (R366 to R369, R371, R373 to R375).
-/
namespace Sys2Proof.Machine

section
variable {s : State}

/-- A changed link reads as the change made it. -/
theorem elinkOf_updLink_same (l : Nat) (f : ELink → ELink) (w : Tab.wf {} s.emx.links = true) : elinkOf (updLink s l f) l = f (elinkOf s l) :=
  Tab.get_upd_same w

variable {l : Fin 6}

/-! ### Flits received (R366, R367) -/

/-- A link that is not up takes no flit. -/
theorem execFlitReceive_down {bytes : List Byte} (hx : (elinkOf s l.val).state < 2) : execFlitReceive l bytes s = .next s := if_pos hx

/-- A link that is up answers a flit with a bad CRC by a nak. -/
theorem execFlitReceive_badCrc {bytes : List Byte} (hx : 2 ≤ (elinkOf s l.val).state) (h : flitOf bytes = none) :
    execFlitReceive l bytes s = .next (answerFlit s l.val true) := by
  rw [execFlitReceive, h]
  exact if_neg (Nat.not_lt.2 hx)

/-- What a link that is up does with a good flit, by its sequence number. -/
theorem execFlitReceive_good {bytes : List Byte} {f : Flit} (hx : 2 ≤ (elinkOf s l.val).state) (h : flitOf bytes = some f) :
    let t := takeAck s l.val f
    let y := elinkOf t l.val
    execFlitReceive l bytes s =
      if emptyFlit f && decide (f.seq = y.rxSeq) then .next (drainLink l.val y.wait [] t)
      else if f.seq ≠ y.rxSeq + 1 then .next (answerFlit t l.val true)
      else .next (answerTaken ((takeFlit f y).2.foldl (deliver l.val) (updLink t l.val fun _ => (takeFlit f y).1)) l.val) := by
  rw [execFlitReceive, h]
  exact if_neg (Nat.not_lt.2 hx)

/-- A sequence number is not its successor. -/
theorem ne_add_one (x : BitVec 12) : x + 1 ≠ x := by bv_omega

/-- A good flit in sequence is delivered and answered; one out of sequence is answered by a nak; an empty one of the last number says only what
it acknowledges. -/
theorem execFlitReceive_sequence {bytes : List Byte} {f : Flit} (hx : 2 ≤ (elinkOf s l.val).state) (h : flitOf bytes = some f) :
    let t := takeAck s l.val f
    let y := elinkOf t l.val
    (f.seq = y.rxSeq + 1 → execFlitReceive l bytes s =
      .next (answerTaken ((takeFlit f y).2.foldl (deliver l.val) (updLink t l.val fun _ => (takeFlit f y).1)) l.val)) ∧
    (f.seq ≠ y.rxSeq + 1 → f.seq ≠ y.rxSeq ∨ emptyFlit f = false → execFlitReceive l bytes s = .next (answerFlit t l.val true)) ∧
    (f.seq = y.rxSeq → emptyFlit f = true → execFlitReceive l bytes s = .next (drainLink l.val y.wait [] t)) := by
  dsimp only
  rw [execFlitReceive_good hx h]
  refine ⟨fun hseq => ?_, fun hseq hempty => ?_, fun hseq hempty => ?_⟩
  · rw [if_neg (by rw [hseq, decide_eq_false (ne_add_one _), Bool.and_false]; decide), if_neg (not_not_intro hseq)]
  · rw [if_neg, if_pos hseq]
    rw [Bool.and_eq_true, decide_eq_true_iff]
    rintro ⟨hf, hs⟩
    rcases hempty with hne | he
    · exact hne hs
    · rw [he] at hf
      exact Bool.false_ne_true hf
  · rw [if_pos (by rw [hempty, decide_eq_true hseq]; rfl)]

/-! ### Trainings (R367, R368) -/

/-- A link is due for a training after 16 naks in a row or 10 µs without a due acknowledgement (R367). -/
def retrainDue (s : State) (x : ELink) : Prop := 16 ≤ x.nakRun ∨ (x.retry ≠ [] ∧ x.ackAt + 10000 ≤ s.time.clk)

/-- The model's test of it. -/
theorem retrainDue_iff (x : ELink) :
    (decide (16 ≤ x.nakRun) || (!x.retry.isEmpty && decide (x.ackAt + 10000 ≤ s.time.clk))) = true ↔ retrainDue s x := by
  simp [retrainDue]

/-- A training starts on a link that is up and due for one. -/
theorem execLinkRetrain_due (hs : s.sts.state = 3) (hx : 2 ≤ (elinkOf s l.val).state) (hd : retrainDue s (elinkOf s l.val)) :
    execLinkRetrain l s = .next (updLink s l.val fun y => { y with state := 1, retrains := y.retrains + 1, nakRun := 0 }) := by
  rw [execLinkRetrain]
  exact if_pos (by rw [(retrainDue_iff _).2 hd, decide_eq_true hs, decide_eq_true hx]; rfl)

/-- No training starts on one that is not due. -/
theorem execLinkRetrain_not_due (hd : ¬ retrainDue s (elinkOf s l.val)) : execLinkRetrain l s = .next s := by
  rw [execLinkRetrain]
  refine if_neg fun h => hd ((retrainDue_iff _).1 ?_)
  exact (Bool.and_eq_true_iff.1 h).2

/-- A link as its training leaves it. -/
def trained (s : State) (l : Nat) (failed : BitVec 4) : State :=
  updLink s l fun y => { y with state := trainedState failed, failed := failed, found := true, ackAt := s.time.clk }

/-- Does the unit table already show how the training ended, or is there nothing to show? -/
def knownEnd (s : State) (l : Nat) (failed : BitVec 4) : Bool :=
  decide (failed = 0) || (decide (failed = (elinkOf s l).failed) && decide ((unitOf s (0x6000 + l)).state ≠ 0))

/-- The same as a proposition. -/
theorem knownEnd_iff (k : Nat) (failed : BitVec 4) : knownEnd s k failed = true ↔
    failed = 0 ∨ (failed = (elinkOf s k).failed ∧ (unitOf s (0x6000 + k)).state ≠ 0) := by
  simp [knownEnd]

/-- How a training ends (R368): an error where it is new, and the flits that waited leave where the link is up. -/
theorem execRetrainEnd_training {failed : BitVec 4} (hx : (elinkOf s l.val).state = 1) (hs : s.sts.state = 3) :
    let u := if knownEnd s l.val failed then trained s l.val failed else linkError (trained s l.val failed) l.val (trainedState failed) false
    execRetrainEnd l failed s = if trainedState failed = 0 then .next u else .next (drainLink l.val (elinkOf u l.val).wait [] (resend u l.val)) := by
  have training : ¬ (decide ((elinkOf s l.val).state ≠ 1) || decide (s.sts.state ≠ 3)) = true := by
    rw [hx, hs]
    decide
  rw [execRetrainEnd]
  exact if_neg training

/-! ### Routes around failed links (R374) -/

/-- Without flits in the retry buffer a reroute loses nothing: the waiting packets take the new route. -/
theorem rerouteOwn_no_retry (h : (elinkOf s l.val).retry = []) :
    rerouteOwn s l.val = (elinkOf s l.val).wait.foldl (fun t w => sendPacket t w.2.1 w.2.2)
      (updLink s l.val fun y => { y with retry := [], wait := [], used := [], owed := [], rxBuf := [] }) := by
  rw [rerouteOwn, h]
  rfl

/-- Nerzon of a joined device routes around a link of its own that is down. -/
theorem execReroute_own {dev : Fin 64} (hj : s.emx.joined = true) (hs : s.sts.state = 3) (hd : dev.val = s.emx.devid) :
    execReroute ⟨dev, l⟩ s = if (elinkOf s l.val).state = 0 then .next (rerouteOwn s l.val) else .next s := by
  rw [execReroute, if_neg (by rw [hj, hs]; decide), if_pos hd]

/-- The ends of another device's failed link that a device does not yet keep. -/
def freshDown (s : State) (dev l : Nat) : List (Nat × Nat) :=
  [(dev, l), linkEnd s.emx dev l].filter fun x => decide (x.1 ≠ s.emx.devid) && !s.emx.down.contains x

/-- Another device's failed link is kept in the routes. -/
theorem execReroute_other {dev : Fin 64} (hj : s.emx.joined = true) (hs : s.sts.state = 3) (hd : dev.val ≠ s.emx.devid) :
    execReroute ⟨dev, l⟩ s = .next { s with emx := { s.emx with down := s.emx.down ++ freshDown s dev.val l.val } } := by
  rw [execReroute, if_neg (by rw [hj, hs]; decide), if_neg hd]
  rfl

/-- A failed link of another device is kept afterwards. -/
theorem mem_down_append_freshDown {dev k : Nat} (hd : dev ≠ s.emx.devid) : (dev, k) ∈ s.emx.down ++ freshDown s dev k := by
  by_cases h : (dev, k) ∈ s.emx.down
  · exact List.mem_append_left _ h
  · refine List.mem_append_right _ (List.mem_filter.2 ⟨List.mem_cons_self, ?_⟩)
    simpa [hd] using h

/-- A device that is not joined has no routes. -/
theorem execReroute_unjoined {dev : Fin 64} (hj : s.emx.joined = false) : execReroute ⟨dev, l⟩ s = .next s := by
  rw [execReroute, if_pos (by rw [hj]; rfl)]

/-! ### Remote accesses without an answer, links without a partner (R371, R375) -/

/-- A remote access in flight fails after 1 ms. -/
theorem execNoResponse_inFlight {tag : Word} {r : Remote} (h : remoteOf s tag = some r) :
    execNoResponse tag s = if r.sent + 1000000 ≤ s.time.clk then .next (remoteFails s r 4) else .next s := by
  rw [execNoResponse, h]

/-- A link that finds no partner within 1 s of Nerzon's start powers down. -/
theorem execLinkNoPartner_due (hx : (elinkOf s l.val).state = 1) (hs : s.sts.state = 3) (hf : (elinkOf s l.val).found = false)
    (ht : s.sts.readyAt + 1000000000 ≤ s.time.clk) :
    execLinkNoPartner l s = .next (updLink s l.val fun x => { x with state := 0, off := true, offAt := s.time.clk }) := by
  rw [execLinkNoPartner]
  exact if_pos ⟨hx, hs, by rw [hf]; rfl, ht⟩

/-- Before that it does nothing. -/
theorem execLinkNoPartner_early (ht : s.time.clk < s.sts.readyAt + 1000000000) : execLinkNoPartner l s = .next s := by
  rw [execLinkNoPartner]
  exact if_neg fun ⟨_, _, _, h⟩ => Nat.not_le.2 ht h

/-- A link as a try finds it: it trains with a partner that answers, else the next try is 10 s on. -/
def tried (clk : Nat) (partner : Option (Fin 64)) (x : ELink) : ELink :=
  match partner with
  | some d => { x with state := 1, off := false, found := true, peer := d.val }
  | none => { x with offAt := clk }

/-- A powered-down link is tried again after 10 s. -/
theorem execLinkRetry_due {partner : Option (Fin 64)} (ho : (elinkOf s l.val).off = true) (hs : s.sts.state = 3)
    (ht : (elinkOf s l.val).offAt + 10000000000 ≤ s.time.clk) : execLinkRetry l partner s = .next (updLink s l.val (tried s.time.clk partner)) := by
  rw [execLinkRetry]
  refine (if_pos ⟨ho, hs, ht⟩).trans ?_
  cases partner <;> rfl

/-- Before that it is not. -/
theorem execLinkRetry_early {partner : Option (Fin 64)} (ht : s.time.clk < (elinkOf s l.val).offAt + 10000000000) :
    execLinkRetry l partner s = .next s := by
  rw [execLinkRetry]
  exact if_neg fun ⟨_, _, h⟩ => Nat.not_le.2 ht h

end

/-- Settles O43: the bytes of a flit, then the events of a link one by one. -/
theorem emauxLinks : Obligations.EmauxLinks := by
  unfold Obligations.EmauxLinks
  refine ⟨fun f hs hl hc => flitOf_flitBytes hs hl hc, fun l s w => ?_⟩
  dsimp only
  refine ⟨fun _ => execFlitReceive_down, fun _ => execFlitReceive_badCrc, fun _ f hx h => execFlitReceive_sequence hx h,
    fun hs hx hd => ⟨_, execLinkRetrain_due hs hx hd, elinkOf_updLink_same l.val _ w⟩, fun hn ht => ?notDue,
    fun failed hx hs => ⟨fun hk => ?known, fun hk => ?new⟩,
    by decide, fun dev hj hs => ⟨fun hd h0 => ⟨?own, fun hr => rerouteOwn_no_retry hr⟩, fun hd h0 => ?up, fun hd => ?other⟩,
    fun dev hj => execReroute_unjoined hj, fun tag r h => ⟨fun ht => ?late, fun ht => ?early⟩,
    fun hx hs hf => ⟨fun ht => ⟨_, execLinkNoPartner_due hx hs hf ht, ?off⟩, fun ht => execLinkNoPartner_early ht⟩,
    fun ho hs => ⟨fun ht => ⟨fun d => ⟨_, execLinkRetry_due (partner := some d) ho hs ht, ?answers⟩,
      ⟨_, execLinkRetry_due (partner := none) ho hs ht, ?silent⟩⟩,
      fun p ht => execLinkRetry_early ht⟩⟩
  case notDue =>
    refine execLinkRetrain_not_due ?_
    rintro (h | ⟨hr, h⟩)
    · exact Nat.not_le.2 hn h
    · exact ht.elim hr fun h' => Nat.not_le.2 h' h
  case known =>
    have h := execRetrainEnd_training (failed := failed) hx hs
    rw [if_pos ((knownEnd_iff l.val failed).2 hk)] at h
    exact ⟨fun h0 => h.trans (if_pos h0), fun h0 => h.trans (if_neg h0)⟩
  case new =>
    have h := execRetrainEnd_training (failed := failed) hx hs
    rw [if_neg (mt (knownEnd_iff l.val failed).1 hk)] at h
    exact ⟨fun h0 => h.trans (if_pos h0), fun h0 => h.trans (if_neg h0)⟩
  case own => exact (execReroute_own hj hs hd).trans (if_pos h0)
  case up => exact (execReroute_own hj hs hd).trans (if_neg h0)
  case other => exact ⟨_, execReroute_other hj hs hd, mem_down_append_freshDown hd, rfl⟩
  case late => exact (execNoResponse_inFlight h).trans (if_pos ht)
  case early => exact (execNoResponse_inFlight h).trans (if_neg (Nat.not_le.2 ht))
  case off =>
    rw [elinkOf_updLink_same l.val _ w]
    exact ⟨rfl, rfl, rfl⟩
  case answers =>
    rw [elinkOf_updLink_same l.val _ w]
    exact ⟨rfl, rfl, rfl⟩
  case silent =>
    rw [elinkOf_updLink_same l.val _ w]
    exact ⟨ho, rfl⟩

end Sys2Proof.Machine
end
